-- ==== Sys2Proof/Word.lean ====
section
/-! DEFINITION. The word types of the block and their plainest arithmetic.  A line is 64 bytes (05 R150), a slot
128 bits (02 R39), a DRAM codeword 72 byte symbols (09 R275).  Tables of many entries are sparse maps in one
canonical form: keys strictly rising, and no entry equal to the default an absent key reads as. -/

namespace Sys2Proof

abbrev Byte := BitVec 8
/-- A 64-byte line, byte 0 in bits 7..0 (05 R150). -/
abbrev Line := BitVec 512
/-- A 128-bit slot (02 R39). -/
abbrev Slot := BitVec 128
/-- A node ID (04 R135). -/
abbrev Node := BitVec 12
/-- A transaction tag (05 R154). -/
abbrev Tag := BitVec 16
/-- A 64-bit register or word of the management space (17 R471). -/
abbrev Word64 := BitVec 64
/-- The stored form of a line: 72 byte symbols, symbol j in bits 8j+7..8j (09 R275). -/
abbrev Codeword := BitVec 576

/-- A sparse table: pairs of key and entry. -/
abbrev SMap (α : Type) := List (Nat × α)

/-- A sparse byte memory; its canonical form is that of `SMap` with default 0. -/
abbrev ByteMem := List (Nat × BitVec 8)

/-- A Nimras message: the header's first slot, its second slot (0 where the header has one slot, 05 R145) and the
data lines that follow (05 R147 to R150). -/
structure Msg where
  h0 : Slot
  h1 : Slot
  data : List Line
  deriving DecidableEq, Repr, Inhabited

/-- A W-flit: the 1,024 data bits and 64 control bits of half 0 and of half 1 (02 R38, R41). -/
structure WFlit where
  d0 : BitVec 1024
  c0 : BitVec 64
  d1 : BitVec 1024
  c1 : BitVec 64
  deriving DecidableEq, Repr, Inhabited

/-- A counter of w bits that holds at its maximum. -/
def satAdd (w n k : Nat) : Nat := min (n + k) (2 ^ w - 1)

end Sys2Proof
end

