-- ==== Sys2Proof/Syntax.lean ====
section
/-! DEFINITION. The commands of the block, one constructor per row of the opcode table, with the row's operands.  A
command that names an event of the stack's own timers or units carries what the model cannot compute (readings,
received bits, changes of stored bits); a Hatch command names its Hatch, and its request is the Hatch's executing
copy.  The constructors stand in the table's order, those with operands first: Lean runs no more than 244 constructors
that carry operands unless they come first. -/

namespace Sys2Proof

inductive Instr where
  /-- Every 10 µs the pace monitor reads its eight replica loops and reports the lowest reading as PACE_NOW (R28).
  Operands: the eight loop readings. -/
  | paceSample (readings : List (BitVec 16))
  /-- VDD_CORE measured outside 0.66 V to 0.80 V for more than 100 µs raises the C1 fault and sets OUT_OF_RANGE
  (R29).  Operands: tick at which VDD_CORE left its range; whether it is out now. -/
  | vddCoreOutOfRange (since : Nat) (out : Bool)
  /-- A write to PACE_WARN takes effect only if the value lies from 0x1000 to 0x1800, and is ignored otherwise
  (R30). -/
  | paceWarnWrite (v : BitVec 16)
  /-- An inbound W-flit is checked by CRC; its acknowledgements, credit returns and slots are taken, and headers
  are stamped with their node ID (R42).  Operands: the 2,176 bits on W_IN and W_INC. -/
  | wpFlitReceive (f : WFlit)
  /-- A wire charged in three replays within 1 ms is declared failed, and the receiver sends SUBST_REQ (R57).
  Operands: wire position, 0 to 1,087. -/
  | wpWireFailed (wire : Nat)
  /-- A received SUBST_REQ is answered with SUBST_ACK, naming the takeover flit S (R65).  Operands: bytes 0 to 2 of
  slot 0. -/
  | wpSubstReqReceived (group target spare : Nat)
  /-- A received SUBST_ACK fixes the flit S from which the receiver takes the target wire's bits from the spare
  (R65).  Operands: bytes 0 to 2 of slot 0 and S of bytes 5..4. -/
  | wpSubstAckReceived (group target spare seq : Nat)
  /-- At flit S the spare wire carries the target's bits; the substitution is recorded and raises a C1 fault (R65).
  -/
  | wpSpareTakeover (group target spare : Nat)
  /-- A group clock absent for 32 ns makes every flit of that group bad (R66).  Operands: group whose clock is
  absent (true) or back (false). -/
  | wpClockLoss (g : Nat) (lost : Bool)
  /-- A group clock still absent after 100 µs sends the port to FAILED (R66). -/
  | wpClockLossTimeout (g : Nat)
  /-- At the end of each timed training phase (clock lock, PRBS sweep, qualification, TRAIN exchange,
  requalification, initialisation), the next phase starts or training fails (R62).  Operands: (group, target) wires
  this receiver found failed, in the order found; every step of the phase succeeded. -/
  | wpTrainingPhaseEnd (inFailed : List (Nat × Nat)) (ok : Bool)
  /-- A received sync symbol advances pattern sync, refreshes the equalisers and updates the lane's error estimate
  (R90).  Operands: port, lane, profile of the sync pattern; measured EVM, frequency (0.01 ppm) and timing; status
  word good; SNR and correction per bin. -/
  | laneSyncSymbolReceived (p l prof : Nat) (evm : BitVec 8) (freq timing : Int) (wordOk : Bool) (snr : List (BitVec 8)) (taps : List (Int × Int))
  /-- A good status word updates the partner's profile, lock map, BEST and LINK_UP as seen by bring-up (R89). -/
  | laneStatusWordReceived (p l : Nat) (w : BitVec 32)
  /-- Two good copies of a QUIET, WAKE or DARK marker make the receiver act on it, powering down on DARK (R88).
  Operands: pattern 4 QUIET, 5 WAKE, 6 DARK. -/
  | laneMarkerReceived (p l n : Nat) (wordOk : Bool)
  /-- Missing syncs, bad status words or a frequency offset beyond ±400 ppm make a lane lose qualification and
  search again (R92).  Operands: cause 0 missed syncs, 1 bad status words, 2 frequency; frequency estimate, 0.01
  ppm. -/
  | laneQualificationLost (p l cause : Nat) (freq : Int)
  /-- A lane not qualified again at the profile in force within 100 µs is reported to the link layer as failed
  (R98). -/
  | laneRequalifyTimeout (p l : Nat)
  /-- A pre-FEC estimate above 1e-3 for 1 ms reports the lane as degraded, with a C0 event (R100). -/
  | laneDegraded (p l : Nat)
  /-- At expiry of the step timer without acknowledgement, the side steps down one profile (R94). -/
  | bringupStepTimer (p : Nat)
  /-- At expiry of the restore timer without acknowledgement, the side returns to its saved T and searches again
  (R94). -/
  | bringupRestoreTimer (p : Nat)
  /-- At expiry of the 2 ms bring-up timer, the stack raises a C1 fault and the search continues (R94). -/
  | bringupTimer (p : Nat)
  /-- After QUIET_TIMER with nothing to send, the direction sends four QUIET markers and then pilots only (R102). -/
  | fpQuietEnter (p : Nat)
  /-- After DARK_TIMER in Quiet, the direction sends DARK markers and stops its pilots 50 ns later (R102). -/
  | fpDarkEnter (p : Nat)
  /-- A decision to send ramps the data bins, sends WAKE markers and resumes data within 120 ns (R103). -/
  | fpQuietExit (p : Nat)
  /-- A decision to send in Dark powers the transmitter, sends pilots, WAKE markers and a new frame within 4 µs
  (R104). -/
  | fpDarkExit (p : Nat)
  /-- The energy detector wakes a Dark receiver, which reloads its retained state or judges it stale (R105). -/
  | fpEnergyWake (p : Nat)
  /-- Lanes not qualified 8 µs after an energy wake make the retained state stale, and acquisition restarts afresh
  with a C0 event (R105). -/
  | fpWakeQualifyTimeout (p : Nat)
  /-- A received codeword is RS-decoded and CRC-checked, and its flit's acknowledgement, credits and slots are
  taken (R118).  Operands: the codeword received, symbol m in bits 10m+9..10m. -/
  | fpFlitReceive (p : Nat) (cw : BitVec 3400)
  /-- 16 consecutive bad flits take the port DOWN (R124). -/
  | fpBadFlitLimit (p : Nat)
  /-- If the replay has not begun 64 flits after a NAK, the NAK is repeated (R128). -/
  | fpNakRepeat (p : Nat)
  /-- 64 consecutive NAKs for one ACKSEQ re-initialise the link (R124). -/
  | fpNakLimit (p : Nat)
  /-- Each outbound fabric flit is filled in class order, with cut-through of forwarded data (R123). -/
  | fpFlitSend (p : Nat)
  /-- A good INIT flit sets SEEN, records the partner's credits and node, and reaches ACTIVE once both sides have
  seen each other (R124). -/
  | fpInitReceived (p : Nat) (slot0 slot1 : Slot)
  /-- No good INIT within 100 µs reports the port down to the physical layer (R124). -/
  | fpInitTimeout (p : Nat)
  /-- A received REINIT is answered with 64 REINIT flits, and both sides return to INIT (R125). -/
  | fpReinitReceived (p : Nat)
  /-- A received NODE_DOWN takes the port DOWN and resolves its contexts and snoops (R124). -/
  | fpNodeDownReceived (p : Nat)
  /-- A received SUBST_REQ ends any lane test on the spare, within 1 µs (R134). -/
  | fpSubstReqReceived (p logical failed spare : Nat)
  /-- Once the spare is free, WAKE markers are sent on it, and the logical lane moves to it from the next codeword
  boundary (R134). -/
  | fpSubstMarkersSend (p : Nat)
  /-- No marker seen on the spare within 10 µs takes the port DOWN (R134). -/
  | fpSubstTimeout (p : Nat)
  /-- A forwarded message held for egress credits for 1 ms raises a C0 event and keeps waiting (R139). -/
  | forwardHoldTimeout (egress : Nat)
  /-- With REVERT 1, PRIMARY ACTIVE for 1 ms and nothing held at ALTERNATE, the entry returns to PRIMARY (R137). -/
  | routeRevert (node : Node)
  /-- A read-shared request arrives, is decoded and regulated, and is granted S or E with its data (R174).
  Operands: ingress 0 to 3 F0 to F3, 4 Wide Port; the message. -/
  | rdShared (ing : Nat) (m : Msg)
  /-- A read-for-ownership request arrives and is granted E with its data after snooping other holders (R174). -/
  | rdOwn (ing : Nat) (m : Msg)
  /-- A CLAIM of an S line arrives and is granted E by CMP, or handled as RD_OWN (R174). -/
  | claim (ing : Nat) (m : Msg)
  /-- A non-caching read arrives and returns current data, snooping an owner only if the hint is set (R174). -/
  | rdCur (ing : Nat) (m : Msg)
  /-- A long read of 1 to 64 lines arrives, is accepted at its lead region and parts, and is answered with one
  RSP_DATA (R157). -/
  | rdLong (ing : Nat) (m : Msg)
  /-- A clean-eviction notice arrives, is answered CMP and may remove the sender from the directory (R174). -/
  | evictClean (ing : Nat) (m : Msg)
  /-- A line write with byte enables arrives, is accepted with a write-queue slot and is answered CMP once its data
  is complete (R159). -/
  | wr (ing : Nat) (m : Msg)
  /-- A long write of 1 to 64 whole lines arrives and is answered with one CMP (R159). -/
  | wrLong (ing : Nat) (m : Msg)
  /-- A write-back of an M line arrives; it is written if the sender owns the sector, or serves a pending snoop
  under R176 (R174). -/
  | wrback (ing : Nat) (m : Msg)
  /-- An atomic arrives and is performed at the home in its order position, returning the old value (R159). -/
  | atomic (ing : Nat) (m : Msg)
  /-- A bulk descriptor arrives, is checked and is accepted into its ingress Trowel queue, or is refused in
  BULK_CMP (R249). -/
  | bulkOp (ing : Nat) (m : Msg)
  /-- A snoop response without data arrives and completes the snoop, possibly announcing WRBACKs in flight (R172).
  -/
  | snpRsp (ing : Nat) (m : Msg)
  /-- A snoop response with dirty lines arrives, and the lines are merged in the snooping request's order position
  (R175). -/
  | snpRspd (ing : Nat) (m : Msg)
  /-- A grant acknowledgement arrives and releases the sector chain held after a grant of S or E (R176). -/
  | gack (ing : Nat) (m : Msg)
  /-- A management read of 1 to 8 words at MOFF arrives and is answered with MG_DATA (R161). -/
  | mgRd (ing : Nat) (m : Msg)
  /-- A management write of 1 to 8 words at MOFF arrives and is answered with MG_RSP (R161). -/
  | mgWr (ing : Nat) (m : Msg)
  /-- The head of a master's held queue is released as guaranteed, bulk-guaranteed or shared once its buckets or
  the shared arbiter permit it (R305).  Operands: ingress 0 to 5; 5 is the Trowel's step sequence. -/
  | regulatorRelease (ing : Nat) (master : Node)
  /-- A released request is accepted at its region pipeline once a context and write slots are free, taking its
  order position after its checks (R156).  Operands: badSets: directory sets whose slot fails its code at the
  lookup. -/
  | requestAccept (region ing : Nat) (badSets : List Nat)
  /-- A back-invalidation completes and frees its eviction-queue entry, letting a waiting grant continue (R178). -/
  | evictionQueueFree (region : Nat)
  /-- A sector's snoops waiting behind the 2,048-sector limit are sent once another sector's snoops are all
  resolved (R158). -/
  | snoopSectorAdmit (region : Nat)
  /-- A snoop unanswered after SNOOP_TIMEOUT is resolved without answer, poisoning owned lines with a C2 fault
  (R177). -/
  | snoopTimeout (ctx : Nat) (node : Node)
  /-- A GACK not arrived SNOOP_TIMEOUT after its grant is taken as received, with a C0 event (R176). -/
  | gackTimeout (ctx : Nat)
  /-- A WRBACK announced by WBP and absent after SNOOP_TIMEOUT resolves its line without answer (R176). -/
  | wrbackWaitTimeout (ctx : Nat) (node : Node)
  /-- A context with a snoop resolved without answer becomes reusable after four times SNOOP_TIMEOUT (R177). -/
  | contextQuarantineEnd (ctx : Nat)
  /-- A write's data becomes complete and good; its entry moves to HELD, and a posted CMP may be sent (R221). -/
  | writeDataComplete (ing : Nat) (src : Node) (tag : Tag) (data : List Line)
  /-- A write whose data is incomplete DATA_TIMEOUT after acceptance is abandoned and answered RETRY, with a C0
  event (R170). -/
  | dataTimeout (ctx : Nat)
  /-- A data-returning request reserves its response lines in acceptance order once the allotment has room, and its
  reads are placed in the block queues (R59). -/
  | allotReserve (port : Nat)
  /-- A snoop-returned line waiting for the snoop reserve takes an entry when one frees (R220). -/
  | snoopReservePlace (region : Nat)
  /-- The periodic tag walk corrects every tag entry, and an uncorrectable entry poisons or loses its row (R191).
  Operands: the entry read and whether its code, and its frame header's check, failed; faulty: the frame is judged
  permanently faulty (R207); errs: errors the frame's cells have taken, as line, symbol and bits (R196). -/
  | tagWalk (region set way : Nat) (lost hdrLost faulty : Bool) (errs : List (Nat × Nat × BitVec 8))
  /-- The hint sweep reads the metadata of the next UNKNOWN sector, marking it known or applying the broadcast
  (R202). -/
  | hintSweepRead (region : Nat)
  /-- A slice that fails to acknowledge a handshake within 2 µs starts an Undercoat domain reset or, on repeat
  within 1 s, a slice loss (R209).  Operands: slice 0 to 63; whether it still reads. -/
  | ucSliceTimeout (slice : Nat) (readable : Bool)
  /-- At each CA slot, the block issues the highest-ranked eligible command, including column, ACT, PRE, REF, ROW
  and MODE (R232).  Operands: physical block. -/
  | blockCaSlot (b : Nat)
  /-- Data and its row echo code return from a die and are decoded by the line code as clean, corrected or
  uncorrectable (R279).  Operands: line key read, the row code, and the symbols the bus or the cells changed. -/
  | dramReadData (b : Nat) (key : Nat) (echo : BitVec 4) (errs : List (Nat × BitVec 8))
  /-- The activate echo completes tAECHO after ACT and is checked against the intended row (R228). -/
  | actEchoReceived (b bank : Nat) (row : BitVec 16) (dbank : BitVec 3) (parity : Bool)
  /-- When a bank's idle timer expires with no queued hit, the bank is precharged (R234). -/
  | bankIdleTimeout (b bank : Nat)
  /-- A refresh comes due for a bank and adds 1 to its debt, or is forced when the debt is 8 (R237). -/
  | refreshDue (b bank : Nat)
  /-- When a leaving block's issued commands and entries are complete, it precharges all banks and enters
  self-refresh (R241). -/
  | blockDrainComplete (b : Nat)
  /-- After the catch-up burst, placement opens and refresh due times restart (R242). -/
  | blockPlacementOpen (b : Nat)
  /-- The range-port access check of every 2 MiB unit of both ranges completes, and the descriptor passes or is
  DENIED (R324). -/
  | bulkAccessCheckComplete (op : Nat)
  /-- A directory range scan finishes its lookups or walk and its recall snoops are answered or resolved (R261).
  Operands: badSets: directory sets whose slot fails its code as the scan reads them. -/
  | rangeScanComplete (region : Nat) (badSets : List Nat)
  /-- The next Trowel step is accepted at the region pipelines in sequence once its regulator release and row
  credits permit (R252). -/
  | trowelStepAccept (region : Nat)
  /-- The check read of a source row completes; the row moves by clone or shuttle if clean and by line stream
  otherwise (R255).  Operands: operation, logical block of the target row, and (line, symbol, change) of what was
  read. -/
  | rowCheckReadComplete (op lb : Nat) (errs : List (Nat × Nat × BitVec 8))
  /-- A clone, shuttle or zero clone completes after tCLONE or tSHUTTLE, and its destination lines count as written
  (R257). -/
  | rowOpComplete (b : Nat)
  /-- A bulk operation finishes or ends, and BULK_CMP is sent with its RESULT and LINES_DONE (R264). -/
  | trowelOpComplete (op : Nat)
  /-- After the last zero clone, the Primer checks one line of every subarray (R269).  Operands: (block, bank, row)
  whose clone failed three times. -/
  | primerClonesComplete (failedRows : List (Nat × Nat × Nat))
  /-- The Primer pass completes, the pipelines open and the stack is released (R269).  Operands: subarrays whose
  check line failed, and rows that still fail. -/
  | primerComplete (failedSubs stillFailing : List (Nat × Nat × Nat))
  /-- An error-history entry expires 24 hours after its first failure (R281). -/
  | errorHistoryExpire (b : Nat)
  /-- At the next idle period or 1 ms after the charge, the block pauses and maps the failed TSV to a spare with
  MODE SUBST (R285). -/
  | tsvSubstitution (b : Nat)
  /-- A row is read into a buffer, mapped to a spare row with ROW_REPAIR and written back (R286). -/
  | rowRepair (b : Nat)
  /-- A subarray is moved to the shadow, repaired with COL_REPAIR and restored (R286). -/
  | columnRepair (b : Nat)
  /-- A requested retirement with a free spare reserves the target, takes a staging ring and begins mirroring
  (R288). -/
  | migrationStart (region : Nat)
  /-- The next row of the unit is copied to the target through the staging ring (R289).  Operands: (line, symbol,
  change) of the row as read. -/
  | migrationRowCopy (region : Nat) (errs : List (Nat × Nat × BitVec 8))
  /-- Once the unit's queued items are drained, the remap entry is replaced and placement resumes to the target
  (R291). -/
  | migrationSwitch (region : Nat)
  /-- The scrub pass reads its next line at rank 11 no faster than RATE, applying the error rules (R294). -/
  | scrubRead (errs : List (Nat × BitVec 8))
  /-- Held headers filling an ingress's REQ or DATA credits for 10 µs raise a C0 event and count an occurrence
  (R303). -/
  | holdSaturated (ing : Nat)
  /-- Larder firmware writes the Deliverable Floor, which is clamped, and the scale S is recomputed (R310). -/
  | dfWrite (v : BitVec 16)
  /-- A queued event record is sent as EVT to the target's node once MGMT credits allow (R475). -/
  | evtPush (t : Nat)
  /-- In a chip halt, MG_RD of the fault registers is answered and every other message is refused or discarded
  (R358). -/
  | haltResponderRequest (ing : Nat) (m : Msg)
  /-- Writing a FID to CW_FAULT_ACK acknowledges that record (R352). -/
  | faultAck (fid : BitVec 32)
  /-- A die samples its sensor positions; plausibility, limits, rate of rise, model checks and refresh rates are
  evaluated (R365).  Operands: die 0 to 15 DRAM, 16 Undercoat, 17 base; one reading per position, none where the
  conversion did not complete; the spare's reading; region powers in mW. -/
  | thermalSample (die : Nat) (vals : List (Option (BitVec 16))) (spare : Option (BitVec 16)) (power : List Nat)
  /-- While a zone position is at its throttle limit, T(r) falls by 2 every 100 µs (R373). -/
  | throttleStepDown (region : Nat)
  /-- With the zone below its hold band for 1 ms, T(r) rises by 1 each ms (R373). -/
  | throttleStepUp (region : Nat)
  /-- Every 1 ms the TDC measures one tick and sets TDC_LSB, or is declared failed (R418). -/
  | tdcMeasure (taps : Nat)
  /-- Every 10 s each die's sensor conversion scale is measured (R422).  Operands: 18 scales. -/
  | sensorScaleMeasure (scales : List (BitVec 16))
  /-- A full TSV walk starts every WALK_PERIOD ms or when a die moves by WALK_TEMP (R424). -/
  | walkStart (b : Nat)
  /-- At an idle period, a spare takes a wire, which is measured by loopback and reselected (R425).  Operands:
  (die, direction, taps counted or none) of the freed wire, and of the spare measured before it is used. -/
  | walkTake (b : Nat) (delays spare : List (Nat × Nat × Option Nat))
  /-- At the next idle period, the wire is given back with its new selections (R425).  Operands: (die, direction,
  taps counted) of the spare measured after the give-back. -/
  | walkGive (b : Nat) (spare : List (Nat × Nat × Option Nat))
  /-- A block without a full walk within 4 × WALK_PERIOD raises a C0 event (R426). -/
  | walkLate (b : Nat)
  /-- PWR_GOOD rising samples REF_SEL and starts the PLL and the power-on sequence (R442). -/
  | powerOn (refSel : Bool)
  /-- A PLL not locked by 100 ms, a BIST failure or a ROM check failure enters boot halt (R443).  Operands: 0 PLL,
  1 BIST, 2 ROM check. -/
  | bootHalt (cause : Nat)
  /-- Start-up BIST passes, and the Vault read begins (R482).  Operands: BIST passed; fuse words burned by the
  Vault's repairs, each with the value it reads at the tight margin. -/
  | startupBistComplete (ok : Bool) (reads : List (Nat × BitVec 32))
  /-- The finish-image slot is chosen, and its sections are applied with locks, FM binding and the access commit
  (R409).  Operands: speeds at which the read of slot A's header failed, 0 to 3; both slots' header and body reads
  survived their retries; copies of the calibration store whose read failed, two a record type. -/
  | imageLoadComplete (slowA : Nat) (readOkA readOkB : Bool) (badCopies : List Nat)
  /-- Cold-start calibration, fast or full path, completes with selections in force (R429).  Operands: taps of one
  tick; measured lines by their place, each with the taps of its 21 elements and those of its wire where it was
  measured; conversion scales; blocks that fail the row check twice; slices that fail the Undercoat array test. -/
  | coldCalibrationComplete (taps : Nat) (lines : List (Nat × List Nat × Option Nat)) (scales : List (BitVec 16)) (failed badSlices : List Nat)
  /-- FW_WAIT expires with no image accepted, and the fallback image is checked (R440). -/
  | fwWaitExpiry (fallbackReadOk : Bool)
  /-- A test-port instruction other than BYPASS, IDCODE or SAMPLE/PRELOAD zeroises keys, sends NODE_DOWN and closes
  the pipelines (R453).  Operands: the die whose test port takes the instruction: 0 base, 1 Undercoat, 2 to 17 D0
  to D15; the instruction. -/
  | scanEntry (die : Nat) (ir : BitVec 8)
  /-- BYPASS, IDCODE or SAMPLE/PRELOAD is loaded into the test port's instruction register (R558).  Operands: as
  SCAN_ENTRY. -/
  | testPortInstruction (die : Nat) (ir : BitVec 8)
  /-- GO takes the SPDM buffer for its owner and starts processing the request, or sets REJECTED (R446). -/
  | spdmGo (node : Node) (reqLen : BitVec 13)
  /-- RELEASE from the owner returns the SPDM buffer to IDLE (R446). -/
  | spdmRelease (node : Node)
  /-- A write to a Hatch request buffer is made if it comes from the bound node, and otherwise is counted in
  REJECTED (R459). -/
  | hatchBufferWrite (h : Nat) (node : Node) (off : Nat) (bytes : List (BitVec 8))
  /-- RING from the bound node copies the request buffer and makes the Hatch BUSY (R460). -/
  | hatchRing (h : Nat) (node : Node)
  /-- A command is answered: the response is written and the Hatch becomes DONE, with notice 0x1180 if requested
  (R460). -/
  | hatchAnswer (h : Nat)
  /-- Returns the part code, serial number, lot and identity flags (R469). -/
  | idGet (h : Nat)
  /-- Returns the identity public key once it is ready (R469). -/
  | idPubkey (h : Nat)
  /-- Returns a portion of the certificate chain (R469). -/
  | idCert (h : Nat)
  /-- Returns one unsigned measurement block (R469). -/
  | idMeasure (h : Nat)
  /-- Returns the value in force of a listed configuration field (R470). -/
  | cfgGet (h : Nat)
  /-- Sets a listed configuration field live after its legality check (R470). -/
  | cfgSet (h : Nat)
  /-- Writes entries of the routing, window or regulator shadow tables (R469). -/
  | tblWrite (h : Nat)
  /-- Reads entries of the routing, window or regulator tables, active or shadow (R469). -/
  | tblRead (h : Nat)
  /-- Checks the routing and map shadow and commits it, after a recall where classes or placements change (R136). -/
  | routeCommit (h : Nat)
  /-- Checks the regulator shadow against legality and capacity and commits it at one tick (R314). -/
  | regCommit (h : Nat)
  /-- Writes rules or group entries into the access shadow (R330). -/
  | accWrite (h : Nat)
  /-- Reads access rules or group entries, active or shadow (R330). -/
  | accRead (h : Nat)
  /-- Checks the whole access shadow and starts the switch with narrowed-unit recall and BULK recheck (R330). -/
  | accCommit (h : Nat)
  /-- Returns the generation, state and per-target violation counts (R338). -/
  | accStatus (h : Nat)
  /-- Returns the violation log records of one target (R336). -/
  | accLog (h : Nat)
  /-- Empties the violation log of one or all targets (R336). -/
  | accLogClear (h : Nat)
  /-- Starts a scrub pass over a DPA range at a rate ceiling, or refuses it (R293). -/
  | scrubStart (h : Nat)
  /-- Returns the scrub summary (R295). -/
  | scrubStatus (h : Nat)
  /-- Requests retirement of a bank or block by migration and returns its queue position (R288). -/
  | retire (h : Nat)
  /-- Returns the store-room record (R287). -/
  | storeroom (h : Nat)
  /-- Resets a stopped region: acknowledges its C3 record, clears collectors, settles writes, returns blocks and
  opens admissions (R356). -/
  | regionReset (h : Nat)
  /-- The reset region's blocks have returned and written back, and its admissions open (R356). -/
  | regionResetAdmissionsOpen (region : Nat)
  /-- Commands an Undercoat domain reset and answers at t0 + 11 µs (R209). -/
  | ucReset (h : Nat)
  /-- Returns the chip log or the slots of one collector (R343). -/
  | faultLog (h : Nat)
  /-- A fault-injection command is answered UNSUPPORTED in the field (R362). -/
  | faultInjection (h : Nat)
  /-- Returns the thermal status record of all positions (R387). -/
  | thermStatus (h : Nat)
  /-- Returns the bond-wear record (R385). -/
  | wearRead (h : Nat)
  /-- Returns VOUT, VDD, region powers and the Deliverable Floor (R469). -/
  | powerStatus (h : Nat)
  /-- Returns the Vault status record (R407). -/
  | vaultStatus (h : Nat)
  /-- Burns a header or data words into an OPEN or BLANK field region (R403). -/
  | fuseProgram (h : Nat)
  /-- One fuse word completes burning and verification within 40 µs, and the next word starts after its temperature
  check (R403).  Operands: the word as it reads at the tight margin after burning. -/
  | fuseWordBurned (word : BitVec 32)
  /-- Verifies a region at the tight margin and burns its commit words (R403). -/
  | fuseCommit (h : Nat)
  /-- Burns the program or read lock fuses of a field region (R403). -/
  | fuseLock (h : Nat)
  /-- Remaps a LOCKED-INCOMPLETE or DEFECTIVE field function to a spare region (R402). -/
  | fuseRemap (h : Nat)
  /-- Returns a region's header, state and data words unless read-locked (R403). -/
  | fuseRead (h : Nat)
  /-- Opens an image session and invalidates the standby slot's COMMIT (R412). -/
  | imageBegin (h : Nat)
  /-- Writes bytes into the standby slot page by page (R412). -/
  | imageWrite (h : Nat)
  /-- Reads back and checks the standby slot, writes its COMMIT and closes the session (R412). -/
  | imageCommit (h : Nat)
  /-- Returns the session state and both slot headers (R412). -/
  | imageStatus (h : Nat)
  /-- Reads bytes of either slot (R412). -/
  | imageRead (h : Nat)
  /-- Returns the Wide Port status record (R71). -/
  | wpStatus (h : Nat)
  /-- Returns the five lane-quality records of a fabric port (R108). -/
  | fpLanes (h : Nat)
  /-- Starts a pattern test on a spare or held lane with optional error injection (R110). -/
  | laneTest (h : Nat)
  /-- A lane test reaches DURATION and answers its checker counts, and a held port is brought up again (R111).
  Operands: data bits received, and the positions of those in error, rising. -/
  | laneTestComplete (p l n : Nat) (errs : List Nat)
  /-- Returns the Undercoat status record of a region (R214). -/
  | ucStatus (h : Nat)
  /-- Returns the status record of a physical block (R244). -/
  | blockStatus (h : Nat)
  /-- Returns the Trowel and Primer records (R272). -/
  | trowelStatus (h : Nat)
  /-- Returns the calibration status record (R433). -/
  | calStatus (h : Nat)
  /-- Returns the regulator status record, optionally with one master's record (R317). -/
  | regStatus (h : Nat)
  /-- Starts a block BIST or in-service bank test and returns its TEST_ID, or refuses it (R484). -/
  | testStart (h : Nat)
  /-- Returns the result, coverage, duration and signature of a run (R469). -/
  | testResult (h : Nat)
  /-- A run deferred longer than DEFER_LIMIT ends INCOMPLETE (R494). -/
  | testDeferLimit (id : Nat)
  /-- A shadow unit is granted to the next subarray: checkpoint, mirroring and copy-in begin (R489). -/
  | testUnitGrant (region : Nat)
  /-- Copy-in completes and the hand-in redirects the subarray to the shadow unit (R489). -/
  | testCopyInComplete (id : Nat)
  /-- One march step reads or writes a whole row and updates the signature register (R486).  Operands: the
  mismatching bits of the step as line x 576 + bit, rising (of a logic or TSV step, its failing bits), and whether
  a command still failed after its retries. -/
  | testMarchStep (id : Nat) (bad : List Nat) (cmdFailed : Bool)
  /-- The restore completes, the hand-out returns accesses to DRAM and COVERAGE rises (R489). -/
  | testRestoreComplete (id : Nat)
  /-- A write to CW_PERF_SEL sets the counter's event, or sets BAD if it is illegal (R499). -/
  | perfSelWrite (k : Nat) (v : BitVec 64)
  /-- A write to a counter sets its value at the next tick boundary (R500). -/
  | perfCntWrite (k : Nat) (v : BitVec 64)
  /-- Writing 1s to CW_PERF_OVF0 or OVF1 clears those overflow bits (R504).  Operands: OVF1 (true) or OVF0. -/
  | perfOvfClear (hi : Bool) (v : BitVec 64)
  /-- A counter passing 2^48 − 1 wraps, sets its OVF bit and feeds its chained partner (R501). -/
  | perfCounterWrap (k : Nat)
  /-- Sets the sampling interval, jitter and classes, and reloads the countdown (R505). -/
  | sampleSet (h : Nat)
  /-- Returns the trace NEXT, VALID and SAMPLED counts (R469). -/
  | sampleStatus (h : Nat)
  /-- Resets NEXT, VALID, SAMPLED and LOST (R508). -/
  | traceClear (h : Nat)
  /-- A write to TAIL consumes queue records if it lies between the old TAIL and HEAD (R474). -/
  | evtTailWrite (t : Nat) (v : BitVec 16)
  /-- DROP_CLEAR sets the queue's DROPPED count to 0 (R474). -/
  | evtDropClear (t : Nat)
  /-- A write to a Control Window register without a row of its own updates its writable fields (R471). -/
  | registerWrite (node : Node) (off : Nat) (v : BitVec 64)
  /-- A two-wire transaction completes and its requester is answered (R514).  Operands: bytes read; acknowledged
  and PEC good. -/
  | twTransactionComplete (rd : List (BitVec 8)) (ok : Bool)
  /-- Every 50 µs a busy EEPROM is polled again with start and address (R516). -/
  | twAckPoll (ack : Bool)
  /-- Larder firmware requests VDD_CORE in mV; the request is converted and queued, or refused (R520). -/
  | voltageRequest (mv : Nat)
  /-- Larder firmware composes a board-sensor transaction of at most 16 bytes (R514). -/
  | boardSensorAccess (sensor : Nat) (wr : List (BitVec 8)) (rd : Nat)
  /-- An item of rank 8, 10 or 11 that has waited 100 ms without a placement raises a C0 event (R529). -/
  | progressStarvation (b : Nat)
  /-- A monitored rail outside its range for 10 µs halts the chip, fails the Wide Port or takes the fabric ports
  DOWN (R548). -/
  | railOutOfRange (rail : Nat)
  /-- A fabric rail back in range for 1 ms restarts fabric bring-up (R548). -/
  | railRestored (rail : Nat)
  /-- Opens a Larder firmware load of the stated total bytes into the staging half, or answers BUSY or MALFORMED
  (R440). -/
  | fwBegin (h : Nat)
  /-- Writes 4 to 4,032 bytes of the open firmware load at a word-aligned offset (R440). -/
  | fwData (h : Nat)
  /-- Closes the load and checks the image under R438, starting Larder at once if accepted during start-up (R440).
  -/
  | fwEnd (h : Nat)
  /-- Restarts Larder from the accepted staged image, exchanging the roles of the two SRAM halves (R441). -/
  | fwActivate (h : Nat)
  /-- Returns the running SVN and BODY_DIGEST, the staged state and the anti-rollback count (R440). -/
  | fwStatus (h : Nat)
  /-- The column echo of a WR completes tECHO after the command and is checked; DQS_W is driven for the data only
  when the code matches, and a mismatch is retried (R228). -/
  | wrColumnEcho (b : Nat) (key : Nat) (echo : BitVec 4)
  /-- Larder firmware reads or writes its area of the calibration store, queued as a class-4 two-wire transaction
  (R413). -/
  | larderAreaAccess (addr : Nat) (wr : List (BitVec 8)) (rd : Nat)
  /-- Larder firmware issues a bulk operation into the internal Trowel queue, which waits for a free entry and is
  checked as a request of the issuing Hatch's master (R249).  Operands: the issuing Hatch and the descriptor's two
  header slots. -/
  | internalBulkOp (h : Nat) (h0 h1 : Slot)
  /-- Writing 1 to OUT_OF_RANGE clears it, unless the pace or range condition still holds (R30). -/
  | outOfRangeClear
  /-- Writing 1 to MIN_CLEAR resets PACE_MIN to 0xFFFF (R30). -/
  | minClear
  /-- Any write to LOW_SAMPLES sets the count to 0 (R30). -/
  | lowSamplesReset
  /-- If the replay has not begun 128 flits after a NAK, the NAK is repeated (R56). -/
  | wpNakRepeat
  /-- 64 consecutive NAKs for one ACKSEQ re-initialise the link (R58). -/
  | wpNakLimit
  /-- Each outbound W-flit is filled in class order; allotment lines and contexts are released as their last slots
  are placed (R47). -/
  | wpFlitSend
  /-- If no host clock is seen by t0 + 100 ms, the port enters FAILED (R64). -/
  | wpHostClockTimeout
  /-- A received INIT_DONE, together with the stack's own INIT_DONE and credits at their minima, takes the port to
  ACTIVE (R54). -/
  | wpInitDoneReceived
  /-- A host advertisement below a minimum for 100 µs after its INIT_DONE raises a C0 event, and the port stays in
  INIT (R54). -/
  | wpCreditShortfallTimeout
  /-- After IDLE_TIMER with nothing to send, the transmitter sends IDLE_ENTER and holds its drivers (R68). -/
  | wpIdleEnter
  /-- An Idle-clocked direction with something to send restarts its drivers and sends WAKE flits (R68). -/
  | wpIdleWake
  /-- A received PARK_REQ is answered with PARK_ACK, followed by parking, if the port is drained, and with PARK_NAK
  otherwise (R68). -/
  | wpParkReqReceived
  /-- The host's PARK_ACK to a stack PARK_REQ parks the port (R68). -/
  | wpParkAckReceived
  /-- The host's PARK_NAK leaves the port ACTIVE (R68). -/
  | wpParkNakReceived
  /-- Under PARK_POLICY 1, PARK_TIMER with no traffic makes the stack send PARK_REQ (R68). -/
  | wpParkTimer
  /-- A parked port with a message to send, or whose detector sees the far clock, relocks, advances its epoch and
  re-initialises credits (R68). -/
  | wpParkWake
  /-- A received REINIT is answered with 64 REINIT flits, and the link re-initialises (R69). -/
  | wpReinitReceived
  /-- Once the recall of a commit is complete, the routing and map tables switch, and ROUTE_COMMIT is answered
  (R142). -/
  | mapSwitch
  /-- The timing unit finds the Undercoat oscillator stopped or off 2.0 GHz by more than 2 %, starting a domain
  reset (R209). -/
  | ucOscFault
  /-- At t0 + 0.5 µs the domain is held in reset and the oscillator restarts (R210). -/
  | ucResetHold
  /-- At t0 + 5 µs the oscillator is stable and the slice controllers leave reset (R210). -/
  | ucResetOscStable
  /-- At t0 + 11 µs directory slots and tags are cleared, slices return empty and the hint sweep starts (R210). -/
  | ucResetSlicesReturn
  /-- A queued bulk operation starts executing in acceptance order when fewer than MAX_ACTIVE run, after its
  directory range scan (R250). -/
  | trowelOpStart
  /-- The store-room record is written to the calibration store within 1 s of a change, when the temperature
  permits (R287). -/
  | storeroomSave
  /-- Larder firmware starts an automatic scrub pass every SCRUB_PERIOD hours (R295). -/
  | scrubAutoStart
  /-- At the end of each 10,000-tick window, backlogged masters below their guarantee are reported as missed
  (R316). -/
  | regulationWindowEnd
  /-- After the check, narrowed-unit recall and BULK recheck, the new access tables take effect at one tick and
  ACC_COMMIT answers OK (R331). -/
  | accessSwitch
  /-- Writing ACK_C1_ALL acknowledges every C1 record (R352). -/
  | faultAckC1All
  /-- Writing ACK_C2_ALL acknowledges every C2 record (R352). -/
  | faultAckC2All
  /-- Writing 1 to LOG_OVERFLOW clears it (R360). -/
  | logOverflowClear
  /-- Any write to LOST sets the count of lost faults to 0 (R360). -/
  | lostReset
  /-- After the 20 µs drain of an orderly stop, dirty Undercoat lines are written back and the dies enter
  self-refresh (R377). -/
  | orderlyStopWriteback
  /-- After 10 ms at or below the resume limits, blocks return and admissions open with T(r) = 8 (R381). -/
  | thermalResume
  /-- Bond-wear counts are written to the calibration store every hour (R383). -/
  | bondWearSave
  /-- A missing reference edge or PLL phase error enters HOLDOVER with scaled intervals and a C1 fault (R419). -/
  | referenceLost
  /-- After 1 ms of reference and lock, the timing unit returns to LOCKED (R419). -/
  | referenceRelock
  /-- The calibration record is rewritten when measurements have moved, at most hourly and within range (R431). -/
  | calRecordWrite
  /-- The PLL locks, and Strongroom runs its boot ROM and starts base-die BIST (R442). -/
  | pllLock
  /-- The identity key pair derivation completes, and the certificate chain is checked (R444). -/
  | identityKeyReady
  /-- Larder silent for 100 ms is restarted by the watchdog, and stays stopped after three restarts in 10 minutes
  (R441). -/
  | larderWatchdog
  /-- A firmware load left open 1 s without FW_DATA is closed as INCOMPLETE (R440). -/
  | fwLoadTimeout
  /-- STACK_RST_N low sends NODE_DOWN, discards state and restarts the power-on sequence at its rise (R449). -/
  | fullStackReset
  /-- RET_RST_N falling stops admissions, answers waiting requests RETRY and drains accepted work (R450). -/
  | retainingReset
  /-- At te the fabric directions go Dark, forwarding queues are discarded and the base die resets, keeping the
  reset responder (R450). -/
  | retainingResetTe
  /-- RET_RST_N rising advances epochs, re-initialises the ports, returns the blocks and restarts Larder (R452). -/
  | retainingResetRelease
  /-- A buffer in DONE or REJECTED for 100 ms without owner access returns to IDLE (R446). -/
  | spdmIdleTimeout
  /-- SPDM GET_VERSION is answered with VERSION 1.2 (R447). -/
  | getVersion
  /-- SPDM GET_CAPABILITIES reports the capabilities allowed by the identity state (R447). -/
  | getCapabilities
  /-- SPDM NEGOTIATE_ALGORITHMS selects RSAPSS-4096 and SHA-512 or returns InvalidRequest (R447). -/
  | negotiateAlgorithms
  /-- SPDM GET_DIGESTS returns the digest of slot 0 (R447). -/
  | getDigests
  /-- SPDM GET_CERTIFICATE returns a portion of the slot-0 chain (R447). -/
  | getCertificate
  /-- SPDM CHALLENGE returns CHALLENGE_AUTH signed by the identity key (R447). -/
  | challenge
  /-- SPDM GET_MEASUREMENTS returns the requested measurement blocks, signed when asked (R448). -/
  | getMeasurements
  /-- Voltage, base-die temperature and timing lock held for 10 ms let a deferred run start or resume (R494). -/
  | testConditionsHeld
  /-- CLEAR_ALL zeroes every counter and both OVF registers at the next tick (R504). -/
  | perfClearAll
  /-- The countdown reaches 0 and the eligible transaction is sampled, or the sample is lost (R505). -/
  | sampleTrigger
  /-- When the bus frees, the oldest waiting transaction of the highest class starts (R515). -/
  | twTransactionStart
  /-- Polling without success for 10 ms fails the transaction (R516). -/
  | twPollTimeout
  /-- A clock stretch reaching 10 ms fails the transaction (R516). -/
  | twStretchTimeout
  /-- TW_SCL low a further 10 ms declares the bus stuck with a C1 fault (R516). -/
  | twBusStuck
  /-- TW_SCL high for 100 µs ends the stuck state (R516). -/
  | twBusUnstuck
  /-- A bus conflict releases both lines, abandons the transaction and starts the idle wait (R517). -/
  | twBusConflict
  /-- After 100 µs idle, nine clocks and a stop are sent and the transaction is retried, or fails after four
  attempts (R517). -/
  | twIdleWaitEnd
  /-- Every 100 ms the regulator's READ_VOUT is read (R519). -/
  | readVoutPoll
  /-- TW_ALERT_N low for 1 µs raises a C0 event (R521). -/
  | twAlert
  /-- PWR_GOOD low releases every output and stops every activity at once (R547). -/
  | powerRemoved
  /-- The rising edge of STACK_RST_N after a full stack reset is t0 of the power-on sequence, which restarts from
  REF_SEL sampling and the PLL (R442). -/
  | stackRstNRising
  /-- Asserting TRST_N resets the test port and returns the IEEE 1838 chain configuration to the base die alone,
  without leaving scan (R559). -/
  | trstNAsserted
  /-- At t0 + 20 µs of a retaining reset, dirty Undercoat lines are written back for up to 100 µs before the dies
  enter self-refresh (R450). -/
  | retainingResetWriteback
  /-- A bus not idle for 100 µs within 10 ms after a conflict makes the transaction fail (R517). -/
  | twIdleWaitTimeout
  /-- Larder firmware signals Strongroom's watchdog, restarting its 100 ms interval (R441). -/
  | larderWatchdogSignal
  deriving DecidableEq, Repr

end Sys2Proof
end

