-- ==== Sys2Proof/Config.lean ====
section
/-! DEFINITION. Values the manual leaves open, as constants with no body: nothing can be proved of them but what holds
for every value.  The first argument of the numbered ones is the model's counter of free values taken. -/

namespace Sys2Proof

/-- A fresh value of w bits where the manual states none. -/
opaque freeBits : (w : Nat) → Nat → BitVec w

/-- SHA-512 of a byte string (16 R437 names the function; its definition lies outside the manual). -/
opaque sha512 : List (BitVec 8) → BitVec 512

/-- RSASSA-PSS verification of 16 R437: modulus, message, signature. -/
opaque rsaPssVerify : List (BitVec 8) → List (BitVec 8) → List (BitVec 8) → Bool

/-- The identity modulus derived from the seed (16 R444; the DRBG and the prime search lie outside the manual). -/
opaque identModulus : BitVec 512 → BitVec 4096

/-- A signature by the identity key: modulus, salt, message (16 R447; PSS is salted, and SPDM states what is signed). -/
opaque identSign : BitVec 4096 → Nat → List (BitVec 8) → List (BitVec 8)

/-- Strongroom's boot ROM and trusted code, and its copy of the base-coat sections of Vault region 5 or 6 (16 R448; 14
R404; their bytes are not stated). -/
opaque romCode : List (BitVec 8)
opaque romCoat : Nat → List (BitVec 8)

/-- Whether a certificate chain's leaf key equals a modulus (16 R445). -/
opaque leafMatches : List (BitVec 8) → BitVec 4096 → Bool

/-- Layout of an SPDM message (SPDM 1.2 lies outside the manual): code of the message, its parameters as numbers, its
data; answers the bytes (16 R447). -/
opaque spdmEncode : Nat → List Nat → List (BitVec 8) → List (BitVec 8)

/-- A field of an SPDM request (same): code of the field and the request's bytes. -/
opaque spdmField : Nat → List (BitVec 8) → Nat

/-- The next value of the sampling generator: 19 R505 gives its polynomial, and not the form of its step. -/
opaque lfsrNext : BitVec 32 → BitVec 32

/-- The first w bits, bit 0 first, that a generator of w stages gives from a seed: 02 R62, 03 R77 and 03 R110 give
polynomials and seeds, and not the form of the step. -/
opaque seedStart : (w : Nat) → BitVec w → BitVec w

/-- The pre-FEC estimate, coded as 03 R108 codes it, of a loading: bits and averaged SNR of each bin that carries bits
(03 R100 names the error curves of the constellations, and does not give them). -/
opaque prefecOf : List (Nat × Nat) → BitVec 16

/-- Codes over a tag entry's bits, a frame header's ROWID and a directory slot's payload: 06 R189, R190 and R198 give their
widths and what they correct, not the codes. -/
opaque tagCode : BitVec 100 → BitVec 16
opaque hdrCheck : BitVec 25 → BitVec 7
opaque slotCode : BitVec 48 → BitVec 16

/-- Θ(d) of the thermal model in sixteenths of a degree per watt, from the content of Vault region 10 as served and the
die: 0 to 15, 16 Undercoat, 17 base (13 R370; the manual gives neither the trims' layout nor the nominal values). -/
opaque thetaOf : Nat → Nat → Nat

/-- Offset of a position from its die's spare, in sixteenths of a degree, from the die, the position and the region
powers in mW (13 R363; not stated). -/
opaque spareOffset : Nat → Nat → List Nat → Int

/-- Factory repairs a Vault region's content holds, from the region and its content as a number; the manual gives the
regions' functions, not their packing (14 R398): rows and columns as {physical block, bank, row or subarray, place}, TSVs
as {physical block, TSV, spare}, Undercoat ways as {region, set, way}. -/
opaque factoryRows : Nat → Nat → List (Nat × Nat × Nat × Nat)
opaque factoryCols : Nat → Nat → List (Nat × Nat × Nat × Nat × Nat)
opaque factoryTsvs : Nat → List (Nat × Nat × Nat)
opaque factoryWays : Nat → List (Nat × Nat × Nat)

/-- TRIM words that the content of Vault region 10 holds, 0 where it is not COMMITTED, by die (14 R398; 15 R429, R430). -/
opaque factoryTrim : Nat → Nat → BitVec 32

/-- The delay a wire's line is to add, in 1/1,024 ps: from the line, numbered as its selection, and the wire's measured delay
(15 R421 states how a target is reached, not the target). -/
opaque lineTarget : Nat → Nat → Nat

end Sys2Proof
end

