-- ==== Sys2Proof/Machine/Bits.lean ====
section
/-! DEFINITION. Helpers over sparse tables, byte memories, bit fields, byte order and the cyclic codes of the spec. -/

namespace Sys2Proof

/-! ## Sparse tables -/

/-- Reading a sparse table: an unlisted key reads as the default. -/
def smGet {α : Type} (d : α) : SMap α → Nat → α
  | [], _ => d
  | (k, v) :: m, i => if k = i then v else smGet d m i

/-- Removing a key. -/
def smErase {α : Type} : SMap α → Nat → SMap α
  | [], _ => []
  | (k, v) :: m, i => if k = i then smErase m i else (k, v) :: smErase m i

/-- Putting an entry at its place in the rising order of keys, over an erased key. -/
def smInsert {α : Type} (m : SMap α) (i : Nat) (v : α) : SMap α :=
  match m with
  | [] => [(i, v)]
  | (k, w) :: r =>
    if i < k then (i, v) :: (k, w) :: r
    else if k = i then (i, v) :: r
    else (k, w) :: smInsert r i v

/-- Writing a sparse table: writing the default removes the entry, so that equal tables are equal lists. -/
def smSet {α : Type} [DecidableEq α] (d : α) (m : SMap α) (i : Nat) (v : α) : SMap α :=
  if v = d then smErase m i else smInsert m i v

/-- Keys strictly rising, and no entry equal to the default. -/
def smWf {α : Type} [DecidableEq α] (d : α) : SMap α → Bool
  | [] => true
  | [(_, v)] => decide (v ≠ d)
  | (k, v) :: (k', v') :: m => decide (k < k') && decide (v ≠ d) && smWf d ((k', v') :: m)

/-- Changing one entry. -/
def smMod {α : Type} [DecidableEq α] (d : α) (m : SMap α) (i : Nat) (f : α → α) : SMap α :=
  smSet d m i (f (smGet d m i))

/-! ## Byte memories -/

/-- One byte; unlisted bytes read 0. -/
def bmGet (m : ByteMem) (a : Nat) : BitVec 8 := smGet 0 m a

def bmSet (m : ByteMem) (a : Nat) (v : BitVec 8) : ByteMem := smSet 0 m a v

/-- `n` bytes from `a` upward. -/
def bmRead (m : ByteMem) (a : Nat) : Nat → List (BitVec 8)
  | 0 => []
  | n + 1 => bmGet m a :: bmRead m (a + 1) n

def bmWrite (m : ByteMem) (a : Nat) : List (BitVec 8) → ByteMem
  | [] => m
  | b :: bs => bmWrite (bmSet m a b) (a + 1) bs

/-! ## Bytes and fields -/

/-- Little-endian value of bytes (00 R9). -/
def leNat : List (BitVec 8) → Nat
  | [] => 0
  | b :: bs => b.toNat + 256 * leNat bs

/-- `n` little-endian bytes of a value. -/
def leBytes (v : Nat) : Nat → List (BitVec 8)
  | 0 => []
  | n + 1 => BitVec.ofNat 8 v :: leBytes (v / 256) n

/-- The byte at index `i` of a list, 0 past its end. -/
def byteAt (l : List (BitVec 8)) (i : Nat) : BitVec 8 := (l[i]?).getD 0

/-- Bytes `i` to `i + n - 1` as a little-endian number. -/
def leAt (l : List (BitVec 8)) (i n : Nat) : Nat := leNat ((l.drop i).take n)

/-- Field of `w` bits from bit `lo` of a number. -/
def field (v lo w : Nat) : Nat := (v >>> lo) % 2 ^ w

/-- One bit of a number. -/
def bit (v i : Nat) : Bool := v.testBit i

def b2n (b : Bool) : Nat := if b then 1 else 0

/-- Replacing a field of a bit vector. -/
def setField {n : Nat} (v : BitVec n) (lo w x : Nat) : BitVec n :=
  let mask := BitVec.ofNat n ((2 ^ w - 1) * 2 ^ lo)
  (v &&& ~~~ mask) ||| (BitVec.ofNat n ((x % 2 ^ w) * 2 ^ lo))

/-- Setting or clearing one bit. -/
def setBit {n : Nat} (v : BitVec n) (i : Nat) (b : Bool) : BitVec n := setField v i 1 (b2n b)

/-- The set bits of a bit vector, ascending. -/
def bitsSet {n : Nat} (v : BitVec n) : List Nat := (List.range n).filter (fun i => v.getLsbD i)

/-- The bytes of a line, byte 0 first. -/
def lineBytes (l : Line) : List (BitVec 8) := leBytes l.toNat 64

def lineOf (bs : List (BitVec 8)) : Line := BitVec.ofNat 512 (leNat (bs.take 64))

/-- The four data slots of a line, byte 0 first (05 R150). -/
def lineSlots (l : Line) : List Slot :=
  (List.range 4).map (fun i => l.extractLsb' (128 * i) 128)

def slotsLine (ss : List Slot) : Line :=
  BitVec.ofNat 512 ((ss.take 4).foldr (fun s acc => s.toNat + 2 ^ 128 * acc) 0)

/-- Bytes of `a` where the byte enable is 0, of `b` where it is 1. -/
def mergeBytes (be : BitVec 64) (a b : Line) : Line :=
  let m := (List.range 64).foldl (fun acc j => if be.getLsbD j then acc ||| BitVec.ofNat 512 (255 * 2 ^ (8 * j)) else acc)
    (0 : BitVec 512)
  (a &&& ~~~ m) ||| (b &&& m)

/-- Even parity: true when the number of ones is odd. -/
def parity (v : Nat) (w : Nat) : Bool := ((List.range w).filter (fun i => v.testBit i)).length % 2 == 1

/-- Ones in the lowest `w` bits. -/
def popCount (v w : Nat) : Nat := ((List.range w).filter (fun i => v.testBit i)).length

/-! ## Cyclic codes -/

/-- One step of a non-reflected CRC of width `w`: the bit fed is compared with the top bit. -/
def crcStep (w poly : Nat) (c : Nat) (b : Bool) : Nat :=
  let top := c.testBit (w - 1)
  let c' := (c <<< 1) % 2 ^ w
  if top != b then c' ^^^ poly else c'

/-- CRC over a list of bits in feeding order. -/
def crcBits (w poly init : Nat) (bs : List Bool) : Nat := bs.foldl (crcStep w poly) init

/-- Bits of a byte, most significant first. -/
def byteMsb (b : BitVec 8) : List Bool := (List.range 8).map (fun i => b.getLsbD (7 - i))

/-- Bits of a number, least significant first. -/
def natLsb (v w : Nat) : List Bool := (List.range w).map (fun i => v.testBit i)

/-- CRC-8 with polynomial 0x07 (03 R86, R89; 20 R519). -/
def crc8 (init : Nat) (bs : List (BitVec 8)) : Nat := crcBits 8 0x07 init (bs.flatMap byteMsb)

/-- CRC-16 of a W-flit half: data wires 0 to 1,023 then control bits 16 to 63 (02 R42). -/
def crc16Half (d : BitVec 1024) (c : BitVec 64) : Nat :=
  crcBits 16 0x8BB7 0xFFFF (natLsb d.toNat 1024 ++ natLsb (c.toNat >>> 16) 48)

/-- CRC-16 by R42 over bytes, each least significant bit first (02 R63). -/
def crc16Bytes (bs : List (BitVec 8)) : Nat := crcBits 16 0x8BB7 0xFFFF (bs.flatMap (fun b => natLsb b.toNat 8))

/-- CRC-64 of a fabric flit (04 R121). -/
def crc64 (bs : List (BitVec 8)) : Nat :=
  (crcBits 64 0x42F0E1EBA9EA3693 (2 ^ 64 - 1) (bs.flatMap byteMsb)) ^^^ (2 ^ 64 - 1)

/-- One reflected CRC-32C step: the polynomial 0x1EDC6F41 bit-reversed is 0x82F63B78 (08 R264). -/
def crc32cStep (c : Nat) (b : Bool) : Nat :=
  let x := c ^^^ b2n b
  if x.testBit 0 then (x >>> 1) ^^^ 0x82F63B78 else x >>> 1

/-- CRC-32C running register over bytes, without the final XOR. -/
def crc32cRun (c : Nat) (bs : List (BitVec 8)) : Nat := (bs.flatMap (fun b => natLsb b.toNat 8)).foldl crc32cStep c

/-- CRC-32C (08 R264). -/
def crc32c (bs : List (BitVec 8)) : Nat := (crc32cRun 0xFFFFFFFF bs) ^^^ 0xFFFFFFFF

/-! ## Signed numbers -/

/-- A 16-bit signed reading. -/
def s16 (v : BitVec 16) : Int := v.toInt

/-- First element of a list that satisfies a test, with its place. -/
def findIdx {α : Type} (p : α → Bool) : List α → Nat → Option (Nat × α)
  | [], _ => none
  | a :: l, i => if p a then some (i, a) else findIdx p l (i + 1)

/-- Largest of a list of numbers, 0 for none. -/
def maxNat (l : List Nat) : Nat := l.foldl max 0

/-- Smallest of a list with a starting bound. -/
def minNat (d : Nat) (l : List Nat) : Nat := l.foldl min d

/-- The element with the smallest measure, the first among equals. -/
def argMin {α : Type} (f : α → Nat) : List α → Option α
  | [] => none
  | a :: l =>
    match argMin f l with
    | none => some a
    | some b => if f b < f a then some b else some a

end Sys2Proof
end

