-- ==== Sys2Proof/Machine/State.lean ====
section
/-! DEFINITION. The state of the block as plain data: every register, queue, buffer, counter, mode and pin the spec
gives it, and the queue of waiting commands.  Each field's docstring names the rule that gives it; its reset value
is in `State.reset` and in INVENTORY.md. -/

namespace Sys2Proof.Machine

/-! ## Links (02, 04) -/

/-- Credits or counts by class: header credits of REQ, SNP, RSP, DATA, BULK, MGMT and line credits of DATA and MGMT
(02 R51, 04 R130). -/
structure Credits where
  req : Nat := 0
  snp : Nat := 0
  rsp : Nat := 0
  dat : Nat := 0
  blk : Nat := 0
  mg : Nat := 0
  datL : Nat := 0
  mgL : Nat := 0
  deriving DecidableEq, Repr, Inhabited

/-- One credit return (02 R52, 04 R120). -/
structure CreditRet where
  cls : Nat
  line : Bool
  count : Nat
  deriving DecidableEq, Repr, Inhabited

/-- A flit as the link layer sees it, on the Wide Port and on the fabric: type, sequencing, slots with their map code
(0 empty, 1 first of a header, 2 second of a header, 3 data) and credit returns. -/
structure LFlit where
  ftype : Nat
  seqd : Bool
  fseq : Nat
  slots : List (Nat × Slot)
  credits : List CreditRet
  deriving DecidableEq, Repr, Inhabited

/-- A data-bearing message being received: its header and the data slots taken so far (02 R45).  `fwd` holds the number
of a forwarded message (04 R139), `drop` a message whose header was discarded. -/
structure RxMsg where
  msg : Msg
  lines : Nat
  slots : List Slot
  fwd : Option Nat
  drop : Bool
  deriving DecidableEq, Repr, Inhabited

/-- A message waiting at an egress (02 R47, 04 R123).  `lines` are the data lines present, `need` how many the header
announces; `ctx` the context whose final response or snoop it is; `final` marks a final response; `allot` lines of the
response allotment of port `home` are released as they leave (02 R59, 04 R131); `ing` the ingress of a forwarded message; `since` its time; `part`
the data slots of a forwarded message so far, and `arr` the number it is known by (04 R139). -/
structure OutMsg where
  h0 : Slot
  h1 : Slot
  lines : List Line
  need : Nat
  ctx : Option Nat
  final : Bool
  allot : Bool
  ing : Option Nat
  since : Nat
  late : Bool
  part : List Slot := []
  arr : Nat := 0
  home : Nat := 5
  deriving DecidableEq, Repr, Inhabited

/-- The data of a message whose header has been placed (02 R45). -/
structure TxData where
  /-- the message as it was queued -/
  m : OutMsg
  /-- data slots present and not yet placed, and how many are still to be placed -/
  slots : List Slot
  left : Nat
  deriving DecidableEq, Repr, Inhabited

/-- One link's sequencing, replay, credits and queues (02 R51 to R58, R69; 04 R122 to R130). -/
structure Link where
  /-- port epoch, 8 bits (02 R62, 04 R124) -/
  epoch : BitVec 8 := 0
  /-- the epoch advances once the REINIT flits have been sent (02 R69) -/
  epochDue : Bool := false
  /-- next sequence number to send -/
  txSeq : Nat := 0
  /-- last sequenced flit received good and in order; none before the first -/
  rxLast : Option Nat := none
  /-- replay buffer: flits sent and not acknowledged, oldest first -/
  unacked : List LFlit := []
  /-- flits of the replay buffer still to be replayed -/
  resend : List LFlit := []
  /-- control flits waiting to be sent: type and slot 0 and slot 1 -/
  ctl : List (Nat × List Slot) := []
  /-- a NAK is to be carried by the next flit -/
  nakDue : Bool := false
  /-- flits are discarded until sequence ACKSEQ + 1 arrives good -/
  awaiting : Bool := false
  /-- flits seen since the last NAK while no replay has begun -/
  nakFlits : Nat := 0
  /-- consecutive NAKs for one ACKSEQ -/
  nakCount : Nat := 0
  /-- consecutive bad flits (04 R124) -/
  badRun : Nat := 0
  /-- an acknowledgement is owed -/
  ackDue : Bool := false
  /-- credits held toward the far end -/
  held : Credits := {}
  /-- credits the far end has advertised since the latest initialisation -/
  adv : Credits := {}
  /-- credits to return to the far end -/
  owed : Credits := {}
  /-- this side's INIT_DONE sent, the far side's received (02 R54); or SEEN sent and received (04 R124) -/
  initSent : Bool := false
  initRcvd : Bool := false
  /-- when initialisation began, and when the far end's INIT_DONE arrived -/
  initAt : Nat := 0
  initRcvdAt : Nat := 0
  /-- messages being received, oldest first -/
  rx : List RxMsg := []
  /-- messages waiting to be placed, in order -/
  outQ : List OutMsg := []
  /-- data of messages whose header has been placed, oldest first -/
  txData : List TxData := []
  /-- flits each class has waited without being placed (02 R47, 04 R123) -/
  waits : Credits := {}
  /-- REINIT flits still to send (02 R69, 04 R125), and times of re-initialisations -/
  reinitLeft : Nat := 0
  reinits : List Nat := []
  /-- the far end's credits below the minima have been reported (02 R54, 04 R130) -/
  shortRaised : Bool := false
  /-- the flit last driven on the wires, as the link layer composed it -/
  lastSent : Option LFlit := none
  deriving DecidableEq, Repr, Inhabited

/-- State of the Wide Port (02 R71); `off` stands before its release by Strongroom (02 R62, 16 R442). -/
inductive WpState where
  | training | init | active | parked | failed | halted | off
  deriving DecidableEq, Repr, Inhabited

/-- The timed phases of training (02 R62). -/
inductive WpPhase where
  | clockLock | prbs | qualify | train | requalify | linkInit
  deriving DecidableEq, Repr, Inhabited

/-- A response-allotment reservation waiting in acceptance order (02 R59). -/
structure AllotReq where
  ctx : Nat
  lines : Nat
  deriving DecidableEq, Repr, Inhabited

/-- A substitution this stack's receiver asked for: group, target, spare, and S once acknowledged (02 R65). -/
structure Subst where
  group : Nat
  target : Nat
  spare : Nat
  atSeq : Option Nat
  deriving DecidableEq, Repr, Inhabited

/-- The Wide Port (02). -/
structure WidePort where
  st : WpState := .off
  phase : WpPhase := .clockLock
  /-- instant of release, t0 of R62 -/
  t0 : Nat := 0
  /-- when the phase began -/
  phaseAt : Nat := 0
  requalFails : Nat := 0
  hostClockSeen : Bool := false
  /-- tick of the entry into ACTIVE (04 R137) -/
  activeSince : Nat := 0
  /-- tick from which WAKE flits are sent for 4 ns, drivers still until then (02 R68) -/
  wakeAt : Option Nat := none
  /-- flits still sent before W_OUTCK stops (02 R68) -/
  parkLeft : Nat := 0
  /-- inbound and outbound Idle-clocked (02 R67, R71) -/
  idleIn : Bool := false
  idleOut : Bool := false
  /-- last tick at which the transmitter had something to send; last tick with traffic either way -/
  lastTx : Nat := 0
  lastTraffic : Nat := 0
  /-- PARK_REQ sent and not yet answered (02 R68) -/
  parkAsked : Bool := false
  link : Link := {}
  /-- RESP_ALLOT in force and free lines (02 R59, R60, R71), and reservations waiting in acceptance order -/
  allot : Nat := 4096
  allotFree : Nat := 4096
  allotQ : List AllotReq := []
  /-- a lower RESP_ALLOT that waits for reserved lines to fall (17 R470) -/
  allotNext : Option Nat := none
  /-- per wire position failed at qualification; inbound spares that failed qualification, bit 4g+s (02 R63) -/
  badSpares : BitVec 32 := 0
  /-- inbound and outbound spares in use, bit 4g+s (02 R71) -/
  sparesIn : BitVec 32 := 0
  sparesOut : BitVec 32 := 0
  /-- substitution map: (group, target, spare) inbound and outbound -/
  mapIn : List (Nat × Nat × Nat) := []
  mapOut : List (Nat × Nat × Nat) := []
  /-- substitutions in progress inbound, and outbound with their S -/
  subst : List Subst := []
  substOut : List Subst := []
  /-- wires charged: wire, tick and replay (02 R57) -/
  charges : List (Nat × Nat × Nat) := []
  /-- bad flits kept, with the sequence number each is taken to have, and the number last seen in the stream (02 R57) -/
  badKept : List (Nat × WFlit) := []
  rxPos : Nat := 4095
  /-- replays asked for so far, by which charges are told apart (02 R57) -/
  replayNo : Nat := 0
  /-- a group clock lost, since (02 R66) -/
  clockLost : List (Nat × Nat) := []
  /-- CRC_ERR 64, REPLAYS 64, DISCARDS 32, hold at maximum (02 R71) -/
  crcErr : Nat := 0
  replays : Nat := 0
  discards : Nat := 0
  /-- the flit last driven on W_OUT and W_OUTC, and on W_OUTS: half 0 in bits 31..0, half 1 in bits 63..32 -/
  wire : Option WFlit := none
  wireS : BitVec 64 := 0
  /-- the next 31 bits of each wire's PRBS-31, position 0 first (02 R62) -/
  prbs : List (BitVec 31) := []
  /-- wires this receiver found failed at qualification, in the order found: group and target (02 R63) -/
  inFailed : List (Nat × Nat) := []
  /-- TRAIN flits received, and the first good record of each group (02 R63) -/
  trainRx : Nat := 0
  trainRec : SMap Slot := []
  /-- HALTED was entered from FAILED: the drivers stay off (02 R68) -/
  dead : Bool := false
  deriving DecidableEq, Repr, Inhabited

/-! ## Transactions (05) -/

/-- Address class of a window (04 R140, 05 R163). -/
inductive AClass where
  | tracked | hostPrivate | bulk
  deriving DecidableEq, Repr, Inhabited

/-- Release class given by the regulator (10 R305): guaranteed, bulk-guaranteed or shared. -/
inductive RelClass where
  | guaranteed | bulkGuaranteed | shared
  deriving DecidableEq, Repr, Inhabited

/-- One line a context covers in its order position (05 R157). -/
structure CtxLine where
  /-- line address FA[52:6] for the response, and DPA of the line -/
  fa : Nat
  dpa : Nat
  region : Nat
  lblock : Nat
  /-- line key {bank, row, line} (07 R217) -/
  key : Nat
  ord : Nat
  /-- the pipeline has accepted the part that holds this line (05 R157) -/
  accepted : Bool
  /-- its directory row has been taken (05 R174) -/
  dirDone : Bool
  /-- data of a read, with its poison mark, once it is final for this request (05 R164) -/
  data : Option (Line × Bool)
  /-- dirty data a snoop of this request returned for the line (05 R175) -/
  merged : Option (Line × Bool)
  /-- read or performed (06 R194) -/
  done : Bool
  /-- a line that a Trowel step writes (08 R252) -/
  wr : Bool := false
  deriving DecidableEq, Repr, Inhabited

/-- What a context is for. -/
inductive CtxKind where
  /-- a request -/
  | request
  /-- a back-invalidation (05 R178) -/
  | backInv
  /-- a broadcast (06 R201) -/
  | broadcast
  /-- a recall of a range scan (08 R261) -/
  | recall
  /-- a Trowel step (08 R250) -/
  | step
  deriving DecidableEq, Repr, Inhabited

/-- Progress of a context's final response. -/
inductive CtxPhase where
  /-- accepted, not yet answerable -/
  | working
  /-- final response queued at its egress -/
  | answered
  /-- final response placed in a flit; the context may still hold chains (05 R176) or be quarantined (05 R177) -/
  | placed
  deriving DecidableEq, Repr, Inhabited

/-- A transaction context (05 R154 to R157). -/
structure Ctx where
  idx : Nat
  /-- ingress pool: 0 to 3 fabric ports, 4 Wide Port, 5 Trowel and internal (05 R155) -/
  ing : Nat
  kind : CtxKind
  src : Node
  tag : Tag
  op : Nat
  h0 : Slot
  h1 : Slot
  cls : AClass
  rel : RelClass
  lead : Nat
  /-- port epoch at entry, region epochs and block epochs at acceptance (01 R19) -/
  portEpoch : BitVec 8
  /-- arrival number at its ingress (05 R157) -/
  arr : Nat := 0
  blkEpochs : List (Nat × BitVec 8)
  regEpochs : List (Nat × BitVec 8) := []
  lines : List CtxLine
  /-- write data received, in line order -/
  wdata : List Line
  dataOk : Bool
  acceptedAt : Nat
  /-- response lines reserved in the allotment (02 R59) -/
  reserved : Bool
  grant : Nat
  /-- status the response will carry and first line of it (05 R153) -/
  status : Nat
  /-- a posted or final CMP has been queued -/
  phase : CtxPhase
  /-- unusable until this tick (05 R177) -/
  quarantine : Option Nat
  deriving DecidableEq, Repr, Inhabited

/-- Where a sector-chain item stands (05 R158, R176). -/
inductive ChainPhase where
  | wait
  /-- waits for a directory slot or for the Undercoat (06 R200, R210) -/
  | slot
  | snoop
  /-- broadcast of an UNKNOWN sector in progress for this item (06 R201) -/
  | unknown
  /-- grant given; GACK awaited, with the tick of the grant once placed (05 R176) -/
  | gack (since : Option Nat)
  deriving DecidableEq, Repr, Inhabited

/-- One place in a sector's chain (05 R158). -/
structure ChainItem where
  /-- order position -/
  ord : Nat
  region : Nat
  /-- 28-bit sector ID (06 R197) -/
  sector : Nat
  ctx : Nat
  phase : ChainPhase
  deriving DecidableEq, Repr, Inhabited

/-- One snoop of a sector to a node (05 R158, R174 to R177). -/
structure Snoop where
  ctx : Nat
  region : Nat
  sector : Nat
  node : Node
  inv : Bool
  backInv : Bool
  lmask : BitVec 4
  /-- the directory named the node as owner -/
  owner : Bool
  /-- tick at which it was sent; none while it waits for the 2,048-sector limit -/
  sent : Option Nat
  answered : Bool
  /-- lines whose WRBACK is awaited after WBP, and since when (05 R176) -/
  wbp : BitVec 4
  wbpSince : Nat
  /-- egress through which it was placed in a flit, none while it is queued (04 R127) -/
  via : Option Nat := none
  /-- it is to be sent again after an initialisation, and its SNOOP_TIMEOUT has not restarted yet (02 R69) -/
  again : Bool := false
  deriving DecidableEq, Repr, Inhabited

/-- A request header waiting in the regulator or for acceptance (05 R156, R157; 10 R302). -/
structure Waiting where
  ing : Nat
  msg : Msg
  /-- arrival number at the ingress -/
  arr : Nat
  /-- data of a write that completed before acceptance -/
  data : List Line
  dataOk : Bool
  rel : RelClass
  /-- its credits are still to be returned: false once its port has initialised afresh (02 R52) -/
  owes : Bool := true
  /-- Trowel step identity for a step of an operation: operation id and step number -/
  step : Option (Nat × Nat)
  deriving DecidableEq, Repr, Inhabited

/-- A snoop-returned line waiting for the snoop reserve (07 R220). -/
structure ResWait where
  region : Nat
  lblock : Nat
  key : Nat
  ord : Nat
  data : Line
  poison : Bool
  ctx : Nat
  deriving DecidableEq, Repr, Inhabited

/-- Transactions (05). -/
structure Tx where
  ctxs : List Ctx := []
  nextIdx : Nat := 0
  nextArr : Nat := 0
  nextOrd : Nat := 1
  /-- held by the regulator (10 R302), in arrival order -/
  held : List Waiting := []
  /-- released, waiting for acceptance (05 R156) -/
  waiting : List Waiting := []
  chain : List ChainItem := []
  snoops : List Snoop := []
  resWait : List ResWait := []
  /-- management requests that wait at their ingress for a context (05 R155) -/
  mgWait : List (Nat × Msg) := []
  /-- duplicates discarded (05 R154), refused at acceptance (05 R183), private-node denials (05 R163) -/
  dups : Nat := 0
  refused : Nat := 0
  privDenied : Nat := 0
  /-- snoop responses after resolution or malformed responses discarded (05 R151, R177) -/
  rspDiscards : Nat := 0
  /-- WRBACKs that arrive after their line was resolved: (node, region, sector, line) (05 R176) -/
  lateWb : List (Nat × Nat × Nat × Nat) := []
  deriving DecidableEq, Repr, Inhabited

/-! ## Undercoat (06) -/

/-- Way state of a frame (06 R189). -/
inductive WState where
  | active | spare | retired
  deriving DecidableEq, Repr, Inhabited

/-- A cache tag entry (06 R189), without its code; `hdr` is the frame's header ROWID, none before the first
allocation (06 R190). -/
structure Tag6 where
  rowId : BitVec 25 := 0
  valid : BitVec 32 := 0
  dirty : BitVec 32 := 0
  age : BitVec 4 := 0
  wstate : WState := .active
  busy : Bool := false
  hdr : Option (BitVec 25) := none
  deriving DecidableEq, Repr, Inhabited

/-- A directory slot (06 R198). -/
inductive DirSlot where
  | free
  | precise (tag : BitVec 12) (age : BitVec 4) (a b : Node) (two : Bool)
  | coarseHead (tag : BitVec 12) (age : BitVec 4) (vec : BitVec 30)
  | coarseTail (tag : BitVec 12) (vec : BitVec 34)
  | owned (tag : BitVec 12) (age : BitVec 4) (owner : Node)
  deriving DecidableEq, Repr, Inhabited

/-- A staging ring holder or waiter (06 R204): migration of a region, or a step of a Trowel operation (08 R258). -/
inductive RingUser where
  | migration
  | trowel (op no : Nat)
  deriving DecidableEq, Repr, Inhabited

/-- A pending poisoned write of the region poison list (06 R210). -/
structure PoisonItem where
  lblock : Nat
  key : Nat
  ord : Nat
  deriving DecidableEq, Repr, Inhabited

/-- What the Undercoat of one region holds besides tags and directory (06). -/
structure UcRegion where
  /-- shadow units in service (06 R187, R208) -/
  units : Nat := 4
  reloc : Nat := 0
  /-- tests holding units -/
  testUnits : List Nat := []
  /-- rings in use: staging unit and user; unit 2 is the base-die buffer that stands in for them (06 R206) -/
  rings : List (Nat × RingUser) := []
  ringWait : List RingUser := []
  sliceLost : Option Nat := none
  /-- cache, directory and shadow disabled after a second slice loss (06 R208) -/
  disabled : Bool := false
  /-- second loss seen; takes effect at the region reset -/
  secondLoss : Bool := false
  /-- hint sweep: pointer while it runs (06 R202) -/
  sweep : Option Nat := none
  /-- the pass covers every sector, not only those of lost sets (06 R201, R210) -/
  sweepAll : Bool := false
  /-- sets lost, and those of them lost while a pass runs (06 R199, R202) -/
  lostSets : List Nat := []
  lostNew : List Nat := []
  /-- slice indices whose every directory set is lost, and those of them lost while a pass runs (06 R202, R208) -/
  lostMod : List Nat := []
  lostModNew : List Nat := []
  /-- the window of 1,000 ticks the sweep last read in, and the sectors it read there (06 R202) -/
  sweepWin : Nat := 0
  sweepRead : Nat := 0
  /-- tick from which the next sector waits (21 R527) -/
  sweepAt : Nat := 0
  /-- sectors already resolved ahead of the pointer (06 R201) -/
  known : List Nat := []
  poison : List PoisonItem := []
  /-- sets marked NO_SPARE (06 R207) -/
  noSpare : List Nat := []
  broadcasts : Nat := 0
  /-- tag walk position (06 R191) -/
  walk : Nat := 0
  deriving DecidableEq, Repr, Inhabited

/-- Steps of an Undercoat domain reset (06 R210). -/
inductive UcReset where
  | none
  | decided
  | held
  | stable
  deriving DecidableEq, Repr, Inhabited

/-- The Undercoat (06). -/
structure Uc where
  /-- tags, keyed ((region * 4096) + set) * 16 + way; frames of way 15 read SPARE when unlisted -/
  tags : SMap Tag6 := []
  /-- frame codewords: key tagKey * 4096 + line * 128 + byte (06 R184) -/
  frames : ByteMem := []
  /-- BUSY victims, tag keys in the order they were chosen (07 R220) -/
  victims : List Nat := []
  /-- directory slots, keyed ((region * 2^19) + set) * 12 + way -/
  dir : SMap DirSlot := []
  /-- shadow rows: key (((region * 16) + unit) * 1024 + row) * 4096 + line * 128 + byte -/
  shadow : ByteMem := []
  regions : SMap UcRegion := []
  reset : UcReset := .none
  /-- t0 of the reset -/
  t0 : Nat := 0
  /-- Undercoat epoch (06 R211) -/
  epoch : BitVec 8 := 0
  /-- slice last reset: slice and tick (06 R209) -/
  lastReset : List (Nat × Nat) := []
  /-- the slices last returned to service from a domain reset (06 R207) -/
  returned : Option Nat := none
  /-- failures of frame lines: tag key * 32 + line, time of the first in ms, count (06 R196; 09 R281) -/
  fails : List (Nat × Nat × Nat) := []
  deriving DecidableEq, Repr, Inhabited

/-! ## Blocks (07) -/

/-- State of a block (07 R244). -/
inductive BState where
  | serving | leaving | selfRefresh | returning | stopped | bist | retired
  deriving DecidableEq, Repr, Inhabited

inductive WKind where
  | full | partialW | atomic | snoopLine | victim | internal
  /-- a Trowel line write; the place of a line a row operation writes (08 R257, R258) -/
  | stream | rowHold
  deriving DecidableEq, Repr, Inhabited

inductive WSt where
  | waitData | held | base | ready
  deriving DecidableEq, Repr, Inhabited

inductive WTarget where
  | slice | dram | both
  deriving DecidableEq, Repr, Inhabited

/-- A write-queue entry (07 R220, R221). -/
structure WEnt where
  key : Nat
  ord : Nat
  be : BitVec 64
  kind : WKind
  st : WSt
  rank : Nat
  tgt : WTarget
  data : Line
  poison : Bool
  hint : Bool
  ctx : Option Nat
  li : Nat
  /-- the entry's CMP has been sent (07 R221) -/
  cmpSent : Bool
  /-- its base read has been issued (07 R223) -/
  baseIssued : Bool
  /-- AOP, SIZE and OFFSET of an atomic, and comparand -/
  aop : Nat
  asz : Nat
  aoff : Nat
  cmpd : BitVec 128
  at0 : Nat
  /-- place among order positions of an internal entry (07 R232), and tick of its base read (07 R230) -/
  pos : Nat := 0
  baseAt : Nat := 0
  /-- accepted while its unit's migration switches: placed once it has (09 R291) -/
  after : Bool := false
  deriving DecidableEq, Repr, Inhabited

/-- Who takes the data of a read entry. -/
inductive ROwner where
  | ctx (idx li : Nat)
  | base (ord key : Nat)
  | rowFill
  | verify
  | scrub
  | migration
  | test (id : Nat)
  | trowel (op : Nat)
  | primer
  deriving DecidableEq, Repr, Inhabited

/-- A read-queue entry (07 R218); `issued` once its RD is on the TSVs. -/
structure REnt where
  key : Nat
  ord : Nat
  rank : Nat
  owner : ROwner
  pool : Bool
  issued : Bool
  at0 : Nat
  /-- place among order positions of an internal entry (07 R232) -/
  pos : Nat := 0
  deriving DecidableEq, Repr, Inhabited

/-- One bank of a block (07 R230, R234 to R238): physical bank 0 to 67. -/
structure Bank where
  row : Option Nat := none
  /-- tick of the ACT, whether its echo has been checked, of the last column command, PRE, REF or ROW completion -/
  actAt : Nat := 0
  echoOk : Bool := false
  colAt : Nat := 0
  wrEnd : Nat := 0
  preAt : Nat := 0
  busyTill : Nat := 0
  /-- a refresh runs until then (07 R238) -/
  refTill : Nat := 0
  idleAt : Nat := 0
  hits : Nat := 0
  debt : Nat := 0
  due : Nat := 0
  forced : Bool := false
  /-- consecutive echo mismatches on a row (07 R229) -/
  missRow : Nat := 0
  missCnt : Nat := 0
  /-- the run holds a column code: only a column command that succeeds ends it -/
  missCol : Bool := false
  /-- rows given up after three mismatches (07 R229) -/
  badRows : List Nat := []
  /-- next row of the internal refresh counter (07 R236) -/
  refRow : Nat := 0
  /-- a parity alert waits for its command's success -/
  alerted : Bool := false
  /-- last column command since the ACT: 0 none, 1 RD, 2 WR -/
  lastCol : Nat := 0
  deriving DecidableEq, Repr, Inhabited

/-- A command as its die would have to be given it again (07 R227): the bank, and row, line key, or MODE words. -/
inductive Sent where
  | act (bank row : Nat)
  | col (bank : Nat)
  | pre (bank : Nat)
  | ref (bank : Nat)
  | row (bank dst dstBank : Nat)
  | mode (sub operand : Nat)
  deriving DecidableEq, Repr, Inhabited

/-- What a block's die holds for scheduling: ACT history, mode busy, self-refresh, refresh interval and pending MODE
corrections (07 R226, R230, R236, R239). -/
structure BDie where
  acts : List Nat := []
  modeTill : Nat := 0
  selfRef : Bool := false
  refi : Nat := 3906
  /-- the refresh slot of the REF in progress: 0 none or used, 1 free, 2 free and no read of the die was in flight (07 R239;
  21 R533) -/
  refSlot : Nat := 0
  /-- corrections that wait for a refresh slot: MODE subcode and operand (07 R239) -/
  modes : List (Nat × Nat) := []
  /-- the last commands driven to the die, with their ticks, latest first (07 R227) -/
  sent : List (Nat × Sent) := []
  deriving DecidableEq, Repr, Inhabited

/-- A word driven on CA, with the beats of CAP beside it and its slot (07 R226, R227, R231). -/
structure CaWord where
  word : BitVec 16
  cap : BitVec 4
  slot : Nat
  deriving DecidableEq, Repr, Inhabited

/-- A row operation waiting at a block (07 R240, 08 R257): kind 0 clone, 1 shuttle, 2 zero clone. -/
structure RowOp where
  kind : Nat
  bank : Nat
  src : Nat
  dst : Nat
  dstBank : Nat
  op : Option Nat
  rank : Nat
  ord : Nat
  issued : Option Nat
  /-- needs no check read, or has passed it (08 R255) -/
  checked : Bool := true
  deriving DecidableEq, Repr, Inhabited

/-- A block controller (07). -/
structure Block where
  st : BState := .serving
  /-- WRITE mode; a drain and not an idle drain (07 R233) -/
  wmode : Bool := false
  drain : Bool := false
  rq : List REnt := []
  wq : List WEnt := []
  /-- poison table and its OVERFLOW (07 R225) -/
  ptab : List Nat := []
  povf : Bool := false
  banks : SMap Bank := []
  dies : SMap BDie := []
  rowOps : List RowOp := []
  /-- last data beat of a read and of a write, tick (07 R230) -/
  rdEnd : Nat := 0
  wrEnd : Nat := 0
  /-- words of the command last driven -/
  lastCa : List CaWord := []
  /-- next free CA slot, numbered from tick 0, five to two ticks (07 R231) -/
  caBusyTill : Nat := 0
  /-- commands awaiting a column echo: write entries' order positions, keys, and ticks of the WR -/
  wrEcho : List (Nat × Nat × Nat) := []
  /-- slot and die of the last RD (07 R231) -/
  rdSlot : Nat := 0
  rdDie : Option Nat := none
  /-- entries held by mirrored writes of another place: physical block, order position, key (07 R220, 09 R290) -/
  mirrors : List (Nat × Nat × Nat) := []
  /-- progress reserve: window of 1,000 ticks it was last taken in, and lines taken there (21 R527) -/
  resWin : Nat := 0
  resTaken : Nat := 0
  /-- tick of the last command or data (07 R239) -/
  lastBusy : Nat := 0
  alerts : List Nat := []
  forced : Nat := 0
  rowHits : Nat := 0
  rowMisses : Nat := 0
  forwards : Nat := 0
  rmw : Nat := 0
  capAlerts : Nat := 0
  echoMiss : Nat := 0
  /-- release tick of a return (07 R242), and who asked for it -/
  t0 : Nat := 0
  /-- a CA requalification is owed or under way (07 R227) -/
  requal : Bool := false
  /-- corrected lines counted, and the last C0 event for them (09 R279) -/
  corrected : Nat := 0
  lastC0 : Option Nat := none
  deriving DecidableEq, Repr, Inhabited

/-- Remap tables and epochs (01 R18, R19, R33). -/
structure Remap where
  /-- physical block of a logical block, where it differs from the shipped map -/
  block : SMap Nat := []
  /-- physical bank of (physical block * 64 + bank), stored as bank + 1; unlisted is the bank itself -/
  bank : SMap Nat := []
  blockEpoch : SMap Nat := []
  regionEpoch : SMap Nat := []
  deriving DecidableEq, Repr, Inhabited

/-- The pace monitor (01 R28 to R30). -/
structure Pace where
  now : BitVec 16 := 0
  min : BitVec 16 := 0xFFFF
  minSource : BitVec 3 := 0
  outOfRange : Bool := false
  lowSamples : BitVec 16 := 0
  warn : BitVec 16 := 0x1100
  /-- a C0 event may be raised at the next sample at or below PACE_WARN (01 R29) -/
  armed : Bool := true
  /-- consecutive samples below, and at or above, 0x1000 -/
  lowRun : Nat := 0
  okRun : Nat := 0
  /-- VDD_CORE outside its range now; since when -/
  vddOut : Bool := false
  /-- base-die junction above 105 degrees C -/
  hot : Bool := false
  /-- tick of the latest sample (01 R28) -/
  sampledAt : Option Nat := none
  deriving DecidableEq, Repr, Inhabited

/-! ## Trowel and Primer (08) -/

/-- A line step or row-group step of an operation (08 R251). -/
inductive StepKind where
  | line
  | rowGroup
  deriving DecidableEq, Repr, Inhabited

/-- A Trowel step in flight (08 R251, R252): target lines first .. first+count-1, indices from 0 at ADDR. -/
structure TStep where
  op : Nat
  no : Nat
  kind : StepKind
  first : Nat
  count : Nat
  rel : RelClass
  ord : Nat
  ctx : Nat
  /-- rows that still move by a row path: target and source row codes, {logical block, bank, row} -/
  rows : List (Nat × Nat)
  /-- lines moved by row operations -/
  rowLines : Nat
  /-- lines of it were answered with a retry and are reissued; the regulator has still to release them (08 R267) -/
  again : Bool := false
  redo : Bool := false
  deriving DecidableEq, Repr, Inhabited

/-- Where a bulk operation stands (08 R249, R250). -/
inductive OpPhase where
  /-- at its queue entry while its access check runs (11 R324) -/
  | checking
  | queued
  /-- executing; its range scans run (08 R261) -/
  | scanning
  | running
  | finished
  deriving DecidableEq, Repr, Inhabited

/-- A bulk operation (08 R246 to R267). -/
structure BulkOp where
  id : Nat
  ing : Nat
  master : Node
  ctx : Nat
  bop : Nat
  /-- line addresses of both ranges, and their first lines in DPA -/
  dst : Nat
  src : Nat
  dpaDst : Nat
  dpaSrc : Nat
  count : Nat
  cls : AClass
  srcCls : AClass
  phase : OpPhase
  /-- descending processing order (08 R251) -/
  desc : Bool
  /-- next line index in processing order, and next step number -/
  nextLine : Nat
  nextStep : Nat
  linesDone : Nat
  poisoned : Nat
  rowLines : Nat
  crc : BitVec 32
  diff : Option (Nat × Nat)
  pattern : Option (Line × Bool)
  status : Nat
  statusFa : Nat
  /-- ends at its next step with this status (08 R267, 11 R333) -/
  endWith : Option Nat
  /-- FILL: rows written line by line with the pattern, the first in each subarray: logical block, bank, row -/
  fillRows : List (Nat × Nat × Nat)
  deriving DecidableEq, Repr, Inhabited

/-- Who asked for a directory range scan (08 R261). -/
inductive ScanFor where
  | op (id : Nat)
  | routeCommit
  | accessCommit
  /-- units narrowed while their region was stopped, scanned at its reset (21 R535) -/
  | regionReset
  deriving DecidableEq, Repr, Inhabited

/-- A directory range scan in one region: DPA lines first .. last. -/
structure Scan where
  owner : ScanFor
  region : Nat
  first : Nat
  last : Nat
  /-- SNP_INV recall, or SNP_SHARE to owners -/
  inv : Bool
  /-- sectors whose recall waits for a context of the internal pool (05 R155) -/
  left : List Nat := []
  deriving DecidableEq, Repr, Inhabited

/-- The Trowel (08). -/
structure Trowel where
  enable : Bool := true
  rowMoves : Bool := true
  maxActive : Nat := 16
  ops : List BulkOp := []
  steps : List TStep := []
  scans : List Scan := []
  /-- internal operations waiting for an entry (08 R249) -/
  intWait : List (Node × Slot × Slot) := []
  /-- descriptors waiting at their ingress for a context (05 R155) -/
  extWait : List (Nat × Msg) := []
  nextOp : Nat := 1
  /-- row credits used: tick and count, over 1 us (08 R259) -/
  credits : List (Nat × Nat) := []
  opsDone : Nat := 0
  rowOps : Nat := 0
  streamLines : Nat := 0
  checkFallback : Nat := 0
  recalls : Nat := 0
  deriving DecidableEq, Repr, Inhabited

/-- Stages of the Primer pass (08 R269). -/
inductive PrimerSt where
  | idle | clones | check | done | suspended
  deriving DecidableEq, Repr, Inhabited

/-- The Primer pass (08 R268 to R273). -/
structure Primer where
  st : PrimerSt := .idle
  t0 : Nat := 0
  /-- since when it zeroes rows, and for how long it did so before a suspension (08 R269, R270) -/
  since : Nat := 0
  ran : Nat := 0
  /-- every row has been cloned -/
  cloned : Bool := false
  duration : Nat := 0
  rowsByLine : Nat := 0
  rowsFailed : Nat := 0
  deriving DecidableEq, Repr, Inhabited

/-! ## Integrity and the store room (09) -/

/-- An error-history entry (09 R281). -/
structure HistEnt where
  bank : Nat
  row : Nat
  line : Nat
  /-- symbols in error with their failing bits -/
  syms : List (Nat × BitVec 8)
  die : Nat
  fails : Nat
  firstMs : Nat
  perm : Bool
  deriving DecidableEq, Repr, Inhabited

/-- A verify or retry owed by a block (09 R279, R280, R282). -/
structure Verify where
  bank : Nat
  row : Nat
  line : Nat
  syms : List (Nat × BitVec 8)
  key : Nat
  /-- retry of an uncorrectable read, rather than a verify -/
  retry : Bool
  owner : Option ROwner
  /-- the corrected line still to be written back: order position of its read, data, poison, hint (09 R279) -/
  back : Option (Nat × Line × Bool × Bool) := none
  /-- the partial write or atomic, by order position, whose full-line write stands in for the write-back (09 R279) -/
  await : Option Nat := none
  /-- the read-back of a lost line's poisoned zeros (09 R282) -/
  readBack : Bool := false
  deriving DecidableEq, Repr, Inhabited

/-- Store-room state of a block (09 R287). -/
inductive SrState where
  | inService | freeSpare | migrating | retired
  deriving DecidableEq, Repr, Inhabited

/-- A block's store-room entry (09 R283, R287). -/
structure SrBlock where
  st : SrState := .inService
  noSpare : Bool := false
  tsvUsed : BitVec 8 := 0
  banksUsed : BitVec 4 := 0
  /-- signal TSV replaced by each spare, spare s in byte s, 0xFF unused -/
  tsvTarget : BitVec 64 := 0xFFFFFFFFFFFFFFFF
  retired : BitVec 72 := 0
  rowRepairs : BitVec 16 := 0
  colRepairs : BitVec 8 := 0
  /-- rows repaired: bank, row, spare row; columns repaired: bank, subarray, line position, spare column -/
  rowRep : List (Nat × Nat × Nat) := []
  colRep : List (Nat × Nat × Nat × Nat) := []
  hist : List HistEnt := []
  verify : List Verify := []
  /-- TSVs charged and not yet substituted: signal TSV and tick of the charge -/
  tsvDue : List (Nat × Nat) := []
  /-- rows and columns charged: (bank, row) and (bank, subarray, line) -/
  rowDue : List (Nat × Nat) := []
  colDue : List (Nat × Nat × Nat) := []
  /-- banks charged, with time in ms (09 R282) -/
  bankCharged : List (Nat × Nat) := []
  deriving DecidableEq, Repr, Inhabited

/-- What is being retired (09 R288): a bank of a physical block, or the block. -/
inductive RetUnit where
  | bank (pblock bank : Nat)
  | block (pblock : Nat)
  deriving DecidableEq, Repr, Inhabited

inductive MigSt where
  | idle | copy | switch
  deriving DecidableEq, Repr, Inhabited

/-- The migration of a region (09 R288): the queue's head is the one running when `st` is not idle. -/
structure Migr where
  st : MigSt := .idle
  queue : List RetUnit := []
  /-- target bank number, or target physical block -/
  target : Nat := 0
  /-- copy pointer: row, and bank of R31 for a block migration -/
  row : Nat := 0
  bank : Nat := 0
  ring : Bool := false
  /-- tick from which the next row waits for its copy (21 R529) -/
  copyAt : Nat := 0
  deriving DecidableEq, Repr, Inhabited

/-- The scrub pass (09 R293 to R295). -/
structure Scrub where
  start : Nat := 0
  count : Nat := 0
  rate : Nat := 0
  spares : Bool := false
  running : Bool := false
  complete : Bool := false
  /-- lines of the range reached, and position among spare lines -/
  pos : Nat := 0
  sparePos : Nat := 0
  t0 : Nat := 0
  lastAt : Nat := 0
  linesRead : Nat := 0
  corr1 : Nat := 0
  corr2 : Nat := 0
  corr3 : Nat := 0
  uncorr : Nat := 0
  elapsed : Nat := 0
  spareErrs : Nat := 0
  uncorrAddr : List Nat := []
  /-- regions whose lines were skipped, being stopped (09 R294) -/
  skipped : BitVec 4 := 0
  /-- poisoned keys seen per physical block during the pass (07 R225, 09 R294) -/
  seen : SMap (List Nat) := []
  lastAuto : Nat := 0
  deriving DecidableEq, Repr, Inhabited

/-- The store room (09 R283 to R296). -/
structure Store where
  seq : BitVec 32 := 0
  /-- SEQ of the record being written to the calibration store -/
  saving : Option (BitVec 32) := none
  unsaved : Bool := false
  changedAt : Nat := 0
  blocks : SMap SrBlock := []
  migr : SMap Migr := []
  scrub : Scrub := {}
  autoRetire : Bool := true
  scrubPeriod : BitVec 8 := 24
  scrubRate : BitVec 8 := 4
  deriving DecidableEq, Repr, Inhabited

/-! ## Regulator (10) -/

/-- A regulator entry is 64 bits as 10 R313 lays it out. -/
abbrev RegEntry := BitVec 64

/-- A master's buckets in quarter-bytes, deficit and counts (10 R304, R306, R316, R317). -/
structure RegMaster where
  guar : Int := 0
  ceil : Int := 0
  deficit : Nat := 0
  /-- bytes accepted in this window, in the last complete window; backlogged at every tick so far -/
  acc : Nat := 0
  accLast : Nat := 0
  backlog : Bool := true
  missed : Nat := 0
  lastC0 : Option Nat := none
  deriving DecidableEq, Repr, Inhabited

/-- Bulk-class fields (10 R315). -/
structure BulkCfg where
  min : BitVec 15 := 0
  ceilEn : Bool := false
  ceil : BitVec 15 := 0
  depth : BitVec 8 := 16
  deriving DecidableEq, Repr, Inhabited

/-- The regulator (10). -/
structure Regulator where
  masters : SMap RegEntry := []
  mastersSh : SMap RegEntry := []
  wclass : SMap (BitVec 2) := []
  wclassSh : SMap (BitVec 2) := []
  bulk : BulkCfg := {}
  bulkSh : BulkCfg := {}
  df : BitVec 16 := 16000
  dfWritten : Bool := false
  scale : Nat := 4096
  st : SMap RegMaster := []
  bulkSt : RegMaster := {}
  /-- tick to which the buckets have been advanced -/
  upTo : Nat := 0
  winStart : Nat := 0
  missed : BitVec 32 := 0
  holdSat : BitVec 32 := 0
  commits : BitVec 32 := 0
  refused : BitVec 32 := 0
  /-- per ingress: saturated since, occurrence counted, last event -/
  satSince : SMap (Option Nat) := []
  satCounted : SMap Bool := []
  satLast : SMap (Option Nat) := []
  deriving DecidableEq, Repr, Inhabited

/-! ## Access tables (11) -/

/-- A violation log record (11 R336). -/
structure ViolRec where
  node : Node
  opcode : BitVec 8
  target : Nat
  noMatch : Bool
  narrowed : Bool
  rule : Nat
  ingress : Nat
  addr : Nat
  time : Nat
  deriving DecidableEq, Repr, Inhabited

/-- Per-target counts and log (11 R335, R336). -/
structure ViolTgt where
  count : BitVec 32 := 0
  log : List ViolRec := []
  lastC0 : Option Nat := none
  deriving DecidableEq, Repr, Inhabited

/-- A commit between its check and its switch (11 R332, R333). -/
structure AccCommit where
  hatch : Option Nat
  bulkEnd : Bool
  /-- narrowed units: (region, unit) runs first .. last -/
  narrowed : List (Nat × Nat × Nat)
  deriving DecidableEq, Repr, Inhabited

/-- The access tables (11): rules keyed target * 256 + index, 128 bits each; groups keyed by node, 8 bits,
absent = NONE. -/
structure Access where
  rules : SMap (BitVec 128) := []
  groups : SMap (BitVec 8) := []
  rulesSh : SMap (BitVec 128) := []
  groupsSh : SMap (BitVec 8) := []
  baseCoat : Bool := true
  gen : BitVec 32 := 0
  commit : Option AccCommit := none
  /-- units narrowed while their region was stopped, scanned at its reset: region, first, last unit (21 R535) -/
  owed : List (Nat × Nat × Nat) := []
  viol : SMap ViolTgt := []
  /-- Strongroom's locked copy of FM_HATCH and its node (11 R329) -/
  fmHatch : BitVec 4 := 0
  fmNode : Node := 0xFF0
  deriving DecidableEq, Repr, Inhabited

/-! ## Faults (12) -/

/-- Fault classes (12 R340). -/
inductive FClass where
  | c0 | c1 | c2 | c3 | c4
  deriving DecidableEq, Repr, Inhabited

/-- Collector levels (12 R342, R343). -/
inductive FLevel where
  | cell | block | region | chip
  deriving DecidableEq, Repr, Inhabited

/-- A fault record (12 R343). -/
structure FaultRec where
  fid : BitVec 32
  cls : FClass
  first : FClass
  escalated : Bool
  acked : Bool
  level : FLevel
  region : BitVec 2
  element : BitVec 16
  code : BitVec 16
  count : BitVec 16
  lastDelta : BitVec 32
  time : BitVec 64
  detail : BitVec 64
  deriving DecidableEq, Repr, Inhabited

/-- An entry of the chip log: a record, and whether it is a copy of a lower collector's (12 R342). -/
structure LogEnt where
  r : FaultRec
  copy : Bool
  deriving DecidableEq, Repr, Inhabited

/-- Fault collection (12). -/
structure Faults where
  /-- lower collectors' records; a collector is the level and element -/
  slots : List FaultRec := []
  log : List LogEnt := []
  nextFid : BitVec 32 := 1
  stopped : BitVec 4 := 0
  halted : Bool := false
  /-- tick at which NODE_DOWN flits began: chip halt, full stack reset or scan entry -/
  haltAt : Nat := 0
  logOverflow : Bool := false
  lost : BitVec 8 := 0
  lastFid : BitVec 32 := 0
  /-- CW_FAULT_LAST: the latest record created or changed -/
  last : Option FaultRec := none
  secondPolicy : BitVec 2 := 0
  autoAck : BitVec 2 := 1
  /-- STACK_FATAL_N driven low -/
  fatalLow : Bool := false
  /-- lost-write list: region to (logical block, key) (12 R355) -/
  lostWrites : SMap (List (Nat × Nat)) := []
  /-- region resets in progress: region to the tick of their command (12 R356) -/
  resets : SMap (Option Nat) := []
  /-- rate limiters of C0 events: key to last tick -/
  limits : SMap (Option Nat) := []
  /-- C0 events counted by source: code to count (12 R341) -/
  c0Counts : SMap Nat := []
  deriving DecidableEq, Repr, Inhabited

/-! ## Heat (13) -/

/-- Source of a position's value (13 R387). -/
inductive TSource where
  | own | spare | model | failed
  deriving DecidableEq, Repr, Inhabited

/-- One sensor position (13 R363 to R371); values are signed sixteenths of a degree. -/
structure TPos where
  value : BitVec 16 := 0
  source : TSource := .own
  suspectNow : Bool := false
  suspectRun : Nat := 0
  badRun : Nat := 0
  /-- earlier samples, latest first: tick and value (13 R366) -/
  hist : List (Nat × BitVec 16) := []
  /-- warning already raised and not re-armed (13 R368) -/
  warned : Bool := false
  deriving DecidableEq, Repr, Inhabited

/-- STOP_STATE (13 R386). -/
inductive StopSt where
  | running | orderly | stopped | stoppedImm | resuming
  deriving DecidableEq, Repr, Inhabited

/-- A region's throttle (13 R372 to R375). -/
structure Throttle where
  t : Nat := 16
  pre : Bool := false
  lastDown : Option Nat := none
  /-- below the hold band since; rate below 1.5 since -/
  belowSince : Option Nat := none
  calmSince : Option Nat := none
  lastUp : Nat := 0
  lastC0 : Option Nat := none
  /-- placement window: number and lines placed (13 R372) -/
  win : Nat := 0
  placed : Nat := 0
  /-- region power over the last sample interval, in mW (13 R370) -/
  power : Nat := 0
  deriving DecidableEq, Repr, Inhabited

/-- A bond-wear interface (13 R383): bins in half-cycles and the rainflow residue, in sixteenths of a degree. -/
structure Wear where
  bin20 : BitVec 32 := 0
  bin40 : BitVec 32 := 0
  bin60 : BitVec 32 := 0
  turns : List Int := []
  passed : Nat := 0
  deriving DecidableEq, Repr, Inhabited

/-- Heat (13): positions 0 to 63 region sensors at 4i + r, 64 to 71 U0 to U7, 72 to 87 S0 to S15. -/
structure Heat where
  pos : SMap TPos := []
  /-- a die's spare has failed or is spent: 0 to 15, 16 Undercoat, 17 base (13 R371) -/
  spareBad : SMap Bool := []
  lastSample : SMap Nat := []
  zones : SMap Throttle := []
  stop : StopSt := .running
  baseStop : Bool := false
  stopAt : Nat := 0
  /-- all positions at or below the resume limits since -/
  coolSince : Option Nat := none
  resumeAt : Nat := 0
  hotDram : BitVec 16 := 0
  hotDie : BitVec 5 := 0
  hotRegion : BitVec 2 := 0
  hotBase : BitVec 16 := 0
  hotBasePos : BitVec 4 := 0
  maxRate : BitVec 16 := 0
  fuseOk : Bool := false
  storeOk : Bool := false
  wear : SMap Wear := []
  wearSaved : Nat := 0
  warnLimit : BitVec 8 := 95
  throttleLimit : BitVec 8 := 100
  resumeLimit : BitVec 8 := 95
  tMin : BitVec 5 := 2
  wearLimit20 : BitVec 32 := 200000
  wearLimit40 : BitVec 32 := 20000
  wearLimit60 : BitVec 32 := 2000
  deriving DecidableEq, Repr, Inhabited

/-! ## Vault, EEPROM and images (14) -/

/-- Region states (14 R397, R407). -/
inductive VState where
  | blank | openR | committed | defective | lockedIncomplete
  deriving DecidableEq, Repr, Inhabited

/-- The Vault as read (14 R390 to R400): fuse words at the tight margin and the extra bits of the loose one. -/
structure Vault where
  tight : SMap (BitVec 32) := [(3840, 0x80000001)]
  loose : SMap (BitVec 32) := [(3840, 0x80000001)]
  states : SMap VState := []
  prog : BitVec 20 := 0
  read : BitVec 20 := 0
  rollback : Bool := false
  fuseAll : Bool := false
  factory : Bool := false
  repairDeferred : Bool := false
  weak : BitVec 16 := 0
  masked : BitVec 16 := 0
  /-- words redirected or re-burned are in `tight`; remaps are the map words -/
  imgSlot : BitVec 8 := 2
  imgSeq : BitVec 32 := 0
  deriving DecidableEq, Repr, Inhabited

/-- A fuse command in progress (14 R403): the fuse words still to burn, each with its value and whether it ends a word
of the command; words done; the region or function it names; and the Hatch. -/
structure FuseJob where
  hatch : Nat
  opcode : Nat
  region : Nat
  words : List (Nat × BitVec 32 × Bool)
  burned : Nat
  deriving DecidableEq, Repr, Inhabited

/-- An image session (14 R412). -/
structure ImgSession where
  hatch : Nat
  written : Nat
  deriving DecidableEq, Repr, Inhabited

/-- A calibration-store record (14 R413, R414): sequence number in force and copy it lies in. -/
structure StoreRec where
  seq : BitVec 32 := 0
  copy : Nat := 1
  valid : Bool := false
  deriving DecidableEq, Repr, Inhabited

/-- An image command on the bus (14 R412): its Hatch, opcode and bytes done. -/
structure EeJob where
  hatch : Nat
  opcode : Nat
  done : Nat
  total : Nat
  deriving DecidableEq, Repr, Inhabited

/-- Persistent stores (14). -/
structure Images where
  /-- EEPROM bytes; an unlisted byte reads 0 in this list's form, see assumption log -/
  eeprom : ByteMem := []
  /-- the second EEPROM acknowledged at start-up (14 R405) -/
  two : Bool := false
  session : Option ImgSession := none
  eeJob : Option EeJob := none
  job : Option FuseJob := none
  storeRec : StoreRec := {}
  calRec : StoreRec := {}
  wearRec : StoreRec := {}
  deriving DecidableEq, Repr, Inhabited

/-! ## Calibration (15) -/

/-- TIMING of 15 R433. -/
inductive TimingSt where
  | locked | holdover | tdcFailed
  deriving DecidableEq, Repr, Inhabited

/-- A block's walk (15 R424 to R426). -/
structure Walk where
  /-- wire being walked and spare held -/
  wire : Option Nat := none
  spare : Nat := 0
  /-- next wire of a full walk in progress -/
  next : Option Nat := none
  lastFull : Nat := 0
  lastDone : Nat := 0
  lateRaised : Bool := false
  /-- wires a CA requalification has still to walk, its end, and the wire that moved most in it, with its movement (07 R227,
  15 R426) -/
  requal : List Nat := []
  requalEnd : Option Nat := none
  requalWorst : Option (Nat × Nat) := none
  /-- die values at the start of the last full walk -/
  temps : SMap (BitVec 16) := []
  takenAt : Nat := 0
  /-- LOOPBACK words still to be driven, die and on or off, and the delays measured, by line (15 R425) -/
  loops : List (Nat × Bool) := []
  pend : List (Nat × Nat) := []
  deriving DecidableEq, Repr, Inhabited

/-- Calibration (15). -/
structure Cal where
  timing : TimingSt := .locked
  /-- HOLDOVER is in force (also while the TDC has failed), and its periods: start and end (15 R419) -/
  holdover : Bool := false
  spans : List (Nat × Option Nat) := []
  refSel : Bool := false
  tdcLsb : BitVec 16 := 0
  holdovers : BitVec 32 := 0
  walkLate : BitVec 32 := 0
  walkSteps : BitVec 64 := 0
  coldUs : BitVec 32 := 0
  fullPath : Bool := false
  done : Bool := false
  t0 : Nat := 0
  walks : SMap Walk := []
  /-- delay selections in force: key ((block * 160 + wire) * 16 + die) * 2 + direction (15 R420, R422) -/
  sel : SMap (BitVec 14) := []
  /-- measured delay of a wire at a die and direction, in 1/1,024 ps, keyed as the selections (15 R425) -/
  meas : SMap (Option Nat) := []
  /-- measured delays of a line's 21 elements, in 1/1,024 ps (15 R421) -/
  elems : SMap (List Nat) := []
  /-- tick of the last TDC_LSB measurement (15 R418) -/
  tdcAt : Option Nat := none
  /-- content of Vault region 10, 0 where it is not COMMITTED (15 R429) -/
  region10 : Nat := 0
  /-- WIRE and DIE bytes of the record, TRIM words and SCALE (15 R430) -/
  wireV : SMap (BitVec 8) := []
  dieV : SMap (BitVec 8) := []
  trim : SMap (Option (BitVec 32)) := []
  scale : SMap (BitVec 16) := []
  calCount : BitVec 32 := 0
  /-- a stored value differs by 4 ps or more, or a trim has changed (15 R431) -/
  moved : Bool := false
  lastWrite : Nat := 0
  scaleAt : Nat := 0
  walkEn : Bool := true
  walkPeriod : BitVec 16 := 100
  walkTemp : BitVec 5 := 5
  calFull : Bool := false
  deriving DecidableEq, Repr, Inhabited

/-! ## Start-up, trust and reset (16) -/

/-- PHASE of 16 R455, with the times before BIST; a retaining reset before te, and from te on (16 R450). -/
inductive BootPhase where
  | off | pll | bist | vault | image | calibration | primer | released | retaining | retHeld | scan | halt
  deriving DecidableEq, Repr, Inhabited

/-- LARDER of 16 R455. -/
inductive LarderSt where
  | notStarted | running | restarting | stopped
  deriving DecidableEq, Repr, Inhabited

/-- Staged state of a firmware load (16 R440). -/
inductive Staged where
  | none | open_ | rejected | accepted
  deriving DecidableEq, Repr, Inhabited

/-- Larder's SRAM half: bytes and length of the image held. -/
structure FwHalf where
  bytes : ByteMem := []
  len : Nat := 0
  deriving DecidableEq, Repr, Inhabited

/-- A request the reset responder recorded (16 R450). -/
structure RespRec where
  src : Node
  tag : Tag
  op : Nat
  deriving DecidableEq, Repr, Inhabited

/-- SPDM STATE (16 R446). -/
inductive SpdmSt where
  | idle | busy | done | rejected
  deriving DecidableEq, Repr, Inhabited

/-- The SPDM buffer and connection (16 R446, R447). -/
structure Spdm where
  reqLen : BitVec 13 := 0
  st : SpdmSt := .idle
  owner : Node := 0
  rspLen : BitVec 13 := 0
  refused : BitVec 16 := 0
  req : ByteMem := []
  rsp : ByteMem := []
  /-- GET_VERSION has been answered on this connection -/
  begun : Bool := false
  lastAccess : Nat := 0
  deriving DecidableEq, Repr, Inhabited

/-- Boot and trust (16). -/
structure Boot where
  phase : BootPhase := .off
  /-- t0 of 16 R442 -/
  t0 : Nat := 0
  pwrGood : Bool := false
  stackRstN : Bool := true
  retRstN : Bool := true
  stackLowAt : Nat := 0
  retLowAt : Nat := 0
  /-- a rising edge of RET_RST_N came before te -/
  retRose : Bool := false
  larder : LarderSt := .notStarted
  fwPathFallback : Bool := false
  identReady : Bool := false
  slot0Ok : Bool := false
  svn : BitVec 7 := 0
  lastReset : BitVec 3 := 0
  retCount : BitVec 16 := 0
  wdog : BitVec 16 := 0
  fwDecided : Bool := false
  half0 : FwHalf := {}
  half1 : FwHalf := {}
  /-- which half runs; the other stages -/
  runHalf : Bool := false
  staged : Staged := .none
  /-- an open load: total bytes, the words received and the tick of the last FW_DATA -/
  total : Nat := 0
  got : List (Nat × Nat) := []
  lastData : Nat := 0
  /-- watchdog: last signal, restarts (16 R441) -/
  signalAt : Nat := 0
  restarts : List Nat := []
  /-- the boot ROM, key registers zero -/
  keysZero : Bool := true
  /-- identity modulus, opaque once derived -/
  identMod : BitVec 4096 := 0
  responder : List RespRec := []
  fwWait : BitVec 16 := 200
  /-- tick from which the wait for an image counts -/
  fwFrom : Nat := 0
  /-- FW_FALLBACK and CERT_CHAIN of the winning image: length and position in the EEPROM, in bits -/
  fallback : Option (Nat × Nat) := none
  chain : Option (Nat × Nat) := none
  chainBytes : ByteMem := []
  deriving DecidableEq, Repr, Inhabited

/-! ## Hatches, events and live configuration (17) -/

/-- Hatch STATE (17 R460). -/
inductive HatchSt where
  | idle | busy | done | frozen
  deriving DecidableEq, Repr, Inhabited

/-- A Hatch (17 R457 to R461).  `copy` is the executing command's request, `ringer` the ringing node; `result` the
status, payload, DONE and ERR_AT of a command that has run and is not yet answered; `waiting` marks a command whose
answer waits for a later step. -/
structure Hatch where
  st : HatchSt := .idle
  exec : Bool := false
  seq : BitVec 16 := 0
  rejected : BitVec 16 := 0
  req : ByteMem := []
  rsp : ByteMem := []
  copy : ByteMem := []
  ringer : Node := 0
  notify : Bool := false
  result : Option (Nat × List (BitVec 8) × Nat × Nat) := none
  waiting : Bool := false
  deriving DecidableEq, Repr, Inhabited

/-- An event record (17 R476). -/
structure EvtRec where
  eseq : BitVec 32
  cls : BitVec 3
  kind : BitVec 2
  level : BitVec 2
  region : BitVec 2
  element : BitVec 16
  code : BitVec 16
  count : BitVec 16
  fid : BitVec 32
  time : BitVec 64
  detail : BitVec 64
  deriving DecidableEq, Repr, Inhabited

/-- An event target (17 R473 to R475). -/
structure EvtTarget where
  cfg : BitVec 46 := 0
  cfgImg : BitVec 46 := 0
  head : BitVec 16 := 0
  tail : BitVec 16 := 0
  dropped : BitVec 16 := 0
  /-- records by index modulo 256 -/
  ring : SMap (Option EvtRec) := []
  /-- a record whose EVT waits for MGMT credits (17 R475) -/
  push : Option EvtRec := none
  lastDrop : Option Nat := none
  deriving DecidableEq, Repr, Inhabited

/-- Hatches, events and the configuration of 17 R479. -/
structure Mgmt where
  hatches : SMap Hatch := []
  hatchEn : BitVec 16 := 0xFFFF
  hatchNode : SMap Node := []
  evt : SMap EvtTarget := []
  eseq : BitVec 32 := 1
  /-- occurrences of a C0 (CODE, ELEMENT) since the last event posted for it (17 R476) -/
  occ : SMap Nat := []
  part : BitVec 32 := 0
  serial : BitVec 64 := 0
  lot : BitVec 32 := 0
  vout : BitVec 16 := 0
  vdd : BitVec 16 := 0
  /-- a lane test or other Hatch that holds a served-one-at-a-time object is named there -/
  routeCommit : Option Nat := none
  deriving DecidableEq, Repr, Inhabited

/-! ## Self-test (18) -/

/-- RESULT of a run (18 R488). -/
inductive TResult where
  | running | pass | fail | incomplete | deferred
  deriving DecidableEq, Repr, Inhabited

/-- Where a run stands (18 R489). -/
inductive TPhase where
  | waitUnit | copyIn | march | restore | bist | ended
  deriving DecidableEq, Repr, Inhabited

/-- A test run (18 R484 to R495). -/
structure TestRun where
  id : Nat
  kind : Nat
  pblock : Nat
  bank : Nat
  firstSa : Nat
  countSa : Nat
  result : TResult
  phase : TPhase
  coverage : Nat
  startAt : Nat
  durUs : Nat
  sigM : BitVec 64
  steps : Nat
  expected : Nat
  /-- checkpoint of M and STEPS -/
  ckM : BitVec 64
  ckSteps : Nat
  unit : Option Nat
  /-- the run's steps within the present subarray -/
  saStep : Nat
  /-- ends or defers after its restore (18 R494, R495) -/
  endWith : Option TResult
  forced : Bool
  deferSince : Option Nat
  deferTotal : Nat
  /-- locations (row, line) that mismatched once in this run -/
  mism : List (Nat × Nat)
  /-- tick from which its next step waits (21 R529) -/
  stepAt : Nat
  /-- a location's charge led to the retirement of its bank (18 R491) -/
  charged : Bool
  deriving DecidableEq, Repr, Inhabited

/-- Self-test (18). -/
structure Tests where
  runs : List TestRun := []
  startup : Option TestRun := none
  nextId : Nat := 1
  /-- the conditions of R494 have held since -/
  condSince : Option Nat := none
  istMax : BitVec 3 := 4
  deferLimit : BitVec 12 := 60
  deriving DecidableEq, Repr, Inhabited

/-! ## Counting and sampling (19) -/

/-- A sampled transaction that is open (19 R506, R507). -/
structure Sample where
  tag : Tag
  node : Node
  ingress : Nat
  agentV : Bool
  agent : Nat
  opcode : Nat
  cls : Nat
  region : Nat
  served : Nat
  addr : Nat
  len : Nat
  t0 : Nat
  t1 : Nat
  t2 : Nat
  t3 : Nat
  deriving DecidableEq, Repr, Inhabited

/-- Counting and sampling (19). -/
structure Perf where
  cnt : SMap (BitVec 48) := []
  /-- EVENT, QUAL, CHAIN and BAD in bits 15..0 -/
  sel : SMap (BitVec 16) := []
  run : BitVec 8 := 0xFF
  stopFull : Bool := false
  /-- image values of the selections, CW_PERF_CTL and sampling, to which te of R450 returns (19 R509) -/
  selImg : SMap (BitVec 16) := []
  runImg : BitVec 8 := 0xFF
  stopImg : Bool := false
  nImg : BitVec 32 := 4096
  ctlImg : BitVec 8 := 0
  ovf0 : BitVec 64 := 0
  ovf1 : BitVec 64 := 0
  /-- changes for the next tick boundary: selections, values, CLEAR_ALL (19 R500, R504) -/
  selNext : List (Nat × BitVec 16) := []
  cntNext : List (Nat × BitVec 48) := []
  clearNext : Bool := false
  /-- occurrences of this tick not yet counted: event, group, qualifier, how many (19 R500) -/
  occ : List (Nat × Nat × Nat × Nat) := []
  next : BitVec 12 := 0
  valid : BitVec 13 := 0
  lost : BitVec 32 := 0
  sampled : BitVec 64 := 0
  n : BitVec 32 := 4096
  ctl : BitVec 8 := 0
  countdown : Nat := 4096
  lfsr : BitVec 32 := 1
  /-- transactions the countdown chose and whose sampling is to be carried out (19 R505) -/
  due : List Sample := []
  open_ : List Sample := []
  trace : SMap (Option (Sample × Nat × Nat)) := []
  deriving DecidableEq, Repr, Inhabited

/-! ## Two-wire controller (20) -/

/-- What a two-wire transaction does. -/
inductive TwKind where
  | voutMode
  | voutCommand (mv : Nat)
  | statusWord
  | readVout
  | eeWrite (addr : Nat) (data : List (BitVec 8))
  | eeRead (addr len : Nat)
  | sensor (i : Nat) (wr : List (BitVec 8)) (rd : Nat)
  deriving DecidableEq, Repr, Inhabited

/-- Who asked for a transaction. -/
inductive TwFor where
  | stack
  | storeRoom
  | calibration
  | wear
  | hatch (n : Nat)
  | larder
  deriving DecidableEq, Repr, Inhabited

/-- A two-wire transaction: class 1 to 5 (20 R515), attempts made, the 7-bit address. -/
structure TwTrans where
  cls : Nat
  kind : TwKind
  who : TwFor
  addr : Nat
  attempts : Nat
  /-- its device has not acknowledged the address yet, and is polled (20 R516) -/
  unsent : Bool := false
  deriving DecidableEq, Repr, Inhabited

/-- The two-wire controller (20). -/
structure TwoWire where
  waiting : List TwTrans := []
  cur : Option TwTrans := none
  /-- EEPROM devices in a write cycle: the page, or a transaction that waits for the cycle; tick of the first
  not-acknowledge, tick of the last poll (20 R516) -/
  polls : List (TwTrans × Option Nat × Nat) := []
  /-- idle wait after a conflict: since and start of the wait (20 R517) -/
  idleSince : Option (Nat × Nat) := none
  /-- a stretch of the clock reached 10 ms then -/
  stretch : Option Nat := none
  stuck : Bool := false
  alertC0 : Option Nat := none
  lastVoutCmd : Option Nat := none
  voutMode : Option (BitVec 8) := none
  lastPoll : Nat := 0
  /-- bytes of the last read answered to Larder firmware -/
  larderRead : List (BitVec 8) := []
  speed : BitVec 2 := 2
  /-- speed of the start-up reads (20 R512) -/
  bootSpeed : BitVec 2 := 2
  page : BitVec 2 := 2
  regEn : Bool := true
  regAddr : BitVec 7 := 0x40
  regPec : Bool := true
  sensorEn : BitVec 4 := 0
  sensorAddr : SMap (BitVec 7) := []
  deriving DecidableEq, Repr, Inhabited

/-! ## Fabric lanes and links (03, 04) -/

/-- Receiver state of a lane (03 R88 to R93). -/
inductive LaneSt where
  | off | search | patternSync | qualified | quiet | dark | test | failed
  deriving DecidableEq, Repr, Inhabited

/-- A pattern test on a lane (03 R110 to R112); `before` is the receiver's state as it began. -/
structure LaneTest where
  hatch : Nat
  params : List (BitVec 8)
  start : Nat
  before : LaneSt := .off
  bits : Nat
  errors : Nat
  resyncs : Nat
  binErr : SMap Nat
  deriving DecidableEq, Repr, Inhabited

/-- One physical lane of a fabric port, both directions (03 R88 to R108). -/
structure Lane where
  st : LaneSt := .off
  /-- profile of its pattern sync, and the tick of its last sync symbol (03 R90, R92) -/
  prof : Nat := 0
  syncAt : Nat := 0
  /-- the search, which goes on whether or not the lane is locked: pattern, sync symbols at their spacing, good status
  words among them, tick of the last one (03 R90) -/
  candProf : Nat := 0
  syncs : Nat := 0
  goodWords : Nat := 0
  candAt : Nat := 0
  /-- sync positions in a row that carried another pattern, and status words in a row with a bad CRC (03 R92) -/
  missed : Nat := 0
  badWords : Nat := 0
  /-- pre-FEC estimate, in the unit of R108 -/
  prefec : BitVec 16 := 0
  evm : BitVec 8 := 0xFF
  /-- frequency estimate in hundredths of a ppm, and timing estimate (03 R93) -/
  freq : Int := 0
  timing : Int := 0
  /-- TABLE_TAG of the last good status word, and the TX_PROF it came with (03 R86, R89) -/
  tagRemote : BitVec 8 := 0
  tagProf : Nat := 0
  corrected : Nat := 0
  lockLosses : Nat := 0
  staleWakes : Nat := 0
  /-- SNRs of each bin at the last 64 sync symbols, latest first (03 R100) -/
  snr : List (List (BitVec 8)) := []
  /-- one-tap corrections of each bin at the last eight sync symbols, latest first (03 R93) -/
  taps : List (List (Int × Int)) := []
  degradedSince : Option Nat := none
  degraded : Bool := false
  lostSince : Option Nat := none
  /-- the loss is that of a stale wake, which has its own event (03 R105, R113) -/
  stale : Bool := false
  /-- copies of the marker being received, good ones among them, its pattern, and the tick of the last copy (03 R88) -/
  copies : Nat := 0
  markers : Nat := 0
  lastMarker : Nat := 0
  markerAt : Nat := 0
  test : Option LaneTest := none
  deriving DecidableEq, Repr, Inhabited

/-- A symbol that a direction sends (03 R80, R87, R88): its place in the frame, the sync or marker pattern it carries
(none: data, or pilots only), the bits the scrambler had passed, the data bits by logical lane, and the spare lane that
carries a WAKE marker in its place (04 R134). -/
structure TxSym where
  t : Nat
  n : Option Nat
  pos : Nat
  bits : List (List Bool)
  mark : Option Nat := none
  /-- bits that a lane's scrambler has not passed in this frame -/
  lag : SMap Nat := []
  deriving DecidableEq, Repr, Inhabited

/-- The symbol stream of a transmit direction (03 R77, R80, R101; 04 R116). -/
structure TxStream where
  /-- place of the next symbol in its frame, 0 the sync symbol, and the tick at which it stands there -/
  sym : Nat := 0
  at_ : Nat := 0
  /-- bits the scrambler has passed in this frame -/
  pos : Nat := 0
  /-- bits of the codeword in progress not yet in a symbol, by logical lane -/
  part : List (List Bool) := []
  /-- four WAKE markers, after which codeword 0 starts, are to be sent (04 R116) -/
  wakeDue : Bool := false
  /-- WAKE markers to send on a spare lane: lane and how many (04 R134) -/
  marks : Option (Nat × Nat) := none
  /-- bits that a lane's scrambler has not passed in this frame for its markers -/
  lag : SMap Nat := []
  /-- the symbols last sent -/
  out : List TxSym := []
  deriving DecidableEq, Repr, Inhabited

/-- Bring-up state of a direction pair (03 R94). -/
inductive BringSt where
  | off | search | acked | restore | up | testHold
  deriving DecidableEq, Repr, Inhabited

/-- Power state of a direction (03 R101). -/
inductive DirPower where
  | active | quiet | dark
  deriving DecidableEq, Repr, Inhabited

/-- Link state of a fabric port (04 R124). -/
inductive FpState where
  | down | init | active | halted
  deriving DecidableEq, Repr, Inhabited

/-- A lane substitution in progress (04 R134). -/
structure LaneSubst where
  logical : Nat
  failed : Nat
  spare : Nat
  since : Nat
  deriving DecidableEq, Repr, Inhabited

/-- A fabric port (03, 04). -/
structure FabPort where
  st : FpState := .down
  link : Link := {}
  seen : Bool := false
  partnerSeen : Bool := false
  sentSeen : Bool := false
  partnerNode : Node := 0
  /-- physical lane of logical lane i, receive direction; transmit direction (04 R132) -/
  laneMap : List Nat := [0, 1, 2, 3]
  txMap : List Nat := [0, 1, 2, 3]
  spare : Option Nat := some 4
  txSpare : Option Nat := some 4
  failedLanes : List Nat := []
  subst : Option LaneSubst := none
  /-- the partner asked: markers owed on this spare -/
  txSubst : Option LaneSubst := none
  allot : Nat := 1024
  allotFree : Nat := 1024
  allotQ : List AllotReq := []
  /-- a lower F_ALLOT that waits (17 R470) -/
  allotNext : Option Nat := none
  bring : BringSt := .off
  /-- own transmit profile T, saved T, and flags (03 R94) -/
  txProf : Nat := 0
  savedT : Nat := 0
  restoreFlag : Bool := false
  best : Option Nat := none
  linkUp : Bool := false
  partnerUp : Bool := false
  /-- partner's TX_PROF, RX_PROF and consecutive status words that do not acknowledge T (03 R89, R94) -/
  partnerTx : Nat := 0
  partnerRx : Nat := 0
  /-- receive profile in force since the handover (03 R98) -/
  rxProf : Nat := 0
  partnerBest : Option Nat := none
  /-- RX_LOCK_MAP of the partner's latest status word, and of its first with LINK_UP = 1 (04 R133) -/
  partnerLock : BitVec 5 := 0
  partnerMap : Option (BitVec 5) := none
  /-- RX_LOCK_MAP reported from the first status word with LINK_UP = 1 until ACTIVE (04 R133) -/
  ownLock : Option (BitVec 5) := none
  stepAt : Option Nat := none
  restoreAt : Option Nat := none
  bringAt : Nat := 0
  bringRaised : Bool := false
  tagRaised : Bool := false
  unacked : Nat := 0
  lanes : SMap Lane := []
  txPower : DirPower := .active
  rxPower : DirPower := .active
  /-- exit in progress: its length and its start; in Dark, 0 and the start of the DARK markers -/
  txChange : Option (Nat × Nat) := none
  stream : TxStream := {}
  lastTx : Nat := 0
  quietSince : Nat := 0
  /-- retained receiver state: temperature and tick at which the receiver powered down (03 R102, R105) -/
  retained : Option (BitVec 16) := none
  darkAt : Nat := 0
  /-- tick at which the far pilots stop, after DARK markers acted upon (03 R102) -/
  darkDue : Option Nat := none
  wakeAt : Option Nat := none
  crcBad : Nat := 0
  hopDiscards : Nat := 0
  activeSince : Nat := 0
  /-- configuration of 03 R85 -/
  enable : Bool := true
  maxProfile : BitVec 2 := 0
  load1 : List (BitVec 16) := []
  load2 : List (BitVec 16) := []
  load3 : List (BitVec 16) := []
  /-- taps 0 upward; taps past the list are 0 -/
  filter : List (BitVec 12) := [0x400]
  quietEn : Bool := true
  quietTimer : BitVec 16 := 256
  darkEn : Bool := false
  darkTimer : BitVec 16 := 1000
  /-- the codeword last driven -/
  wire : Option (BitVec 3400) := none
  deriving DecidableEq, Repr, Inhabited

/-- The base-coat routing table (04 R135) with STACK_NODE 0x000 and the agents' nodes 0xFF0 to 0xFFF: local 0x35,
Wide Port 0x34; every other node reads drop 0x36, each with ALTERNATE none. -/
def baseRoutes : SMap (BitVec 16) :=
  [(0, 0x35), (0xFF0, 0x34), (0xFF1, 0x34), (0xFF2, 0x34), (0xFF3, 0x34), (0xFF4, 0x34), (0xFF5, 0x34), (0xFF6, 0x34),
   (0xFF7, 0x34), (0xFF8, 0x34), (0xFF9, 0x34), (0xFFA, 0x34), (0xFFB, 0x34), (0xFFC, 0x34), (0xFFD, 0x34),
   (0xFFE, 0x34), (0xFFF, 0x34)]

/-- The base-coat map (04 R140): one window, 256 GiB, one way, granule 1 MiB, NODE_BASE STACK_NODE, tracked coherent. -/
def baseWindows : SMap (BitVec 128) := [(0, 0x1FE00000000301)]

/-- Routing, map and forwarding (04 R135 to R143): routes 16 bits each, absent = the entry routed to drop with no
alternate; windows 128 bits each, absent = 0. -/
structure Fabric where
  routes : SMap (BitVec 16) := baseRoutes
  routesSh : SMap (BitVec 16) := baseRoutes
  windows : SMap (BitVec 128) := baseWindows
  windowsSh : SMap (BitVec 128) := baseWindows
  /-- entries in ALT_IN_USE (04 R137) -/
  altUse : SMap Bool := []
  /-- a commit whose recall runs (04 R142) -/
  committing : Bool := false
  stackNode : Node := 0
  hopLimit : BitVec 6 := 16
  fmHatch : BitVec 4 := 0
  unreachReq : Nat := 0
  unreachOther : Nat := 0
  hopDiscards : Nat := 0
  addrErrs : Nat := 0
  agentEn : BitVec 16 := 0xFFFF
  agentNode : SMap Node := []
  wpEnable : Bool := true
  idleEn : Bool := true
  idleTimer : BitVec 16 := 64
  parkPolicy : BitVec 2 := 0
  parkTimer : BitVec 16 := 1000
  deriving DecidableEq, Repr, Inhabited

/-! ## Configuration fields with no unit of their own, rails and pins (01, 05, 06, 07, 22) -/

/-- Values in force of the remaining finish-image fields. -/
structure Cfg where
  regions : BitVec 2 := 2
  snoopTimeout : BitVec 16 := 1000
  dataTimeout : BitVec 16 := 1000
  eGrant : Bool := true
  ucEnable : Bool := true
  dirSize : BitVec 2 := 2
  shadowUnits : BitVec 5 := 4
  wrAlloc : Bool := true
  rowFill : Bool := false
  sweepShare : BitVec 4 := 4
  idleTimer : BitVec 11 := 200
  hitCap : BitVec 7 := 16
  ageLimit : BitVec 16 := 1000
  wrHigh : BitVec 7 := 80
  wrLow : BitVec 7 := 48
  deriving DecidableEq, Repr, Inhabited

/-- Rails and pins (22 R547, R548, R558, R559). -/
structure Pins where
  /-- rails out of range now: 0 VDD_ARRAY, 1 VPP, 2 VDDQ_W, 3 VDDA_F, 4 VDDH_F -/
  railOut : SMap Bool := []
  thermLow : Bool := false
  /-- every output released (22 R547) -/
  released : Bool := true
  /-- test port instruction register, and the IEEE 1838 chain: dies selected -/
  ir : BitVec 8 := 1
  chain : BitVec 18 := 0
  /-- instruction registers of the secondary ports: 1 the Undercoat, 2 to 17 D0 to D15 -/
  dieIr : SMap (BitVec 8) := []
  deriving DecidableEq, Repr, Inhabited

/-! ## The state -/

/-- The whole state of the block. -/
structure State where
  /-- commands waiting, first in, first out -/
  pending : List Instr
  /-- tick of the timing unit, from cold power-on (01 R25) -/
  now : Nat
  /-- the model's own counter of free values taken (no state of the spec) -/
  free : Nat
  cfg : Cfg
  pins : Pins
  pace : Pace
  remap : Remap
  wp : WidePort
  fp : SMap FabPort
  fab : Fabric
  tx : Tx
  uc : Uc
  blocks : SMap Block
  /-- DRAM codeword bytes: key ((((pblock * 68 + bank) * 65536 + row) * 32 + line) * 128 + byte (07 R217, 09 R275) -/
  dram : ByteMem
  trowel : Trowel
  primer : Primer
  store : Store
  reg : Regulator
  acc : Access
  faults : Faults
  heat : Heat
  vault : Vault
  img : Images
  cal : Cal
  boot : Boot
  spdm : Spdm
  mg : Mgmt
  test : Tests
  perf : Perf
  tw : TwoWire
  deriving DecidableEq, Repr, Inhabited

/-- The machine right after reset: before power is good, every register at its reset value or base-coat default, no
record, no context, no message, memory with nothing listed. -/
def State.reset : State :=
  { pending := [], now := 0, free := 0, cfg := {}, pins := {}, pace := {}, remap := {}, wp := {}, fp := [], fab := {},
    tx := {}, uc := {}, blocks := [], dram := [], trowel := {}, primer := {}, store := {}, reg := {}, acc := {},
    faults := {}, heat := {}, vault := {}, img := {}, cal := {}, boot := {}, spdm := {}, mg := {}, test := {},
    perf := {}, tw := {} }

/-- Why a step stops with a fault: the spec gives every command of the block an effect, and none stops it. -/
inductive Fault where
  deriving DecidableEq, Repr

/-- Why a step is refused. -/
inductive Refusal where
  /-- a command without a meaning yet; raised by the arms of `exec` only; safe: it stops a run and proves nothing -/
  | notModelled (mnemonic : String)
  deriving DecidableEq, Repr

end Sys2Proof.Machine
end

