-- ==== Sys2Proof/Machine/Nimras.lean ====
section
/-! DEFINITION. Nimras messages: opcodes, classes and header fields (05 R145 to R153). -/

namespace Sys2Proof.Machine

/-! ## Opcodes (05 R145) -/

def opRdShared : Nat := 0x01
def opRdOwn : Nat := 0x02
def opClaim : Nat := 0x03
def opRdCur : Nat := 0x04
def opRdLong : Nat := 0x05
def opEvictClean : Nat := 0x06
def opWr : Nat := 0x10
def opWrLong : Nat := 0x11
def opWrback : Nat := 0x12
def opAtomic : Nat := 0x13
def opBulk : Nat := 0x20
def opSnpInv : Nat := 0x30
def opSnpShare : Nat := 0x31
def opCmp : Nat := 0x40
def opSnpRsp : Nat := 0x41
def opGack : Nat := 0x42
def opBulkCmp : Nat := 0x43
def opRspData : Nat := 0x50
def opSnpRspd : Nat := 0x51
def opMgRd : Nat := 0x60
def opMgWr : Nat := 0x61
def opMgRsp : Nat := 0x62
def opMgData : Nat := 0x63
def opEvt : Nat := 0x64

/-- Message classes by the codes of 02 R52: 0 REQ, 1 SNP, 2 RSP, 3 DATA, 4 BULK, 5 MGMT. -/
def opClass (op : Nat) : Nat :=
  if op ≤ 0x06 then 0
  else if op ≤ 0x13 then 3
  else if op = 0x20 then 4
  else if op = 0x30 ∨ op = 0x31 then 1
  else if op = 0x50 ∨ op = 0x51 then 3
  else if op < 0x50 then 2
  else 5

/-- The opcodes of 05 R145. -/
def opKnown (op : Nat) : Bool :=
  [0x01, 0x02, 0x03, 0x04, 0x05, 0x06, 0x10, 0x11, 0x12, 0x13, 0x20, 0x30, 0x31, 0x40, 0x41, 0x42, 0x43, 0x50, 0x51,
   0x60, 0x61, 0x62, 0x63, 0x64].contains op

/-- Opcodes a requester sends. -/
def opIsRequest (op : Nat) : Bool :=
  (1 ≤ op && op ≤ 6) || (0x10 ≤ op && op ≤ 0x13) || op == 0x20 || op == 0x60 || op == 0x61

/-- Opcodes with a second header slot. -/
def opTwoSlots (op : Nat) : Bool := [0x10, 0x11, 0x13, 0x20, 0x43, 0x50].contains op

/-! ## Fields of the first slot (05 R147, R148) -/

def hOp (h : Slot) : Nat := (h.extractLsb' 0 8).toNat
def hHops (h : Slot) : Nat := (h.extractLsb' 8 6).toNat
def hSrc (h : Slot) : Node := h.extractLsb' 16 12
def hDst (h : Slot) : Node := h.extractLsb' 28 12
def hTag (h : Slot) : Tag := h.extractLsb' 40 16
def hStatus (h : Slot) : Nat := (h.extractLsb' 56 4).toNat
/-- ADDR, a line address FA[52:6]. -/
def hAddr (h : Slot) : Nat := (h.extractLsb' 64 47).toNat
def hLen (h : Slot) : Nat := (h.extractLsb' 111 6).toNat
def hWbp (h : Slot) : BitVec 4 := h.extractLsb' 111 4
def hLast (h : Slot) : Bool := h.getLsbD 117
def hPoison (h : Slot) : Bool := h.getLsbD 118
def hBop (h : Slot) : Nat := (h.extractLsb' 117 3).toNat
def hDirty (h : Slot) : BitVec 4 := h.extractLsb' 117 4
def hPmask (h : Slot) : BitVec 4 := h.extractLsb' 121 4
def hMoff (h : Slot) : Nat := (h.extractLsb' 64 24).toNat
def hSize (h : Slot) : Nat := (h.extractLsb' 88 3).toNat

def withHops (h : Slot) (n : Nat) : Slot := setField h 8 6 n
def withSrc (h : Slot) (n : Node) : Slot := setField h 16 12 n.toNat
def withDst (h : Slot) (n : Node) : Slot := setField h 28 12 n.toNat

/-! ## Fields of the second slot (05 R149) -/

def hBe (h1 : Slot) : BitVec 64 := h1.extractLsb' 0 64
def hWrPoison (h1 : Slot) : Bool := h1.getLsbD 64
def hAop (h1 : Slot) : Nat := (h1.extractLsb' 0 4).toNat
def hAsize (h1 : Slot) : Nat := (h1.extractLsb' 4 3).toNat
def hAoff (h1 : Slot) : Nat := (h1.extractLsb' 7 6).toNat
def hSrcAddr (h1 : Slot) : Nat := (h1.extractLsb' 0 47).toNat
def hCount (h1 : Slot) : Nat := (h1.extractLsb' 64 32).toNat

/-- Data lines that follow a header (05 R145). -/
def dataLines (h0 : Slot) : Nat :=
  let op := hOp h0
  if op = 0x11 ∨ op = 0x50 then hLen h0 + 1
  else if op = 0x51 then popCount (hDirty h0).toNat 4
  else if op = 0x10 ∨ op = 0x12 ∨ op = 0x13 ∨ op = 0x61 ∨ op = 0x63 ∨ op = 0x64 then 1
  else 0

/-! ## Field checks (05 R148, R149, R151, R159) -/

/-- The bits of the first slot above 63 to which an opcode gives a meaning; every other must be 0. -/
def hUsedHigh (op : Nat) : Nat :=
  let addr := (2 ^ 47 - 1) * 2 ^ 64
  let len := 0x3F * 2 ^ 111
  if op = 0x05 ∨ op = 0x11 then addr + len
  else if op = 0x06 then addr + 2 ^ 117
  else if op = 0x12 then addr + 2 ^ 117 + 2 ^ 118
  else if op = 0x20 then addr + 7 * 2 ^ 117
  else if op = 0x41 then addr + 0xF * 2 ^ 111
  else if op = 0x51 then addr + 0xF * 2 ^ 111 + 0xF * 2 ^ 117 + 0xF * 2 ^ 121
  else if 0x60 ≤ op ∧ op ≤ 0x63 then (2 ^ 24 - 1) * 2 ^ 64 + 7 * 2 ^ 88
  else if op = 0x64 then 7 * 2 ^ 64
  else if op = 0x40 then addr + 3 * 2 ^ 111
  else if op = 0x50 then addr + len + 3 * 2 ^ 117
  else if op = 0x30 then addr + 0xF * 2 ^ 117 + 2 ^ 121
  else if op = 0x31 then addr + 0xF * 2 ^ 117
  else addr

/-- Opcodes that carry STATUS (05 R147). -/
def opHasStatus (op : Nat) : Bool := [0x40, 0x43, 0x50, 0x62, 0x63].contains op

/-- Reserved bits of the first slot are 0. -/
def h0Clean (h : Slot) : Bool :=
  let low := 0x3FFF + (2 ^ 40 - 1) * 2 ^ 16 + (if opHasStatus (hOp h) then 0xF * 2 ^ 56 else 0)
  let ok := low + hUsedHigh (hOp h)
  (h.toNat &&& (2 ^ 128 - 1 - ok)) == 0

/-- Field checks of a request, true when it is not MALFORMED (05 R148, R149, R151, R159, R161).  R150 says that the bytes
of an MG_WR past its words are 0 and not what follows when they are not: they count as a reserved field (DESIGN CHOICE,
log 185). -/
def fieldsOk (m : Msg) : Bool :=
  let op := hOp m.h0
  let h1 := m.h1
  h0Clean m.h0 &&
  (if op = 0x10 then hBe h1 ≠ 0 && (h1.toNat >>> 65) == 0
   else if op = 0x11 then (h1.toNat >>> (hLen m.h0 + 1)) == 0
   else if op = 0x13 then
     let sz := hAsize h1
     (h1.toNat >>> 13) == 0 && hAop h1 ≤ 9 && sz ≤ 4 && hAoff h1 % 2 ^ sz == 0
       && (sz ≤ 3 || hAop h1 == 1 || hAop h1 == 2)
   else if op = 0x20 then
     let bop := hBop m.h0
     bop ≤ 4 && hCount h1 ≠ 0 && (h1.toNat &&& (2 ^ 128 - 1 - ((2 ^ 47 - 1) + (2 ^ 32 - 1) * 2 ^ 64))) == 0
       && (bop ≠ 2 && bop ≠ 4 || hSrcAddr h1 == 0)
   else if op = 0x60 ∨ op = 0x61 then
     hMoff m.h0 % 8 == 0 && hMoff m.h0 % 64 + 8 * (hSize m.h0 + 1) ≤ 64
       && (op == 0x60 || m.data.all (fun l => (l.toNat >>> (64 * (hSize m.h0 + 1))) == 0))
   else h1 == 0)

/-- Field checks of a snoop response (05 R148, R151). -/
def snpFieldsOk (m : Msg) : Bool :=
  let op := hOp m.h0
  h0Clean m.h0 && hAddr m.h0 % 4 == 0 &&
  (if op = 0x41 then hDirty m.h0 == 0 && hPmask m.h0 == 0
   else hDirty m.h0 ≠ 0 && (hPmask m.h0 &&& ~~~ hDirty m.h0) == 0
     && m.data.length == popCount (hDirty m.h0).toNat 4)

/-- Bytes of a data line from byte n on are 0. -/
def zeroFrom (m : Msg) (n : Nat) : Bool := m.data.all (fun l => (l.toNat >>> (8 * n)) == 0)

/-- Field checks of a message that is no request and no snoop response: responses, events and snoops, which the stack is
sent by mistake (05 R147 to R151, R153). -/
def rspFieldsOk (m : Msg) : Bool :=
  let op := hOp m.h0
  h0Clean m.h0 && hStatus m.h0 ≤ 8 &&
  (if op = 0x40 then ((m.h0.extractLsb' 111 2) != 3)
   else if op = 0x50 then ((m.h0.extractLsb' 117 2) != 3) && (m.h1.toNat >>> (hLen m.h0 + 1)) == 0
   else if op = 0x43 then (m.h1.toNat >>> 96) == 0
   else if op = 0x62 ∨ op = 0x63 then
     hMoff m.h0 % 8 == 0 && hMoff m.h0 % 64 + 8 * (hSize m.h0 + 1) ≤ 64 && zeroFrom m (8 * (hSize m.h0 + 1))
   else if op = 0x64 then zeroFrom m 32
   else if op = 0x30 ∨ op = 0x31 then hAddr m.h0 % 4 == 0 && hDirty m.h0 ≠ 0
   else true)

/-! ## Headers the stack sends -/

/-- First slot of a message from the stack (05 R147): opcode, hops, source, destination, tag, status, line address. -/
def mkH0 (op hops : Nat) (src dst : Node) (tag : Tag) (status addr : Nat) : Slot :=
  BitVec.ofNat 128 (op + hops % 64 * 2 ^ 8 + src.toNat * 2 ^ 16 + dst.toNat * 2 ^ 28 + tag.toNat * 2 ^ 40
    + status % 16 * 2 ^ 56 + addr % 2 ^ 47 * 2 ^ 64)

/-- Status codes (05 R153). -/
def stOk : Nat := 0
def stRetry : Nat := 1
def stPoisoned : Nat := 2
def stDenied : Nat := 3
def stAddrErr : Nat := 4
def stUnreach : Nat := 5
def stMalformed : Nat := 6
def stClassErr : Nat := 7
def stRegionDown : Nat := 8

/-- Rights of 11 R320 as a 5-bit set: 1 READ, 2 WRITE, 4 ATOMIC, 8 CACHEABLE, 16 BULK.  Rights an opcode needs on the
line or lines it addresses (05 R162). -/
def opRights (op : Nat) : Nat :=
  if op = 0x01 then 1 + 8
  else if op = 0x02 ∨ op = 0x03 then 1 + 2 + 8
  else if op = 0x04 ∨ op = 0x05 then 1
  else if op = 0x06 then 8
  else if op = 0x12 then 2 + 8
  else if op = 0x10 ∨ op = 0x11 then 2
  else if op = 0x13 then 4
  else if op = 0x60 then 1
  else if op = 0x61 then 2
  else 16

/-- Whether an opcode is legal in an address class (05 R162). -/
def opLegalIn (op : Nat) (c : AClass) : Bool :=
  match c with
  | .bulk => op == 0x04 || op == 0x05 || op == 0x10 || op == 0x11 || op == 0x13 || op == 0x20
  | _ => true

/-- Opcodes that need the directory (05 R163). -/
def opNeedsDir (op : Nat) : Bool := op == 0x01 || op == 0x02 || op == 0x03 || op == 0x06 || op == 0x12

/-! ## Atomics (05 R159) -/

/-- New value of an operand of `sz` bytes. -/
def atomicNew (aop sz : Nat) (old opnd cmpd : Nat) : Nat :=
  let w := 8 * sz
  let o := old % 2 ^ w
  let x := opnd % 2 ^ w
  let so : Int := (BitVec.ofNat w o).toInt
  let sx : Int := (BitVec.ofNat w x).toInt
  if aop = 0 then (o + x) % 2 ^ w
  else if aop = 1 then x
  else if aop = 2 then (if o = cmpd % 2 ^ w then x else o)
  else if aop = 3 then o &&& x
  else if aop = 4 then o ||| x
  else if aop = 5 then o ^^^ x
  else if aop = 6 then (if sx < so then x else o)
  else if aop = 7 then (if so < sx then x else o)
  else if aop = 8 then min o x
  else max o x

/-- The line after an atomic, and the old value returned as a line. -/
def atomicApply (aop asz off : Nat) (base : Line) (opnd cmpd : Nat) : Line × Line :=
  let sz := 2 ^ asz
  let old := (base.toNat >>> (8 * off)) % 2 ^ (8 * sz)
  (setField base (8 * off) (8 * sz) (atomicNew aop sz old opnd cmpd), BitVec.ofNat 512 old)

end Sys2Proof.Machine
end

