-- ==== Sys2Proof/Machine/RS.lean ====
section
/-! DEFINITION. Reed-Solomon codes: RS(72,65) over GF(2^8) for stored lines (09 R275) and RS(340,320) over GF(2^10)
for fabric codewords (04 R114).  Field elements are numbers below 2^m. -/

namespace Sys2Proof

/-- A field GF(2^m) by its width and primitive polynomial (with the x^m term). -/
structure GF where
  m : Nat
  poly : Nat
  deriving DecidableEq, Repr

/-- GF(2^8) of 09 R275. -/
def gf8 : GF := { m := 8, poly := 0x11D }
/-- GF(2^10) of 04 R114. -/
def gf10 : GF := { m := 10, poly := 0x409 }

/-- Multiplication by x. -/
def gfX (g : GF) (a : Nat) : Nat :=
  let d := a * 2
  if d ≥ 2 ^ g.m then d ^^^ g.poly else d

/-- Product of two elements, bit by bit of the second. -/
def gfMulAux (g : GF) (a b : Nat) : Nat → Nat
  | 0 => 0
  | n + 1 => (if b.testBit 0 then a else 0) ^^^ gfMulAux g (gfX g a) (b / 2) n

def gfMul (g : GF) (a b : Nat) : Nat := if a = 0 then 0 else gfMulAux g a b g.m

/-- a^n. -/
def gfPow (g : GF) (a : Nat) : Nat → Nat
  | 0 => 1
  | n + 1 => gfMul g a (gfPow g a n)

/-- alpha^i for i below n, ascending. -/
def gfAlphas (g : GF) (n : Nat) : List Nat :=
  (List.range n).foldl (fun l _ => match l.getLast? with
    | none => [1]
    | some a => l ++ [gfX g a]) []

/-- Inverse: a^(2^m - 2), by squaring. -/
def gfInv (g : GF) (a : Nat) : Nat :=
  (List.range (g.m - 1)).foldl (fun (acc : Nat × Nat) _ =>
    let sq := gfMul g acc.2 acc.2
    (gfMul g acc.1 sq, sq)) (1, a) |>.1

/-- Polynomials as coefficient lists, constant term first. -/
def polyEval (g : GF) (p : List Nat) (x : Nat) : Nat := p.foldr (fun c acc => c ^^^ gfMul g x acc) 0

def polyAdd (p q : List Nat) : List Nat :=
  (List.range (max p.length q.length)).map (fun i => (p[i]?).getD 0 ^^^ (q[i]?).getD 0)

def polyScale (g : GF) (k : Nat) (p : List Nat) : List Nat := p.map (gfMul g k)

def polyMul (g : GF) (p q : List Nat) : List Nat :=
  p.foldr (fun c acc => polyAdd (polyScale g c q) (0 :: acc)) []

/-- Generator: the product of (x - alpha^i), i below t. -/
def rsGen (g : GF) (t : Nat) : List Nat := (gfAlphas g t).foldl (fun p a => polyMul g p [a, 1]) [1]

/-- Remainder of the message polynomial times x^t, highest coefficient first; the symbols come in transmission order
(the first symbol is the highest power).  Answers the t check symbols in transmission order. -/
def rsParity (g : GF) (t : Nat) (msg : List Nat) : List Nat :=
  let gen := ((rsGen g t).take t).reverse
  msg.foldl (fun (r : List Nat) s =>
    match r with
    | [] => []
    | top :: rest =>
      let f := top ^^^ s
      (rest ++ [0]).zipWith (fun a b => a ^^^ gfMul g f b) gen) (List.replicate t 0)

/-- Syndromes S_i = c(alpha^i), i below t, of symbols in transmission order. -/
def rsSyndromes (g : GF) (t : Nat) (c : List Nat) : List Nat :=
  (gfAlphas g t).map (fun a => c.foldl (fun acc s => gfMul g acc a ^^^ s) 0)

/-- Berlekamp-Massey: state is (C, B, L, m, b). -/
structure BM where
  c : List Nat
  bp : List Nat
  l : Nat
  m : Nat
  bd : Nat
  deriving DecidableEq, Repr

def bmStep (g : GF) (syn : List Nat) (n : Nat) (st : BM) : BM :=
  let d := (List.range (st.l + 1)).foldl
    (fun acc i => acc ^^^ gfMul g ((st.c[i]?).getD 0) (if i ≤ n then (syn[n - i]?).getD 0 else 0)) 0
  if d = 0 then { st with m := st.m + 1 }
  else
    let k := gfMul g d (gfInv g st.bd)
    let c' := polyAdd st.c (List.replicate st.m 0 ++ polyScale g k st.bp)
    if 2 * st.l ≤ n then { c := c', bp := st.c, l := n + 1 - st.l, m := 1, bd := d }
    else { st with c := c', m := st.m + 1 }

/-- Error locator of the syndromes, with its degree. -/
def rsLocator (g : GF) (syn : List Nat) : List Nat × Nat :=
  let st := (List.range syn.length).foldl (fun st n => bmStep g syn n st) { c := [1], bp := [1], l := 0, m := 1, bd := 1 }
  (st.c, st.l)

/-- Outcome of decoding: the corrected symbols with the positions changed, or nothing. -/
inductive RsResult where
  | clean
  | corrected (syms : List Nat) (at_ : List Nat)
  | failed
  deriving DecidableEq, Repr

/-- Decoding a word of n symbols in transmission order with t check symbols, correcting up to e symbols.  Errors are
found by Chien search over the n positions and valued by Forney's formula (first root alpha^0). -/
def rsDecode (g : GF) (t e : Nat) (c : List Nat) : RsResult :=
  let n := c.length
  let syn := rsSyndromes g t c
  if syn.all (· = 0) then .clean
  else
    let (lam, l) := rsLocator g syn
    if l > e then .failed
    else
      let omega := (polyMul g syn lam).take t
      let a1 := 2
      let ainv := gfInv g a1
      -- position i in transmission order has power n - 1 - i
      let pos := (List.range n).foldl (fun (acc : Nat × List (Nat × Nat)) k =>
        let xinv := acc.1
        let hit := polyEval g lam xinv = 0
        (gfMul g xinv ainv, if hit then (n - 1 - k, xinv) :: acc.2 else acc.2)) (1, [])
      if pos.2.length ≠ l then .failed
      else
        -- odd coefficients give the formal derivative
        let dlam := (List.range (lam.length - 1)).map (fun i => if i % 2 = 0 then (lam[i + 1]?).getD 0 else 0)
        let fix := pos.2.map (fun p =>
          let x := gfInv g p.2
          (p.1, gfMul g x (gfMul g (polyEval g omega p.2) (gfInv g (polyEval g dlam p.2)))))
        let c' := fix.foldl (fun w f => w.set f.1 ((w[f.1]?).getD 0 ^^^ f.2)) c
        if (rsSyndromes g t c').all (· = 0) then .corrected c' (pos.2.map (·.1)) else .failed

/-! ## The line code (09 R275, R277) -/

/-- The seven check symbols of 65 symbols. -/
def lineCheck (msg : List Nat) : List Nat := rsParity gf8 7 msg

/-- Symbols s0 to s71 of a codeword. -/
def cwSyms (c : Codeword) : List Nat := (leBytes c.toNat 72).map BitVec.toNat

def cwOf (syms : List Nat) : Codeword := BitVec.ofNat 576 (leNat ((syms.take 72).map (BitVec.ofNat 8)))

/-- Metadata symbol written by the stack: POISON 0x0 or 0xF, HINT 0b00 or 0b11 (09 R277). -/
def metaSym (poison hint : Bool) : Nat := (if poison then 0x0F else 0) + (if hint then 0x30 else 0)

/-- Encoding a line with its metadata. -/
def encodeLine (d : Line) (poison hint : Bool) : Codeword :=
  let msg := (lineBytes d).map BitVec.toNat ++ [metaSym poison hint]
  cwOf (msg ++ lineCheck msg)

/-- Outcome of the line-code check (09 R279): the line, its poison and hint, the symbols corrected; `odd` marks a
POISON field neither 0x0 nor 0xF (09 R277). -/
inductive LineRead where
  | good (d : Line) (poison hint odd : Bool) (fixed : List (Nat × BitVec 8))
  | bad
  deriving DecidableEq, Repr

/-- What decoded symbols say. -/
def lineOfSyms (syms : List Nat) (fixed : List (Nat × BitVec 8)) : LineRead :=
  let d := BitVec.ofNat 512 (leNat ((syms.take 64).map (BitVec.ofNat 8)))
  let mt := (syms[64]?).getD 0
  let p := mt % 16
  .good d (p ≠ 0) ((mt / 16) % 4 ≠ 0) (p ≠ 0 && p ≠ 15) fixed

/-- The decoder of a stored line: corrects up to three symbols (09 R275, R279). -/
def decodeLine (c : Codeword) : LineRead :=
  let syms := cwSyms c
  match rsDecode gf8 7 3 syms with
  | .clean => lineOfSyms syms []
  | .corrected w at_ => lineOfSyms w (at_.map (fun i => (i, BitVec.ofNat 8 ((syms[i]?).getD 0 ^^^ (w[i]?).getD 0))))
  | .failed => .bad

/-! ## The fabric code (04 R114, R115, R118) -/

/-- The 340 symbols of a codeword, symbol m in bits 10m + 9 .. 10m. -/
def fcwSyms (c : BitVec 3400) : List Nat := (List.range 340).map (fun m => (c.extractLsb' (10 * m) 10).toNat)

def fcwOf (syms : List Nat) : BitVec 3400 :=
  BitVec.ofNat 3400 (syms.foldr (fun s acc => s + 1024 * acc) 0)

/-- Encoding a 3,200-bit flit. -/
def fcwEncode (f : BitVec 3200) : BitVec 3400 :=
  let msg := (List.range 320).map (fun m => (f.extractLsb' (10 * m) 10).toNat)
  fcwOf (msg ++ rsParity gf10 20 msg)

/-- Decoding: the flit and the symbols corrected, or nothing (04 R118). -/
def fcwDecode (c : BitVec 3400) : Option (BitVec 3200 × List Nat) :=
  let syms := fcwSyms c
  let out (w : List Nat) : BitVec 3200 := BitVec.ofNat 3200 ((w.take 320).foldr (fun s acc => s + 1024 * acc) 0)
  match rsDecode gf10 20 10 syms with
  | .clean => some (out syms, [])
  | .corrected w at_ => some (out w, at_)
  | .failed => none

end Sys2Proof
end

