-- ==== Sys2Proof/Machine/Addr.lean ====
section
/-! DEFINITION. Addresses: the map of 04 R141, the decode of 01 R32, the physical location of 01 R33 and 09 R286,
and one line of DRAM or of an Undercoat frame as stored (09 R275, 06 R184). -/

namespace Sys2Proof.Machine

/-! ## Enabled regions (01 R32) -/

/-- Number of enabled regions. -/
def nRegions (s : State) : Nat := if s.cfg.regions = 0 then 1 else if s.cfg.regions = 1 then 2 else 4

def log2N (n : Nat) : Nat := if n = 1 then 0 else if n = 2 then 1 else 2

/-- User capacity in bytes: 64 GiB for each enabled region. -/
def capacity (s : State) : Nat := nRegions s * 2 ^ 36

/-- Where a DPA lies after the decode of 01 R32. -/
structure Loc where
  region : Nat
  lblock : Nat
  bank : Nat
  row : Nat
  line : Nat
  deriving DecidableEq, Repr, Inhabited

/-- Fold of the bits from `g` to `top` in groups of `w` bits; `k` bounds the groups. -/
def foldGroups (dpa w top : Nat) : Nat → Nat → Nat → Nat
  | 0, _, acc => acc
  | k + 1, g, acc =>
    if g ≤ top then foldGroups dpa w top k (g + w) (acc ^^^ field dpa g (min (g + w - 1) top - g + 1))
    else acc

/-- The decode for N = 4, 2 or 1 enabled regions (01 R32). -/
def decodeDpa (n dpa : Nat) : Loc :=
  let w := 3 + log2N n
  let top := 35 + log2N n
  let lb := foldGroups dpa w top 16 (8 + w) (field dpa 8 w)
  let chunk := field dpa (8 + w) 3
  let bf := field dpa (11 + w) 6
  let row := field dpa (17 + w) 16
  let region := lb % n
  { region := region, lblock := 4 * (lb / n) + region, bank := bf ^^^ (row % 64), row := row,
    line := chunk * 4 + field dpa 6 2 }

/-- The DPA of a location: the inverse of the decode (01 R31). -/
def encodeDpa (n : Nat) (l : Loc) : Nat :=
  let w := 3 + log2N n
  let top := 35 + log2N n
  let lb := (l.lblock / 4) * n + l.region
  let bf := l.bank ^^^ (l.row % 64)
  let high := (l.line / 4) * 2 ^ (8 + w) + bf * 2 ^ (11 + w) + l.row * 2 ^ (17 + w) + (l.line % 4) * 2 ^ 6
  let h := foldGroups high w top 16 (8 + w) 0
  high + (lb ^^^ h) * 2 ^ 8

/-- Line key {bank, row, line} (07 R217). -/
def lineKey (bank row line : Nat) : Nat := bank * 2 ^ 21 + row * 2 ^ 5 + line
def keyBank (k : Nat) : Nat := k / 2 ^ 21
def keyRow (k : Nat) : Nat := k / 32 % 2 ^ 16
def keyLine (k : Nat) : Nat := k % 32
def Loc.key (l : Loc) : Nat := lineKey l.bank l.row l.line

/-- Local block of a logical block within its region (01 R18). -/
def localBlock (lb : Nat) : Nat := lb / 4

/-- 28-bit sector ID {row, bank, local block, chunk} (06 R197). -/
def sectorId (lb key : Nat) : Nat :=
  ((keyRow key * 64 + keyBank key) * 8 + localBlock lb) * 8 + keyLine key / 4

/-- The logical block and the key of line k of a sector. -/
def sectorLine (region sec k : Nat) : Nat × Nat :=
  (4 * (sec / 8 % 8) + region, lineKey (sec / 64 % 64) (sec / 4096) (sec % 8 * 4 + k))

/-- DPA of a line given region, logical block and key. -/
def dpaOf (s : State) (lb key : Nat) : Nat :=
  encodeDpa (nRegions s) { region := lb % 4, lblock := lb, bank := keyBank key, row := keyRow key, line := keyLine key }

/-! ## The map (04 R140, R141) -/

def winValid (w : BitVec 128) : Bool := w.getLsbD 0
def winClass (w : BitVec 128) : Nat := (w.extractLsb' 1 2).toNat
def winWays (w : BitVec 128) : Nat := (w.extractLsb' 3 3).toNat
def winGran (w : BitVec 128) : Nat := (w.extractLsb' 6 4).toNat
def winNodeBase (w : BitVec 128) : Nat := (w.extractLsb' 10 12).toNat
def winBase (w : BitVec 128) : Nat := (w.extractLsb' 22 23).toNat
def winLimit (w : BitVec 128) : Nat := (w.extractLsb' 45 23).toNat
def winDpaBase (w : BitVec 128) : Nat := (w.extractLsb' 68 8).toNat
def winPrivate (w : BitVec 128) : Node := w.extractLsb' 76 12

def classOfNat (c : Nat) : AClass := if c = 1 then .hostPrivate else if c = 2 then .bulk else .tracked

/-- The base-coat map's one window (04 R140). -/
def baseWindow (s : State) : BitVec 128 :=
  BitVec.ofNat 128 (1 + 12 * 2 ^ 6 + s.fab.stackNode.toNat * 2 ^ 10 + (nRegions s * 64 - 1) * 2 ^ 45)

/-- What a Fabric Address decodes to. -/
structure Mapped where
  win : Nat
  node : Node
  dpa : Nat
  cls : AClass
  granBits : Nat
  priv : Node
  deriving DecidableEq, Repr, Inhabited

/-- The decode of a Fabric Address by one window. -/
def mapBy (i : Nat) (w : BitVec 128) (fa : Nat) : Mapped :=
  let g := 8 + winGran w
  let off := fa - winBase w * 2 ^ 30
  let way := (off >>> g) % 2 ^ winWays w
  let lcl := ((off >>> (g + winWays w)) <<< g) + off % 2 ^ g
  { win := i, node := BitVec.ofNat 12 (winNodeBase w + way), dpa := winDpaBase w * 2 ^ 30 + lcl,
    cls := classOfNat (winClass w), granBits := g, priv := winPrivate w }

/-- `map(fa)` of 04 R141 over a table of windows: none is UNMAPPED. -/
def mapFa (wins : SMap (BitVec 128)) (fa : Nat) : Option Mapped :=
  match wins.find? (fun p => winValid p.2 && winBase p.2 ≤ fa / 2 ^ 30 && fa / 2 ^ 30 ≤ winLimit p.2) with
  | some (i, w) => some (mapBy i w fa)
  | none => none

/-- The Fabric Address and window that name a DPA of this stack, the lowest window first; used to give a line of this
stack its FA for snoops. -/
def faOfDpa (s : State) (dpa : Nat) : Option Nat :=
  s.fab.windows.findSome? (fun p =>
    let w := p.2
    if winValid w then
      let g := 8 + winGran w
      let ways := winWays w
      let me := s.fab.stackNode.toNat
      if winNodeBase w ≤ me ∧ me < winNodeBase w + 2 ^ ways ∧ winDpaBase w * 2 ^ 30 ≤ dpa then
        let lcl := dpa - winDpaBase w * 2 ^ 30
        let off := ((lcl >>> g) <<< (g + ways)) + ((me - winNodeBase w) <<< g) + lcl % 2 ^ g
        if off < (winLimit w + 1 - winBase w) * 2 ^ 30 then some (winBase w * 2 ^ 30 + off) else none
      else none
    else none)

/-- Address class and private node of a DPA of this stack. -/
def classOfDpa (s : State) (dpa : Nat) : AClass × Node :=
  match faOfDpa s dpa with
  | some fa => match mapFa s.fab.windows fa with
    | some m => (m.cls, m.priv)
    | none => (.tracked, 0)
  | none => (.tracked, 0)

/-! ## Physical location (01 R18, R33) -/

/-- Physical block as shipped (01 R18). -/
def shippedBlock (lb : Nat) : Nat := 9 * (lb % 4) + lb / 4

/-- Physical block of a logical block; the table stores block + 1. -/
def physBlock (s : State) (lb : Nat) : Nat :=
  match smGet 0 s.remap.block lb with
  | 0 => shippedBlock lb
  | p + 1 => p

/-- Physical bank of a bank of a physical block; the table stores bank + 1. -/
def physBank (s : State) (pb bank : Nat) : Nat :=
  match smGet 0 s.remap.bank (pb * 64 + bank) with
  | 0 => bank
  | p + 1 => p

/-- The logical block a physical block holds. -/
def logicalOf (s : State) (pb : Nat) : Option Nat := (List.range 32).find? (fun lb => physBlock s lb = pb)

/-- DPA of a line of a physical block, as a fault's DETAIL names it (12 R343); 0 where no logical block lies there. -/
def keyDpa (s : State) (pb key : Nat) : Nat :=
  match logicalOf s pb with
  | some lb => dpaOf s lb key
  | none => 0

/-- DRAM die of a physical bank (01 R16). -/
def dieOfBank (pb bank : Nat) : Nat := if bank < 64 then bank / 4 else 4 * (bank - 64) + pb % 4

/-- A physical block's store-room entry (09 R287). -/
def srBlk (s : State) (b : Nat) : SrBlock :=
  smGet { st := if b % 9 = 8 then .freeSpare else .inService } s.store.blocks b
def putSr (s : State) (b : Nat) (x : SrBlock) : State :=
  { s with store := { s.store with
      blocks := smSet { st := if b % 9 = 8 then .freeSpare else .inService } s.store.blocks b x } }

/-- Cell key of byte 0 of a stored codeword: 65,536 rows and the four spare rows of each of 64 subarrays, 32 line positions and
two spare columns. -/
def dramKey (pb bank row line : Nat) : Nat := (((pb * 68 + bank) * 65792 + row) * 34 + line) * 128

/-- Where a row of a bank lies: a repaired row in the spare row of its subarray (01 R33, step 3; 09 R286). -/
def cellRow (s : State) (pb bank row : Nat) : Nat :=
  match (srBlk s pb).rowRep.find? (fun p => p.1 = bank && p.2.1 = row) with
  | some p => 65536 + row / 1024 * 4 + p.2.2
  | none => row

/-- Where a line position of a row lies: a repaired column of its subarray in the spare column. -/
def cellCol (s : State) (pb bank row line : Nat) : Nat :=
  match (srBlk s pb).colRep.find? (fun p => p.1 = bank && p.2.1 = row / 1024 && p.2.2.1 = line) with
  | some p => 32 + p.2.2.2
  | none => line

/-- The cells of a line. -/
def cellKey (s : State) (pb bank row line : Nat) : Nat :=
  dramKey pb bank (cellRow s pb bank row) (cellCol s pb bank row line)

/-- The stored codeword of a physical bank's row and line. -/
def dramCw (s : State) (pb bank row line : Nat) : Codeword :=
  BitVec.ofNat 576 (leNat (bmRead s.dram (cellKey s pb bank row line) 72))

def dramPut (s : State) (pb bank row line : Nat) (c : Codeword) : State :=
  { s with dram := bmWrite s.dram (cellKey s pb bank row line) (leBytes c.toNat 72) }

/-! ## Undercoat frames (06 R189, R190) -/

/-- Directory sets' exponent k (06 R197). -/
def dirK (s : State) : Nat := 16 + s.cfg.dirSize.toNat

/-- Cache sets: (128 MiB - directory - shadow) / 32 KiB (06 R187, R190). -/
def cSets (s : State) : Nat :=
  (128 * 1024 - 6 * 1024 * 2 ^ s.cfg.dirSize.toNat - 2048 * s.cfg.shadowUnits.toNat) / 32

/-- ROWID {row, bank, local block} (06 R189). -/
def rowId (lb key : Nat) : Nat := (keyRow key * 64 + keyBank key) * 8 + localBlock lb

def tagKey (region set way : Nat) : Nat := (region * 4096 + set) * 16 + way

/-- A frame as shipped: ways 0 to 14 ACTIVE, way 15 SPARE (06 R207). -/
def tagInit (way : Nat) : Tag6 := { wstate := if way = 15 then .spare else .active, age := BitVec.ofNat 4 way }

def tagGet (s : State) (region set way : Nat) : Tag6 := smGet (tagInit way) s.uc.tags (tagKey region set way)

def tagPut (s : State) (region set way : Nat) (t : Tag6) : State :=
  { s with uc := { s.uc with tags := smSet (tagInit way) s.uc.tags (tagKey region set way) t } }

/-- Set of a row (06 R190). -/
def ucSet (s : State) (rid : Nat) : Nat := rid % cSets s

/-- The way that holds a row: an ACTIVE frame with some line VALID and this ROWID (06 R190). -/
def ucFind (s : State) (region rid : Nat) : Option Nat :=
  let set := ucSet s rid
  (List.range 16).find? (fun w =>
    let t := tagGet s region set w
    t.wstate = .active && t.valid ≠ 0 && t.rowId.toNat = rid)

def frameKey (region set way line : Nat) : Nat := tagKey region set way * 4096 + line * 128

def frameCw (s : State) (region set way line : Nat) : Codeword :=
  BitVec.ofNat 576 (leNat (bmRead s.uc.frames (frameKey region set way line) 72))

def framePut (s : State) (region set way line : Nat) (c : Codeword) : State :=
  { s with uc := { s.uc with frames := bmWrite s.uc.frames (frameKey region set way line) (leBytes c.toNat 72) } }

/-- Slice of a frame (06 R190). -/
def sliceOf (region set way : Nat) : Nat := 16 * region + (set + way) % 16

/-- What an Undercoat region holds by default: SHADOW_UNITS in service. -/
def ucReg (s : State) (r : Nat) : UcRegion := smGet { units := s.cfg.shadowUnits.toNat } s.uc.regions r

def ucRegPut (s : State) (r : Nat) (u : UcRegion) : State :=
  { s with uc := { s.uc with regions := smSet { units := s.cfg.shadowUnits.toNat } s.uc.regions r u } }

/-- Cache, directory and shadow in use in a region (06 R208, R213). -/
def ucOn (s : State) (r : Nat) : Bool := s.cfg.ucEnable && !(ucReg s r).disabled

/-! ## The shadow partition (06 R203, 18 R489) -/

def shadowKey (region unit row line : Nat) : Nat := ((region * 16 + unit) * 1024 + row) * 4096 + line * 128

def shadowCw (s : State) (region unit row line : Nat) : Codeword :=
  BitVec.ofNat 576 (leNat (bmRead s.uc.shadow (shadowKey region unit row line) 72))

def shadowPut (s : State) (region unit row line : Nat) (c : Codeword) : State :=
  { s with uc := { s.uc with shadow := bmWrite s.uc.shadow (shadowKey region unit row line) (leBytes c.toNat 72) } }

end Sys2Proof.Machine
end

