-- ==== Sys2Proof/Machine/Ops.lean ====
section
/-! DEFINITION. Named operations over the state that the meanings share: accessors, intervals, free values, counted
occurrences, events (17 R473 to R477), routing and egress (04 R137 to R139). -/

namespace Sys2Proof.Machine

/-! ## Accessors -/

def blk (s : State) (b : Nat) : Block := smGet {} s.blocks b
def putBlk (s : State) (b : Nat) (k : Block) : State := { s with blocks := smSet {} s.blocks b k }
def modBlk (s : State) (b : Nat) (f : Block → Block) : State := putBlk s b (f (blk s b))

/-- A bank's due time starts at its stagger offset; the accessor's default is the bank idle with nothing due. -/
def bankOf (k : Block) (b : Nat) : Bank := smGet {} k.banks b
def putBank (k : Block) (b : Nat) (x : Bank) : Block := { k with banks := smSet {} k.banks b x }
def modBank (k : Block) (b : Nat) (f : Bank → Bank) : Block := putBank k b (f (bankOf k b))
def bdieOf (k : Block) (d : Nat) : BDie := smGet {} k.dies d
def putBdie (k : Block) (d : Nat) (x : BDie) : Block := { k with dies := smSet {} k.dies d x }

def port (s : State) (p : Nat) : FabPort := smGet {} s.fp p
def putPort (s : State) (p : Nat) (x : FabPort) : State := { s with fp := smSet {} s.fp p x }
def modPort (s : State) (p : Nat) (f : FabPort → FabPort) : State := putPort s p (f (port s p))
def lane (x : FabPort) (l : Nat) : Lane := smGet {} x.lanes l
def putLane (x : FabPort) (l : Nat) (y : Lane) : FabPort := { x with lanes := smSet {} x.lanes l y }

/-- Link of an egress or ingress: 0 to 3 the fabric ports, 4 the Wide Port. -/
def linkOf (s : State) (p : Nat) : Link := if p = 4 then s.wp.link else (port s p).link
def putLink (s : State) (p : Nat) (l : Link) : State :=
  if p = 4 then { s with wp := { s.wp with link := l } } else modPort s p (fun x => { x with link := l })
def modLink (s : State) (p : Nat) (f : Link → Link) : State := putLink s p (f (linkOf s p))

/-- The epoch whose flits count: after a re-initialisation, the next one (02 R69). -/
def liveEpoch (l : Link) : BitVec 8 := if l.epochDue then l.epoch + 1 else l.epoch

def zone (s : State) (r : Nat) : Throttle := smGet {} s.heat.zones r
def putZone (s : State) (r : Nat) (z : Throttle) : State :=
  { s with heat := { s.heat with zones := smSet {} s.heat.zones r z } }

def migr (s : State) (r : Nat) : Migr := smGet {} s.store.migr r
def putMigr (s : State) (r : Nat) (m : Migr) : State :=
  { s with store := { s.store with migr := smSet {} s.store.migr r m } }

def hatch (s : State) (h : Nat) : Hatch := smGet {} s.mg.hatches h
def putHatch (s : State) (h : Nat) (x : Hatch) : State :=
  { s with mg := { s.mg with hatches := smSet {} s.mg.hatches h x } }
/-- Node a Hatch is bound to: HATCH_NODE, base-coat 0xFF0 + n (17 R479). -/
def hatchNode (s : State) (h : Nat) : Node := smGet (BitVec.ofNat 12 (0xFF0 + h)) s.mg.hatchNode h

/-- Agent a's node: AGENT_NODE, base-coat 0xFF0 + a (02 R70). -/
def agentNode (s : State) (a : Nat) : Node := smGet (BitVec.ofNat 12 (0xFF0 + a)) s.fab.agentNode a
def agentOn (s : State) (a : Nat) : Bool := a < 16 && s.fab.agentEn.getLsbD a
/-- The enabled agent with a node, if any (02 R49). -/
def agentOf (s : State) (n : Node) : Option Nat :=
  (List.range 16).find? (fun a => agentOn s a && agentNode s a == n)

/-- Base-coat event configuration (17 R479): target 0 takes C1 to C4 and notices of every source for node 0xFF0. -/
def evtInit (t : Nat) : EvtTarget :=
  if t = 0 then { cfg := 0x3FFFFF0FF0F9, cfgImg := 0x3FFFFF0FF0F9 } else {}
def evtT (s : State) (t : Nat) : EvtTarget := smGet (evtInit t) s.mg.evt t
def putEvt (s : State) (t : Nat) (x : EvtTarget) : State :=
  { s with mg := { s.mg with evt := smSet (evtInit t) s.mg.evt t x } }

/-- A position's state and a walk's. -/
def tpos (s : State) (i : Nat) : TPos := smGet {} s.heat.pos i
def putTpos (s : State) (i : Nat) (p : TPos) : State :=
  { s with heat := { s.heat with pos := smSet {} s.heat.pos i p } }
def walkOf (s : State) (b : Nat) : Walk := smGet {} s.cal.walks b
def putWalk (s : State) (b : Nat) (w : Walk) : State :=
  { s with cal := { s.cal with walks := smSet {} s.cal.walks b w } }

/-- Region and block epochs, 8 bits (01 R19). -/
def regEpoch (s : State) (r : Nat) : BitVec 8 := BitVec.ofNat 8 (smGet 0 s.remap.regionEpoch r)
def blkEpoch (s : State) (b : Nat) : BitVec 8 := BitVec.ofNat 8 (smGet 0 s.remap.blockEpoch b)
/-- The epochs of the regions a context's lines enter (01 R19). -/
def lineRegEpochs (s : State) (ls : List CtxLine) : List (Nat × BitVec 8) :=
  ((ls.map CtxLine.region).eraseDups).map (fun r => (r, regEpoch s r))
def bumpRegion (s : State) (r : Nat) : State :=
  { s with remap := { s.remap with
      regionEpoch := smSet 0 s.remap.regionEpoch r ((smGet 0 s.remap.regionEpoch r + 1) % 256) } }
def bumpBlock (s : State) (b : Nat) : State :=
  { s with remap := { s.remap with
      blockEpoch := smSet 0 s.remap.blockEpoch b ((smGet 0 s.remap.blockEpoch b + 1) % 256) } }

/-! ## When commands act -/

/-- The stack acts on events: powered and past the first edge of PWR_GOOD, not in a boot halt (16 R443), in scan
(16 R453), or in a chip halt (12 R357). -/
def live (s : State) : Bool :=
  !s.faults.halted && !(s.boot.phase == .off || s.boot.phase == .halt || s.boot.phase == .scan)

/-- A command's effect on a stack that acts; otherwise nothing follows. -/
def whenLive (s : State) (f : State → State) : Host.Outcome State Fault Refusal :=
  if live s then .next (f s) else .next s

/-- Ports, lanes and sensors act also in a chip halt (12 R357, R358). -/
def wired (s : State) : Bool := !(s.boot.phase == .off || s.boot.phase == .halt || s.boot.phase == .scan)

/-- The effect of an event of a port, a lane or a sensor. -/
def whenWired (s : State) (f : State → State) : Host.Outcome State Fault Refusal :=
  if wired s then .next (f s) else .next s

/-! ## Free values -/

/-- A fresh number for a value the manual leaves open. -/
def takeFree (s : State) : Nat × State := (s.free, { s with free := s.free + 1 })

/-! ## Intervals (01 R25, 15 R419) -/

def us (n : Nat) : Nat := n * 1000
def ms (n : Nat) : Nat := n * 1000000

/-- Whether an interval that starts at t is counted in HOLDOVER. -/
def inHold (s : State) (t : Nat) : Bool :=
  s.cal.spans.any (fun p => p.1 ≤ t && (match p.2 with
    | none => true
    | some e => t < e))

/-- A minimum interval of n ticks that started at t. -/
def minIv (s : State) (t n : Nat) : Nat := if inHold s t then (33 * n + 31) / 32 else n

/-- A deadline of n ticks that started at t. -/
def deadIv (s : State) (t n : Nat) : Nat := if inHold s t then 31 * n / 32 else n

/-- A wait of n ticks from t is over. -/
def waited (s : State) (t n : Nat) : Bool := t + minIv s t n ≤ s.now

/-- A deadline of n ticks from t has passed. -/
def expired (s : State) (t n : Nat) : Bool := t + deadIv s t n ≤ s.now

/-! ## Counted occurrences (19 R500) -/

/-- n occurrences of an event in this tick, in a collector group, with the qualifier value they carry. -/
def occ (s : State) (ev grp qual n : Nat) : State :=
  if s.faults.halted ∨ n = 0 then s
  else { s with perf := { s.perf with occ := (ev, grp, qual, n) :: s.perf.occ } }

/-! ## Events (12 R341; 17 R473 to R476) -/

/-- CLASS code of a fault class (17 R476). -/
def FClass.code : FClass → Nat
  | .c0 => 0
  | .c1 => 1
  | .c2 => 2
  | .c3 => 3
  | .c4 => 4

def FLevel.code : FLevel → Nat
  | .cell => 0
  | .block => 1
  | .region => 2
  | .chip => 3

/-- A target takes an event of these classes and sources, or a notice (17 R473, R475; 12 R349). -/
def evtTakes (cfg : BitVec 46) (cls : List Nat) (srcs : List Nat) (notice : Bool) : Bool :=
  cfg.getLsbD 0 &&
  (if notice then cfg.getLsbD 7
   else cls.any (fun c => cfg.getLsbD (2 + c)) && srcs.any (fun x => x ≥ 1 && cfg.getLsbD (23 + x)))

/-- A placed record is to be sent as EVT where PUSH is 1 and no other waits (17 R475). -/
def pushEvt (x : EvtTarget) (r : EvtRec) : EvtTarget :=
  if x.cfg.getLsbD 1 && x.push.isNone then { x with push := some r } else x

/-- Placing a record in one target's ring (17 R474, R475). -/
def placeEvt (x : EvtTarget) (r : EvtRec) : EvtTarget :=
  let used := (x.head - x.tail).toNat
  if used ≥ 256 then
    if r.cls = 3 ∨ r.cls = 4 then
      pushEvt { x with
        ring := smSet none x.ring ((x.head - 1).toNat % 256) (some r),
        dropped := BitVec.ofNat 16 (satAdd 16 x.dropped.toNat 1) } r
    else { x with dropped := BitVec.ofNat 16 (satAdd 16 x.dropped.toNat 1) }
  else pushEvt { x with ring := smSet none x.ring (x.head.toNat % 256) (some r), head := x.head + 1 } r

def evtFull (x : EvtTarget) : Bool := (x.head - x.tail).toNat ≥ 256

/-- Posting a record to every target that takes it; answers the targets that dropped it. -/
def postTo (s : State) (r : EvtRec) (cls srcs : List Nat) (notice : Bool) : State × List Nat :=
  let r := { r with eseq := s.mg.eseq }
  let s := { s with mg := { s.mg with eseq := s.mg.eseq + 1 } }
  let s := occ s 0x106 7 0xF 1
  (List.range 8).foldl (fun (acc : State × List Nat) t =>
    let x := evtT acc.1 t
    if evtTakes x.cfg cls srcs notice then
      (putEvt acc.1 t (placeEvt x r), if evtFull x then acc.2 ++ [t] else acc.2)
    else acc) (s, [])

/-- C0 of 17 R480 for a dropped record: placed only in queues with room, at most once per queue per 1 ms. -/
def dropEvent (s : State) (t : Nat) : State :=
  let x := evtT s t
  let ok := match x.lastDrop with
    | none => true
    | some u => waited s u (ms 1)
  let key := 0x1102 * 65536 + 17
  let n := smGet 0 s.mg.occ key + 1
  let s := occ s 0x107 7 0xF 1
  if s.faults.halted then s
  else
  let s := { s with
    mg := { s.mg with occ := smSet 0 s.mg.occ key (if ok then 0 else n) },
    faults := { s.faults with c0Counts := smMod 0 s.faults.c0Counts 0x1102 (fun c => c + 1) } }
  if ok then
    let s := putEvt s t { x with lastDrop := some s.now }
    let r : EvtRec :=
      { eseq := s.mg.eseq, cls := 0, kind := 0, level := 3, region := 0, element := 17, code := 0x1102,
        count := BitVec.ofNat 16 (min n 65535), fid := 0, time := BitVec.ofNat 64 s.now, detail := BitVec.ofNat 64 t }
    let s := { s with mg := { s.mg with eseq := s.mg.eseq + 1 } }
    (List.range 8).foldl (fun s u =>
      let y := evtT s u
      if evtTakes y.cfg [0] [0x11] false && !evtFull y then putEvt s u (placeEvt y r) else s) s
  else s

/-- Posting a record, with the drop events that follow. -/
def post (s : State) (r : EvtRec) (cls srcs : List Nat) (notice : Bool) : State :=
  let (s, dropped) := postTo s r cls srcs notice
  dropped.foldl dropEvent s

/-- A C0 condition (12 R341): counted, and posted unless its source limits it to once per `lim` ticks. -/
def raiseC0At (s : State) (time : Nat) (level : FLevel) (region elem code detail lim : Nat) : State :=
  if s.faults.halted then s
  else
    let key := code * 65536 + elem
    let n := smGet 0 s.mg.occ key + 1
    let s := { s with faults := { s.faults with c0Counts := smMod 0 s.faults.c0Counts code (fun c => c + 1) } }
    let ok := match smGet none s.faults.limits key with
      | none => true
      | some t => lim = 0 || waited s t lim
    if ok then
      let s := { s with
        mg := { s.mg with occ := smSet 0 s.mg.occ key 0 },
        faults := { s.faults with limits := smSet none s.faults.limits key (if lim = 0 then none else some s.now) } }
      post s { eseq := 0, cls := 0, kind := 0, level := BitVec.ofNat 2 level.code, region := BitVec.ofNat 2 region,
               element := BitVec.ofNat 16 elem, code := BitVec.ofNat 16 code, count := BitVec.ofNat 16 (min n 65535),
               fid := 0, time := BitVec.ofNat 64 time, detail := BitVec.ofNat 64 detail }
        [0] [code / 256] false
    else { s with mg := { s.mg with occ := smSet 0 s.mg.occ key n } }

def raiseC0 (s : State) (level : FLevel) (region elem code detail lim : Nat) : State :=
  raiseC0At s s.now level region elem code detail lim

/-- A C0 of the chip level. -/
def c0 (s : State) (elem code detail lim : Nat) : State := raiseC0 s .chip 0 elem code detail lim

/-- A notice (17 R478). -/
def notice (s : State) (code detail : Nat) : State :=
  post s { eseq := 0, cls := 7, kind := 3, level := 3, region := 0, element := 17, code := BitVec.ofNat 16 code,
           count := 1, fid := 0, time := BitVec.ofNat 64 s.now, detail := BitVec.ofNat 64 detail } [] [] true

/-! ## Credits -/

def Credits.hdr (c : Credits) (k : Nat) : Nat :=
  if k = 0 then c.req else if k = 1 then c.snp else if k = 2 then c.rsp else if k = 3 then c.dat
  else if k = 4 then c.blk else c.mg
def Credits.line (c : Credits) (k : Nat) : Nat := if k = 3 then c.datL else if k = 5 then c.mgL else 0
def Credits.setHdr (c : Credits) (k v : Nat) : Credits :=
  if k = 0 then { c with req := v } else if k = 1 then { c with snp := v } else if k = 2 then { c with rsp := v }
  else if k = 3 then { c with dat := v } else if k = 4 then { c with blk := v } else { c with mg := v }
def Credits.setLine (c : Credits) (k v : Nat) : Credits :=
  if k = 3 then { c with datL := v } else if k = 5 then { c with mgL := v } else c
def Credits.addHdr (c : Credits) (k n : Nat) : Credits := c.setHdr k (c.hdr k + n)
def Credits.addLine (c : Credits) (k n : Nat) : Credits := c.setLine k (c.line k + n)

/-- From t0 of a retaining reset the stack returns no REQ, DATA, BULK or MGMT credit (16 R450). -/
def creditsHeld (s : State) (k : Nat) : Bool := (s.boot.phase == .retaining || s.boot.phase == .retHeld) && (k == 0 || k == 3 || k == 4 || k == 5)

/-- Returning header credits to the far end of an ingress (02 R53, 04 R130); the internal ingress has none. -/
def retHdr (s : State) (ing k n : Nat) : State :=
  if ing ≥ 5 ∨ creditsHeld s k then s else modLink s ing (fun l => { l with owed := l.owed.addHdr k n })
def retLine (s : State) (ing k n : Nat) : State :=
  if ing ≥ 5 ∨ n = 0 ∨ creditsHeld s k then s
  else modLink s ing (fun l => { l with owed := l.owed.addLine k n })

/-- The credits of a message that leaves its ingress. -/
def retMsg (s : State) (w : Waiting) : State :=
  if w.owes then retLine (retHdr s w.ing (opClass (hOp w.msg.h0)) 1) w.ing (opClass (hOp w.msg.h0)) w.data.length else s

/-! ## Routing and egress (04 R135 to R139) -/

def routeGet (s : State) (n : Node) : BitVec 16 := smGet 0x36 s.fab.routes n.toNat
def rPrimary (e : BitVec 16) : Nat := (e.extractLsb' 0 3).toNat
def rAlternate (e : BitVec 16) : Nat := (e.extractLsb' 3 3).toNat
def rRevert (e : BitVec 16) : Bool := e.getLsbD 6

/-- A usable egress: a fabric port ACTIVE, or the Wide Port unless FAILED, off or HALTED (04 R137); under a chip halt
the halted Wide Port serves the halt responder (12 R358). -/
def egressUsable (s : State) (p : Nat) : Bool :=
  if p < 4 then (port s p).st == .active
  else if p = 4 then
    !(s.wp.st == .failed || s.wp.st == .off || (s.wp.st == .halted && (!s.faults.halted || s.wp.dead)))
  else false

/-- An egress that has gone down: a fabric port DOWN or HALTED, the Wide Port FAILED, HALTED or off. -/
def egressDown (s : State) (p : Nat) : Bool :=
  if p < 4 then (port s p).st == .down || (port s p).st == .halted else !egressUsable s p

/-- The egress in force for a node (04 R137). -/
def routeOf (s : State) (n : Node) : Nat :=
  let e := routeGet s n
  if smGet false s.fab.altUse n.toNat then rAlternate e else rPrimary e

/-- Whether a message toward a node has an egress at all: messages wait at a port in INIT (04 R137).  The table moves an
entry only as its egress goes down: while the one in force is down, the node has none, even when its other egress becomes
usable later (DESIGN CHOICE, log 175). -/
def hasEgress (s : State) (n : Node) : Bool :=
  let p := routeOf s n
  p < 5 && !egressDown s p && (p != 4 || (agentOf s n).isSome)

/-- HOP_LIMIT in a header the stack originates or takes from the Wide Port; one less before a fabric port (04 R139). -/
def egressHeader (s : State) (p : Nat) (h : Slot) (dst : Node) : Slot :=
  if p = 4 then
    match agentOf s dst with
    | some a => withDst h (BitVec.ofNat 12 a)
    | none => h
  else withHops h (hHops h - 1)

/-- Queueing a message at an egress. -/
def enqueue (s : State) (p : Nat) (m : OutMsg) : State :=
  modLink s p (fun l => { l with outQ := l.outQ ++ [{ m with since := s.now }] })

/-- C0 0x0406 of 04 R138, at most once per port per 1 ms, with the node in DETAIL.  R138 does not say which port: it is
the ingress of a message as it arrives, the egress of one queued or originated, and the Wide Port's element for a route to
drop (DESIGN CHOICE, log 176). -/
def unreachable (s : State) (p : Nat) (n : Node) (isReq : Bool) : State :=
  let s := { s with fab := if isReq then { s.fab with unreachReq := s.fab.unreachReq + 1 }
                          else { s.fab with unreachOther := s.fab.unreachOther + 1 } }
  c0 s (if p < 4 then p + 1 else 0) 0x0406 n.toNat (ms 1)

/-- Element of an ingress or egress (12 R347): 0 the Wide Port, 1 to 4 the fabric ports. -/
def portElem (p : Nat) : Nat := if p < 4 then p + 1 else 0

/-- A hop-count discard: counted, C0 0x0407 at most once per port per 1 ms with source, destination and arrival port
(04 R139). -/
def hopDiscard (s : State) (ing : Nat) (h : Slot) : State :=
  let s := { s with fab := { s.fab with hopDiscards := s.fab.hopDiscards + 1 } }
  let s := if ing < 4 then modPort s ing (fun x => { x with hopDiscards := x.hopDiscards + 1 }) else s
  let s := occ s 0x086 5 (min ing 15) 1
  c0 s (portElem ing) 0x0407 ((hSrc h).toNat + (hDst h).toNat * 2 ^ 12 + ing * 2 ^ 24) (ms 1)

/-- An outbound message for the Wide Port with no enabled agent: discarded, counted, C0 0x0202 (02 R50, R71). -/
def wpDiscard (s : State) (n : Node) : State :=
  let s := { s with wp := { s.wp with discards := satAdd 32 s.wp.discards 1 } }
  c0 s 0 0x0202 n.toNat 0

/-- Sending a message the stack originates to a node over the route in force; false when it had to be discarded. -/
def sendTo (s : State) (dst : Node) (m : OutMsg) : State × Bool :=
  let p := routeOf s dst
  if p = 4 ∧ egressUsable s 4 ∧ (agentOf s dst).isNone then (wpDiscard s dst, false)
  else if hasEgress s dst then
    let h := withHops m.h0 s.fab.hopLimit.toNat
    (enqueue s p { m with h0 := egressHeader s p h dst }, true)
  else (unreachable s p dst false, false)

/-- A plain outgoing message without data. -/
def outMsg (h0 h1 : Slot) (lines : List Line) (ctx : Option Nat) (final allot : Bool) : OutMsg :=
  { h0 := h0, h1 := h1, lines := lines, need := lines.length, ctx := ctx, final := final, allot := allot, ing := none,
    since := 0, late := false }

/-! ## The two-wire bus (20 R513, R514, R521) -/

/-- Page bytes of EE_PAGE (20 R522). -/
def eePage (s : State) : Nat := 64 * 2 ^ s.tw.page.toNat

/-- Bytes of the transaction a whole access starts with: a page write within its page, a read of at most 256 bytes
within its device. -/
def twChunk (s : State) : TwKind → Nat
  | .eeWrite a d => min d.length (eePage s - a % eePage s)
  | .eeRead a n => min n (min 256 (2 ^ 20 - a % 2 ^ 20))
  | _ => 0

/-- The EEPROM an access is for (20 R513). -/
def twDevice : TwKind → Option Nat
  | .eeWrite a _ => some (a / 2 ^ 20)
  | .eeRead a _ => some (a / 2 ^ 20)
  | _ => none

/-- Bytes of the EEPROMs written. -/
def eeStore (s : State) (a : Nat) (d : List (BitVec 8)) : State :=
  { s with img := { s.img with eeprom := bmWrite s.img.eeprom a d } }

/-- A page of which an unstated part is written: its bytes are free values. -/
def eeTorn (s : State) (a n : Nat) : State :=
  let d := (List.range n).map (fun i => freeBits 8 (s.free + i))
  eeStore { s with free := s.free + n } a d

/-- A page write that is cut short on the bus leaves its page torn. -/
def twCut (s : State) (t : TwTrans) : State :=
  match t.kind with
  | .eeWrite a d => if t.unsent then s else eeTorn s a (twChunk s (.eeWrite a d))
  | _ => s

/-- A page whose write cycle runs in the device is written by the device itself. -/
def twCommit (s : State) (t : TwTrans) : State :=
  match t.kind with
  | .eeWrite a d => if t.unsent then s else eeStore s a (d.take (twChunk s (.eeWrite a d)))
  | _ => s

/-- The lines are released at once: the transaction on the bus is cut short, devices in a write cycle finish it. -/
def twRelease (s : State) : State :=
  let s := s.tw.polls.foldl (fun s p => twCommit s p.1) s
  let s := match s.tw.cur with
    | some t => if s.tw.idleSince.isNone then twCut s t else s
    | none => s
  { s with tw := { s.tw with cur := none, waiting := [], polls := [], idleSince := none, stretch := none, stuck := false } }

end Sys2Proof.Machine
end

