-- ==== Sys2Proof/Machine/Stream.lean ====
section
/-! DEFINITION. The symbol stream of a fabric port direction (03 R75 to R80, R88, R101 to R104; 04 R115, R116): loadings
and bins, the place in the frame, the scrambler's position, and the symbols that codewords and markers give. -/

namespace Sys2Proof.Machine

/-! ## Loading tables and bins (R75, R79, R82, R85) -/

/-- A pilot bin (R75). -/
def isPilot (bin : Nat) : Bool := bin % 16 = 8 && bin ≤ 104

def entryBits (e : BitVec 16) : Nat := (e.extractLsb' 0 3).toNat
def entryGain (e : BitVec 16) : Nat := (e.extractLsb' 4 6).toNat

/-- Loading table of a profile, 1 to MAX_PROFILE; tables above it are ignored (R85). -/
def loadTable (x : FabPort) (prof : Nat) : List (BitVec 16) :=
  if x.maxProfile.toNat < prof then []
  else if prof = 1 then x.load1 else if prof = 2 then x.load2 else if prof = 3 then x.load3 else []

def pilotBins : List Nat := (List.range 7).map (fun j => 16 * j + 8)
def patternBins : List Nat := ((List.range 18).drop 1).filter (fun k => !isPilot k)
def statusBins : List Nat := ((List.range 35).drop 18).filter (fun k => !isPilot k)
def upperBins : List Nat := ((List.range 128).drop 35).filter (fun k => !isPilot k)

/-- Bits of a data symbol of a profile (R79). -/
def symbolBits (prof : Nat) : Nat :=
  match prof with
  | 0 => 64
  | 1 => 258
  | 2 => 413
  | _ => 516

/-- Loading of a profile: bins that carry bits, ascending, and how many. -/
def loading (x : FabPort) (prof : Nat) : List (Nat × Nat) :=
  if prof = 0 then (patternBins ++ statusBins).map (fun k => (k, 2))
  else ((loadTable x prof).zipIdx.map (fun p => (p.2 + 1, entryBits p.1))).filter (fun p => p.2 ≠ 0)

/-- A bin carries no energy (R79, R82). -/
def binMasked (x : FabPort) (prof k : Nat) : Bool :=
  if prof = 0 then 34 < k else entryGain ((loadTable x prof).getD (k - 1) 0) == 63

/-! ## Codewords on lanes (04 R115) -/

/-- The 850 bits of a codeword on a logical lane: 85 symbols in ascending order, least significant bit first. -/
def laneBits (cw : BitVec 3400) (i : Nat) : List Bool :=
  (List.range 85).flatMap (fun j => (List.range 10).map (fun b => cw.getLsbD (10 * (4 * j + i) + b)))

/-! ## The stream -/

/-- Symbols of 17/7 ns that n ticks hold (R74). -/
def symsIn (n : Nat) : Nat := 7 * n / 17

/-- A sync symbol opens a frame: the scrambler is reseeded at the data symbol that follows (R77, R88). -/
def openFrame (prof : Nat) (x : TxStream) : TxStream :=
  if x.sym = 0 then
    { x with sym := 1, pos := 0, lag := [], out := x.out ++ [{ t := 0, n := some prof, pos := 0, bits := [], lag := [] }] }
  else x

/-- The spare lane that takes a marker in place of this data symbol, and the markers then left (04 R134). -/
def markOf (x : TxStream) (n : Option Nat) : Option (Nat × Nat) :=
  match n, x.marks with
  | none, some (l, k + 1) => some (l, k)
  | _, _ => none

/-- The next symbol: a marker, or data bits by logical lane.  The scrambler passes only bits that are carried. -/
def pushSym (prof : Nat) (n : Option Nat) (bits : List (List Bool)) (x0 : TxStream) : TxStream :=
  let x := openFrame prof x0
  let len := ((bits.head?).map List.length).getD 0
  let mk := markOf x n
  { x with
    sym := (x.sym + 1) % 1025, pos := x.pos + len, marks := if mk.isSome then mk else x.marks,
    lag := match mk with
      | some (l, _) => smSet 0 x.lag l (smGet 0 x.lag l + len)
      | none => x.lag,
    out := x.out ++ [{ t := x.sym, n := n, pos := x.pos, bits := bits, mark := mk.map Prod.fst, lag := x.lag }] }

/-- A marker is always sent four times in a row (R88). -/
def pushMarkers (prof n : Nat) (x : TxStream) : TxStream :=
  (List.range 4).foldl (fun x _ => pushSym prof (some n) [] x) x

/-- Data symbols as far as the bits held fill them. -/
def pushBits (prof : Nat) : Nat → TxStream → TxStream
  | 0, x => x
  | n + 1, x =>
    let b := symbolBits prof
    if (((x.part.head?).map List.length).getD 0) < b then x
    else pushBits prof n (pushSym prof none (x.part.map (List.take b)) { x with part := x.part.map (List.drop b) })

/-- Codeword 0 starts at the first data bit after four WAKE markers (04 R116). -/
def restart (prof : Nat) (x : TxStream) : TxStream := pushMarkers prof 5 { x with part := [], wakeDue := false }

/-- A codeword follows the one before with no fill, after the WAKE markers where they are due (04 R116). -/
def sendCodeword (prof now : Nat) (wake : Bool) (lanes : List (List Bool)) (x : TxStream) : TxStream :=
  let x := { x with out := [], at_ := now }
  let x := if wake then restart prof x else x
  let old := if x.part.isEmpty then List.replicate 4 [] else x.part
  pushBits prof 16 { x with part := (old.zip lanes).map (fun p => p.1 ++ p.2) }

/-- The codeword in progress is complete; idle bits fill the rest of its data symbol (04 R116). -/
def fillIdle (prof : Nat) (x : TxStream) : TxStream :=
  let b := symbolBits prof
  if (((x.part.head?).map List.length).getD 0) = 0 then { x with part := [] }
  else pushSym prof none (x.part.map (fun l => l ++ List.replicate (b - l.length) false)) { x with part := [] }

/-- Time passes with pilots only: the frame counter runs, sync positions pass unsent, the scrambler keeps its position
(R101, R103). -/
def passPilots (now : Nat) (x : TxStream) : TxStream :=
  { x with sym := (x.sym + symsIn (now - x.at_)) % 1025, at_ := now, out := [] }

/-- Time passes with idle data symbols, as in bring-up (R94). -/
def passIdle (prof now : Nat) (x : TxStream) : TxStream :=
  let y := passPilots now x
  { y with pos := (y.sym - 1) * symbolBits prof, lag := [] }

/-- Quiet is entered: four QUIET markers, then pilots only (R102). -/
def streamQuiet (prof now : Nat) (x : TxStream) : TxStream :=
  pushMarkers prof 4 (fillIdle prof { x with out := [], at_ := now })

/-- Dark is entered: four DARK markers (R102), from Active after those of Quiet. -/
def streamDark (prof now : Nat) (quiet : Bool) (x : TxStream) : TxStream :=
  pushMarkers prof 6 (if quiet then passPilots now x else streamQuiet prof now x)

/-- A sync symbol was sent among the symbols. -/
def hasSync (x : TxStream) : Bool := x.out.any (fun y => y.t = 0)

/-- The 33 symbols of pilots only of the first 80 ns; a sync position among them is sent (R103). -/
def rampPilots (prof : Nat) (x : TxStream) : TxStream :=
  if x.sym = 0 || 1025 ≤ x.sym + 32 then
    { x with sym := (x.sym + 34) % 1025, pos := 0, lag := [],
             out := x.out ++ [{ t := 0, n := some prof, pos := 0, bits := [], lag := [] }] }
  else { x with sym := (x.sym + 33) % 1025 }

/-- The exit from Quiet: pilots for 80 ns unless the exit follows DARK markers (R106), then four WAKE markers; the first
data symbol follows, after a sync symbol where its place falls there (R103). -/
def streamWake (prof now : Nat) (ramp : Bool) (x : TxStream) : TxStream :=
  let x := passPilots now x
  openFrame prof (restart prof (if ramp then rampPilots prof x else x))

/-- The exit from Dark ends in four WAKE markers and a sync symbol that starts a new frame (R104). -/
def streamFresh (prof now : Nat) (x : TxStream) : TxStream :=
  openFrame prof (restart prof { x with sym := 1021, pos := 0, lag := [], at_ := now, out := [] })

end Sys2Proof.Machine
end

