-- ==== Sys2Proof/Machine/SampCore.lean ====
section
/-! DEFINITION. Precise sampling (19 R505 to R508): the countdown, the sampled transactions and their records. -/

namespace Sys2Proof.Machine

def sampEn (s : State) : Bool := s.perf.ctl.getLsbD 0
def sampJitter (s : State) : Bool := s.perf.ctl.getLsbD 1

/-- The interval the countdown is reloaded with, and the generator after it (R505). -/
def sampReload (s : State) : State :=
  let n := s.perf.n.toNat
  if sampJitter s then
    let x := lfsrNext s.perf.lfsr
    let h := n / 2
    { s with perf := { s.perf with lfsr := x, countdown := n - h + x.toNat % (2 * h + 1) } }
  else { s with perf := { s.perf with countdown := n } }

/-- An eligible transaction of class `c` passes: the countdown falls by 1, and at 0 the transaction is due to be
sampled and the countdown is reloaded (R505). -/
def sampEligible (s : State) (c : Nat) (x : Sample) : State :=
  if !s.faults.halted && sampEn s && s.perf.ctl.getLsbD (2 + c) then
    if s.perf.countdown ≤ 1 then
      sampReload { s with perf := { s.perf with due := s.perf.due ++ [x] } }
    else { s with perf := { s.perf with countdown := s.perf.countdown - 1 } }
  else s

/-- The record of a snoop this stack sends (R506, R507). -/
def snpSample (s : State) (node : Node) (ctx op region addr : Nat) : Sample :=
  { tag := BitVec.ofNat 16 ctx, node := node, ingress := 6, agentV := false, agent := 0, opcode := op,
    cls := 1, region := region, served := 0, addr := addr, len := 0, t0 := s.now, t1 := s.now, t2 := 0, t3 := 0 }

/-- A sampled transaction is open for this node, tag and class. -/
def sampIs (x : Sample) (node : Node) (tag : Tag) (snoop : Bool) : Bool :=
  x.node == node && x.tag == tag && (x.ingress = 6) == snoop

/-- Changing the open records of a transaction, and those due. -/
def sampMod (s : State) (node : Node) (tag : Tag) (snoop : Bool) (f : Sample → Sample) : State :=
  let g (x : Sample) : Sample := if sampIs x node tag snoop then f x else x
  { s with perf := { s.perf with open_ := s.perf.open_.map g, due := s.perf.due.map g } }

/-- T2 of a snoop: it leaves at its egress (R506). -/
def sampSent (s : State) (node : Node) (ctx : Nat) : State :=
  sampMod s node (BitVec.ofNat 16 ctx) true (fun x => if x.t2 = 0 then { x with t2 := s.now } else x)

/-- T2: the first command for a transaction, served as R507 codes it. -/
def sampFirst (s : State) (node : Node) (tag : Tag) (served : Nat) : State :=
  sampMod s node tag false (fun x => if x.t2 = 0 then { x with t2 := s.now, served := served } else x)

/-- T3: the final response is ready; T2 with it where no command came before (R506). -/
def sampReady (s : State) (node : Node) (tag : Tag) (snoop : Bool) : State :=
  sampMod s node tag snoop (fun x => { x with t2 := if x.t2 = 0 then s.now else x.t2, t3 := s.now })

/-- Whether STOP_FULL stops sampling (R508). -/
def traceStopped (s : State) : Bool := s.perf.stopFull && s.perf.valid.toNat = 4096

/-- Writing a record at NEXT (R508). -/
def traceWrite (s : State) (x : Sample) (status : Nat) : State :=
  if s.faults.halted then s
  else
    let i := s.perf.next.toNat
    { s with perf := { s.perf with
        trace := smSet none s.perf.trace i (some (x, status, s.now)),
        next := s.perf.next + 1,
        valid := BitVec.ofNat 13 (min 4096 (s.perf.valid.toNat + 1)) } }

/-- Sampling the oldest transaction due, or counting it lost (R508). -/
def sampTake (s : State) : State :=
  match s.perf.due with
  | [] => s
  | x :: rest =>
    let s := { s with perf := { s.perf with due := rest } }
    if s.perf.open_.length ≥ 64 || traceStopped s then
      occ { s with perf := { s.perf with lost := BitVec.ofNat 32 (satAdd 32 s.perf.lost.toNat 1) } } 0x10E 7 0xF 1
    else
      occ { s with perf := { s.perf with open_ := s.perf.open_ ++ [x], sampled := s.perf.sampled + 1 } } 0x10D 7 0xF 1

/-- T4: a sampled transaction ends, its record written (R507); one still due is sampled before, with those due before
it. -/
def sampEnd (s : State) (node : Node) (tag : Tag) (snoop : Bool) (status : Nat) : State :=
  let s := match s.perf.due.findIdx? (fun x => sampIs x node tag snoop) with
    | some i => (List.range (i + 1)).foldl (fun s _ => sampTake s) s
    | none => s
  match s.perf.open_.find? (fun x => sampIs x node tag snoop) with
  | some x =>
    traceWrite { s with perf := { s.perf with open_ := s.perf.open_.filter (fun y => !sampIs y node tag snoop) } } x status
  | none => s

/-- A trace record as 32 bytes (R507). -/
def traceBytes (r : Sample × Nat × Nat) : List (BitVec 8) :=
  let x := r.1
  let iv (a b w : Nat) : Nat := min (b - a) (2 ^ w - 1)
  leBytes x.tag.toNat 2 ++ leBytes x.node.toNat 2
    ++ leBytes (x.ingress + 8 * b2n x.agentV + 16 * (if x.agentV then x.agent else 0)) 1
    ++ leBytes x.opcode 1 ++ leBytes (x.cls + 8 * (r.2.1 % 16)) 1 ++ leBytes (x.region + 4 * x.served) 1
    ++ leBytes x.addr 6 ++ leBytes x.len 2 ++ leBytes (iv x.t0 x.t1 16) 2 ++ leBytes (iv x.t3 r.2.2 16) 2
    ++ leBytes (iv x.t1 x.t2 32) 4 ++ leBytes (iv x.t2 x.t3 32) 4 ++ leBytes (x.t0 % 2 ^ 32) 4

end Sys2Proof.Machine
end

