-- ==== Sys2Proof/Machine/TxCore.lean ====
section
/-! DEFINITION. Contexts and final responses (05 R152 to R155, R180): shared by every family that answers or ends a
request. -/

namespace Sys2Proof.Machine

def ctxGet (s : State) (i : Nat) : Option Ctx := s.tx.ctxs.find? (fun c => c.idx = i)
def modCtx (s : State) (i : Nat) (f : Ctx → Ctx) : State :=
  { s with tx := { s.tx with ctxs := s.tx.ctxs.map (fun c => if c.idx = i then f c else c) } }

/-- The context of an open request (05 R154): its final response has not been placed. -/
def ctxOpen (c : Ctx) : Bool := c.phase != .placed

/-- The open context with a (SRC, TAG), if any. -/
def openCtx (s : State) (src : Node) (tag : Tag) : Option Ctx :=
  s.tx.ctxs.find? (fun c => c.kind == .request && ctxOpen c && c.src == src && c.tag == tag)

/-- Contexts of a pool (05 R155). -/
def poolSize (ing : Nat) : Nat := if ing = 4 then 32768 else if ing < 4 then 6144 else 8192
def poolUsed (s : State) (ing : Nat) : Nat :=
  (s.tx.ctxs.filter (fun c => c.ing = ing && (ctxOpen c || c.quarantine.isSome))).length
def poolFree (s : State) (ing : Nat) : Bool := poolUsed s ing < poolSize ing

/-- A context index not in use, counting up from the last one given. -/
def freeIdx (s : State) : Nat :=
  let n := s.tx.ctxs.length
  match (List.range (n + 1)).find? (fun k => !s.tx.ctxs.any (fun c => c.idx = (s.tx.nextIdx + k) % 65536)) with
  | some k => (s.tx.nextIdx + k) % 65536
  | none => s.tx.nextIdx % 65536

/-- A context leaves the table once its response is placed, it is not quarantined and no chain, snoop or read refers
to it (05 R155, R176, R177). -/
def ctxDone (s : State) (c : Ctx) : Bool :=
  c.phase == .placed && c.quarantine.isNone && !s.tx.chain.any (fun i => i.ctx = c.idx)
    && !s.tx.snoops.any (fun n => n.ctx = c.idx)

def cleanCtxs (s : State) : State := { s with tx := { s.tx with ctxs := s.tx.ctxs.filter (fun c => !ctxDone s c) } }

/-- Block queues drop a context's read entries. -/
def dropReads (s : State) (i : Nat) : State :=
  { s with blocks := s.blocks.map (fun p => (p.1, { p.2 with rq := p.2.rq.filter (fun e =>
      match e.owner with
      | .ctx j _ => j ≠ i
      | _ => true) })) }

/-- Block queues withdraw a context's write entries (07 R221). -/
def dropWrites (s : State) (i : Nat) : State :=
  { s with blocks := s.blocks.map (fun p => (p.1, { p.2 with wq := p.2.wq.filter (fun e => e.ctx ≠ some i) })) }

/-- The final response has been placed in a flit, or ended without one (05 R155). -/
def ctxPlaced (s : State) (i : Nat) : State :=
  cleanCtxs (modCtx s i (fun c => { c with phase := .placed }))

/-- The first command for a context's request, if it is sampled (19 R506, R507). -/
def sampCtx (s : State) (i served : Nat) : State :=
  match ctxGet s i with
  | some c => sampFirst s c.src c.tag served
  | none => s

/-! ## Final responses -/

/-- The response to a request that carries only a status (05 R153): CMP, BULK_CMP or MG_RSP. -/
def statusMsg (s : State) (op : Nat) (src : Node) (tag : Tag) (h0 : Slot) (status addr : Nat) : Slot :=
  let hops := s.fab.hopLimit.toNat
  if op = opBulk then mkH0 opBulkCmp hops s.fab.stackNode src tag status addr
  else if op = opMgRd ∨ op = opMgWr then
    (mkH0 opMgRsp hops s.fab.stackNode src tag status 0)
      ||| BitVec.ofNat 128 (hMoff h0 * 2 ^ 64 + hSize h0 * 2 ^ 88)
  else mkH0 opCmp hops s.fab.stackNode src tag status addr

/-- Answering a request that holds no context. -/
def answerNoCtx (s : State) (ing : Nat) (m : Msg) (status addr : Nat) : State :=
  if ing ≥ 5 then s
  else (sendTo (sampReady s (hSrc m.h0) (hTag m.h0) false) (hSrc m.h0)
    (outMsg (statusMsg s (hOp m.h0) (hSrc m.h0) (hTag m.h0) m.h0 status addr) 0 [] none true false)).1

/-- Which region an occurrence of a request belongs to. -/
def occRegion (s : State) (ev r n : Nat) : State := occ s ev r 0xF n

/-- Free lines and allotment after n more lines return; a lower allotment that waits comes into force once the reserved
lines fit it (02 R59; 17 R470): allotment, free lines, waiting value. -/
def allotBack (allot free n : Nat) : Option Nat → Nat × Nat × Option Nat
  | none => (allot, free + n, none)
  | some v => if allot - (free + n) ≤ v then (v, v - (allot - (free + n)), none) else (allot, free + n, some v)

/-- Lines return to an ingress's response allotment. -/
def freeLines (s : State) (ing n : Nat) : State :=
  if ing = 4 then
    let r := allotBack s.wp.allot s.wp.allotFree n s.wp.allotNext
    { s with wp := { s.wp with allot := r.1, allotFree := r.2.1, allotNext := r.2.2 } }
  else if ing < 4 then
    modPort s ing (fun x =>
      let r := allotBack x.allot x.allotFree n x.allotNext
      { x with allot := r.1, allotFree := r.2.1, allotNext := r.2.2 })
  else s

/-- Queueing a context's final response: header, second slot, data. -/
def answerWith (s : State) (c : Ctx) (h0 h1 : Slot) (lines : List Line) : State :=
  let s := if hStatus h0 = stRetry then occRegion s 0x012 c.lead 1
           else if hStatus h0 = stPoisoned then occRegion s 0x013 c.lead 1 else s
  let s := sampReady s c.src c.tag false
  let s := modCtx s c.idx (fun c => { c with phase := .answered })
  if c.ing ≥ 5 then ctxPlaced s c.idx
  else
    -- lines reserved that the response does not carry go back, all of them where it has no egress
    let (s, ok) := sendTo s c.src { outMsg h0 h1 lines (some c.idx) true c.reserved with home := c.ing }
    let back := if ok then c.lines.length - lines.length else c.lines.length
    let s := if c.reserved then freeLines s c.ing back else s
    if ok then s else ctxPlaced (sampEnd s c.src c.tag false 15) c.idx

/-- Answering a context with a status and no data. -/
def answerStatus (s : State) (c : Ctx) (status addr : Nat) : State :=
  answerWith s c (statusMsg s c.op c.src c.tag c.h0 status addr) 0 []

/-- A CMP that grants (05 R148, R174): GRANT in bits 112..111. -/
def answerCmp (s : State) (c : Ctx) (status addr grant : Nat) : State :=
  answerWith s c
    (mkH0 opCmp s.fab.hopLimit.toNat s.fab.stackNode c.src c.tag status addr ||| BitVec.ofNat 128 (grant * 2 ^ 111))
    0 []

/-- RSP_DATA (05 R148, R149, R180): poisoned lines are zeros with their bit set; STATUS POISONED and ADDR name the
first of them. -/
def answerData (s : State) (c : Ctx) (ls : List (Line × Bool)) (addrs : List Nat) (grant : Nat) : State :=
  let pois := (ls.zipIdx).filter (fun p => p.1.2)
  let status := if pois.isEmpty then stOk else stPoisoned
  let addr := match pois.head? with
    | some p => (addrs[p.2]?).getD 0
    | none => hAddr c.h0
  let h0 := mkH0 opRspData s.fab.hopLimit.toNat s.fab.stackNode c.src c.tag status addr
    ||| BitVec.ofNat 128 ((ls.length - 1) % 64 * 2 ^ 111 + grant * 2 ^ 117)
  let h1 : Slot := BitVec.ofNat 128 (pois.foldl (fun a p => a + 2 ^ p.2) 0)
  answerWith s c h0 h1 (ls.map (fun p => if p.2 then 0 else p.1))

/-- Ending a context with RETRY or REGION_DOWN before its work is performed: its reads and writes leave the block
queues, its chain items and reservations are given up (05 R170; 12 R354; 13 R378). -/
def endCtx (s : State) (c : Ctx) (status : Nat) : State :=
  let s := dropWrites (dropReads s c.idx) c.idx
  let s := { s with
    wp := { s.wp with allotQ := s.wp.allotQ.filter (fun a => a.ctx ≠ c.idx) },
    fp := s.fp.map (fun p => (p.1, { p.2 with allotQ := p.2.allotQ.filter (fun a => a.ctx ≠ c.idx) })) }
  -- lines reserved and never placed return to the allotment
  let lines := c.lines.length
  let s := if c.reserved then freeLines s c.ing lines else s
  let s := modCtx s c.idx (fun c => { c with reserved := false, lines := c.lines.map (fun l => { l with done := true }) })
  let s := { s with tx := { s.tx with
    chain := s.tx.chain.filter (fun i => i.ctx ≠ c.idx || i.phase == .snoop || i.phase == .unknown) } }
  answerStatus s { c with reserved := false } status (hAddr c.h0)

/-! ## Regions a request touches -/

/-- DPA lines of a request: decoded from its Fabric Address, ascending. -/
def reqLines (s : State) (h0 : Slot) : List (Nat × Nat) :=
  let n := if hOp h0 = opRdLong ∨ hOp h0 = opWrLong then hLen h0 + 1 else 1
  match mapFa s.fab.windows (hAddr h0 * 64) with
  | some m => (List.range n).map (fun i => (hAddr h0 + i, m.dpa + 64 * i))
  | none => []

/-- Regions that hold lines of a request. -/
def reqRegions (s : State) (h0 : Slot) : List Nat :=
  let ls := reqLines s h0
  (List.range 4).filter (fun r => ls.any (fun l => (decodeDpa (nRegions s) l.2).region = r))

def regionStopped (s : State) (r : Nat) : Bool := s.faults.stopped.getLsbD r

/-- The pipelines accept requests: after release, outside a retaining reset and a thermal stop (13 R377; 16 R442,
R450). -/
def pipesOpen (s : State) : Bool := s.boot.phase == .released && s.heat.stop == .running

/-- A stopped region's reset is in progress (12 R356). -/
def resetting (s : State) (r : Nat) : Bool := (smGet none s.faults.resets r).isSome

/-- Lead region of a long request (05 R157): TAG mod N, or the next region that is not stopped; every other request's
lead region is its line's. -/
def leadRegion (s : State) (h0 : Slot) : Nat :=
  if hOp h0 = opRdLong ∨ hOp h0 = opWrLong then
    let n := nRegions s
    let r0 := (hTag h0).toNat % n
    match (List.range n).find? (fun k => !regionStopped s ((r0 + k) % n)) with
    | some k => (r0 + k) % n
    | none => r0
  else (reqRegions s h0).head?.getD 0

/-- Physical blocks of a region. -/
def regionBlocks (r : Nat) : List Nat := (List.range 9).map (fun k => 9 * r + k)

/-- Whether a range of lines (DPA line numbers) has a line in a region; 64 chunks of four lines meet every block. -/
def rangeTouches (s : State) (dpa count r : Nat) : Bool :=
  let first := dpa / 256
  let last := (dpa + 64 * (count - 1)) / 256
  (List.range (min 64 (last - first + 1))).any (fun k => (decodeDpa (nRegions s) ((first + k) * 256)).region = r)

end Sys2Proof.Machine
end

