-- ==== Sys2Proof/Machine/RegCore.lean ====
section
/-! DEFINITION. The regulator's operations (10): entries, scale, buckets, charges, release and refund. -/

namespace Sys2Proof.Machine

/-! ## Entries (10 R313, R315) -/

def regDefault : RegEntry := 0x8080000000
def rMin (e : RegEntry) : Nat := (e.extractLsb' 0 15).toNat
def rCeilEn (e : RegEntry) : Bool := e.getLsbD 15
def rCeil (e : RegEntry) : Nat := (e.extractLsb' 16 15).toNat
def rWeight (e : RegEntry) : Nat := (e.extractLsb' 31 8).toNat
def rDepth (e : RegEntry) : Nat := (e.extractLsb' 39 8).toNat

/-- Field checks of an entry (10 R313). -/
def rEntryOk (e : RegEntry) : Bool :=
  rMin e ≤ 16000 && rDepth e ≥ 1 && (e.toNat >>> 47) == 0 &&
  (if rCeilEn e then 1 ≤ rCeil e && rCeil e ≤ 20480 && rMin e ≤ rCeil e else rCeil e == 0)

/-- Checks of the bulk-class fields (10 R315). -/
def bulkOk (b : BulkCfg) : Bool :=
  b.min.toNat ≤ 16000 && b.depth.toNat ≥ 1 &&
  (if b.ceilEn then 1 ≤ b.ceil.toNat && b.ceil.toNat ≤ 20480 && b.min.toNat ≤ b.ceil.toNat else b.ceil == 0)

def regEntry (s : State) (n : Nat) : RegEntry := smGet regDefault s.reg.masters n
def regSt (s : State) (n : Nat) : RegMaster := smGet {} s.reg.st n
def putRegSt (s : State) (n : Nat) (m : RegMaster) : State :=
  { s with reg := { s.reg with st := smSet {} s.reg.st n m } }

/-- WCLASS of a window (10 R308). -/
def wclassOf (s : State) (w : Nat) : Nat := (smGet 0 s.reg.wclass w).toNat

/-- WCLASS values legal for an address class (10 R308). -/
def wclassOk (wc : Nat) (c : AClass) : Bool :=
  match c with
  | .bulk => wc == 2
  | _ => wc == 0 || wc == 1

/-! ## The Deliverable Floor and the scale (10 R309 to R312) -/

/-- SUM of a table: every MIN and BULK_MIN (10 R311). -/
def sumOf (masters : SMap RegEntry) (bulk : BulkCfg) : Nat :=
  masters.foldl (fun a p => a + rMin p.2) bulk.min.toNat
def regSum (s : State) : Nat := sumOf s.reg.masters s.reg.bulk

/-- Logical blocks of enabled regions that are not stopped (10 R309). -/
def blocksServing (s : State) : Nat :=
  8 * ((List.range (nRegions s)).filter (fun r => !regionStopped s r)).length

/-- DF in force: the written value, or 500 for each logical block in service until the first write (10 R310) and while
Larder does not run (16 R441). -/
def dfNow (s : State) : Nat := if s.reg.dfWritten && s.boot.larder == .running then s.reg.df.toNat else 500 * blocksServing s

/-- S of 10 R312. -/
def scaleOf (df sum : Nat) : Nat := if df ≥ sum ∨ sum = 0 then 4096 else df * 4096 / sum

def minEff (s : State) (n : Nat) : Nat := rMin (regEntry s n) * s.reg.scale / 4096
def bulkMinEff (s : State) : Nat := s.reg.bulk.min.toNat * s.reg.scale / 4096

/-! ## Buckets, in quarter-bytes (10 R304) -/

def depthQ (d : Nat) : Int := (d * 16384 : Nat)

/-- A bucket after dt ticks of a gain. -/
def fillTo (v : Int) (gain dt : Nat) (cap : Int) : Int := min cap (v + (gain * dt : Nat))

/-- One master's buckets after dt ticks. -/
def fillMaster (s : State) (dt : Nat) (e : RegEntry) (m : RegMaster) : RegMaster :=
  let g := rMin e * s.reg.scale / 4096
  { m with
    guar := if g = 0 then min m.guar 0 else fillTo m.guar g dt (depthQ (rDepth e)),
    ceil := if rCeilEn e then fillTo m.ceil (rCeil e) dt (depthQ (rDepth e)) else 0 }

/-- Buckets advanced to the present tick; only listed entries have a minimum or a ceiling. -/
def regAdvance (s : State) : State :=
  let dt := s.now - s.reg.upTo
  if dt = 0 then s
  else
    let st := s.reg.masters.foldl (fun st p => smMod {} st p.1 (fillMaster s dt p.2)) s.reg.st
    let b := s.reg.bulk
    let g := bulkMinEff s
    let bs := { s.reg.bulkSt with
      guar := if g = 0 then min s.reg.bulkSt.guar 0 else fillTo s.reg.bulkSt.guar g dt (depthQ b.depth.toNat),
      ceil := if b.ceilEn then fillTo s.reg.bulkSt.ceil b.ceil.toNat dt (depthQ b.depth.toNat) else 0 }
    { s with reg := { s.reg with st := st, bulkSt := bs, upTo := s.now } }

/-- Both buckets of every entry full, a guarantee bucket with MIN_EFF 0 empty (10 R304, at load). -/
def regFill (s : State) : State :=
  { s with reg := { s.reg with
      st := s.reg.masters.foldl (fun st p => smMod {} st p.1 (fun m =>
        { m with guar := if minEff s p.1 = 0 then 0 else depthQ (rDepth p.2),
                 ceil := if rCeilEn p.2 then depthQ (rDepth p.2) else 0 })) s.reg.st,
      bulkSt := { s.reg.bulkSt with
        guar := if bulkMinEff s = 0 then 0 else depthQ s.reg.bulk.depth.toNat,
        ceil := if s.reg.bulk.ceilEn then depthQ s.reg.bulk.depth.toNat else 0 },
      upTo := s.now } }

/-- S recomputed at a write of DF and at a commit; a change raises C0 0x0A02 with S, DF and SUM (10 R312; 17 R477). -/
def regRescale (s : State) : State :=
  let sum := regSum s
  let df := dfNow s
  let n := scaleOf df sum
  if n = s.reg.scale then s
  else
    let s := regAdvance s
    let s := { s with reg := { s.reg with scale := n } }
    c0 s 8 0x0A02 (n + df * 2 ^ 16 + sum * 2 ^ 32) 0

/-! ## Charges (10 R300; 08 R253) -/

/-- The operation and step a waiting Trowel step belongs to. -/
def stepOf (s : State) (op no : Nat) : Option (TStep × BulkOp) :=
  match s.trowel.steps.find? (fun t => t.op = op && t.no = no), s.trowel.ops.find? (fun o => o.id = op) with
  | some t, some o => some (t, o)
  | _, _ => none

/-- Lines a step reads and writes that no pipeline has accepted: line address and DPA line, of the target range, and of the
source range (08 R253). -/
def stepSpan (s : State) (t : TStep) (o : BulkOp) : List (Nat × Nat) :=
  match s.tx.ctxs.find? (fun c => c.idx = t.ctx) with
  | some c => (c.lines.filter (fun l => !l.accepted && !l.done)).map (fun l => (l.fa, l.dpa / 64))
  | none =>
    let span (fa dpa n : Nat) : List (Nat × Nat) := (List.range n).map (fun i => (fa + i, dpa + i))
    if o.bop = 0 ∨ o.bop = 3 then
      span (o.dst + t.first) (o.dpaDst + t.first) t.count ++ span (o.src + t.first) (o.dpaSrc + t.first) t.count
    else if o.bop = 1 ∧ t.count = 0 then [(o.src, o.dpaSrc)]
    else span (o.dst + t.first) (o.dpaDst + t.first) t.count

def stepFas (s : State) (t : TStep) (o : BulkOp) : List Nat := (stepSpan s t o).map (fun p => p.1)

/-- What a waiting request is charged: to the master, and to the bulk class. -/
structure Charge where
  own : Nat
  bulk : Nat
  /-- every window outside the bulk class is STANDARD -/
  std : Bool
  deriving DecidableEq, Repr, Inhabited

def winOfAddr (s : State) (la : Nat) : Option Mapped := mapFa s.fab.windows (la * 64)

/-- Class of the window of a line (05 R163). -/
def lineCls (s : State) (la : Nat) : AClass :=
  match winOfAddr s la with
  | some m => m.cls
  | none => .tracked

def isStd (s : State) (m : Option Mapped) : Bool :=
  match m with
  | some w => wclassOf s w.win == 0
  | none => false

def reqBytes (h0 : Slot) : Nat :=
  let op := hOp h0
  if op = opRdLong ∨ op = opWrLong then 64 * (hLen h0 + 1)
  else if op = opEvictClean ∨ op = opBulk then 0 else 64

def chargeOf (s : State) (w : Waiting) : Charge :=
  match w.step with
  | some (op, no) =>
    match stepOf s op no with
    | some (t, o) =>
      let own := (stepFas s t o).filter (fun a => lineCls s a != .bulk)
      { own := 64 * own.length, bulk := 64 * ((stepFas s t o).length - own.length),
        std := own.all (fun a => isStd s (winOfAddr s a)) }
    | none => { own := 0, bulk := 0, std := true }
  | none =>
    let n := reqBytes w.msg.h0
    match winOfAddr s (hAddr w.msg.h0) with
    | some m => if m.cls == .bulk then { own := 0, bulk := n, std := true }
                else { own := n, bulk := 0, std := wclassOf s m.win == 0 }
    | none => { own := n, bulk := 0, std := false }

/-- The master a waiting request is regulated as (10 R299; 08 R253). -/
def masterOf (s : State) (w : Waiting) : Node :=
  match w.step with
  | some (op, no) => (match stepOf s op no with
    | some (_, o) => o.master
    | none => 0)
  | none => hSrc w.msg.h0

/-! ## Release (10 R302, R305, R306) -/

/-- A bucket permits a charge: it holds it, or the charge exceeds the depth and the bucket is full. -/
def permits (v : Int) (bytes : Nat) (cap : Int) : Bool :=
  let q : Int := (4 * bytes : Nat)
  q ≤ v || (cap < q && cap ≤ v)

def ceilPermits (s : State) (n : Nat) (bytes : Nat) : Bool :=
  let e := regEntry s n
  !rCeilEn e || permits (regSt s n).ceil bytes (depthQ (rDepth e))

def bulkCeilPermits (s : State) (bytes : Nat) : Bool :=
  bytes = 0 || !s.reg.bulk.ceilEn || permits s.reg.bulkSt.ceil bytes (depthQ s.reg.bulk.depth.toNat)

/-- Head of a master's queue at an ingress. -/
def heldHead (s : State) (ing : Nat) (master : Node) : Option Waiting :=
  s.tx.held.find? (fun w => w.ing = ing && masterOf s w == master)

/-- Every queue's head: a held header with no earlier one of its master at its ingress. -/
def heldHeads (s : State) : List Waiting :=
  s.tx.held.filter (fun w => (heldHead s w.ing (masterOf s w)).map Waiting.arr == some w.arr)

/-- Both ceilings permit a charge. -/
def ceilings (s : State) (n : Nat) (c : Charge) : Bool :=
  ceilPermits s n (c.own + c.bulk) && bulkCeilPermits s c.bulk

/-- Rule 1 or rule 2 (10 R305), leaving aside the order among bulk requests. -/
def guarRule (s : State) (w : Waiting) : Option RelClass :=
  let n := (masterOf s w).toNat
  let c := chargeOf s w
  let ownOk := c.own = 0 || (c.std && permits (regSt s n).guar c.own (depthQ (rDepth (regEntry s n))))
  let bulkOk := c.bulk = 0 || permits s.reg.bulkSt.guar c.bulk (depthQ s.reg.bulk.depth.toNat)
  if ownOk && bulkOk && ceilings s n c then some (if c.bulk = 0 then .guaranteed else .bulkGuaranteed) else none

/-- Bulk-class requests draw on the bulk bucket oldest first (10 R308). -/
def bulkFirst (s : State) (w : Waiting) : Bool :=
  !(heldHeads s).any (fun v => (chargeOf s v).bulk ≠ 0 && v.arr < w.arr && ceilings s (masterOf s v).toNat (chargeOf s v))

/-- The release class by rules 1 and 2. -/
def guarRelease (s : State) (w : Waiting) : Option RelClass :=
  match guarRule s w with
  | some .bulkGuaranteed => if bulkFirst s w then some .bulkGuaranteed else none
  | r => r

/-- Contenders for shared bandwidth (10 R306). -/
def contends (s : State) (w : Waiting) : Bool :=
  let n := (masterOf s w).toNat
  (guarRelease s w).isNone && ceilings s n (chargeOf s w) && rWeight (regEntry s n) ≠ 0

/-- Lines of a waiting request in a region, as far as the shared backlog needs them (10 R306). -/
def waitLinesIn (s : State) (w : Waiting) (r : Nat) : Nat :=
  match w.step with
  | some (op, no) =>
    (match stepOf s op no with
     | some (t, o) => ((stepSpan s t o).filter (fun p => (decodeDpa (nRegions s) (64 * p.2)).region = r)).length
     | none => 0)
  | none => ((reqLines s w.msg.h0).filter (fun l => (decodeDpa (nRegions s) l.2).region = r)).length

/-- A region's shared backlog: shared-released lines not yet accepted, and shared lines in its block queues. -/
def sharedBacklog (s : State) (r : Nat) : Nat :=
  let a := s.tx.waiting.foldl (fun n w =>
    if w.rel == .shared && hOp w.msg.h0 ≠ opWrback then n + waitLinesIn s w r else n) 0
  (regionBlocks r).foldl (fun n b =>
    let k := blk s b
    n + (k.rq.filter (fun e => e.rank = 7 && e.pool)).length + (k.wq.filter (fun e => e.rank = 7)).length) a

def waitTouches (s : State) (w : Waiting) : List Nat :=
  (List.range 4).filter (fun r => waitLinesIn s w r ≠ 0)

def backlogOk (s : State) (w : Waiting) : Bool := (waitTouches s w).all (fun r => sharedBacklog s r < 2048)

/-- Rounds a contender needs before its deficit covers its head's charge. -/
def roundsFor (s : State) (w : Waiting) : Nat :=
  let n := (masterOf s w).toNat
  let c := chargeOf s w
  let need := c.own + c.bulk - (regSt s n).deficit
  let q := rWeight (regEntry s n) * 64
  (need + q - 1) / q

/-- Deficits of masters that do not contend are dropped (10 R306). -/
def dropDeficits (s : State) (cont : List Waiting) : State :=
  let ms := cont.map (fun w => (masterOf s w).toNat)
  { s with reg := { s.reg with st := s.reg.st.foldl (fun st p =>
      if ms.contains p.1 then st else smMod {} st p.1 (fun m => { m with deficit := 0 })) s.reg.st } }

/-- Rounds of the arbiter: as many as the nearest contender needs; a deficit grows by WEIGHT × 64 each round. -/
def arbiterRounds (s : State) (cont : List Waiting) : State :=
  let k := match cont.map (roundsFor s) with
    | [] => 0
    | a :: l => minNat a l
  if k = 0 then s
  else (cont.map (fun w => (masterOf s w).toNat)).eraseDups.foldl (fun s n =>
    putRegSt s n { regSt s n with deficit := (regSt s n).deficit + k * rWeight (regEntry s n) * 64 }) s

/-- Debiting a charge from a master's buckets and the bulk class's, by the rule that released it. -/
def debit (s : State) (n : Nat) (c : Charge) (rel : RelClass) (sign : Int) : State :=
  let e := regEntry s n
  let m := regSt s n
  let q (b : Nat) : Int := sign * (4 * b : Nat)
  let cap := depthQ (rDepth e)
  let m := { m with
    guar := if rel == .shared || c.own = 0 || minEff s n = 0 then m.guar else min cap (m.guar - q c.own),
    ceil := if rCeilEn e then min cap (m.ceil - q (c.own + c.bulk)) else m.ceil }
  let s := putRegSt s n m
  let bcap := depthQ s.reg.bulk.depth.toNat
  let bs := s.reg.bulkSt
  { s with reg := { s.reg with bulkSt := { bs with
      guar := if rel == .shared || c.bulk = 0 || bulkMinEff s = 0 then bs.guar else min bcap (bs.guar - q c.bulk),
      ceil := if s.reg.bulk.ceilEn then min bcap (bs.ceil - q c.bulk) else bs.ceil } } }

/-- A charge given back to every bucket it came from (10 R301); a WRBACK's came from both of its master's (10 R304). -/
def refund (s : State) (w : Waiting) : State :=
  let s := regAdvance s
  debit s (masterOf s w).toNat (chargeOf s w) (if hOp w.msg.h0 = opWrback then .guaranteed else w.rel) (-1)

/-- The class that gives a request its rank before its release: a WRBACK takes rank 7 in a BEST_EFFORT window (10 R304). -/
def firstRel (s : State) (h0 : Slot) : RelClass :=
  if hOp h0 = opWrback && (winOfAddr s (hAddr h0)).any (fun m => wclassOf s m.win = 1) then .shared else .guaranteed

/-- WRBACK: released at once, debited from both buckets down to minus DEPTH (10 R304). -/
def debitWrback (s : State) (n : Nat) (c : Charge) : State :=
  let s := regAdvance s
  let e := regEntry s n
  let m := regSt s n
  let cap := depthQ (rDepth e)
  let q : Int := (4 * (c.own + c.bulk) : Nat)
  putRegSt s n { m with
    guar := if minEff s n = 0 then m.guar else max (-cap) (m.guar - q),
    ceil := if rCeilEn e then max (-cap) (m.ceil - q) else m.ceil }

/-- A held request leaves its queue released: its header credit, and a write's line credits, return (02 R53). -/
def releaseHeld (s : State) (w : Waiting) (rel : RelClass) : State :=
  let s := { s with tx := { s.tx with
    held := s.tx.held.filter (fun v => v.arr ≠ w.arr),
    waiting := s.tx.waiting ++ [{ w with rel := rel }] } }
  let s := match w.step with
    | some (op, no) => { s with trowel := { s.trowel with steps := s.trowel.steps.map (fun t =>
        if t.op = op && t.no = no then { t with rel := rel } else t) } }
    | none => s
  let s := occ s (if rel == .shared then 0x109 else 0x108) 7 0xF 1
  retMsg s w

/-- Releasing the head of a master's queue by the first rule that applies; no change when none does (10 R305). -/
def releaseHead (s : State) (ing : Nat) (master : Node) : State :=
  let s := regAdvance s
  match heldHead s ing master with
  | none => s
  | some w =>
    let n := master.toNat
    match guarRelease s w with
    | some rel => releaseHeld (debit s n (chargeOf s w) rel 1) w rel
    | none =>
      let cont := (heldHeads s).filter (fun v => contends s v && backlogOk s v)
      if cont.any (fun v => v.arr = w.arr) then
        let s := arbiterRounds (dropDeficits s ((heldHeads s).filter (contends s))) cont
        let c := chargeOf s w
        let m := regSt s n
        if c.own + c.bulk ≤ m.deficit then
          let s := putRegSt s n { m with deficit := m.deficit - (c.own + c.bulk) }
          releaseHeld (debit s n c .shared 1) w .shared
        else s
      else s

end Sys2Proof.Machine
end

