-- ==== Sys2Proof/Machine/Shadow.lean ====
section
/-! DEFINITION. Shadow units and staging rings of a region (06 R203 to R205). -/

namespace Sys2Proof.Machine

/-- Rings in use in one staging unit. -/
def ringsIn (u : UcRegion) (k : Nat) : Nat := (u.rings.filter (fun x => x.1 = k)).length

/-- Units held by staging: a unit is released with its last ring (R203). -/
def stageUnits (u : UcRegion) : Nat := ((List.range 2).filter (fun k => ringsIn u k ≠ 0)).length

/-- Units claimed in a region. -/
def unitsUsed (u : UcRegion) : Nat := u.reloc + stageUnits u + u.testUnits.length

def holdsRing (u : UcRegion) (x : RingUser) : Bool := u.rings.any (fun y => y.2 == x)

/-- The unit a ring is free in: one that stages already, else a unit no claim holds, of at most two. -/
def ringUnit (u : UcRegion) : Option Nat :=
  match (List.range 2).find? (fun k => 0 < ringsIn u k && ringsIn u k < 16) with
  | some k => some k
  | none => if unitsUsed u < u.units then (List.range 2).find? (fun k => ringsIn u k = 0) else none

/-- Lines a user of a region's base-die buffer stages there: a migration one row, a step the lines it writes (R206). -/
def stagedLines (s : State) (r : Nat) (x : RingUser) : Nat :=
  match x with
  | .migration => 32
  | .trowel op no =>
    match s.trowel.steps.find? (fun t => t.op = op && t.no = no) with
    | some t => (match s.tx.ctxs.find? (fun c => c.idx = t.ctx) with
      | some c => (c.lines.filter (fun l => l.wr && l.region = r)).length
      | none => 0)
    | none => 0

/-- The 64 KiB buffer of a region without its Undercoat has room for a user's lines. -/
def bufferRoom (s : State) (r : Nat) (u : UcRegion) (x : RingUser) : Bool :=
  u.rings.foldl (fun n y => n + stagedLines s r y.2) (stagedLines s r x) ≤ 1024

/-- Where the first waiter of a region stages. -/
def stagePlace (s : State) (r : Nat) (u : UcRegion) (x : RingUser) : Option Nat :=
  if ucOn s r then ringUnit u else if bufferRoom s r u x then some 2 else none

/-- The first waiter gets a ring, if one is free. -/
def giveRing (s : State) (r : Nat) (u : UcRegion) : UcRegion :=
  match u.ringWait with
  | x :: l => (match stagePlace s r u x with
    | some k => { u with ringWait := l, rings := u.rings ++ [(k, x)] }
    | none => u)
  | [] => u

/-- A user asks for a ring, behind those that wait. -/
def askRing (u : UcRegion) (x : RingUser) : UcRegion :=
  if holdsRing u x || u.ringWait.contains x then u else { u with ringWait := u.ringWait ++ [x] }

/-- A user gives up its ring, or its place among those that wait. -/
def dropRing (u : UcRegion) (x : RingUser) : UcRegion :=
  { u with rings := u.rings.filter (fun y => y.2 != x), ringWait := u.ringWait.filter (fun y => y != x) }

/-- Waiting holders get the rings that are free, in arrival order (R204). -/
def giveRings (s : State) : State :=
  (List.range 4).foldl (fun s r =>
    let u := ucReg s r
    if u.ringWait.isEmpty then s
    else
      let v := u.ringWait.foldl (fun u _ => giveRing s r u) u
      let s := ucRegPut s r v
      if holdsRing v .migration then putMigr s r { migr s r with ring := true } else s) s

/-- Ring holders lose their rings and wait again, in order, ahead of the others (R204). -/
def restartRings (s : State) (r : Nat) : State :=
  let u := ucReg s r
  let s := ucRegPut s r { u with rings := [], ringWait := u.rings.map (fun x => x.2) ++ u.ringWait }
  putMigr s r { migr s r with ring := false }

end Sys2Proof.Machine
end

