-- ==== Sys2Proof/Machine/TestCore.lean ====
section
/-! DEFINITION. Runs of the self-test that other families start or end (18 R485 to R488): signature, end of a run. -/

namespace Sys2Proof.Machine

/-- The signature register after a step word (18 R487). -/
def sigStep (m : BitVec 64) (w : Nat) : BitVec 64 :=
  (m <<< 1) ^^^ BitVec.ofNat 64 w ^^^ (if m.getLsbD 63 then 0x1B else 0)

/-- The field of the signature's polynomial, x^64 + x^4 + x^3 + x + 1. -/
def gfSig : GF := { m := 64, poly := 2 ^ 64 + 0x1B }

/-- x^n by squaring; the second argument bounds the bits of n. -/
def sigPow (n : Nat) : Nat → Nat
  | 0 => 1
  | k + 1 =>
    let h := sigPow (n / 2) k
    let q := gfMul gfSig h h
    if n % 2 = 1 then gfX gfSig q else q

def sigInit : BitVec 64 := 0xFFFFFFFFFFFFFFFF

/-- Golden signature G(n): n steps of W = 0 and the final update with W = n (18 R487). -/
def golden (n : Nat) : BitVec 64 := sigStep (BitVec.ofNat 64 (gfMul gfSig sigInit.toNat (sigPow n 40))) n

def runOpen (t : TestRun) : Bool := t.phase != .ended
def runGet (s : State) (id : Nat) : Option TestRun := s.test.runs.find? (fun t => t.id = id)
def modRun (s : State) (id : Nat) (f : TestRun → TestRun) : State :=
  { s with test := { s.test with runs := s.test.runs.map (fun t => if t.id = id then f t else t) } }

/-- RESULT code of a run (18 R488). -/
def resultCode : TResult → Nat
  | .running => 0
  | .pass => 1
  | .fail => 2
  | .incomplete => 3
  | .deferred => 4

/-- A run ends: the signature's last update, its duration, its unit given back, and the C0 condition "run ended". -/
def endRun (s : State) (id : Nat) (res : TResult) : State :=
  match runGet s id with
  | some t =>
    if t.phase == .ended then s
    else
      let s := modRun s id (fun t => { t with
        result := res, phase := .ended, unit := none, durUs := (s.now - t.startAt) / 1000, sigM := sigStep t.sigM t.steps })
      let s := (List.range 4).foldl (fun s r =>
        let u := ucReg s r
        if u.testUnits.contains id then ucRegPut s r { u with testUnits := u.testUnits.filter (fun x => x ≠ id) } else s) s
      let s := if t.kind = 1 && (blk s t.pblock).st == .bist then modBlk s t.pblock (fun k => { k with st := .retired }) else s
      c0 s 16 0x1201 (id + resultCode res * 2 ^ 32) 0
  | none => s

/-- Open runs end INCOMPLETE (18 R495): at once while their subarray is in DRAM; a subarray in its unit is restored
first, at rank 8 when forced, or kept for the resume or region reset, and its run ends at the hand-out (DEDUCED, log
197). -/
def incompleteRuns (s : State) (sel : TestRun → Bool) (forced : Bool) : State :=
  ((s.test.runs.filter (fun t => runOpen t && sel t)).map TestRun.id).foldl (fun s id =>
    match runGet s id with
    | some t =>
      if t.kind = 2 && t.unit.isSome && (t.phase == .march || t.phase == .restore) then
        modRun s id (fun t => { t with endWith := some .incomplete, forced := forced })
      else endRun s id .incomplete
    | none => s) s

/-! ## Units taken from tests (06 R203, R205) -/

/-- Claims of a higher rank take the units they lack from tests, the most recently started first: each ends with a forced
restore, and its unit is free once that is done. -/
def yieldTests (s : State) (r : Nat) : State :=
  let u := ucReg s r
  let lack := (unitsUsed u - u.units) +
    (if u.ringWait.isEmpty || (ringUnit u).isSome || 2 ≤ stageUnits u then 0 else 1)
  let mine := s.test.runs.filter (fun t => runOpen t && u.testUnits.contains t.id)
  let ids := (((mine.filter (fun t => !t.forced)).reverse).take (lack - (mine.filter (fun t => t.forced)).length)).map TestRun.id
  if ids.isEmpty then s else incompleteRuns s (fun t => ids.contains t.id) true

/-! ## Conditions (18 R494) -/

/-- VDD_CORE in 0.66 V to 0.80 V, every base-die value in use at or below 95 °C, the timing unit LOCKED. -/
def testConds (s : State) : Bool :=
  !s.pace.vddOut && s.cal.timing == .locked && (List.range 16).all (fun i => s16 (tpos s (72 + i)).value ≤ 1520)

/-- A run set back to its checkpoint and DEFERRED. -/
def deferRun (now : Nat) (t : TestRun) : TestRun :=
  { t with result := .deferred, phase := .waitUnit, unit := none, saStep := 0, sigM := t.ckM, steps := t.ckSteps,
           endWith := none, forced := false, deferSince := some now }

/-- A unit is given back. -/
def freeTestUnit (s : State) (r id : Nat) : State :=
  let u := ucReg s r
  if u.testUnits.contains id then ucRegPut s r { u with testUnits := u.testUnits.filter (fun x => x ≠ id) } else s

/-- A run loses its conditions: one whose subarray lies in its unit is restored first. -/
def loseConds (s : State) (t : TestRun) : State :=
  if t.unit.isSome && (t.phase == .march || t.phase == .restore) then
    modRun s t.id (fun t => { t with endWith := some .deferred })
  else freeTestUnit (modRun s t.id (deferRun s.now)) (t.pblock / 9) t.id

/-- The conditions are checked, at a thermal or pace sample. -/
def checkConds (s : State) : State :=
  if testConds s then
    { s with test := { s.test with condSince := some (s.test.condSince.getD s.now) } }
  else
    let s := { s with test := { s.test with condSince := none } }
    (s.test.runs.filter (fun t => runOpen t && t.result == .running && t.endWith.isNone)).foldl loseConds s

/-- Records of the 16 latest runs are kept (18 R485). -/
def keepRuns (l : List TestRun) : List TestRun :=
  match l.findIdx? (fun t => !runOpen t) with
  | some i => if l.length < 16 then l else l.eraseIdx i
  | none => l

/-- The conditions have held without a break for 10 ms. -/
def condsHeld (s : State) : Bool :=
  testConds s && (match s.test.condSince with
    | some t => waited s t (ms 10)
    | none => false)

/-- A deferred run starts or resumes; a block BIST from its first step. -/
def resumeRun (now : Nat) (t : TestRun) : TestRun :=
  { t with result := .running, deferSince := none, deferTotal := t.deferTotal + (now - t.deferSince.getD now),
           phase := if t.kind = 1 then .bist else .waitUnit, stepAt := now }

def resumeRuns (s : State) : State :=
  (s.test.runs.filter (fun t => runOpen t && t.result == .deferred)).foldl (fun s t =>
    let s := modRun s t.id (resumeRun s.now)
    if t.kind = 1 then modBlk s t.pblock (fun k => { k with st := .bist }) else s) s

/-- A new run with its TEST_ID; it waits for its unit, or a block BIST for its block, under the conditions of R494. -/
def openRun (s : State) (kind pb bank firstSa countSa : Nat) : State :=
  let t : TestRun :=
    { id := s.test.nextId, kind := kind, pblock := pb, bank := bank, firstSa := firstSa, countSa := countSa,
      result := .deferred, phase := .waitUnit, coverage := 0, startAt := s.now, durUs := 0, sigM := sigInit, steps := 0,
      expected := if kind = 1 then 44635136 else 10240 * countSa, ckM := sigInit, ckSteps := 0, unit := none, saStep := 0,
      endWith := none, forced := false, deferSince := some s.now, deferTotal := 0, mism := [], stepAt := s.now,
      charged := false }
  let s := { s with test := { s.test with runs := keepRuns s.test.runs ++ [t], nextId := s.test.nextId + 1 } }
  if condsHeld s then resumeRuns s else s

end Sys2Proof.Machine
end

