-- ==== Sys2Proof/Machine/Faults.lean ====
section
/-! DEFINITION. Fault collection (12): records, second faults, the chip log, region stop, chip halt, acknowledgement,
and the commands on the fault registers.  `raise` is the one way a fault of class C1 to C4 enters. -/

namespace Sys2Proof.Machine

/-! ## Configuration (00 R6; 12 R349, R361) -/

/-- A Compact configuration: the finish image disables a region, a fabric port, the Undercoat or the Trowel. -/
def compact (s : State) : Bool :=
  nRegions s < 4 || (List.range 4).any (fun p => !(port s p).enable) || !s.cfg.ucEnable || !s.trowel.enable

/-- Whether second faults escalate (12 R349, R361). -/
def escalates (s : State) : Bool :=
  s.faults.secondPolicy == 1 || (s.faults.secondPolicy == 0 && !compact s)

def FClass.up : FClass → FClass
  | .c0 => .c1
  | .c1 => .c2
  | .c2 => .c3
  | .c3 => .c4
  | .c4 => .c4

/-! ## Records and the chip log (12 R342 to R348) -/

def sameColl (r : FaultRec) (lv : FLevel) (el : Nat) : Bool :=
  r.level == lv && (lv == .chip || r.element.toNat = el)

/-- The chip collector's own records. -/
def chipRecs (s : State) : List FaultRec := (s.faults.log.filter (fun e => !e.copy)).map LogEnt.r

/-- Every record held by a collector. -/
def allRecs (s : State) : List FaultRec := s.faults.slots ++ chipRecs s

/-- The records of one collector, oldest first. -/
def collRecs (s : State) (lv : FLevel) (el : Nat) : List FaultRec :=
  if lv == .chip then chipRecs s else s.faults.slots.filter (fun r => sameColl r lv el)

/-- Place of the log entry that R348 lets a new entry overwrite. -/
def logVictim (s : State) : Option Nat :=
  let held (e : LogEnt) : Bool := e.copy && s.faults.slots.any (fun r => r.fid = e.r.fid)
  let low (e : LogEnt) : Bool := e.r.cls == .c1 || e.r.cls == .c2
  let pick (p : LogEnt → Bool) : Option Nat := (findIdx (fun e => low e && p e) s.faults.log 0).map (fun x => x.1)
  match pick (fun e => e.r.acked) with
  | some i => some i
  | none =>
    match pick held with
    | some i => some i
    | none =>
      match pick (fun e => !e.r.acked && e.r.cls == .c1) with
      | some i => some i
      | none => pick (fun e => !e.r.acked && e.r.cls == .c2)

/-- C0 0x0C02 at the first overwrite since LOG_OVERFLOW was cleared. -/
def logOverflow (s : State) : State :=
  if s.faults.logOverflow then s
  else c0 { s with faults := { s.faults with logOverflow := true } } 17 0x0C02 0 0

/-- Writing an entry into the 64-entry chip log (12 R348); false when nothing may be overwritten. -/
def logWrite (s : State) (e : LogEnt) : State × Bool :=
  if s.faults.log.length < 64 then ({ s with faults := { s.faults with log := s.faults.log ++ [e] } }, true)
  else match logVictim s with
    | some i => (logOverflow { s with faults := { s.faults with log := s.faults.log.eraseIdx i ++ [e] } }, true)
    | none => (s, false)

/-- The latest record created or changed (12 R360); frozen at C4. -/
def setLast (s : State) (r : FaultRec) : State :=
  if s.faults.halted then s else { s with faults := { s.faults with last := some r, lastFid := r.fid } }

/-- A change of a record: in its collector, and in its copy, written anew when it was overwritten (12 R342). -/
def modRec (s : State) (fid : BitVec 32) (f : FaultRec → FaultRec) : State :=
  match (allRecs s).find? (fun r => r.fid = fid) with
  | none => s
  | some r =>
    let r' := f r
    let inLog := s.faults.log.any (fun e => e.r.fid = fid)
    let s := { s with faults := { s.faults with
      slots := s.faults.slots.map (fun x => if x.fid = fid then r' else x),
      log := s.faults.log.map (fun e => if e.r.fid = fid then { e with r := r' } else e) } }
    let s := if inLog then s else (logWrite s { r := r', copy := true }).1
    setLast s r'

def recRegion (lv : FLevel) (region : Nat) : BitVec 2 := if lv == .chip then 0 else BitVec.ofNat 2 region

/-- A record as it is created (12 R343). -/
def freshRec (s : State) (cls : FClass) (lv : FLevel) (region el code detail : Nat) : FaultRec :=
  { fid := s.faults.nextFid, cls := cls, first := cls, escalated := false, acked := false, level := lv,
    region := recRegion lv region, element := BitVec.ofNat 16 el, code := BitVec.ofNat 16 code, count := 1,
    lastDelta := 0, time := BitVec.ofNat 64 s.now, detail := BitVec.ofNat 64 detail }

/-- An event for a record (17 R476). -/
def recEvent (s : State) (r : FaultRec) (kind : Nat) : EvtRec :=
  { eseq := s.mg.eseq, cls := BitVec.ofNat 3 r.cls.code, kind := BitVec.ofNat 2 kind,
    level := BitVec.ofNat 2 r.level.code, region := r.region, element := r.element, code := r.code, count := r.count,
    fid := r.fid, time := BitVec.ofNat 64 s.now, detail := r.detail }

/-- The oldest record of a list: FIDs count upward (12 R343). -/
def oldestRec (l : List FaultRec) : Option FaultRec :=
  l.foldl (fun m r => match m with
    | some x => if r.fid.toNat < x.fid.toNat then some r else m
    | none => some r) none

/-- The slots of the lower collectors with a new record in a free slot of its own, or in the place of the record it
overwrites (12 R347); none where it finds no place. -/
def takeSlot (s : State) (r : FaultRec) : Option (List FaultRec) :=
  let el := r.element.toNat
  let mine := s.faults.slots.filter (fun x => sameColl x r.level el)
  let evict (p : FaultRec → Bool) : Option (List FaultRec) :=
    (oldestRec (mine.filter p)).map (fun v => s.faults.slots.map (fun x => if x.fid = v.fid then r else x))
  if mine.length < 8 then some (s.faults.slots ++ [r])
  else match evict (fun x => x.acked) with
    | some l => some l
    | none =>
      if r.cls == .c3 || r.cls == .c4 then
        match evict (fun x => !x.acked && x.cls == .c1) with
        | some l => some l
        | none => evict (fun x => !x.acked && x.cls == .c2)
      else none

/-- Creating a record, its copy in the log and its event; LOST and C0 0x0C01 when no place is left (12 R347).  A C4 that
a log full of C3 records has no entry for still has its FID and freezes CW_FAULT_LAST (DEDUCED: a C3 or C4 never falls to
that case, and R348 never overwrites a C3; log 192). -/
def newRec (s : State) (r : FaultRec) : State :=
  let placed : Option State :=
    if r.level == .chip then
      let (s', ok) := logWrite s { r := r, copy := false }
      if ok then some s' else none
    else match takeSlot s r with
      | some l => some (logWrite { s with faults := { s.faults with slots := l } } { r := r, copy := true }).1
      | none => none
  match placed with
  | some s =>
    let s := { s with faults := { s.faults with nextFid := s.faults.nextFid + 1 } }
    post (setLast s r) (recEvent s r 1) [r.cls.code] [r.code.toNat / 256] false
  | none =>
    if r.cls == .c4 then
      let s := { s with faults := { s.faults with nextFid := s.faults.nextFid + 1 } }
      post (setLast s r) (recEvent s r 1) [r.cls.code] [r.code.toNat / 256] false
    else
    let s := post s (recEvent s { r with fid := 0 } 1) [r.cls.code] [r.code.toNat / 256] false
    c0 { s with faults := { s.faults with lost := BitVec.ofNat 8 (satAdd 8 s.faults.lost.toNat 1) } } 17 0x0C01 0 0

/-- Acknowledging a record (12 R352). -/
def ackRec (s : State) (fid : BitVec 32) : State :=
  match (allRecs s).find? (fun r => r.fid = fid) with
  | some r => if r.acked then s else modRec s fid (fun r => { r with acked := true })
  | none => s

/-- Every event queue that takes an event of a class and source has room for it. -/
def evtFits (s : State) (cls srcs : List Nat) : Bool :=
  (List.range 8).all (fun t => !(evtTakes (evtT s t).cfg cls srcs false && evtFull (evtT s t)))

/-- AUTO_ACK of a record whose event has been placed in every queue that takes it (12 R353); an event that a full queue
drops is never placed there, and its record waits for software (DEDUCED, log 193). -/
def autoAck (s : State) (r : FaultRec) : State :=
  match r.cls with
  | .c1 => if s.faults.autoAck == 1 || s.faults.autoAck == 2 then ackRec s r.fid else s
  | .c2 => if s.faults.autoAck == 2 then ackRec s r.fid else s
  | _ => s

/-! ## Region stop (12 R354) -/

/-- A waiting or held request answered REGION_DOWN without acceptance: a released charge is refunded (10 R301), a
held one's credits return. -/
def answerStopped (s : State) (w : Waiting) (held : Bool) : State :=
  let s := if held then retMsg s w else refund s w
  answerNoCtx s w.ing w.msg stRegionDown (hAddr w.msg.h0)

/-- Whether a waiting request has a line in a region; Trowel steps are judged by their operation. -/
def waitTouch (s : State) (r : Nat) (w : Waiting) : Bool :=
  w.step.isNone && (reqRegions s w.msg.h0).contains r

def stopWaiting (s : State) (r : Nat) : State :=
  let hs := s.tx.held.filter (waitTouch s r)
  let ws := s.tx.waiting.filter (waitTouch s r)
  let s := { s with tx := { s.tx with
    held := s.tx.held.filter (fun w => !waitTouch s r w),
    waiting := s.tx.waiting.filter (fun w => !waitTouch s r w) } }
  ws.foldl (fun s w => answerStopped s w false) (hs.foldl (fun s w => answerStopped s w true) s)

/-- An open request context with unperformed work in the region and no final response yet. -/
def ctxStops (c : Ctx) (r : Nat) : Bool :=
  c.kind == .request && c.phase == .working && c.op ≠ opBulk && c.ing < 5 &&
    (c.lead = r || c.lines.any (fun l => l.region = r)) && c.lines.any (fun l => !l.done)

def stopContexts (s : State) (r : Nat) : State :=
  (s.tx.ctxs.filter (fun c => ctxStops c r)).foldl (fun s c => endCtx s c stRegionDown) s

/-- Operations that touch the region end at their next step (08 R267). -/
def opTouches (s : State) (o : BulkOp) (r : Nat) : Bool :=
  rangeTouches s (64 * o.dpaDst) o.count r || (o.bop = 0 || o.bop = 3) && rangeTouches s (64 * o.dpaSrc) o.count r ||
    o.bop = 1 && rangeTouches s (64 * o.dpaSrc) 1 r

def stopOps (s : State) (r : Nat) : State :=
  { s with trowel := { s.trowel with
      ops := s.trowel.ops.map (fun o =>
        if o.phase != .finished && o.endWith.isNone && opTouches s o r then { o with endWith := some stRegionDown } else o),
      scans := s.trowel.scans.filter (fun c => c.region ≠ r) } }

/-- Migration abandoned: the target returns to the spare pool, the request stays at the queue's head (09 R288). -/
def abandonMigration (s : State) (r : Nat) : State :=
  let m := migr s r
  if m.st == .idle then s
  else
    let s := match m.queue.head? with
      | some (.bank pb _) => let x := srBlk s pb
                             putSr s pb { x with banksUsed := setBit x.banksUsed (m.target - 64) false }
      | some (.block _) => let x := srBlk s m.target
                           putSr s m.target { x with st := .freeSpare }
      | none => s
    let s := ucRegPut s r (dropRing (ucReg s r) .migration)
    putMigr s r { m with st := .idle, row := 0, bank := 0, target := 0, ring := false }

/-- Runs of a test in the region end INCOMPLETE; a subarray in its unit is restored at the region reset (12 R354,
18 R495). -/
def stopTests (s : State) (r : Nat) : State := incompleteRuns s (fun t => t.pblock / 9 = r) false

/-- Blocks of the region stop scheduling; one at BIST, retired or in self-refresh stays as it is (07 R241). -/
def stopBlocks (s : State) (r : Nat) : State :=
  (regionBlocks r).foldl (fun s b => modBlk s b (fun k =>
    if k.st == .serving || k.st == .leaving || k.st == .returning then { k with st := .stopped } else k)) s

/-- Units of the region that a commit in progress narrows are scanned at its reset (21 R535). -/
def oweScans (s : State) (r : Nat) : State :=
  match s.acc.commit with
  | some c => { s with acc := { s.acc with
      owed := s.acc.owed ++ c.narrowed.filter (fun p => p.1 = r && !s.acc.owed.contains p) } }
  | none => s

/-- A region stops (12 R354); a C3 during its reset leaves it stopped (12 R356). -/
def regionStop (s : State) (r : Nat) : State :=
  if regionStopped s r && !resetting s r then s
  else
    let s := { s with faults := { s.faults with
      stopped := setBit s.faults.stopped r true, resets := smSet none s.faults.resets r none } }
    let s := oweScans s r
    stopBlocks (stopTests (abandonMigration (stopOps (stopContexts (stopWaiting s r) r) r) r) r) r

/-! ## Chip halt (12 R357) -/

/-- Every Hatch freezes (17 R460). -/
def freezeHatches (s : State) : State :=
  (List.range 16).foldl (fun s h => putHatch s h { hatch s h with st := .frozen }) s

/-- A fabric link in a chip halt: nothing queued, nothing kept. -/
def haltLink (l : Link) : Link :=
  { l with ctl := [], outQ := [], txData := [], rx := [], unacked := [], resend := [] }

/-- The Wide Port's link keeps its sequence, its replay buffer and the data streams in progress; no message waits. -/
def haltWide (l : Link) : Link :=
  { l with ctl := [], outQ := [], rx := l.rx.map (fun m => { m with fwd := none, drop := opClass (hOp m.msg.h0) ≠ 5 }) }

/-- NODE_DOWN flits begin on the Wide Port and on every fabric port not DOWN. -/
def haltPorts (s : State) : State :=
  let s := if s.wp.st == .off then s
           else { s with wp := { s.wp with
             st := .halted, dead := s.wp.st == .failed, link := haltWide s.wp.link, idleIn := false, idleOut := false, wakeAt := none, parkLeft := 0 } }
  (List.range 4).foldl (fun s p => modPort s p (fun x =>
    if x.st == .down then x else { x with st := .halted, link := haltLink x.link })) s

/-- Every block in self-refresh, with nothing left to serve. -/
def haltBlocks (s : State) : State :=
  (List.range 36).foldl (fun s b => modBlk s b (fun k => { k with st := .selfRefresh, rq := [], wq := [], rowOps := [] })) s

/-- The stack halts. -/
def chipHalt (s : State) : State :=
  if s.faults.halted then s
  else
    let s := { s with
      faults := { s.faults with halted := true, haltAt := s.now, fatalLow := true },
      boot := { s.boot with keysZero := true, larder := .stopped, identMod := 0, identReady := false },
      uc := { s.uc with reset := .held },
      tx := { s.tx with held := [], waiting := [], snoops := [], chain := [], ctxs := [], resWait := [] } }
    haltBlocks (haltPorts (freezeHatches (twRelease s)))

/-! ## Second faults (12 R349, R350) -/

/-- COUNT and LAST_DELTA after one more fault. -/
def bumpRec (s : State) (r : FaultRec) : FaultRec :=
  { r with count := BitVec.ofNat 16 (satAdd 16 r.count.toNat 1),
           lastDelta := BitVec.ofNat 32 (min ((s.now - r.time.toNat) / 1000) (2 ^ 32 - 1)) }

/-- The KIND 2 event: the second fault's CODE, TIME and DETAIL with the record's FID, CLASS and COUNT. -/
def secondEvent (s : State) (fid : BitVec 32) (cls : FClass) (code detail : Nat) : State :=
  match (allRecs s).find? (fun r => r.fid = fid) with
  | some r =>
    post s { recEvent s r 2 with code := BitVec.ofNat 16 code, detail := BitVec.ofNat 64 detail }
      [cls.code, r.cls.code] [code / 256, r.code.toNat / 256] false
  | none => s

/-- Reaction of a class on an element's region (12 R340). -/
def react (s : State) (cls : FClass) (lv : FLevel) (region : Nat) : State :=
  match cls with
  | .c3 => if lv == .chip then s else regionStop s region
  | .c4 => chipHalt s
  | _ => s

/-- The second fault merges into a record. -/
def mergeInto (s : State) (fid : BitVec 32) (cls : FClass) (code detail : Nat) : State :=
  secondEvent (modRec s fid (bumpRec s)) fid cls code detail

/-- The second fault raises a record by one class. -/
def escalateRec (s : State) (r : FaultRec) (cls : FClass) (code detail : Nat) : State :=
  let s := modRec s r.fid (fun x => { bumpRec s x with cls := x.cls.up, escalated := true })
  let fits := evtFits s [cls.code, r.cls.up.code] [code / 256, r.code.toNat / 256]
  let s := react (secondEvent s r.fid cls code detail) r.cls.up r.level r.region.toNat
  if fits then autoAck s { r with cls := r.cls.up } else s

/-- The C3 record of a stopped region. -/
def regionC3 (s : State) (region : Nat) : Option FaultRec :=
  s.faults.slots.find? (fun r => r.cls == .c3 && r.region.toNat = region)

/-- The record that makes a fault of class K a second fault (12 R349, R350). -/
def secondOf (s : State) (cls : FClass) (lv : FLevel) (el : Nat) : Option FaultRec :=
  oldestRec (if cls == .c3 then (s.faults.log.map LogEnt.r).filter (fun r => r.cls == .c3 && !r.acked)
    else (collRecs s lv el).filter (fun r => r.cls == cls && !r.acked))

/-- A new record and its reaction. -/
def createRec (s : State) (cls : FClass) (lv : FLevel) (region el code detail : Nat) : State :=
  let r := freshRec s cls lv region el code detail
  let fits := evtFits s [cls.code] [code / 256]
  let s := react (newRec s r) cls lv region
  if fits then autoAck s r else s

/-- A fault of class C1 to C4 (12 R340 to R351). -/
def raise (s : State) (cls : FClass) (lv : FLevel) (region el code detail : Nat) : State :=
  if s.faults.halted then
    -- counted in the C4 record and nothing else
    { s with faults := { s.faults with log := s.faults.log.map (fun e =>
        if e.r.cls == .c4 then { e with r := { e.r with count := BitVec.ofNat 16 (satAdd 16 e.r.count.toNat 1) } }
        else e) } }
  else if cls == .c4 then createRec s cls lv region el code detail
  else
    match (if lv != .chip && regionStopped s region then regionC3 s region else none) with
    | some r => mergeInto s r.fid cls code detail
    | none =>
      match secondOf s cls lv el with
      | none => createRec s cls lv region el code detail
      | some r =>
        if cls == .c2 && lv == .chip then mergeInto s r.fid cls code detail
        else if escalates s then escalateRec s r cls code detail
        else if cls == .c3 then createRec s cls lv region el code detail
        else mergeInto s r.fid cls code detail

/-- A chip-level fault of a unit of R345. -/
def chipFault (s : State) (cls : FClass) (unit code detail : Nat) : State := raise s cls .chip 0 unit code detail
/-- A fault of a region, of a physical block, of a bank of it, or of a slice. -/
def regionFault (s : State) (cls : FClass) (r code detail : Nat) : State := raise s cls .region r r code detail
def blockFault (s : State) (cls : FClass) (b code detail : Nat) : State := raise s cls .block (b / 9) b code detail
def cellFault (s : State) (cls : FClass) (b bank code detail : Nat) : State :=
  raise s cls .cell (b / 9) (68 * b + bank) code detail
def sliceFault (s : State) (cls : FClass) (slice code detail : Nat) : State :=
  raise s cls .cell (slice / 16) (2448 + slice) code detail

/-! ## Registers (12 R343, R360) -/

/-- A record as 32 bytes. -/
def recBytes (r : FaultRec) : List (BitVec 8) :=
  leBytes r.fid.toNat 4
    ++ leBytes (r.cls.code + 8 * r.first.code + 64 * b2n r.escalated + 128 * b2n r.acked) 1
    ++ leBytes (r.level.code + 4 * r.region.toNat) 1 ++ leBytes r.element.toNat 2 ++ leBytes r.code.toNat 2
    ++ leBytes r.count.toNat 2 ++ leBytes r.lastDelta.toNat 4 ++ leBytes r.time.toNat 8 ++ leBytes r.detail.toNat 8

def unackCount (s : State) (c : FClass) : Nat :=
  min 255 ((allRecs s).filter (fun r => r.cls == c && !r.acked)).length

/-- CW_FAULT_SUMMARY. -/
def faultSummary (s : State) : Nat :=
  unackCount s .c1 + unackCount s .c2 * 2 ^ 8 + s.faults.stopped.toNat * 2 ^ 16 + b2n s.faults.halted * 2 ^ 20
    + b2n s.faults.logOverflow * 2 ^ 21 + b2n (escalates s) * 2 ^ 22 + s.faults.lost.toNat * 2 ^ 24
    + s.faults.lastFid.toNat * 2 ^ 32

/-- CW_FAULT_LASTn. -/
def faultLast (s : State) (n : Nat) : Nat :=
  match s.faults.last with
  | some r => leAt (recBytes r) (8 * n) 8
  | none => 0

/-- Acknowledging every record of a class. -/
def ackClass (s : State) (c : FClass) : State :=
  ((allRecs s).filter (fun r => r.cls == c)).foldl (fun s r => ackRec s r.fid) s

/-- A write to CW_FAULT_ACK (R352, R360). -/
def writeFaultAck (s : State) (v : Nat) : State :=
  let s := ackRec s (BitVec.ofNat 32 v)
  let s := if bit v 32 then ackClass s .c1 else s
  if bit v 33 then ackClass s .c2 else s

/-- A write to CW_FAULT_SUMMARY: LOG_OVERFLOW is RW1C, a write touching LOST zeroes it (R360). -/
def writeFaultSummary (s : State) (v : Nat) : State :=
  { s with faults := { s.faults with logOverflow := s.faults.logOverflow && !bit v 21, lost := 0 } }

/-! ## Commands -/

/-- A write of a record's FID to CW_FAULT_ACK acknowledges it (R352). -/
def execFaultAck (fid : BitVec 32) (s : State) : Host.Outcome State Fault Refusal :=
  whenLive s (fun s => ackRec s fid)

/-- ACK_C1_ALL (R360). -/
def execFaultAckC1All (s : State) : Host.Outcome State Fault Refusal :=
  whenLive s (fun s => ackClass s .c1)

/-- ACK_C2_ALL (R360). -/
def execFaultAckC2All (s : State) : Host.Outcome State Fault Refusal :=
  whenLive s (fun s => ackClass s .c2)

/-- LOG_OVERFLOW written 1 clears (R360). -/
def execLogOverflowClear (s : State) : Host.Outcome State Fault Refusal :=
  whenLive s (fun s => { s with faults := { s.faults with logOverflow := false } })

/-- A write of any value sets LOST to 0 (R360). -/
def execLostReset (s : State) : Host.Outcome State Fault Refusal :=
  whenLive s (fun s => { s with faults := { s.faults with lost := 0 } })

/-- The halt responder's answer to one message for the stack (R358): MG_DATA for the fault registers, ADDR_ERR for other
MGMT requests.  It checks no reserved field: R12 and R151 would answer such a request MALFORMED, R358 lists only these two
answers, and the model takes R358 (DESIGN CHOICE, log 168). -/
def haltAnswer (s : State) (ing : Nat) (m : Msg) : State :=
  let s := retLine (retHdr s ing (opClass (hOp m.h0)) 1) ing (opClass (hOp m.h0)) m.data.length
  let op := hOp m.h0
  let src := hSrc m.h0
  let hops := s.fab.hopLimit.toNat
  let ms := BitVec.ofNat 128 (hMoff m.h0 * 2 ^ 64 + hSize m.h0 * 2 ^ 88)
  if op = opMgRd ∨ op = opMgWr then
    let off := hMoff m.h0
    let words := hSize m.h0 + 1
    -- CW_FAULT_SUMMARY at 0x0300, CW_FAULT_LAST0 to 3 at 0x0310 to 0x0328 (17 R471)
    let okSum := off = 0x0300 && words = 1
    let okLast := 0x0310 ≤ off && off + 8 * words ≤ 0x0330 && off % 8 = 0
    if op = opMgRd ∧ (okSum || okLast) then
      let v := (List.range words).foldl (fun a i =>
        a + (if okSum then faultSummary s else faultLast s ((off - 0x0310) / 8 + i)) * 2 ^ (64 * i)) 0
      (sendTo s src (outMsg (mkH0 opMgData hops s.fab.stackNode src (hTag m.h0) stOk 0 ||| ms) 0
        [BitVec.ofNat 512 v] none true false)).1
    else
      (sendTo s src (outMsg (mkH0 opMgRsp hops s.fab.stackNode src (hTag m.h0) stAddrErr 0 ||| ms) 0 [] none true false)).1
  else s

/-- A message in a chip halt: one for another node is discarded, its credits returned (R358). -/
def haltServe (s : State) (ing : Nat) (m : Msg) : State :=
  if hDst m.h0 == s.fab.stackNode then haltAnswer s ing m
  else retLine (retHdr s ing (opClass (hOp m.h0)) 1) ing (opClass (hOp m.h0)) m.data.length

/-- A request that reaches the halt responder (R358). -/
def execHaltResponderRequest (ing : Nat) (m : Msg) (s : State) : Host.Outcome State Fault Refusal :=
  if s.faults.halted ∧ ing < 5 then .next (haltServe s ing m) else .next s

end Sys2Proof.Machine
end

