-- ==== Sys2Proof/Machine/AccCore.lean ====
section
/-! DEFINITION. Access checks and violations (11 R319 to R328, R335). -/

namespace Sys2Proof.Machine

/-! ## Rules (11 R320 to R323) -/

def aValid (r : BitVec 128) : Bool := r.getLsbD 0
def aMsel (r : BitVec 128) : Bool := r.getLsbD 1
def aLo (r : BitVec 128) : Nat := (r.extractLsb' 2 12).toNat
def aHi (r : BitVec 128) : Nat := (r.extractLsb' 14 12).toNat
/-- Rights in the order of `opRights`: 1 READ, 2 WRITE, 4 ATOMIC, 8 CACHEABLE, 16 BULK. -/
def aRights (r : BitVec 128) : Nat := (r.extractLsb' 26 5).toNat
def aBase (r : BitVec 128) : Nat := (r.extractLsb' 32 17).toNat
def aLimit (r : BitVec 128) : Nat := (r.extractLsb' 49 17).toNat

def groupNone : BitVec 8 := 0x40

/-- A master set holds a node. -/
def aMaster (groups : SMap (BitVec 8)) (r : BitVec 128) (n : Nat) : Bool :=
  if aMsel r then
    let g := smGet groupNone groups n
    !g.getLsbD 6 && (g.extractLsb' 0 6).toNat == aLo r % 64
  else aLo r ≤ n && n ≤ aHi r

/-- A rule matches (R323); `unit` is the 2 MiB unit of a data target. -/
def aMatches (groups : SMap (BitVec 8)) (r : BitVec 128) (n : Nat) (unit : Option Nat) : Bool :=
  aValid r && aMaster groups r n && (match unit with
    | some u => aBase r ≤ u && u ≤ aLimit r
    | none => true)

/-- Outcome of a check: passed, or refused with the deciding rule, whether none matched, and whether only the tables
being committed refused. -/
inductive ACheck where
  | pass
  | fail (rule : Nat) (noMatch narrowed : Bool)
  deriving DecidableEq, Repr, Inhabited

/-- Evaluation in ascending index: the first matching rule decides alone. -/
def aEval (rules : SMap (BitVec 128)) (groups : SMap (BitVec 8)) (target n : Nat) (unit : Option Nat) (need : Nat) :
    ACheck :=
  match rules.find? (fun p => p.1 / 256 = target && aMatches groups p.2 n unit) with
  | some (k, r) => if (aRights r &&& need) = need then .pass else .fail (k % 256) false false
  | none => .fail 0 true false

/-- Target indices (R319). -/
def tgtCw : Nat := 4
def tgtHatch (h : Nat) : Nat := 5 + h
def tgtTrowel : Nat := 21

/-- The fabric-manager node's standing admission (R327). -/
def fmAdmitted (s : State) (n : Node) (target need : Nat) : Bool :=
  n == s.acc.fmNode && target = tgtHatch s.acc.fmHatch.toNat && (need ||| 3) = 3

/-- The base-coat state (R328). -/
def baseCheck (s : State) (n : Node) (ing target need : Nat) : ACheck :=
  if ing = 4 then .pass
  else if ing < 4 then
    if n == s.acc.fmNode && target = tgtCw && need = 1 then .pass else .fail 0 true false
  else if (agentOf s n).isSome then .pass else .fail 0 true false

def ACheck.ok : ACheck → Bool
  | .pass => true
  | .fail _ _ _ => false

/-- The tables in force. -/
def checkOld (s : State) (n : Node) (ing target : Nat) (unit : Option Nat) (need : Nat) : ACheck :=
  if s.acc.baseCoat then baseCheck s n ing target need
  else aEval s.acc.rules s.acc.groups target n.toNat unit need

/-- A unit of a region is narrowed by the commit in progress (R332). -/
def isNarrowed (s : State) (target : Nat) (unit : Option Nat) : Bool :=
  match s.acc.commit, unit with
  | some c, some u => c.narrowed.any (fun p => p.1 = target && p.2.1 ≤ u && u ≤ p.2.2)
  | _, _ => false

/-- A check (R323, R327, R328, R332): a request to a narrowed unit must pass under both tables. -/
def accCheck (s : State) (n : Node) (ing target : Nat) (unit : Option Nat) (need : Nat) : ACheck :=
  if fmAdmitted s n target need then .pass
  else
    match checkOld s n ing target unit need with
    | .fail r m _ => .fail r m false
    | .pass =>
      if isNarrowed s target unit then
        match aEval s.acc.rulesSh s.acc.groupsSh target n.toNat unit need with
        | .pass => .pass
        | .fail r m _ => .fail r m true
      else .pass

/-! ## Violations (R335, R336) -/

def violTgt (s : State) (t : Nat) : ViolTgt := smGet {} s.acc.viol t
def putViol (s : State) (t : Nat) (v : ViolTgt) : State :=
  { s with acc := { s.acc with viol := smSet {} s.acc.viol t v } }

/-- A violation: counted, logged while the target's log has room, and a C0 event at most once per target per 1 ms. -/
def violation (s : State) (n : Node) (op target : Nat) (rule : Nat) (noMatch narrowed : Bool) (ing addr : Nat) : State :=
  let v := violTgt s target
  let r : ViolRec :=
    { node := n, opcode := BitVec.ofNat 8 op, target := target, noMatch := noMatch, narrowed := narrowed,
      rule := if noMatch then 0 else rule, ingress := ing, addr := addr, time := s.now }
  let due := match v.lastC0 with
    | none => true
    | some t => waited s t (ms 1)
  let s := putViol s target
    { count := BitVec.ofNat 32 (satAdd 32 v.count.toNat 1),
      log := if v.log.length < 16 then v.log ++ [r] else v.log,
      lastC0 := if due then some s.now else v.lastC0 }
  let s := occ s 0x10A 7 0xF 1
  if due then c0 s 9 0x0B01 n.toNat 0 else s

/-- 2 MiB unit of a DPA. -/
def unitOf (dpa : Nat) : Nat := dpa / 2 ^ 21

/-- Rights of a request against every region it touches: the first region target that refuses, with its outcome and
the first refused address (R324, R335). -/
def checkRegions (s : State) (n : Node) (ing need : Nat) (ls : List (Nat × Nat)) : Option (Nat × ACheck × Nat) :=
  (List.range 4).findSome? (fun r =>
    match ls.find? (fun l => (decodeDpa (nRegions s) l.2).region = r) with
    | some l =>
      let c := accCheck s n ing r (some (unitOf l.2)) need
      if c.ok then none else some (r, c, l.2)
    | none => none)

end Sys2Proof.Machine
end

