-- ==== Sys2Proof/Machine/TableCore.lean ====
section
/-! DEFINITION. Legality of the tables that are committed: routes and windows (04 R135, R136, R140; 10 R314), regulator
entries (10 R308, R313, R315) and access tables (11 R320 to R322), with the index of 17 R560 for the first entry that
breaks a rule; and of the counters' selections (19 R499, R502). -/

namespace Sys2Proof.Machine

/-- Lowest index of a list at which a test holds. -/
def lowest (p : Nat → Bool) (l : List Nat) : Option Nat :=
  (l.filter p).foldl (fun a i => match a with
    | none => some i
    | some j => some (min i j)) none

def optMin (a b : Option Nat) : Option Nat :=
  match a, b with
  | some x, some y => some (min x y)
  | some x, none => some x
  | none, y => y

/-! ## Routes (04 R135) -/

def routeBad (stack : Node) (routes : SMap (BitVec 16)) (n : Nat) : Bool :=
  let e := smGet 0x36 routes n
  let p := rPrimary e
  let a := rAlternate e
  p = 7 || a = 5 || a = 7 || (a ≤ 4 && a = p) || (e.toNat >>> 7) ≠ 0 ||
    (if n = stack.toNat then p ≠ 5 else p = 5)

def firstBadRoute (stack : Node) (routes : SMap (BitVec 16)) : Option Nat :=
  lowest (routeBad stack routes) (stack.toNat :: routes.map (fun p => p.1))

/-! ## Windows (04 R140) -/

/-- Share of this stack in a window, in GiB of DPA: first and count. -/
def winShare (stack : Node) (w : BitVec 128) : Option (Nat × Nat) :=
  let k := stack.toNat
  if winNodeBase w ≤ k ∧ k < winNodeBase w + 2 ^ winWays w then
    some (winDpaBase w, (winLimit w - winBase w + 1) / 2 ^ winWays w)
  else none

/-- A window that breaks R140 by itself. -/
def winFieldBad (stack : Node) (capGib : Nat) (w : BitVec 128) : Bool :=
  (w.toNat >>> 88) ≠ 0 ||
  (winValid w && (winClass w = 3 || 4 < winWays w || 12 < winGran w || 0xFFF < winNodeBase w + 2 ^ winWays w - 1 ||
    winLimit w < winBase w || (winLimit w - winBase w + 1) % 2 ^ winWays w ≠ 0 ||
    (winClass w ≠ 1 && winPrivate w ≠ 0) ||
    (match winShare stack w with
     | some (b, n) => capGib < b + n
     | none => false)))

def winClash (stack : Node) (a b : BitVec 128) : Bool :=
  winValid a && winValid b && ((winBase a ≤ winLimit b && winBase b ≤ winLimit a) ||
    (match winShare stack a, winShare stack b with
     | some (x, n), some (y, m) => x < y + m && y < x + n
     | _, _ => false))

/-- Window i breaks a rule, itself or against one of lower index. -/
def winBad (stack : Node) (capGib : Nat) (wins : SMap (BitVec 128)) (i : Nat) : Bool :=
  let w := smGet 0 wins i
  winFieldBad stack capGib w || wins.any (fun p => p.1 < i && winClash stack p.2 w)

def firstBadWin (stack : Node) (capGib : Nat) (wins : SMap (BitVec 128)) : Option Nat :=
  lowest (winBad stack capGib wins) (wins.map (fun p => p.1))

def capGib (s : State) : Nat := 64 * nRegions s

/-- A window whose CLASS a commit of the shadow changes, or that it puts in use. -/
def classChanges (s : State) (i : Nat) : Bool :=
  let a := smGet 0 s.fab.windows i
  let b := smGet 0 s.fab.windowsSh i
  winValid b && (!winValid a || winClass a ≠ winClass b)

/-- The regulation class a route commit judges a window by (10 R314). -/
def commitWclass (s : State) (i : Nat) : Nat :=
  if classChanges s i then (smGet 0 s.reg.wclassSh i).toNat else wclassOf s i

/-- First window of the routing shadow refused for its regulation class. -/
def firstBadClass (s : State) : Option Nat :=
  lowest (fun i => let w := smGet 0 s.fab.windowsSh i
                   winValid w && !wclassOk (commitWclass s i) (classOfNat (winClass w))) (s.fab.windowsSh.map (fun p => p.1))

/-- ERR_AT of a route commit: none when the shadow is legal. -/
def routeErr (s : State) : Option Nat :=
  optMin (firstBadRoute s.fab.stackNode s.fab.routesSh)
    ((optMin (firstBadWin s.fab.stackNode (capGib s) s.fab.windowsSh) (firstBadClass s)).map (fun w => 4096 + w))

/-! ## Regulator (10 R308, R313, R315) -/

/-- First master, window class or bulk field that breaks a rule, against the windows in force. -/
def regErr (wins : SMap (BitVec 128)) (masters : SMap RegEntry) (wc : SMap (BitVec 2)) (bulk : BulkCfg) : Option Nat :=
  let m := lowest (fun i => !rEntryOk (smGet regDefault masters i)) (masters.map (fun p => p.1))
  let w := lowest (fun i =>
    let x := smGet 0 wins i
    (smGet 0 wc i).toNat = 3 || (winValid x && !wclassOk (smGet 0 wc i).toNat (classOfNat (winClass x))))
    (wins.map (fun p => p.1) ++ wc.map (fun p => p.1))
  optMin m (optMin (w.map (fun i => 4096 + i)) (if bulkOk bulk then none else some 5120))

/-- Admission (R311). -/
def admitted (sum df : Nat) : Bool := 10 * sum ≤ 9 * df

/-! ## Access tables (11 R319 to R322) -/

def legalRights (t : Nat) : Nat := if t < 4 then 31 else if t = tgtTrowel then 16 else 3

/-- A rule of target t that breaks R320 or R321. -/
def ruleBad (nRegs t : Nat) (r : BitVec 128) : Bool :=
  if !aValid r then r ≠ 0
  else
    (t < 4 && nRegs ≤ t) || (if aMsel r then 64 ≤ aLo r || aHi r ≠ 0 else aHi r < aLo r) || r.getLsbD 31 ||
    (r.toNat >>> 66) ≠ 0 || (aRights r &&& legalRights t) ≠ aRights r ||
    (if t < 4 then aLimit r < aBase r || 0x8000 * nRegs ≤ aLimit r else aBase r ≠ 0 || aLimit r ≠ 0)

def groupBad (g : BitVec 8) : Bool := g.getLsbD 7 || (g.getLsbD 6 && (g.extractLsb' 0 6) ≠ 0)

/-- First entry of the access tables that breaks a rule. -/
def accErr (nRegs : Nat) (groups : SMap (BitVec 8)) (rules : SMap (BitVec 128)) : Option Nat :=
  optMin (lowest (fun n => groupBad (smGet groupNone groups n)) (groups.map (fun p => p.1)))
    ((lowest (fun k => ruleBad nRegs (k / 256) (smGet 0 rules k)) (rules.map (fun p => p.1))).map (fun k => 4096 + k))

/-! ## Counter selections (19 R499, R502) -/

/-- An event of a group with its qualifier. -/
def evLegal (g ev q : Nat) : Bool :=
  if ev ≤ 1 then q = 15
  else if g < 4 then (0x10 ≤ ev && ev ≤ 0x18 && q = 15) || (0x20 ≤ ev && ev ≤ 0x2B && (q ≤ 8 || q = 15))
  else if g = 4 then ((ev = 0x40 || ev = 0x41)) || (0x48 ≤ ev && ev ≤ 0x50 && q = 15)
  else if g = 5 then 0x80 ≤ ev && ev ≤ 0x89 && (q ≤ 3 || q = 15)
  else if g = 6 then 0xC0 ≤ ev && ev ≤ 0xC9 && (q ≤ 3 || q = 15)
  else 0x100 ≤ ev && ev ≤ 0x10E && q = 15

/-- A counter's selection at base coat: ticks in counter 16g, nothing elsewhere. -/
def selInit (k : Nat) : BitVec 16 := if k % 16 = 0 then 0x3C01 else 0x3C00

def perfSel (s : State) (k : Nat) : BitVec 16 := smGet (selInit k) s.perf.sel k
def putSel (s : State) (k : Nat) (v : BitVec 16) : State :=
  { s with perf := { s.perf with sel := smSet (selInit k) s.perf.sel k v } }

/-- What a write of CW_PERF_SEL leaves: an illegal one selects nothing and sets BAD; an odd counter's CHAIN is 0. -/
def selOf (k : Nat) (v : Nat) : BitVec 16 :=
  let ch := if k % 2 = 0 then field v 14 1 else 0
  if evLegal (k / 16) (field v 0 10) (field v 10 4) then BitVec.ofNat 16 (v % 2 ^ 14 + ch * 2 ^ 14)
  else BitVec.ofNat 16 (0x3C00 + ch * 2 ^ 14 + 2 ^ 15)

end Sys2Proof.Machine
end

