-- ==== Sys2Proof/Machine/ImageCore.lean ====
section
/-! DEFINITION. The finish image: slots (14 R405, R406, R409), sections and their fields (14 R410, R411), each applied
to the configuration or refused whole. -/

namespace Sys2Proof.Machine

/-! ## Slots (14 R405, R406, R409) -/

def slotSize (s : State) : Nat := if s.img.two then 960 * 1024 else 448 * 1024
def slotBase (s : State) (slot : Nat) : Nat := 0x20000 + slot * slotSize s

/-- w bits from bit `off` past byte `pos` of the EEPROM. -/
def eeBits (s : State) (pos off w : Nat) : Nat :=
  let b := 8 * pos + off
  (leNat (bmRead s.img.eeprom (b / 8) ((b % 8 + w + 7) / 8)) >>> (b % 8)) % 2 ^ w

def eeNat (s : State) (a n : Nat) : Nat := leNat (bmRead s.img.eeprom a n)

def hdrSections (s : State) (b : Nat) : Nat := eeNat s (b + 6) 2
def hdrSeq (s : State) (b : Nat) : Nat := eeNat s (b + 8) 4
def hdrLength (s : State) (b : Nat) : Nat := eeNat s (b + 12) 4
def hdrCommitted (s : State) (b : Nat) : Bool := eeNat s (b + 60) 4 == 0x5A3CC3A5

/-- Sections of a body: ID, position of the data, SLEN; none unless they fill it exactly. -/
def sectionsAt (s : State) : Nat → Nat → Nat → Option (List (Nat × Nat × Nat))
  | 0, pos, stop => if pos = stop then some [] else none
  | n + 1, pos, stop =>
    let len := eeNat s (pos + 4) 4
    if stop < pos + 16 ∨ eeNat s (pos + 2) 2 ≠ 0 ∨ len % 8 ≠ 0 ∨ len < 8 ∨ stop < pos + 8 + len then none
    else (sectionsAt s n (pos + 8 + len) stop).map (fun l => (eeNat s pos 2, pos + 8, len) :: l)

def slotSections (s : State) (b : Nat) : Option (List (Nat × Nat × Nat)) :=
  sectionsAt s (hdrSections s b) (b + 64) (b + 64 + hdrLength s b)

/-- The checks of R409 but COMMIT. -/
def slotSound (s : State) (b : Nat) : Bool :=
  eeNat s b 4 == 0x4946564B && eeNat s (b + 4) 2 == 1 && 1 ≤ hdrSections s b && hdrSections s b ≤ 64 &&
    1 ≤ hdrSeq s b && hdrSeq s b ≤ 0xFFFFFFFE && hdrLength s b % 8 == 0 && 16 ≤ hdrLength s b &&
    hdrLength s b ≤ slotSize s - 64 && (slotSections s b).isSome && eeNat s (b + 16) 4 == s.mg.part.toNat &&
    eeNat s (b + 56) 4 == crc32c (bmRead s.img.eeprom b 56 ++ bmRead s.img.eeprom (b + 64) (hdrLength s b))

def qualifies (s : State) (slot : Nat) : Bool := slotSound s (slotBase s slot) && hdrCommitted s (slotBase s slot)

/-! ## Sections (R410, R411) -/

/-- The data of a section: its position, and SLEN. -/
structure Sec where
  pos : Nat
  slen : Nat
  deriving DecidableEq, Repr, Inhabited

def Sec.f (x : Sec) (s : State) (off w : Nat) : Nat := eeBits s x.pos off w

/-- SLEN is the packed length rounded up to 8 bytes, and the padding holds zeros. -/
def Sec.ends (x : Sec) (s : State) (bits : Nat) : Bool :=
  x.slen == (bits + 63) / 64 * 8 && x.f s bits (8 * x.slen - bits) == 0

/-- Table of n entries of w bits at an offset, as a sparse map over a default. -/
def Sec.table (x : Sec) (s : State) (off n w : Nat) (d : BitVec w) : SMap (BitVec w) :=
  (List.range n).filterMap (fun i =>
    let v := BitVec.ofNat w (x.f s (off + w * i) w)
    if v = d then none else some (i, v))

/-- REGIONS 0b11 enables four regions, with a C0 event at load (01 R32); its CODE and DETAIL are the model's choice. -/
def regionsEvent (s : State) : State := if s.cfg.regions = 3 then c0 s 10 0x0E04 2 0 else s

/-- Stack (14 R410). -/
def secStack (s : State) (x : Sec) : Option State :=
  let w := x.f s 2 16
  if x.ends s 18 && 0x1000 ≤ w && w ≤ 0x1800 then
    some (regionsEvent { s with
      cfg := { s.cfg with regions := BitVec.ofNat 2 (x.f s 0 2) }, pace := { s.pace with warn := BitVec.ofNat 16 w } })
  else none

/-- Two enabled agents with one node. -/
def agentsClash (s : State) : Bool :=
  (List.range 16).any (fun a => agentOn s a && (List.range a).any (fun b => agentOn s b && agentNode s a == agentNode s b))

/-- Wide Port (02 R70). -/
def secWide (s : State) (x : Sec) : Option State :=
  let f := x.f s
  let al := f 209 16
  let it := f 226 16
  let pp := f 242 2
  let pt := f 244 16
  let s' := { s with
    wp := { s.wp with allot := al, allotFree := al },
    fab := { s.fab with
      wpEnable := f 0 1 = 1, agentEn := BitVec.ofNat 16 (f 1 16),
      agentNode := (List.range 16).filterMap (fun a =>
        let n := BitVec.ofNat 12 (f (17 + 12 * a) 12)
        if n = BitVec.ofNat 12 (0xFF0 + a) then none else some (a, n)),
      idleEn := f 225 1 = 1, idleTimer := BitVec.ofNat 16 it, parkPolicy := BitVec.ofNat 2 pp,
      parkTimer := BitVec.ofNat 16 pt } }
  if x.ends s 260 && 64 ≤ al && al ≤ 8192 && 16 ≤ it && pp ≠ 3 && 1 ≤ pt && !agentsClash s' then some s' else none

/-! ### Fabric signalling (03 R82 to R85) -/

/-- A loading table is legal for a profile's bits per symbol. -/
def loadOk (t : List (BitVec 16)) (bits : Nat) : Bool :=
  t.foldl (fun a e => a + entryBits e) 0 == bits &&
    (t.zipIdx).all (fun p =>
      let bin := p.2 + 1
      entryBits p.1 ≠ 7 && !p.1.getLsbD 3 && (p.1.toNat >>> 10) == 0 && (!isPilot bin || entryBits p.1 == 0) &&
        (entryGain p.1 ≠ 63 || (entryBits p.1 == 0 && !isPilot bin && 34 < bin)))

/-- An optional loading table: the table and the offset after it. -/
def readLoad (s : State) (x : Sec) (off : Nat) : List (BitVec 16) × Nat :=
  if x.f s off 1 = 1 then ((List.range 127).map (fun i => BitVec.ofNat 16 (x.f s (off + 1 + 16 * i) 16)), off + 2033)
  else ([], off + 1)

def secFabric (p : Nat) (s : State) (x : Sec) : Option State :=
  let mp := x.f s 1 2
  let (l1, o1) := readLoad s x 3
  let (l2, o2) := readLoad s x o1
  let (l3, o3) := readLoad s x o2
  let o := o3 + 384
  let qe := x.f s o 1 = 1
  let qt := x.f s (o + 1) 16
  let de := x.f s (o + 17) 1 = 1
  let dt := x.f s (o + 18) 16
  if x.ends s (o + 34) && 16 ≤ qt && 1 ≤ dt && (!de || qe) && (mp < 1 || loadOk l1 258) && (mp < 2 || loadOk l2 413) &&
      (mp < 3 || loadOk l3 516) then
    some (modPort s p (fun y => { y with
      enable := x.f s 0 1 = 1, maxProfile := BitVec.ofNat 2 mp, load1 := l1, load2 := l2, load3 := l3,
      filter := (List.range 32).map (fun i => BitVec.ofNat 12 (x.f s (o3 + 12 * i) 12)), quietEn := qe,
      quietTimer := BitVec.ofNat 16 qt, darkEn := de, darkTimer := BitVec.ofNat 16 dt }))
  else none

/-! ### Links and routing (04 R135, R140, R143) -/

/-- The base-coat routing table for the agents and STACK_NODE in force. -/
def baseRoutesOf (s : State) : SMap (BitVec 16) :=
  let m := (List.range 16).foldl (fun m a =>
    if agentOn s a then smSet (0x36 : BitVec 16) m (agentNode s a).toNat 0x34 else m) []
  smSet 0x36 m s.fab.stackNode.toNat 0x35

/-- The base-coat map for the capacity and STACK_NODE in force. -/
def baseWindowsOf (s : State) : SMap (BitVec 128) := [(0, baseWindow s)]

def withBaseTables (s : State) : State :=
  { s with fab := { s.fab with routes := baseRoutesOf s, windows := baseWindowsOf s } }

/-- C0 for an illegal section, or an illegal table of one: under the chapter that lists the condition among its own
(03, 10, 11, 17), else under 14 R416, where DETAIL tells an illegal section (0) from a reserved one (1). -/
def illegalSection (s : State) (id : Nat) : State :=
  if 3 ≤ id ∧ id ≤ 6 then c0 s (id - 2) 0x0301 0 0
  else if id = 0x0D then c0 s 8 0x0A04 0 0
  else if id = 0x0E then c0 s 9 0x0B02 0 0
  else if id = 0x13 then c0 s 10 0x1103 0 0
  else c0 s 10 0x0E04 (if 1 ≤ id ∧ id ≤ 0x16 then 0 else 1) 0

/-- Links and routing: ROUTES or WINDOWS that fail their checks are replaced by their base coat, with an event; the
window's regulation class is checked with the regulator section. -/
def secLinks (s : State) (x : Sec) : Option State :=
  let f := x.f s
  let node := BitVec.ofNat 12 (f 0 12)
  let hop := f 12 6
  let al (p : Nat) : Nat := f (18 + 16 * p) 16
  let o := 86
  let hasR := f o 1 = 1
  let o1 := if hasR then o + 1 + 4096 * 16 else o + 1
  let hasW := f o1 1 = 1
  let o2 := if hasW then o1 + 1 + 1024 * 128 else o1 + 1
  let s' := { s with fab := { s.fab with
    stackNode := node, hopLimit := BitVec.ofNat 6 hop, fmHatch := BitVec.ofNat 4 (f 82 4) } }
  if x.ends s o2 && 1 ≤ hop && (List.range 4).all (fun p => 64 ≤ al p && al p ≤ 2048) && (agentOf s' node).isNone then
    let s' := (List.range 4).foldl (fun s p => modPort s p (fun y => { y with allot := al p, allotFree := al p })) s'
    let s' := withBaseTables s'
    let r := x.table s (o + 1) 4096 16 0x36
    let w := x.table s (o1 + 1) 1024 128 0
    let s' := if !hasR then s'
      else if (firstBadRoute node r).isNone then { s' with fab := { s'.fab with routes := r } } else illegalSection s' 7
    let s' := if !hasW then s'
      else if (firstBadWin node (capGib s') w).isNone then { s' with fab := { s'.fab with windows := w } } else illegalSection s' 7
    some s'
  else none

/-- Transactions (05 R182). -/
def secTrans (s : State) (x : Sec) : Option State :=
  let a := x.f s 0 16
  let b := x.f s 16 16
  if x.ends s 33 && 10 ≤ a && 10 ≤ b then
    some { s with cfg := { s.cfg with
      snoopTimeout := BitVec.ofNat 16 a, dataTimeout := BitVec.ofNat 16 b, eGrant := x.f s 32 1 = 1 } }
  else none

/-- Partition sizes are legal: the cache from 32 MiB to 96 MiB, and a shadow unit left after a slice loss (06 R187). -/
def ucSizesOk (dirSize units : Nat) : Bool :=
  let used := 6 * 2 ^ dirSize + 2 * units
  32 ≤ 128 - used && 128 - used ≤ 96 && (if dirSize = 3 then 2 else 1) + 1 ≤ 15 * units / 16

/-- Undercoat (06 R213). -/
def secUc (s : State) (x : Sec) : Option State :=
  let d := x.f s 1 2
  let u := x.f s 3 5
  let w := x.f s 10 4
  if x.ends s 14 && 3 ≤ u && u ≤ 16 && ucSizesOk d u && 1 ≤ w && w ≤ 8 then
    some { s with cfg := { s.cfg with
      ucEnable := x.f s 0 1 = 1, dirSize := BitVec.ofNat 2 d, shadowUnits := BitVec.ofNat 5 u, wrAlloc := x.f s 8 1 = 1,
      rowFill := x.f s 9 1 = 1, sweepShare := BitVec.ofNat 4 w } }
  else none

/-- Legality of the block-scheduling fields (07 R243). -/
def schedOk (idle hit age hi lo : Nat) : Bool :=
  idle ≤ 2000 && 1 ≤ hit && hit ≤ 64 && 100 ≤ age && age < 65536 && 16 ≤ hi && hi ≤ 104 && lo + 8 ≤ hi

def secSched (s : State) (x : Sec) : Option State :=
  let f := x.f s
  if x.ends s 48 && schedOk (f 0 11) (f 11 7) (f 18 16) (f 34 7) (f 41 7) then
    some { s with cfg := { s.cfg with
      idleTimer := BitVec.ofNat 11 (f 0 11), hitCap := BitVec.ofNat 7 (f 11 7), ageLimit := BitVec.ofNat 16 (f 18 16),
      wrHigh := BitVec.ofNat 7 (f 34 7), wrLow := BitVec.ofNat 7 (f 41 7) } }
  else none

/-- Trowel (08 R271). -/
def secTrowel (s : State) (x : Sec) : Option State :=
  let a := x.f s 2 5
  if x.ends s 7 && 1 ≤ a && a ≤ 16 then
    some { s with trowel := { s.trowel with enable := x.f s 0 1 = 1, rowMoves := x.f s 1 1 = 1, maxActive := a } }
  else none

/-- Integrity (09 R296). -/
def secInteg (s : State) (x : Sec) : Option State :=
  if x.ends s 17 && x.f s 9 8 ≠ 0 then
    some { s with store := { s.store with
      autoRetire := x.f s 0 1 = 1, scrubPeriod := BitVec.ofNat 8 (x.f s 1 8), scrubRate := BitVec.ofNat 8 (x.f s 9 8) } }
  else none

/-- WCLASS of base coat: 2 for bulk windows. -/
def baseWclass (s : State) : SMap (BitVec 2) :=
  s.fab.windows.filterMap (fun p => if winValid p.2 && winClass p.2 = 2 then some (p.1, 2) else none)

/-- Regulator (10 R315), checked against the windows in force and the DF at load. -/
def secReg (s : State) (x : Sec) : Option State :=
  let m := x.table s 0 4096 64 regDefault
  let wc := x.table s 262144 1024 2 0
  let o := 264192
  let b : BulkCfg := { min := BitVec.ofNat 15 (x.f s o 15), ceilEn := x.f s (o + 15) 1 = 1,
                       ceil := BitVec.ofNat 15 (x.f s (o + 16) 15), depth := BitVec.ofNat 8 (x.f s (o + 31) 8) }
  if x.ends s (o + 39) && (regErr s.fab.windows m wc b).isNone && admitted (sumOf m b) (dfNow s) then
    some { s with reg := { s.reg with masters := m, wclass := wc, bulk := b } }
  else none

/-- Access (11 R337): committed at load. -/
def secAccess (s : State) (x : Sec) : Option State :=
  let g := x.table s 1 4096 8 groupNone
  let r := x.table s 32769 5632 128 0
  if x.ends s 753665 && (x.f s 0 1 = 0 || (accErr (nRegions s) g r).isNone) then
    if x.f s 0 1 = 1 then
      some { s with acc := { s.acc with rules := r, groups := g, baseCoat := false, gen := s.acc.gen + 1 } }
    else some s
  else none

/-- Faults (12 R361). -/
def secFaults (s : State) (x : Sec) : Option State :=
  if x.ends s 4 && x.f s 0 2 ≠ 3 && x.f s 2 2 ≠ 3 then
    some { s with faults := { s.faults with
      secondPolicy := BitVec.ofNat 2 (x.f s 0 2), autoAck := BitVec.ofNat 2 (x.f s 2 2) } }
  else none

/-- Legality of the thermal limits (13 R388). -/
def thermOk (warn thr res tmin : Nat) : Bool :=
  80 ≤ warn && warn ≤ 95 && 85 ≤ thr && thr ≤ 100 && warn ≤ thr && 80 ≤ res && res ≤ 95 && res + 5 ≤ thr && 2 ≤ tmin &&
    tmin ≤ 8

def secTherm (s : State) (x : Sec) : Option State :=
  let f := x.f s
  if x.ends s 125 && thermOk (f 0 8) (f 8 8) (f 16 8) (f 24 5) && f 29 32 ≠ 0 && f 61 32 ≠ 0 && f 93 32 ≠ 0 then
    some { s with heat := { s.heat with
      warnLimit := BitVec.ofNat 8 (f 0 8), throttleLimit := BitVec.ofNat 8 (f 8 8), resumeLimit := BitVec.ofNat 8 (f 16 8),
      tMin := BitVec.ofNat 5 (f 24 5), wearLimit20 := BitVec.ofNat 32 (f 29 32), wearLimit40 := BitVec.ofNat 32 (f 61 32),
      wearLimit60 := BitVec.ofNat 32 (f 93 32) } }
  else none

/-- Calibration (15 R432). -/
def secCal (s : State) (x : Sec) : Option State :=
  let p := x.f s 1 16
  let t := x.f s 17 5
  if x.ends s 23 && 10 ≤ p && 2 ≤ t && t ≤ 20 then
    some { s with cal := { s.cal with
      walkEn := x.f s 0 1 = 1, walkPeriod := BitVec.ofNat 16 p, walkTemp := BitVec.ofNat 5 t, calFull := x.f s 22 1 = 1 } }
  else none

/-- Start-up and trust (16 R454): the fallback image and the chain stay where they lie. -/
def secTrust (s : State) (x : Sec) : Option State :=
  let w := x.f s 0 16
  let hasF := x.f s 16 1 = 1
  let lf := x.f s 17 32
  let o1 := if hasF then 49 + 8 * lf else 17
  let hasC := x.f s o1 1 = 1
  let lc := x.f s (o1 + 1) 32
  let o2 := if hasC then o1 + 33 + 8 * lc else o1 + 1
  if w ≤ 10000 && (!hasF || (8192 ≤ lf && lf ≤ 2097152)) && (!hasC || (1 ≤ lc && lc ≤ 65536)) && x.ends s o2 then
    some { s with boot := { s.boot with
      fwWait := BitVec.ofNat 16 w, fallback := if hasF then some (lf, 8 * x.pos + 49) else none,
      chain := if hasC then some (lc, 8 * x.pos + o1 + 33) else none } }
  else none

/-- Hatches and events (17 R479). -/
def secHatch (s : State) (x : Sec) : Option State :=
  let en := BitVec.ofNat 16 (x.f s 0 16)
  let node (n : Nat) : Node := BitVec.ofNat 12 (x.f s (16 + 12 * n) 12)
  let cfg (t : Nat) : BitVec 46 := BitVec.ofNat 46 (x.f s (208 + 46 * t) 46)
  if x.ends s 576 && en.getLsbD s.fab.fmHatch.toNat && (List.range 16).all (fun n => !en.getLsbD n || node n != s.fab.stackNode) &&
      (List.range 8).all (fun t => (cfg t).extractLsb' 20 4 == 0) then
    let s := { s with mg := { s.mg with
      hatchEn := en,
      hatchNode := (List.range 16).filterMap (fun n => if node n = BitVec.ofNat 12 (0xFF0 + n) then none else some (n, node n)) } }
    some ((List.range 8).foldl (fun s t => putEvt s t { evtT s t with cfg := cfg t, cfgImg := cfg t }) s)
  else none

/-- Self-test (18 R496). -/
def secTest (s : State) (x : Sec) : Option State :=
  let a := x.f s 0 3
  let d := x.f s 3 12
  if x.ends s 15 && 1 ≤ a && a ≤ 4 && 1 ≤ d && d ≤ 3600 then
    some { s with test := { s.test with istMax := BitVec.ofNat 3 a, deferLimit := BitVec.ofNat 12 d } }
  else none

/-- Counting and sampling (19 R510). -/
def secPerf (s : State) (x : Sec) : Option State :=
  let sel (k : Nat) : Nat := x.f s (9 + 15 * k) 15
  let n := x.f s 1929 32
  let c := x.f s 1961 8
  if x.ends s 1969 && n ≠ 0 && !bit c 4 && (List.range 128).all (fun k =>
      evLegal (k / 16) (field (sel k) 0 10) (field (sel k) 10 4) && (k % 2 = 0 || field (sel k) 14 1 = 0)) then
    let m := (List.range 128).filterMap (fun k =>
      if BitVec.ofNat 16 (sel k) = selInit k then none else some (k, BitVec.ofNat 16 (sel k)))
    let run := BitVec.ofNat 8 (x.f s 0 8)
    let full := x.f s 8 1 = 1
    some { s with perf := { s.perf with
      run := run, runImg := run, stopFull := full, stopImg := full, sel := m, selImg := m, n := BitVec.ofNat 32 n,
      nImg := BitVec.ofNat 32 n, ctl := BitVec.ofNat 8 c, ctlImg := BitVec.ofNat 8 c, countdown := n } }
  else none

/-- Two-wire controller (20 R522): distinct enabled addresses. -/
def secTw (s : State) (x : Sec) : Option State :=
  let f := x.f s
  let ok (a : Nat) : Bool := 0x08 ≤ a && a ≤ 0x77 && a ≠ 0x50 && a ≠ 0x51
  let ra := f 5 7
  let sa (i : Nat) : Nat := f (17 + 7 * i) 7
  let en (i : Nat) : Bool := f (13 + i) 1 = 1
  let clash (i : Nat) : Bool := en i && ((f 4 1 = 1 && sa i = ra) || (List.range i).any (fun j => en j && sa i = sa j))
  if x.ends s 45 && f 0 2 ≠ 3 && ok ra && (List.range 4).all (fun i => ok (sa i) && !clash i) then
    some { s with tw := { s.tw with
      speed := BitVec.ofNat 2 (f 0 2), page := BitVec.ofNat 2 (f 2 2), regEn := f 4 1 = 1, regAddr := BitVec.ofNat 7 ra,
      regPec := f 12 1 = 1, sensorEn := BitVec.ofNat 4 (f 13 4),
      sensorAddr := (List.range 4).filterMap (fun i =>
        if sa i = 0x48 + i then none else some (i, BitVec.ofNat 7 (sa i))) } }
  else none

def secApply (id : Nat) : Option (State → Sec → Option State) :=
  match id with
  | 0x01 => some secStack
  | 0x02 => some secWide
  | 0x03 => some (secFabric 0)
  | 0x04 => some (secFabric 1)
  | 0x05 => some (secFabric 2)
  | 0x06 => some (secFabric 3)
  | 0x07 => some secLinks
  | 0x08 => some secTrans
  | 0x09 => some secUc
  | 0x0A => some secSched
  | 0x0B => some secTrowel
  | 0x0C => some secInteg
  | 0x0D => some secReg
  | 0x0E => some secAccess
  | 0x0F => some secFaults
  | 0x10 => some secTherm
  | 0x11 => some secCal
  | 0x12 => some secTrust
  | 0x13 => some secHatch
  | 0x14 => some secTest
  | 0x15 => some secPerf
  | 0x16 => some secTw
  | _ => none

/-- One section ID: absent, illegal (given twice, or its data), or applied; base tables follow the Wide Port's section and
WCLASS the map's. -/
def applyId (l : List (Nat × Nat × Nat)) (s : State) (id : Nat) : State :=
  let mine := l.filter (fun x => x.1 = id)
  let s := if id = 0x07 then withBaseTables s else s
  let s := if id = 0x0D then { s with reg := { s.reg with wclass := baseWclass s } } else s
  match mine with
  | [] => s
  | [x] =>
    (match secApply id with
     | some f => (match f s { pos := x.2.1, slen := x.2.2 } with
       | some s' => s'
       | none => illegalSection s id)
     | none => s)
  | _ => illegalSection s id

/-- The sections of a slot, in the order of their IDs; a reserved ID is ignored with an event. -/
def applySections (s : State) (l : List (Nat × Nat × Nat)) : State :=
  let s := (l.filter (fun x => (secApply x.1).isNone)).foldl (fun s x => illegalSection s x.1) s
  ((List.range 22).map (fun i => i + 1)).foldl (applyId l) s

end Sys2Proof.Machine
end

