-- ==== Sys2Proof/Machine/DelayCore.lean ====
section
/-! DEFINITION. Calibration values of a wire, a die and a sensor (15 R420 to R423, R430), delay selections, and the words
that carry trims and walk steps. -/

namespace Sys2Proof.Machine

/-! ## The reference (R417) -/

/-- Hertz of the reference, and what its PLL makes of it: the fabric converters' rate, the Wide Port's clock, the tick. -/
def refHz : Nat := 25000000
def converterHz : Nat := 4480 * refHz
def widePortHz : Nat := 320 * refHz
def tickHz : Nat := 40 * refHz

/-! ## Values (R430); delays are kept in 1/1,024 ps, the unit of TDC_LSB (R418) -/

def wireV (s : State) (b w x : Nat) : BitVec 8 := smGet 0xFF s.cal.wireV (2 * (160 * b + w) + x)
def dieV (s : State) (b d x : Nat) : BitVec 8 := smGet 0x80 s.cal.dieV (2 * (16 * b + d) + x)
def scaleV (s : State) (i : Nat) : BitVec 16 := smGet 0x8000 s.cal.scale i

/-- TRIM of a die: the record's, else the factory trims of Vault region 10 (R429, R430). -/
def trimV (s : State) (b d : Nat) : BitVec 32 :=
  (smGet none s.cal.trim (16 * b + d)).getD (factoryTrim s.cal.region10 (16 * b + d))

/-- A tap count as a delay (R418). -/
def tapDelay (s : State) (taps : Nat) : Nat := taps * s.cal.tdcLsb.toNat

/-- A delay in ps, rounded. -/
def inPs (v : Nat) : Nat := (v + 512) / 1024

/-! ## Selections (R420, R421) -/

/-- Place of a line: wire w of block b at die d, in a direction. -/
def selKeyOf (b w d x : Nat) : Nat := ((b * 160 + w) * 16 + d) * 2 + x

/-- Elements A, B and C of seven stages at their nominal delays: what a line counts with until it is measured (DESIGN CHOICE,
log 196). -/
def nominalElems : List Nat := (List.range 7).flatMap (fun k => List.replicate 3 (1024 * 2 ^ k))

def lineElems (s : State) (key : Nat) : List Nat := smGet nominalElems s.cal.elems key

/-- Measured delay of a stage's choice: 0 bypass, 1 to 3 its elements A, B and C. -/
def elemDelay (es : List Nat) (stage c : Nat) : Nat := if c = 0 then 0 else (es[3 * stage + c - 1]?).getD 0

/-- Sum of a selection's delays, and its elements in use. -/
def selSum (es : List Nat) (sel : Nat) : Nat :=
  (List.range 7).foldl (fun a k => a + elemDelay es k (sel / 4 ^ k % 4)) 0
def selUsed (sel : Nat) : Nat := ((List.range 7).filter (fun k => sel / 4 ^ k % 4 ≠ 0)).length

/-- The order of R421: nearness to the target, then elements in use, then value. -/
def selKey (es : List Nat) (target sel : Nat) : Nat :=
  ((selSum es sel : Int) - target).natAbs * 2 ^ 17 + selUsed sel * 2 ^ 14 + sel

def bestSel (es : List Nat) (target : Nat) : Nat := (argMin (selKey es target) (List.range 16384)).getD 0

/-- Range of a line: every stage at its slowest element. -/
def lineRange (es : List Nat) : Nat :=
  (List.range 7).foldl (fun a k => a + maxNat [elemDelay es k 1, elemDelay es k 2, elemDelay es k 3]) 0

/-- The selection of a line for the delay measured on its wire. -/
def pickSel (s : State) (key v : Nat) : BitVec 14 := BitVec.ofNat 14 (bestSel (lineElems s key) (lineTarget key v))

/-- A line's measured delay and the selection it gives (R421, R425). -/
def putLine (s : State) (key v : Nat) : State :=
  { s with cal := { s.cal with
      meas := smSet none s.cal.meas key (some v), sel := smSet 0 s.cal.sel key (pickSel s key v) } }

/-! ## Means of a wire and offsets of a die (R430, R431) -/

/-- Measured delays of a wire in a direction. -/
def wireDelays (s : State) (b w x : Nat) : List Nat :=
  (List.range 16).filterMap (fun d => smGet none s.cal.meas (selKeyOf b w d x))

def meanOf (l : List Nat) : Nat := if l.isEmpty then 0 else (l.foldl (· + ·) 0 + l.length / 2) / l.length

/-- The record's WIRE byte of a wire: its mean, in ps. -/
def putWireV (s : State) (b w x : Nat) : State :=
  let l := wireDelays s b w x
  if l.isEmpty then s
  else { s with cal := { s.cal with
      moved := true,
      wireV := smSet 0xFF s.cal.wireV (2 * (160 * b + w) + x) (BitVec.ofNat 8 (min 254 (inPs (meanOf l)))) } }

/-- The byte follows a measurement that differs by 4 ps or more (R431). -/
def noteWire (s : State) (b w x : Nat) : State :=
  let old := wireV s b w x
  if old ≠ 0xFF && ((1024 * old.toNat : Int) - meanOf (wireDelays s b w x)).natAbs < 4096 then s else putWireV s b w x

/-- A die's mean offset from the wire means, in 1/1,024 ps. -/
def dieOffset (s : State) (b d x : Nat) : Option Int :=
  let l := (List.range 152).filterMap (fun w =>
    (smGet none s.cal.meas (selKeyOf b w d x)).map (fun v => (v : Int) - meanOf (wireDelays s b w x)))
  if l.isEmpty then none else some (l.foldl (· + ·) 0 / l.length)

/-- The record's DIE byte: an offset in ps, rounded. -/
def offByte (o : Int) : BitVec 8 := BitVec.ofInt 8 (max (-127) (min 127 ((o + 512) / 1024)))

def putDieV (s : State) (b d x : Nat) (o : Int) : State :=
  { s with cal := { s.cal with moved := true, dieV := smSet 0x80 s.cal.dieV (2 * (16 * b + d) + x) (offByte o) } }

/-- A walk step's measurements, loaded into the lines of its wire 1.5 µs after the spare took it (R425); before that the
wire returns with its old selections (R426). -/
def loadPend (s : State) (b : Nat) : State :=
  let w := walkOf s b
  match w.wire with
  | some n =>
    if waited s w.takenAt 1500 then
      let s := w.pend.foldl (fun s p => putLine s p.1 p.2) s
      noteWire (noteWire s b n 0) b n 1
    else s
  | none => s

/-! ## STROBE (R427) -/

/-- A line of the read direction after its die launches later by `later` (1/1,024 ps): it is selected anew, so that the
wire's total delay stays. -/
def reselect (later : Int) (s : State) (key : Nat) : State :=
  match smGet none s.cal.meas key with
  | some v =>
    let es := lineElems s key
    let sum : Int := selSum es (smGet 0 s.cal.sel key).toNat
    { s with cal := { s.cal with
        meas := smSet none s.cal.meas key (some (v + later).toNat),
        sel := smSet 0 s.cal.sel key (BitVec.ofNat 14 (bestSel es (sum - later).toNat)) } }
  | none => s

/-- A die's STROBE takes a value, at 2 ps a step; the base die's lines are reselected at the same boundary. -/
def putStrobe (s : State) (b d new : Nat) : State :=
  let t := trimV s b d
  let old := field t.toNat 10 6
  if new = old then s
  else
    let s := { s with cal := { s.cal with
      moved := true, trim := smSet none s.cal.trim (16 * b + d) (some (setField t 10 6 new)) } }
    (List.range 160).foldl (fun s w => reselect (2048 * ((new : Int) - old)) s (selKeyOf b w d 1)) s

/-! ## MODE words (R423): subcode, and the operand of the NOP word that follows -/

def subTake : Nat := 0x02
def subGive : Nat := 0x03
def subLoop : Nat := 0x04
/-- VREF, DRIVE, STROBE and SENSE of a TRIM word. -/
def trimWords (t : BitVec 32) : List (Nat × Nat) :=
  [(0x05, field t.toNat 0 6), (0x06, field t.toNat 6 4), (0x07, field t.toNat 10 6), (0x08, field t.toNat 16 5)]

/-- Operands of WALK_TAKE, WALK_GIVE and LOOPBACK, as bits [15:3]. -/
def takeOperand (wire spare : Nat) : Nat := wire + spare * 256
def giveOperand (spare : Nat) : Nat := spare * 256
def loopOperand (wire : Nat) (on : Bool) : Nat := wire + b2n on * 256

end Sys2Proof.Machine
end

