-- ==== Sys2Proof/Machine/Budget.lean ====
section
/-! DEFINITION. The placement budget of a throttled region (13 R372) and the progress reserve of its blocks (21 R527). -/

namespace Sys2Proof.Machine

/-! ## The budget (13 R372): windows of 1,000 ticks, T(r) × 977 lines in each while T(r) is below 16 -/

def windowOf (t : Nat) : Nat := t / 1000

/-- Lines placed in the present window. -/
def placedNow (s : State) (r : Nat) : Nat :=
  let z := zone s r
  if z.win = windowOf s.now then z.placed else 0

/-- n more lines fit in the present window. -/
def budgetFor (s : State) (r n : Nat) : Bool :=
  let z := zone s r
  z.t ≥ 16 || placedNow s r + n ≤ 977 * z.t

/-- n lines are counted. -/
def countLines (s : State) (r n : Nat) : State :=
  putZone s r { zone s r with win := windowOf s.now, placed := placedNow s r + n }

/-! ## Work of ranks 8, 10 and 11 that waits (21 R527, R529) -/

/-- Logical block of the line a scrub pass reads next. -/
def scrubBlock (s : State) : Option Nat :=
  let sc := s.store.scrub
  if sc.running && sc.pos < sc.count then
    some (physBlock s (decodeDpa (nRegions s) (sc.start + 64 * sc.pos)).lblock)
  else none

/-- Blocks whose rows a migration reads and writes. -/
def migrBlocks (m : Migr) : List Nat :=
  match m.queue.head? with
  | some (.bank pb _) => [pb]
  | some (.block pb) => [pb, m.target]
  | none => []

/-- The next row of a region's migration may be copied. -/
def copyWaits (s : State) (r : Nat) : Bool :=
  let m := migr s r
  m.st == .copy && (m.ring || !ucOn s r) && !regionStopped s r && pipesOpen s

/-- Eligible work of a block in the ranks of the reserve: rank, and the tick it waits from. -/
def lowWork (s : State) (pb : Nat) : List (Nat × Nat) :=
  let m := migr s (pb / 9)
  let k := blk s pb
  (if copyWaits s (pb / 9) && (migrBlocks m).contains pb then [(8, m.copyAt)] else []) ++
    ((s.test.runs.filter (fun t => runOpen t && t.pblock = pb && t.result == .running &&
      (t.phase == .copyIn || t.phase == .march || t.phase == .restore))).map (fun t => (if t.forced then 8 else 10, t.stepAt))) ++
    (if scrubBlock s = some pb then [(11, s.store.scrub.lastAt)] else []) ++
    ((k.wq.filter (fun e => e.rank = 11)).map (fun e => (11, e.at0))) ++
    ((k.rq.filter (fun e => e.rank = 11 && !e.issued)).map (fun e => (11, e.at0)))

/-! ## The reserve (21 R527) -/

/-- RESV: floor(64 × T(r) / 16) lines of a block in each window. -/
def resvSize (s : State) (r : Nat) : Nat := 4 * (zone s r).t

/-- Some of the work has been eligible for 10 µs. -/
def resvDue (s : State) (pb : Nat) : Bool := (lowWork s pb).any (fun p => waited s p.2 (us 10))

/-- Lines of the reserve a work may still take, that has waited since a tick: what is left of the present window, or the
windows since the work was due and nothing was taken, its lines being placed through them (DEDUCED, log 188). -/
def resvLeft (s : State) (pb since : Nat) : Nat :=
  let k := blk s pb
  let w := windowOf s.now
  let n := resvSize s (pb / 9)
  if k.resWin = w then n - k.resTaken else n * (w + 1 - max (k.resWin + 1) (windowOf (since + us 10)))

/-- Lines are taken from the reserve. -/
def takeResv (s : State) (pb n : Nat) : State :=
  modBlk s pb (fun k =>
    let w := windowOf s.now
    { k with resWin := w, resTaken := if k.resWin = w then k.resTaken + n else min n (resvSize s (pb / 9)) })

/-- Lines of the present window that rank 7 leaves to work of the reserve that is due. -/
def resvHeld (s : State) (r : Nat) : Nat :=
  (regionBlocks r).foldl (fun n pb => if resvDue s pb then n + resvLeft s pb s.now else n) 0

/-- A line of a rank may be placed: ranks 5 and 6 within the budget, rank 7 beside the reserve that is due. -/
def budgetRank (s : State) (r rank : Nat) : Bool :=
  (zone s r).t ≥ 16 || budgetFor s r (if rank = 7 then 1 + resvHeld s r else 1)

end Sys2Proof.Machine
end

