-- ==== Sys2Proof/Machine/DirCore.lean ====
section
/-! DEFINITION. The directory as stored (06 R197 to R202) and as 05 R173, R174 use it. -/

namespace Sys2Proof.Machine

/-! ## Slots (06 R197, R198) -/

def dirKey (region set way : Nat) : Nat := (region * 2 ^ 19 + set) * 12 + way
def dirGet (s : State) (region set way : Nat) : DirSlot := smGet .free s.uc.dir (dirKey region set way)
def dirPut (s : State) (region set way : Nat) (d : DirSlot) : State :=
  { s with uc := { s.uc with dir := smSet .free s.uc.dir (dirKey region set way) d } }

/-- A slot's 64-bit word: 48 payload bits and its code; a word of zeros is FREE (06 R198). -/
def slotPayload : DirSlot → BitVec 48
  | .free => 0
  | .precise t a x y two => (0 : BitVec 5) ++ BitVec.ofBool two ++ y ++ x ++ a ++ t ++ (1 : BitVec 2)
  | .coarseHead t a v => v ++ a ++ t ++ (2 : BitVec 2)
  | .coarseTail t v => v ++ t ++ (2 : BitVec 2)
  | .owned t a o => (0 : BitVec 18) ++ o ++ a ++ t ++ (3 : BitVec 2)
def slotWord (d : DirSlot) : BitVec 64 :=
  (if slotPayload d = 0 then 0 else slotCode (slotPayload d)) ++ slotPayload d

/-- TAG and set of a sector. -/
def secTag (s : State) (sec : Nat) : Nat := sec / 2 ^ dirK s
def secSet (s : State) (sec : Nat) : Nat := (sec % 2 ^ dirK s) ^^^ (secTag s sec * 2 ^ (2 * dirK s - 28))
/-- The sector of a set and TAG. -/
def sectorOf (s : State) (set tag : Nat) : Nat := tag * 2 ^ dirK s + (set ^^^ (tag * 2 ^ (2 * dirK s - 28)))

/-- The holders an entry names. -/
inductive DView where
  | none
  | precise (way : Nat) (nodes : List Node)
  | coarse (way : Nat) (vec : BitVec 64)
  | owned (way : Nat) (o : Node)
  deriving DecidableEq, Repr, Inhabited

/-- An entry read at a way, with its TAG and AGE; tails and free slots are none. -/
def slotView (s : State) (region set way : Nat) : Option (Nat × Nat × DView) :=
  match dirGet s region set way with
  | .free => none
  | .precise t a x y two => some (t.toNat, a.toNat, .precise way (if two then [x, y] else [x]))
  | .coarseHead t a v =>
    match dirGet s region set (way + 1) with
    | .coarseTail _ w => some (t.toNat, a.toNat, .coarse way (BitVec.ofNat 64 (v.toNat + w.toNat * 2 ^ 30)))
    | _ => some (t.toNat, a.toNat, .coarse way (BitVec.ofNat 64 v.toNat))
  | .coarseTail _ _ => none
  | .owned t a o => some (t.toNat, a.toNat, .owned way o)

/-- Lookup of a sector. -/
def dirFind (s : State) (region sec : Nat) : DView :=
  let set := secSet s sec
  let tag := secTag s sec
  match (List.range 12).findSome? (fun w =>
    match slotView s region set w with
    | some (t, _, v) => if t = tag then some v else none
    | none => none) with
  | some v => v
  | none => .none

/-- The other entries of a set age by 1 at a write that creates or changes an entry, holding at 11 (06 R200). -/
def ageSet (s : State) (region set except : Nat) : State :=
  (List.range 12).foldl (fun s w =>
    if w = except then s
    else match dirGet s region set w with
      | .precise t a x y two => dirPut s region set w (.precise t (BitVec.ofNat 4 (min 11 (a.toNat + 1))) x y two)
      | .coarseHead t a v => dirPut s region set w (.coarseHead t (BitVec.ofNat 4 (min 11 (a.toNat + 1))) v)
      | .owned t a o => dirPut s region set w (.owned t (BitVec.ofNat 4 (min 11 (a.toNat + 1))) o)
      | _ => s) s

/-- Freeing an entry; a coarse one frees its pair. -/
def dirFree (s : State) (region set way : Nat) : State :=
  match dirGet s region set way with
  | .coarseHead _ _ _ => dirPut (dirPut s region set way .free) region set (way + 1) .free
  | _ => dirPut s region set way .free

/-- Writing a sector's entry at a way, with AGE 0. -/
def dirWrite (s : State) (region sec way : Nat) (v : DView) : State :=
  let set := secSet s sec
  let tag := BitVec.ofNat 12 (secTag s sec)
  let s := match v with
    | .owned _ o => dirPut s region set way (.owned tag 0 o)
    | .precise _ [a] => dirPut s region set way (.precise tag 0 a 0 false)
    | .precise _ (a :: b :: _) => dirPut s region set way (.precise tag 0 a b true)
    | .coarse _ vec =>
      dirPut (dirPut s region set way (.coarseHead tag 0 (vec.extractLsb' 0 30))) region set (way + 1)
        (.coarseTail tag (vec.extractLsb' 30 34))
    | _ => s
  ageSet s region set way

/-! ## Nodes a snoop goes to (05 R174, 06 R201) -/

/-- Nodes of the marked groups whose routing entry is not drop, without the stack and nodes on the Wide Port with no
enabled agent. -/
def groupNodes (s : State) (vec : BitVec 64) : List Node :=
  (s.fab.routes.filter (fun p =>
    vec.getLsbD (p.1 / 64) && rPrimary p.2 ≠ 6 && p.1 ≠ s.fab.stackNode.toNat &&
      (rPrimary p.2 ≠ 4 || (agentOf s (BitVec.ofNat 12 p.1)).isSome))).map (fun p => BitVec.ofNat 12 p.1)

/-- Every node an entry lists. -/
def listed (s : State) (v : DView) : List Node :=
  match v with
  | .none => []
  | .precise _ ns => ns
  | .coarse _ vec => groupNodes s vec
  | .owned _ o => [o]

/-- The broadcast set of 06 R201. -/
def broadcastSet (s : State) : List Node :=
  let fab := (s.fab.routes.filter (fun p => rPrimary p.2 < 4)).map (fun p => BitVec.ofNat 12 p.1)
  let ag := ((List.range 16).filter (agentOn s)).map (agentNode s)
  ((fab ++ ag).eraseDups).filter (fun n => n != s.fab.stackNode)

/-! ## Unknown sectors (06 R201, R202) -/

/-- A sector's set is among those lost. -/
def setLost (s : State) (region sec : Nat) : Bool :=
  let u := ucReg s region
  u.lostSets.contains (secSet s sec) || u.lostMod.contains (secSet s sec % 16)

/-- A sector is UNKNOWN: no entry, not resolved since its record was lost, and not yet passed by a pass over the whole
region, or its set lost.  During a domain reset every sector is (06 R210). -/
def isUnknown (s : State) (region sec : Nat) : Bool :=
  let u := ucReg s region
  dirFind s region sec == .none && !u.known.contains sec &&
    (s.uc.reset != .none || setLost s region sec ||
     (u.sweepAll && (match u.sweep with
       | some p => p ≤ sec
       | none => false)))

/-- A sector resolved ahead of the sweep. -/
def markKnown (s : State) (region sec : Nat) : State :=
  let u := ucReg s region
  if u.known.contains sec then s else ucRegPut s region { u with known := sec :: u.known }

/-! ## Requests in progress on a sector (06 R194) -/

/-- The sector of a line of a context. -/
def lineSector (l : CtxLine) : Nat := sectorId l.lblock l.key

def sectorBusy (s : State) (region sec : Nat) : Bool :=
  s.tx.chain.any (fun c => c.region = region && c.sector = sec) ||
    s.tx.resWait.any (fun w => w.region = region && sectorId w.lblock w.key = sec) ||
    (let lb := 4 * (sec / 8 % 8) + region
     (blk s (physBlock s lb)).wq.any (fun e => e.kind == .snoopLine && sectorId lb e.key = sec)) ||
    s.tx.ctxs.any (fun c => c.lines.any (fun l => l.region = region && lineSector l = sec && (!l.done || c.phase != .placed)))

/-! ## A slot for a new or changed entry (06 R200) -/

/-- Where an entry goes: at a way with the entries to be evicted, or it must wait. -/
inductive SlotPlan where
  | place (way : Nat) (evict : List Nat)
  | wait
  deriving DecidableEq, Repr, Inhabited

/-- Entries of a set that may be evicted: way, AGE, sector. -/
def evictable (s : State) (region set : Nat) : List (Nat × Nat × Nat) :=
  (List.range 12).filterMap (fun w =>
    match slotView s region set w with
    | some (t, a, _) => if sectorBusy s region (sectorOf s set t) then none else some (w, a, sectorOf s set t)
    | none => none)

/-- Places free in the region's eviction queue of 64 (05 R178), as far as the internal pool has contexts (05 R155). -/
def evictRoom (s : State) (region : Nat) : Nat :=
  min (64 - (s.tx.ctxs.filter (fun c => c.kind == .backInv && c.lead = region)).length) (poolSize 5 - poolUsed s 5)

def isFree (s : State) (region set w : Nat) : Bool := dirGet s region set w == .free

/-- A plan is carried out only with room for its evictions. -/
def fits (s : State) (region : Nat) (p : SlotPlan) : SlotPlan :=
  match p with
  | .place w ev => if ev.length ≤ evictRoom s region then .place w ev else .wait
  | .wait => .wait

/-- One slot: a free way, else the oldest evictable entry, the lowest way among equals. -/
def planOne (s : State) (region sec : Nat) : SlotPlan :=
  let set := secSet s sec
  match (List.range 12).find? (isFree s region set) with
  | some w => .place w []
  | none =>
    match argMin (fun e : Nat × Nat × Nat => 11 - e.2.1) (evictable s region set) with
    | some e => fits s region (.place e.1 [e.1])
    | none => .wait

/-- A pair for a precise entry at `way` that turns coarse: in place, a free pair, else the pair with the oldest
entry. -/
def planPair (s : State) (region sec way : Nat) : SlotPlan :=
  let set := secSet s sec
  if way % 2 = 0 ∧ isFree s region set (way + 1) then .place way []
  else
    match (List.range 6).find? (fun m => isFree s region set (2 * m) && isFree s region set (2 * m + 1)) with
    | some m => .place (2 * m) []
    | none =>
      let ev := evictable s region set
      -- the pair must hold nothing but evictable entries, free slots and the entry itself
      let okW (w : Nat) : Bool := isFree s region set w || w = way || ev.any (fun e => e.1 = w) ||
        (w % 2 = 1 && ev.any (fun e => e.1 = w - 1) && (slotView s region set w).isNone)
      match argMin (fun e : Nat × Nat × Nat => 11 - e.2.1)
          (ev.filter (fun e => okW (e.1 / 2 * 2) && okW (e.1 / 2 * 2 + 1))) with
      | some e =>
        let m := e.1 / 2 * 2
        fits s region (.place m ((ev.filter (fun x => x.1 = m || x.1 = m + 1)).map (fun x => x.1)))
      | none => .wait

end Sys2Proof.Machine
end

