-- ==== Sys2Proof/Machine/BlockCore.lean ====
section
/-! DEFINITION. Lines as stored and the block queues: where a line lies (shadowed subarrays of 18 R489, mirrored writes
of 09 R290), its value in serialisation order (05 R164), poison tables (07 R225), placement of reads, the states of
write entries (07 R219 to R224), and performing a line (05 R169). -/

namespace Sys2Proof.Machine

/-! ## Cells (18 R489, R490; 09 R290) -/

/-- The subarray a run works on. -/
def TestRun.cur (t : TestRun) : Nat := t.firstSa + t.coverage

/-- The run, if any, that holds the subarray of a physical row. -/
def testOn (s : State) (pb pbank row : Nat) : Option TestRun :=
  s.test.runs.find? (fun t => t.phase != .ended && t.phase != .waitUnit && t.kind = 2 && t.pblock = pb &&
    t.bank = pbank && t.cur = row / 1024 && t.unit.isSome)

/-- A stored codeword, read from the shadow unit while the subarray is redirected. -/
def cellRead (s : State) (pb pbank row line : Nat) : Codeword :=
  match testOn s pb pbank row with
  | some t =>
    if t.phase == .march || t.phase == .restore then shadowCw s (pb / 9) (t.unit.getD 0) (row % 1024) line
    else dramCw s pb pbank row line
  | none => dramCw s pb pbank row line

/-- Writing a codeword: mirrored during copy-in and restore, to the unit alone during the march. -/
def cellWrite (s : State) (pb pbank row line : Nat) (c : Codeword) : State :=
  match testOn s pb pbank row with
  | some t =>
    let s := shadowPut s (pb / 9) (t.unit.getD 0) (row % 1024) line c
    if t.phase == .march then s else dramPut s pb pbank row line c
  | none => dramPut s pb pbank row line c

/-- The migration target that mirrors a place, as a physical block and bank (09 R289, R290). -/
def mirrorOf (s : State) (pb bank : Nat) : Option (Nat × Nat) :=
  let m := migr s (pb / 9)
  if m.st == .idle then none
  else match m.queue.head? with
    | some (.bank b k) => if b = pb ∧ k = physBank s pb bank then some (pb, m.target) else none
    | some (.block b) => if b = pb then some (m.target, physBank s m.target bank) else none
    | none => none

/-- A line of a physical block by its key. -/
def keyRead (s : State) (pb key : Nat) : Codeword :=
  cellRead s pb (physBank s pb (keyBank key)) (keyRow key) (keyLine key)

/-- Writing a line by its key, in the migration's target as well. -/
def keyWrite (s : State) (pb key : Nat) (c : Codeword) : State :=
  let s' := cellWrite s pb (physBank s pb (keyBank key)) (keyRow key) (keyLine key) c
  match mirrorOf s pb (keyBank key) with
  | some (tb, tk) => cellWrite s' tb tk (keyRow key) (keyLine key) c
  | none => s'

/-! ## Values -/

/-- A line's value: data, poison, hint. -/
structure LVal where
  d : Line
  p : Bool
  h : Bool
  deriving DecidableEq, Repr, Inhabited

def readVal (c : Codeword) : Option LVal :=
  match decodeLine c with
  | .good d p h _ _ => some { d := d, p := p, h := h }
  | .bad => none

def valCw (v : LVal) : Codeword := encodeLine v.d v.p v.h

/-- Poisoned zeros with HINT 0b11 (09 R280). -/
def poisonZeros : LVal := { d := 0, p := true, h := true }

/-! ## Poison tables (07 R225) -/

def ptabAdd (k : Block) (key : Nat) : Block :=
  if k.ptab.contains key then k
  else if k.ptab.length < 1024 then { k with ptab := key :: k.ptab } else { k with povf := true }

def ptabDrop (k : Block) (key : Nat) : Block := { k with ptab := k.ptab.filter (fun x => x ≠ key) }

/-- A line written to DRAM enters or leaves its block's poison table; OVERFLOW set raises C0 0x0703 (07 R225, R245). -/
def ptabMark (s : State) (pb key : Nat) (poisoned : Bool) : State :=
  let was := (blk s pb).povf
  let s := modBlk s pb (fun k => if poisoned then ptabAdd k key else ptabDrop k key)
  if (blk s pb).povf && !was then raiseC0 s .block (pb / 9) pb 0x0703 0 0 else s

/-! ## Frames (06 R189 to R196) -/

/-- Logical block and line key of line n of a row. -/
def rowLine (r rid n : Nat) : Nat × Nat := (4 * (rid % 8) + r, lineKey (rid / 8 % 64) (rid / 512) n)

/-- WSTATE of a tag entry (06 R189). -/
def wsCode : WState → BitVec 2
  | .active => 0
  | .spare => 1
  | .retired => 2

/-- A frame's 116-bit tag entry as the base die stores it (06 R189). -/
def tagEntry (t : Tag6) : BitVec 116 :=
  let v : BitVec 100 := (0 : BitVec 4) ++ BitVec.ofBool t.busy ++ wsCode t.wstate ++ t.age ++ t.dirty ++ t.valid ++ t.rowId
  tagCode v ++ v

/-- The 32-bit header a frame carries in the Undercoat, from its allocation: ROWID and its check (06 R190). -/
def frameHeader (t : Tag6) : Option (BitVec 32) := t.hdr.map (fun r => hdrCheck r ++ r)

/-- The Undercoat serves slices: in use and not between t0 and the return of its slices (06 R210). -/
def ucUsable (s : State) (r : Nat) : Bool := ucOn s r && s.uc.reset == .none

/-- Set and way of the frame that holds a line VALID. -/
def frameOf (s : State) (lb key : Nat) : Option (Nat × Nat) :=
  let r := lb % 4
  if !ucUsable s r then none
  else
    let rid := rowId lb key
    match ucFind s r rid with
    | some w => if (tagGet s r (ucSet s rid) w).valid.getLsbD (keyLine key) then some (ucSet s rid, w) else none
    | none => none

/-- A row's frame, its line VALID or not. -/
def rowFrame (s : State) (lb key : Nat) : Option (Nat × Nat) :=
  let r := lb % 4
  if !ucUsable s r then none
  else
    let rid := rowId lb key
    (ucFind s r rid).map (fun w => (ucSet s rid, w))

/-- An access makes a frame the most recent and ages those that were more recent. -/
def touchFrame (s : State) (r set way : Nat) : State :=
  let old := (tagGet s r set way).age
  (List.range 16).foldl (fun s w =>
    let t := tagGet s r set w
    if w = way then tagPut s r set w { t with age := 0 }
    else if t.wstate == .active && t.age.toNat < old.toNat then
      tagPut s r set w { t with age := BitVec.ofNat 4 (min 15 (t.age.toNat + 1)) }
    else s) s

/-- Installing a line in a frame: VALID, and DIRTY or clean. -/
def frameInstall (s : State) (r set way line : Nat) (c : Codeword) (dirty : Bool) : State :=
  let t := tagGet s r set way
  let s := tagPut s r set way { t with
    valid := setBit t.valid line true, dirty := setBit t.dirty line (dirty || t.dirty.getLsbD line) }
  touchFrame (framePut s r set way line c) r set way

/-- Freeing a line in a frame. -/
def frameDrop (s : State) (r set way line : Nat) : State :=
  let t := tagGet s r set way
  tagPut s r set way { t with valid := setBit t.valid line false, dirty := setBit t.dirty line false }

/-- Freeing a whole frame. -/
def frameFree (s : State) (r set way : Nat) : State :=
  let t := tagGet s r set way
  tagPut s r set way { t with valid := 0, dirty := 0, busy := false }

/-- A frame's dirty lines are written to DRAM, an uncorrectable one poisoned; the frame stays, clean (06 R212). -/
def frameWriteBack (s : State) (r set way : Nat) : State :=
  let t := tagGet s r set way
  let s := (bitsSet t.dirty).foldl (fun s n =>
    let (lb, key) := rowLine r t.rowId.toNat n
    let pb := physBlock s lb
    let v := (readVal (frameCw s r set way n)).getD poisonZeros
    ptabMark (keyWrite s pb key (valCw v)) pb key v.p) s
  tagPut s r set way { tagGet s r set way with dirty := 0, busy := false }

/-- The value stored for a line: in its frame, else in DRAM; none when the code cannot read it. -/
def storedVal (s : State) (lb key : Nat) : Option LVal :=
  match frameOf s lb key with
  | some (set, w) => readVal (frameCw s (lb % 4) set w (keyLine key))
  | none => readVal (keyRead s (physBlock s lb) key)

/-! ## Order in a queue (05 R164, R175) -/

def allBytes : BitVec 64 := 0xFFFFFFFFFFFFFFFF

/-- An entry that lies before order position `o` on its line; a snoop-returned line precedes its request's effect. -/
def isBefore (e : WEnt) (o : Nat) : Bool := e.ord < o || (e.ord = o && e.kind == .snoopLine)

/-- Insertion in rising order. -/
def insertOrd (e : WEnt) : List WEnt → List WEnt
  | [] => [e]
  | x :: l => if e.ord < x.ord || (e.ord = x.ord && e.kind == .snoopLine) then e :: x :: l else x :: insertOrd e l

def sortOrd (l : List WEnt) : List WEnt := l.foldr insertOrd []

/-- Entries of a line before an order position, oldest first. -/
def earlier (k : Block) (key o : Nat) : List WEnt := sortOrd (k.wq.filter (fun e => e.key = key && isBefore e o))

/-- An entry whose data is the whole line: a full-line write, or a partial or atomic that is READY. -/
def wholeLine (e : WEnt) : Bool :=
  match e.kind with
  | .partialW | .atomic => e.st == .ready
  | _ => true

/-- Bytes an entry has given its value to. -/
def entBytes (e : WEnt) : BitVec 64 := if wholeLine e then allBytes else if e.kind == .atomic then 0 else e.be

/-- One entry over a value (05 R167, R168). -/
def overlay (v : LVal) (e : WEnt) : LVal :=
  if wholeLine e then { d := e.data, p := e.poison, h := e.hint }
  else { d := mergeBytes e.be v.d e.data, p := v.p || e.poison, h := e.hint }

def overlays (v : LVal) (es : List WEnt) : LVal := es.foldl overlay v

/-- The entries cover every byte of the line. -/
def covers (es : List WEnt) : Bool := (es.foldl (fun (a : BitVec 64) e => a ||| entBytes e) 0) == allBytes

/-- The earlier entries a read still waits on: data not complete, or an atomic without its value (07 R222). -/
def waitsOn (e : WEnt) : Bool := e.st == .waitData || (e.kind == .atomic && e.st != .ready)

/-- Hint of a line just before an order position (05 R174, R179; 09 R279 for a line that cannot be read). -/
def hintAt (s : State) (lb key o : Nat) : Bool :=
  match (earlier (blk s (physBlock s lb)) key o).getLast? with
  | some e => e.hint
  | none => match storedVal s lb key with
    | some v => v.h
    | none => true

/-- The hint set at a grant of S or E: in the frame, which it dirties, or in DRAM, and in the entries ordered before
the grant (05 R179, 06 R196). -/
def setHint (s : State) (lb key o : Nat) : State :=
  let pb := physBlock s lb
  let s := modBlk s pb (fun k => { k with wq := k.wq.map (fun e =>
    if e.key = key && isBefore e o then { e with hint := true } else e) })
  match frameOf s lb key with
  | some (set, w) =>
    (match readVal (frameCw s (lb % 4) set w (keyLine key)) with
     | some v => if v.h then s else frameInstall s (lb % 4) set w (keyLine key) (valCw { v with h := true }) true
     | none => s)
  | none =>
    (match readVal (keyRead s pb key) with
     | some v => if v.h then s else keyWrite s pb key (valCw { v with h := true })
     | none => s)

/-- The hint cleared by a write or atomic once its snoops are complete (05 R179). -/
def clearHint (s : State) (lb key o : Nat) : State :=
  modBlk s (physBlock s lb) (fun k => { k with wq := k.wq.map (fun e =>
    if e.key = key && e.ord = o && e.kind != .snoopLine then { e with hint := false } else e) })

/-! ## Poison lists (06 R210) -/

/-- A line has a pending poisoned write before an order position. -/
def poisonPending (s : State) (lb key o : Nat) : Bool :=
  (ucReg s (lb % 4)).poison.any (fun p => p.lblock = lb && p.key = key && p.ord < o)

/-- A line has a pending poisoned write at all: reads that were aborted with a dirty line meet it too (06 R210). -/
def poisonAny (s : State) (lb key : Nat) : Bool :=
  (ucReg s (lb % 4)).poison.any (fun p => p.lblock = lb && p.key = key)

/-- Pending poisoned writes of a line are dropped: a full-line write ordered before them is performed (06 R210). -/
def dropPoison (s : State) (lb key : Nat) : State :=
  let u := ucReg s (lb % 4)
  if poisonAny s lb key then
    ucRegPut s (lb % 4) { u with poison := u.poison.filter (fun p => !(p.lblock = lb && p.key = key)) }
  else s

/-- A line on the lost-write list of its region (12 R355). -/
def lostPending (s : State) (lb key : Nat) : Bool :=
  (smGet [] s.faults.lostWrites (lb % 4)).contains (lb, key)

def addLost (s : State) (lb key : Nat) : State :=
  let l := smGet [] s.faults.lostWrites (lb % 4)
  if l.contains (lb, key) then s
  else { s with faults := { s.faults with lostWrites := smSet [] s.faults.lostWrites (lb % 4) (l ++ [(lb, key)]) } }

/-- An internal write of a value to DRAM and to a frame line that is present. -/
def writeThrough (s : State) (lb key : Nat) (v : LVal) : State :=
  let pb := physBlock s lb
  let s := keyWrite s pb key (valCw v)
  let s := ptabMark s pb key v.p
  match frameOf s lb key with
  | some (set, w) =>
    let t := tagGet s (lb % 4) set w
    let s := framePut s (lb % 4) set w (keyLine key) (valCw v)
    tagPut s (lb % 4) set w { t with dirty := setBit t.dirty (keyLine key) false }
  | none => s

/-! ## Queue room (07 R218, R220) -/

/-- Entries a block holds for mirrored writes, each until its write is performed or given up (09 R290). -/
def mirroredIn (s : State) (pb : Nat) : Nat :=
  ((blk s pb).mirrors.filter (fun m => (blk s m.1).wq.any (fun e => e.ord = m.2.1 && e.key = m.2.2))).length

/-- Write entries in use (07 R244). -/
def wqUsed (s : State) (pb : Nat) : Nat := (blk s pb).wq.length + mirroredIn s pb

/-- A line's unit waits for its migration's switch (09 R291). -/
def switching (s : State) (lb key : Nat) : Bool :=
  (migr s (lb % 4)).st == .switch && (mirrorOf s (physBlock s lb) (keyBank key)).isSome

/-- A write takes its entry, and one where it is mirrored; both count against the budget (07 R220; 13 R372).  While its unit
switches it is not placed. -/
def placeEnt (s : State) (lb : Nat) (e : WEnt) : State :=
  let pb := physBlock s lb
  let e := { e with after := switching s lb e.key }
  let s := countLines (modBlk s pb (fun k => { k with wq := k.wq ++ [e] })) (lb % 4) 1
  if e.after then s
  else match mirrorOf s pb (keyBank e.key) with
  | some (tb, _) => countLines (modBlk s tb (fun k => { k with mirrors := k.mirrors ++ [(pb, e.ord, e.key)] })) (lb % 4) 1
  | none => s

/-- Mirror entries whose write is over are free. -/
def pruneMirrors (s : State) : State :=
  if s.blocks.all (fun p => p.2.mirrors.isEmpty) then s
  else { s with blocks := s.blocks.map (fun p => (p.1, { p.2 with
    mirrors := p.2.mirrors.filter (fun m => (blk s m.1).wq.any (fun e => e.ord = m.2.1 && e.key = m.2.2)) })) }

def isInternal (e : WEnt) : Bool := e.kind == .internal || e.kind == .rowHold
def isReserve (e : WEnt) : Bool := e.kind == .snoopLine

/-- Write slots of the request pool free in a block, mirrored entries counted. -/
def wqFree (s : State) (pb : Nat) : Nat :=
  104 - (((blk s pb).wq.filter (fun e => !isInternal e && !isReserve e)).length + mirroredIn s pb)

def reserveFree (s : State) (pb : Nat) : Bool := ((blk s pb).wq.filter isReserve).length < 8

def isPoolRead (e : REnt) : Bool := e.pool
def rqFree (s : State) (pb : Nat) : Bool := ((blk s pb).rq.filter isPoolRead).length < 224
def rqIntFree (s : State) (pb : Nat) : Bool := ((blk s pb).rq.filter (fun e => !isPoolRead e)).length < 32
def wqIntFree (s : State) (pb : Nat) : Bool := ((blk s pb).wq.filter (fun e => e.kind == .internal)).length < 16

/-! ## Victims and allocation (06 R193 to R195) -/

/-- No request is in progress on any line of a frame, and no work of a back-invalidation, broadcast or recall (06 R194). -/
def frameQuiet (s : State) (r rid : Nat) : Bool :=
  let inRow (lb key : Nat) : Bool := lb % 4 = r && rowId lb key = rid
  !s.tx.ctxs.any (fun c => c.lines.any (fun l => inRow l.lblock l.key && (!l.done || c.phase != .placed))) &&
    !s.tx.chain.any (fun c => c.region = r && c.sector / 8 = rid) &&
    !(List.range 8).any (fun j =>
      let lb := 4 * j + r
      (blk s (physBlock s lb)).wq.any (fun e => inRow lb e.key && e.kind == .snoopLine)) &&
    !s.tx.resWait.any (fun w => inRow w.lblock w.key)

/-- Sending a frame's dirty lines to the write queue as a victim batch: an entry for each line that finds room; the
frame stays BUSY until all have one (06 R195). -/
def victimBatch (s : State) (r set way : Nat) : State :=
  let t := tagGet s r set way
  let rid := t.rowId.toNat
  let s := (bitsSet t.dirty).foldl (fun s n =>
    let (lb, key) := rowLine r rid n
    let pb := physBlock s lb
    if 0 < wqFree s pb && budgetRank s r 7 then
      let v := match readVal (frameCw s r set way n) with
        | some v => v
        | none => poisonZeros
      let ord := s.tx.nextOrd
      let e : WEnt :=
        { key := key, ord := ord, be := allBytes, kind := .victim, st := .ready, rank := 7, tgt := .dram, data := v.d,
          poison := v.p, hint := v.h, ctx := none, li := 0, cmpSent := true, baseIssued := false, aop := 0, asz := 0,
          aoff := 0, cmpd := 0, at0 := s.now }
      let s := placeEnt s lb e
      let s := { s with tx := { s.tx with nextOrd := ord + 1 } }
      let t := tagGet s r set way
      occ (tagPut s r set way { t with dirty := setBit t.dirty n false }) 0x0C4 6 r 1
    else s) s
  let t := tagGet s r set way
  let key := tagKey r set way
  if t.dirty = 0 then
    tagPut { s with uc := { s.uc with victims := s.uc.victims.filter (fun x => x ≠ key) } } r set way
      { t with valid := 0, busy := false }
  else
    tagPut { s with uc := { s.uc with victims := if s.uc.victims.contains key then s.uc.victims else s.uc.victims ++ [key] } }
      r set way { t with busy := true }

/-- A free frame: ACTIVE, nothing VALID and not BUSY. -/
def freeWay (s : State) (r set : Nat) : Option Nat :=
  (List.range 16).find? (fun w =>
    let t := tagGet s r set w
    t.wstate == .active && t.valid = 0 && !t.busy)

/-- The victim of 06 R194: among quiet ACTIVE frames, the oldest of the four oldest without a DIRTY bit, else the
oldest. -/
def victimWay (s : State) (r set : Nat) : Option Nat :=
  let c := (List.range 16).filter (fun w =>
    let t := tagGet s r set w
    t.wstate == .active && t.valid ≠ 0 && !t.busy && frameQuiet s r t.rowId.toNat)
  let old (w : Nat) : Nat := 15 - (tagGet s r set w).age.toNat
  let sorted := c.foldr (fun w l =>
    (l.takeWhile (fun x => old x ≤ old w)) ++ [w] ++ l.dropWhile (fun x => old x ≤ old w)) []
  match (sorted.take 4).find? (fun w => (tagGet s r set w).dirty = 0) with
  | some w => some w
  | none => sorted.head?

/-- Allocating a frame for a row: a free one or a clean victim at once; a dirty victim is sent off and the request
proceeds without a frame (06 R193, R195). -/
def allocFrame (s : State) (lb key : Nat) : State × Option (Nat × Nat) :=
  let r := lb % 4
  let rid := rowId lb key
  let set := ucSet s rid
  if !ucUsable s r then (s, none)
  else
    let take (s : State) (w : Nat) : State × Option (Nat × Nat) :=
      let t := tagGet s r set w
      let s := tagPut s r set w
        { t with rowId := BitVec.ofNat 25 rid, valid := 0, dirty := 0, busy := false, hdr := some (BitVec.ofNat 25 rid) }
      (occ (touchFrame s r set w) 0x0C3 6 r 1, some (set, w))
    match freeWay s r set with
    | some w => take s w
    | none =>
      match victimWay s r set with
      | some w =>
        if (tagGet s r set w).dirty = 0 then take s w else (victimBatch s r set w, none)
      | none => (s, none)

/-! ## Performing a write (05 R169; 06 R192; 07 R221, R225) -/

/-- A write for which a frame may be allocated: a full or merged line of a request, or a snoop-returned line, outside
bulk windows, with WR_ALLOC = 1 (06 R192, R193). -/
def allocs (s : State) (e : WEnt) : Bool :=
  s.cfg.wrAlloc && e.tgt == .both && e.kind != .internal && e.kind != .victim &&
    e.kind != .stream

/-- A performed line's value in DRAM, and in a frame that holds the line. -/
def storeDram (s : State) (pb lb : Nat) (e : WEnt) (v : LVal) : State :=
  let s := keyWrite s pb e.key (valCw v)
  match frameOf s lb e.key with
  | some (set, w) => framePut s (lb % 4) set w (keyLine e.key) (valCw v)
  | none => s

/-- A performed line's value reaches its frame, DRAM, or both, and the block's poison table. -/
def storeLine (s : State) (pb : Nat) (e : WEnt) : State :=
  let v : LVal := { d := e.data, p := e.poison, h := e.hint }
  let lb := (logicalOf s pb).getD 0
  let s := ptabMark s pb e.key e.poison
  match (if e.tgt == .dram then none else rowFrame s lb e.key) with
  | some (set, w) => frameInstall s (lb % 4) set w (keyLine e.key) (valCw v) true
  | none =>
    if allocs s e then
      match allocFrame s lb e.key with
      | (s, some (set, w)) => frameInstall s (lb % 4) set w (keyLine e.key) (valCw v) true
      | (s, none) => storeDram s pb lb e v
    else storeDram s pb lb e v

/-- Removing one entry of a write queue. -/
def sameEnt (a b : WEnt) : Bool := a.key = b.key && a.ord = b.ord && a.kind == b.kind
def wqRemove (s : State) (pb : Nat) (e : WEnt) : State :=
  modBlk s pb (fun k => { k with wq := k.wq.filter (fun x => !sameEnt x e) })
def wqUpdate (s : State) (pb : Nat) (e e' : WEnt) : State :=
  modBlk s pb (fun k => { k with wq := k.wq.map (fun x => if sameEnt x e then e' else x) })

def markLineDone (s : State) (i li : Nat) : State :=
  modCtx s i (fun c => { c with lines := c.lines.modify li (fun l => { l with done := true }) })

/-- A corrected base needs no write-back once the entry that read it has stored the line (09 R279). -/
def baseStored (s : State) (pb : Nat) (e : WEnt) : State :=
  let x := srBlk s pb
  if x.verify.any (fun v => v.key = e.key && v.await = some e.ord) then
    putSr s pb { x with verify := x.verify.map (fun v =>
      if v.key = e.key && v.await = some e.ord then { v with back := none, await := none } else v) }
  else s

/-- An entry is performed: stored, released, its context's line done. -/
def performEnt (s : State) (pb : Nat) (e : WEnt) : State :=
  let s := baseStored s pb e
  let s := if e.kind == .full || e.kind == .snoopLine then dropPoison s ((logicalOf s pb).getD 0) e.key else s
  let s := wqRemove (storeLine s pb e) pb e
  match e.ctx with
  | some i => markLineDone s i e.li
  | none => s

/-- The directory step of an entry's request is still to come (05 R158, R175). -/
def dirPending (s : State) (e : WEnt) : Bool :=
  match e.ctx with
  | none => false
  | some i => e.kind != .snoopLine && (match ctxGet s i with
    | some c => (match c.lines[e.li]? with
      | some l => !l.dirDone
      | none => false)
    | none => false)

/-- A read of the line before the entry that has not taken its data. -/
def readBefore (k : Block) (e : WEnt) : Bool := k.rq.any (fun r => r.key = e.key && r.ord < e.ord)

/-- Reads of a line accepted before the entry and not yet placed (05 R164). -/
def unplacedBefore (s : State) (lb : Nat) (e : WEnt) : Bool :=
  s.tx.ctxs.any (fun c => c.phase == .working && (c.op = opRdShared || c.op = opRdOwn || c.op = opRdCur || c.op = opRdLong
      || c.op = opClaim || c.kind == .step) &&
    c.lines.any (fun l => l.accepted && !l.wr && l.lblock = lb && l.key = e.key && l.ord < e.ord && l.data.isNone && !l.done))

/-- An entry may be performed: READY, its directory step made, no earlier read or write of the line outstanding. -/
def performable (s : State) (pb : Nat) (e : WEnt) : Bool :=
  let k := blk s pb
  e.st == .ready && !(e.after && k.st == .serving) && !dirPending s e && !readBefore k e && (earlier k e.key e.ord).all (fun x => sameEnt x e) &&
    !unplacedBefore s ((logicalOf s pb).getD 0) e &&
    !(poisonPending s ((logicalOf s pb).getD 0) e.key e.ord)

/-! ## Base of a partial write or atomic (07 R223, R224) -/

/-- The result of a base: the entry's new form, the answer an atomic gives, or an atomic that writes nothing. -/
inductive BaseOut where
  | ready (e : WEnt) (poisoned : Bool) (old : Option Line)
  | drop
  deriving DecidableEq, Repr, Inhabited

/-- Merging or computing over a base line; none is an uncorrectable base. -/
def baseDone (e : WEnt) (v : Option LVal) : BaseOut :=
  match v with
  | some v =>
    if e.kind == .atomic then
      if v.p then .drop
      else
        let r := atomicApply e.aop e.asz e.aoff v.d (leAt (lineBytes e.data) 0 16) e.cmpd.toNat
        .ready { e with data := r.1, poison := false, st := .ready } false (some r.2)
    else
      .ready { e with data := mergeBytes e.be v.d e.data, poison := v.p || e.poison, st := .ready } v.p none
  | none =>
    if e.kind == .atomic then .drop
    else .ready { e with data := mergeBytes e.be 0 e.data, poison := true, st := .ready } true none

/-- The base built in the queue: from the latest whole line before the entry and what follows it. -/
def queueBase (k : Block) (e : WEnt) : Option LVal :=
  let es := (earlier k e.key e.ord).filter (fun x => !sameEnt x e)
  if covers es && es.any wholeLine then some (overlays { d := 0, p := false, h := false } es) else none

end Sys2Proof.Machine
end

