-- ==== Sys2Proof/Machine/IntegCore.lean ====
section
/-! DEFINITION. Judging errors and what they charge (09 R281, R282), and requests for retirement (09 R283, R284, R288). -/

namespace Sys2Proof.Machine

/-- The store room has changed and is not yet saved (09 R287). -/
def storeChanged (s : State) : State :=
  { s with store := { s.store with
      seq := s.store.seq + 1, unsaved := true, changedAt := if s.store.unsaved then s.store.changedAt else s.now } }

/-! ## Spares (R283) -/

/-- Spare banks 64 to 67 of a block that are free. -/
def freeBanks (s : State) (pb : Nat) : List Nat :=
  let x := srBlk s pb
  ((List.range 4).filter (fun k => !x.banksUsed.getLsbD k && !x.retired.getLsbD (64 + k))).map (fun k => 64 + k)

/-- The region's free spare block. -/
def freeBlock (s : State) (r : Nat) : Option Nat := (regionBlocks r).find? (fun b => (srBlk s b).st == .freeSpare)

/-- Spare TSVs not yet assigned; one a walk holds counts as free (R285). -/
def freeTsvs (s : State) (pb : Nat) : List Nat := (List.range 8).filter (fun k => !(srBlk s pb).tsvUsed.getLsbD k)

/-- The lowest spare row of a subarray that is free, of four, and the lowest spare column, of two. -/
def rowSpare (s : State) (pb bank row : Nat) : Option Nat :=
  (List.range 4).find? (fun k => !(srBlk s pb).rowRep.any (fun p => p.1 = bank && p.2.1 / 1024 = row / 1024 && p.2.2 = k))
def colSpare (s : State) (pb bank sa : Nat) : Option Nat :=
  (List.range 2).find? (fun k => !(srBlk s pb).colRep.any (fun p => p.1 = bank && p.2.1 = sa && p.2.2.2 = k))

/-! ## Requests for retirement (R284, R288) -/

def unitBlock : RetUnit → Nat
  | .bank pb _ => pb
  | .block pb => pb

/-- An element that is waiting or migrating. -/
def isQueued (s : State) (u : RetUnit) : Bool := (migr s (unitBlock u / 9)).queue.contains u

def enqueueUnit (s : State) (u : RetUnit) : State :=
  let r := unitBlock u / 9
  if isQueued s u then s else putMigr s r { migr s r with queue := (migr s r).queue ++ [u] }

/-- NO_SPARE marked on a block (R284). -/
def markNoSpare (s : State) (pb : Nat) : State :=
  let x := srBlk s pb
  if x.noSpare then s
  else blockFault (storeChanged (putSr s pb { x with noSpare := true })) .c1 pb 0x090A 0

/-- An automatic request: queued, or with AUTO_RETIRE = 0 announced (R288). -/
def autoRetireUnit (s : State) (u : RetUnit) : State :=
  if isQueued s u then s
  else if s.store.autoRetire then enqueueUnit s u
  else raiseC0 s .block (unitBlock u / 9) (unitBlock u) 0x090C 0 0

/-- The element charged is the target of the region's running migration. -/
def isTarget (s : State) (pb : Nat) (bank : Option Nat) : Bool :=
  let m := migr s (pb / 9)
  m.st == .copy && (match m.queue.head?, bank with
    | some (.bank b _), some k => b = pb && m.target = k
    | some (.block _), none => m.target = pb
    | _, _ => false)

/-- The migration ends without a target: its ring is released and R284 applies to the unit. -/
def migrNoSpare (s : State) (r : Nat) : State :=
  let m := migr s r
  let s := ucRegPut s r (dropRing (ucReg s r) .migration)
  let s := putMigr s r { m with st := .idle, queue := m.queue.drop 1, target := 0, row := 0, bank := 0, ring := false }
  match m.queue.head? with
  | some u => markNoSpare s (unitBlock u)
  | none => s

/-- A run of the self-test is open on the unit. -/
def runsOn (s : State) (u : RetUnit) : Bool :=
  s.test.runs.any (fun t => runOpen t && t.kind = 2 && t.pblock = unitBlock u && (match u with
    | .bank _ b => t.bank = b
    | .block _ => true))

/-- The lowest free spare bank without an open test, else the lowest, whose test ends (21 R532). -/
def spareFor (s : State) (pb : Nat) : Option Nat :=
  match (freeBanks s pb).find? (fun k => !runsOn s (.bank pb k)) with
  | some k => some k
  | none => (freeBanks s pb).head?

/-- A permanent error is charged to the target: it is retired, and the copy starts again on the next spare (R288). -/
def targetFailed (s : State) (r : Nat) : State :=
  let m := migr s r
  match m.queue.head? with
  | some (.bank pb _) =>
    let x := srBlk s pb
    let s := storeChanged (putSr s pb { x with retired := setBit x.retired m.target true })
    (match spareFor s pb with
     | some k =>
       let s := incompleteRuns s (fun t => t.kind = 2 && t.pblock = pb && t.bank = k) true
       let x := srBlk s pb
       putMigr (putSr s pb { x with banksUsed := setBit x.banksUsed (k - 64) true }) r
         { m with target := k, row := 0, copyAt := s.now }
     | none => migrNoSpare s r)
  | some (.block _) =>
    let s := storeChanged (putSr s m.target { srBlk s m.target with st := .retired })
    (match freeBlock s r with
     | some b => putMigr (putSr s b { srBlk s b with st := .migrating }) r
         { m with target := b, row := 0, bank := 0, copyAt := s.now }
     | none => migrNoSpare s r)
  | none => s

/-- A block is charged: migration to the spare block, or NO_SPARE (R283, R284). -/
def chargeBlock (s : State) (pb : Nat) : State :=
  if isTarget s pb none then targetFailed s (pb / 9)
  else if (logicalOf s pb).isNone || (srBlk s pb).st == .retired then s
  else if (freeBlock s (pb / 9)).isNone then markNoSpare s pb
  else autoRetireUnit s (.block pb)

/-- A bank is charged: migration to a spare bank, stepping up to the block; two banks of different dies within 24 hours
charge the block too (R282, R283). -/
def chargeBank (s : State) (pb bank : Nat) : State :=
  let x := srBlk s pb
  if isTarget s pb (some bank) then targetFailed s (pb / 9)
  else if x.retired.getLsbD bank then s
  else
    let nowMs := s.now / 1000000
    let old := x.bankCharged.filter (fun p => nowMs < p.2 + 86400000)
    let s := putSr s pb { x with bankCharged := if old.any (fun p => p.1 = bank) then old else old ++ [(bank, nowMs)] }
    let two := old.any (fun p => p.1 ≠ bank && dieOfBank pb p.1 ≠ dieOfBank pb bank)
    let s := if (freeBanks s pb).isEmpty then chargeBlock s pb else autoRetireUnit s (.bank pb bank)
    if two then chargeBlock s pb else s

/-- A row is charged: a spare row of its subarray, or its bank. -/
def chargeRow (s : State) (pb bank row : Nat) : State :=
  let x := srBlk s pb
  if (rowSpare s pb bank row).isNone then chargeBank s pb bank
  else if x.rowDue.contains (bank, row) then s
  else putSr s pb { x with rowDue := x.rowDue ++ [(bank, row)] }

/-- A column is charged: a spare column of its subarray, or its bank. -/
def chargeCol (s : State) (pb bank sa line : Nat) : State :=
  let x := srBlk s pb
  if (colSpare s pb bank sa).isNone then chargeBank s pb bank
  else if x.colDue.contains (bank, sa, line) then s
  else putSr s pb { x with colDue := x.colDue ++ [(bank, sa, line)] }

/-- A signal TSV is charged, unless it is charged or replaced already; with no spare left, its block (R283). -/
def chargeTsv (s : State) (pb tsv : Nat) : State :=
  let x := srBlk s pb
  if x.tsvDue.any (fun p => p.1 = tsv) ||
      (List.range 8).any (fun k => x.tsvUsed.getLsbD k && (x.tsvTarget.toNat >>> (8 * k)) % 256 = tsv) then s
  else if (freeTsvs s pb).isEmpty then chargeBlock s pb
  else putSr s pb { x with tsvDue := x.tsvDue ++ [(tsv, s.now)] }

/-! ## The moment of a TSV substitution (R285) -/

/-- The block has been idle for n ticks. -/
def blockIdle (s : State) (pb n : Nat) : Bool := (blk s pb).lastBusy + minIv s (blk s pb).lastBusy n ≤ s.now

/-- A charged TSV whose substitution may run: a command, echo or strobe TSV at once, another at an idle period of 500 ns
or 1 ms after its charge. -/
def tsvReady (s : State) (pb : Nat) : Option (Nat × Nat) :=
  (srBlk s pb).tsvDue.find? (fun p => 144 ≤ p.1 || blockIdle s pb 500 || expired s p.2 (ms 1))

/-- The block places nothing while a substitution is to run. -/
def substHolds (s : State) (pb : Nat) : Bool := (tsvReady s pb).isSome && !(freeTsvs s pb).isEmpty

/-- No column command or row operation of a block awaits its completion. -/
def columnsDone (k : Block) : Bool :=
  k.rq.all (fun e => !e.issued) && k.wq.all (fun e => !(e.st == .base && e.baseIssued)) && k.wrEcho.isEmpty &&
    k.rowOps.all (fun r => r.issued.isNone)

/-! ## Error history (R281) -/

def sameLoc (h : HistEnt) (bank row line : Nat) : Bool := h.bank = bank && h.row = row && h.line = line

/-- Symbols of two failures together. -/
def mergeSyms (a b : List (Nat × BitVec 8)) : List (Nat × BitVec 8) :=
  let keys := (a.map (fun p => p.1) ++ b.map (fun p => p.1)).eraseDups
  keys.map (fun k => (k, ((a ++ b).filter (fun p => p.1 = k)).foldl (fun (m : BitVec 8) p => m ||| p.2) 0))

/-- An entry expires 24 hours after its first failure. -/
def histLive (s : State) (h : HistEnt) : Bool := s.now / 1000000 < h.firstMs + 86400000

/-- One failure of a location recorded; a full history overwrites its oldest transient entry, or its oldest with
C0 0x0903. -/
def addHist (s : State) (pb bank row line : Nat) (syms : List (Nat × BitVec 8)) (perm : Bool) : State :=
  let x := srBlk s pb
  let hs := x.hist.filter (histLive s)
  match hs.find? (fun h => sameLoc h bank row line) with
  | some h =>
    let h' := { h with syms := mergeSyms h.syms syms, fails := h.fails + 1, perm := h.perm || perm }
    putSr s pb { x with hist := hs.map (fun y => if sameLoc y bank row line then h' else y) }
  | none =>
    let e : HistEnt :=
      { bank := bank, row := row, line := line, syms := syms, die := dieOfBank pb bank, fails := 1,
        firstMs := s.now / 1000000, perm := perm }
    if hs.length < 64 then putSr s pb { x with hist := hs ++ [e] }
    else match hs.findIdx? (fun h => !h.perm) with
      | some i => putSr s pb { x with hist := hs.eraseIdx i ++ [e] }
      | none => raiseC0 (putSr s pb { x with hist := hs.drop 1 ++ [e] }) .block (pb / 9) pb 0x0903 0 0

def failCount (s : State) (pb bank row line : Nat) : Nat :=
  match ((srBlk s pb).hist.filter (histLive s)).find? (fun h => sameLoc h bank row line) with
  | some h => h.fails
  | none => 0

/-! ## Judgement (R276, R282) -/

/-- The pair of signal TSVs that carries a symbol. -/
def symTsv (j : Nat) : Nat := if j < 64 then 2 * j else if j = 64 then 128 else 128 + 2 * (j - 65) + 2

/-- Bits of a symbol that fail on two or more dies, over the block's history. -/
def symSpread (s : State) (pb j : Nat) : Option (BitVec 8) :=
  let hs := ((srBlk s pb).hist.filter (histLive s)).filter (fun h => h.syms.any (fun p => p.1 = j))
  if ((hs.map HistEnt.die).eraseDups).length < 2 then none
  else some (hs.foldl (fun (m : BitVec 8) h =>
    (h.syms.filter (fun p => p.1 = j)).foldl (fun (m : BitVec 8) p => m ||| p.2) m) 0)

/-- TSVs charged for a symbol: the lower one carries its even bits, the upper one its odd bits. -/
def tsvsOf (j : Nat) (bits : BitVec 8) : List Nat :=
  (if bits &&& 0x55 ≠ 0 then [symTsv j] else []) ++ (if bits &&& 0xAA ≠ 0 then [symTsv j + 1] else [])

/-- Charging a permanent error to the smallest element that explains it with the history. -/
def chargeError (s : State) (pb bank row line : Nat) (syms : List (Nat × BitVec 8)) : State :=
  let hs := (srBlk s pb).hist.filter (histLive s)
  let tsvs := syms.flatMap (fun p => match symSpread s pb p.1 with
    | some bits => tsvsOf p.1 bits
    | none => [])
  let sas := ((hs.filter (fun h => h.bank = bank && h.perm)).map (fun h => h.row / 1024)).eraseDups
  let rows := ((hs.filter (fun h => h.bank = bank && h.row / 1024 = row / 1024 && h.line = line)).map HistEnt.row).eraseDups
  if !tsvs.isEmpty then tsvs.foldl (fun s t => chargeTsv s pb t) s
  else if 4 ≤ sas.length then chargeBank s pb bank
  else if 2 ≤ rows.length then chargeCol s pb bank (row / 1024) line
  else chargeRow s pb bank row

/-- An error judged after its retry or verify: permanent when it fails again in the same symbols, at its third failure
in 24 hours, or when uncorrectable twice. -/
def judge (s : State) (pb bank row line : Nat) (first again : List (Nat × BitVec 8)) (twice : Bool) : State :=
  let repeats := again.any (fun p => first.any (fun q => q.1 = p.1))
  let s := addHist s pb bank row line (mergeSyms first again) false
  if twice || repeats || 3 ≤ failCount s pb bank row line then
    let x := srBlk s pb
    let s := putSr s pb { x with hist := x.hist.map (fun h => if sameLoc h bank row line then { h with perm := true } else h) }
    chargeError s pb bank row line (mergeSyms first again)
  else s

end Sys2Proof.Machine
end

