-- ==== Sys2Proof/Machine/RecCore.lean ====
section
/-! DEFINITION. Records of the calibration store (14 R413, R414): the store room (09 R287), calibration results
(15 R430) and bond wear (13 R385), as bytes and as read back. -/

namespace Sys2Proof.Machine

/-! ## Bond wear (13 R384, R385) -/

def wearOf (s : State) (r k : Nat) : Wear := smGet {} s.heat.wear (18 * r + k)

/-- Damage index in 1/1,024, holding at 0xFFFF. -/
def damage (s : State) (w : Wear) : Nat :=
  let a := s.heat.wearLimit20.toNat
  let b := s.heat.wearLimit40.toNat
  let c := s.heat.wearLimit60.toNat
  min 0xFFFF (512 * (w.bin20.toNat * b * c + w.bin40.toNat * a * c + w.bin60.toNat * a * b) / (a * b * c))

def wearRecord (s : State) : List (BitVec 8) :=
  (List.range 72).flatMap (fun i =>
    let w := wearOf s (i / 18) (i % 18)
    leBytes w.bin20.toNat 4 ++ leBytes w.bin40.toNat 4 ++ leBytes w.bin60.toNat 4 ++ leBytes (damage s w) 2 ++ [0, 0])

/-! ## The store room (09 R287) -/

def srCode : SrState → Nat
  | .inService => 0
  | .freeSpare => 1
  | .migrating => 2
  | .retired => 3

def storeEntry (s : State) (pb : Nat) : List (BitVec 8) :=
  let x := srBlk s pb
  leBytes pb 1 ++ leBytes (srCode x.st + 4 * b2n x.noSpare) 1 ++ leBytes x.tsvUsed.toNat 1 ++ leBytes x.banksUsed.toNat 1
    ++ leBytes x.tsvTarget.toNat 8 ++ leBytes x.retired.toNat 9 ++ leBytes x.rowRepairs.toNat 2 ++ leBytes x.colRepairs.toNat 1

/-- The store-room record: header and 36 entries. -/
def storeRecord (s : State) : List (BitVec 8) :=
  leBytes s.store.seq.toNat 4 ++ leBytes (b2n s.store.unsaved) 12 ++ (List.range 36).flatMap (storeEntry s)

/-- DIE and DBANK of a physical bank (07 R226). -/
def repBank (pb bank : Nat) : Nat := dieOfBank pb bank * 2 ^ 6 + (if bank < 64 then bank % 4 else 4) * 2 ^ 10

/-- Repair entries of a block (14 R413). -/
def repairEntries (s : State) (pb : Nat) : List Nat :=
  let x := srBlk s pb
  x.rowRep.map (fun p => pb + repBank pb p.1 + p.2.1 / 1024 * 2 ^ 13 + p.2.2 * 2 ^ 20 + p.2.1 * 2 ^ 27) ++
    x.colRep.map (fun p => pb + repBank pb p.1 + p.2.1 * 2 ^ 13 + 2 ^ 19 + p.2.2.2 * 2 ^ 20 + p.2.2.1 * 2 ^ 22)

/-- Sensor positions not on their own sensor, with their source: 1 spare, 2 model. -/
def replaced (s : State) : List (Nat × Nat) :=
  (List.range 88).filterMap (fun i => match (tpos s i).source with
    | .spare => some (i, 1)
    | .model => some (i, 2)
    | _ => none)

/-- The store-room body: the record, the repair entries, and the sensor replacements (their form is the model's). -/
def storeBody (s : State) : List (BitVec 8) :=
  let r := ((List.range 36).flatMap (repairEntries s)).take 880
  storeRecord s ++ leBytes r.length 2 ++ r.flatMap (fun v => leBytes v 8) ++ leBytes (replaced s).length 2 ++
    (replaced s).flatMap (fun p => leBytes (p.1 + 256 * p.2) 2)

/-! ## Calibration (15 R430) -/

def calBody (s : State) : List (BitVec 8) :=
  leBytes s.cal.tdcLsb.toNat 4 ++ leBytes s.cal.calCount.toNat 4 ++
    (List.range 5760).flatMap (fun i => [wireV s (i / 160) (i % 160) 0, wireV s (i / 160) (i % 160) 1]) ++
    (List.range 576).flatMap (fun i => [dieV s (i / 16) (i % 16) 0, dieV s (i / 16) (i % 16) 1]) ++
    (List.range 576).flatMap (fun i => leBytes (trimV s (i / 16) (i % 16)).toNat 4) ++
    (List.range 18).flatMap (fun i => leBytes (scaleV s i).toNat 2) ++ leBytes 0 4

/-! ## Copies (14 R413, R414) -/

/-- Base of copy 0 and size of a copy: type 1 store room, 2 calibration, 3 bond wear. -/
def recBase (typ copy : Nat) : Nat :=
  if typ = 1 then 0x2000 * copy else if typ = 2 then 0x4000 + 0x4000 * copy else 0xC000 + 0x800 * copy
def recSize (typ : Nat) : Nat := if typ = 1 then 0x2000 else if typ = 2 then 0x4000 else 0x800

/-- A copy with its header. -/
def recCopy (typ seq : Nat) (body : List (BitVec 8)) : List (BitVec 8) :=
  let h := leBytes typ 2 ++ leBytes 1 2 ++ leBytes seq 4 ++ leBytes body.length 4
  h ++ leBytes (crc32c (h ++ body)) 4 ++ body

/-- A copy is valid; its SEQ and length. -/
def recValid (s : State) (typ copy : Nat) : Option (Nat × Nat) :=
  let b := recBase typ copy
  let e := s.img.eeprom
  let len := leNat (bmRead e (b + 8) 4)
  if leNat (bmRead e b 2) = typ ∧ len ≤ recSize typ - 16 ∧
      leNat (bmRead e (b + 12) 4) = crc32c (bmRead e b 12 ++ bmRead e (b + 16) len) ∧
      (typ ≠ 2 ∨ (leNat (bmRead e (b + 2) 2) = 1 ∧ len = 15024)) then
    some (leNat (bmRead e (b + 4) 4), len)
  else none

/-- A copy that was read at start-up and is valid; one whose read failed is not (20 R518).  `bad` numbers the copies by
type, two each. -/
def recRead (s : State) (bad : List Nat) (typ copy : Nat) : Option (Nat × Nat) :=
  if bad.contains (2 * (typ - 1) + copy) then none else recValid s typ copy

/-- The copy in force: copy, SEQ and body. -/
def recLoad (s : State) (bad : List Nat) (typ : Nat) : Option (Nat × Nat × List (BitVec 8)) :=
  let body (c len : Nat) := bmRead s.img.eeprom (recBase typ c + 16) len
  match recRead s bad typ 0, recRead s bad typ 1 with
  | some (a, n), some (b, m) => if a ≥ b then some (0, a, body 0 n) else some (1, b, body 1 m)
  | some (a, n), none => some (0, a, body 0 n)
  | none, some (b, m) => some (1, b, body 1 m)
  | none, none => none

/-- Copies of a record that are not valid (14 R416). -/
def recBadCopies (s : State) (bad : List Nat) (typ : Nat) : Nat :=
  ((List.range 2).filter (fun c => (recRead s bad typ c).isNone)).length

/-! ### Reading bodies back -/

def bankOfRep (pb v : Nat) : Nat :=
  let die := field v 6 4
  let db := field v 10 3
  if db < 4 then 4 * die + db else 64 + (die - pb % 4) / 4

/-- One block's entry of a store-room body. -/
def loadEntry (b : List (BitVec 8)) (s : State) (pb : Nat) : State :=
  let o := 16 + 24 * pb
  let f := leAt b (o + 1) 1
  let st : SrState := if f % 4 = 1 then .freeSpare else if f % 4 = 2 then .migrating else if f % 4 = 3 then .retired else .inService
  putSr s pb { srBlk s pb with
    st := st, noSpare := bit f 2, tsvUsed := BitVec.ofNat 8 (leAt b (o + 2) 1),
    banksUsed := BitVec.ofNat 4 (leAt b (o + 3) 1 % 16), tsvTarget := BitVec.ofNat 64 (leAt b (o + 4) 8),
    retired := BitVec.ofNat 72 (leAt b (o + 12) 9), rowRepairs := BitVec.ofNat 16 (leAt b (o + 21) 2),
    colRepairs := BitVec.ofNat 8 (leAt b (o + 23) 1) }

def loadRepair (s : State) (v : Nat) : State :=
  let pb := field v 0 6
  let x := srBlk s pb
  let bank := bankOfRep pb v
  if 36 ≤ pb then s
  else if bit v 19 then
    let e := (bank, field v 13 6, field v 22 5, field v 20 2)
    if x.colRep.contains e then s else putSr s pb { x with colRep := x.colRep ++ [e] }
  else
    let e := (bank, field v 27 16, field v 20 2)
    if x.rowRep.contains e then s else putSr s pb { x with rowRep := x.rowRep ++ [e] }

/-- Applying a store-room body: entries, repairs, sensor replacements. -/
def loadStore (s : State) (b : List (BitVec 8)) : State :=
  let s := { s with store := { s.store with seq := BitVec.ofNat 32 (leAt b 0 4) } }
  let s := (List.range 36).foldl (loadEntry b) s
  let n := leAt b 880 2
  let s := (List.range n).foldl (fun s i => loadRepair s (leAt b (882 + 8 * i) 8)) s
  let o := 882 + 8 * n
  (List.range (leAt b o 2)).foldl (fun s i =>
    let p := leAt b (o + 2 + 2 * i) 1
    let src : TSource := if leAt b (o + 3 + 2 * i) 1 = 1 then .spare else .model
    putTpos s p { tpos s p with source := src }) s

def loadWear (s : State) (b : List (BitVec 8)) : State :=
  (List.range 72).foldl (fun s i =>
    let o := 16 * i
    let w := wearOf s (i / 18) (i % 18)
    let w := { w with
      bin20 := BitVec.ofNat 32 (leAt b o 4), bin40 := BitVec.ofNat 32 (leAt b (o + 4) 4),
      bin60 := BitVec.ofNat 32 (leAt b (o + 8) 4) }
    { s with heat := { s.heat with wear := smSet {} s.heat.wear i w } }) s

def loadCal (s : State) (b : List (BitVec 8)) : State :=
  { s with cal := { s.cal with
      tdcLsb := BitVec.ofNat 16 (leAt b 0 2), calCount := BitVec.ofNat 32 (leAt b 4 4),
      wireV := (List.range 11520).filterMap (fun i => if byteAt b (8 + i) = 0xFF then none else some (i, byteAt b (8 + i))),
      dieV := (List.range 1152).filterMap (fun i =>
        if byteAt b (11528 + i) = 0x80 then none else some (i, byteAt b (11528 + i))),
      trim := (List.range 576).map (fun i => (i, some (BitVec.ofNat 32 (leAt b (12680 + 4 * i) 4)))),
      scale := (List.range 18).filterMap (fun i =>
        let v := BitVec.ofNat 16 (leAt b (14984 + 2 * i) 2)
        if v = 0x8000 then none else some (i, v)) } }

end Sys2Proof.Machine
end

