-- ==== Sys2Proof/Machine/UcCore.lean ====
section
/-! DEFINITION. Frames and slices of the Undercoat that fail (06 R191, R196, R207, R208). -/

namespace Sys2Proof.Machine

/-! ## Poisoning rows -/

/-- One line of DRAM written as zeros with POISON and HINT (09 R280). -/
def poisonLine (s : State) (lb key : Nat) : State :=
  let pb := physBlock s lb
  ptabMark (keyWrite s pb key (valCw poisonZeros)) pb key true

/-- All 32 lines of a row. -/
def poisonRow (s : State) (r rid : Nat) : State :=
  (List.range 32).foldl (fun s n => let (lb, key) := rowLine r rid n
                                    poisonLine s lb key) s

/-! ## Slice loss (R207, R208) -/

/-- The subarray of a run is served from its unit. -/
def inUnit (t : TestRun) : Bool := t.unit.isSome && (t.phase == .march || t.phase == .restore)

/-- A subarray in its unit is written to DRAM as poisoned lines. -/
def poisonTestRows (s : State) (t : TestRun) : State :=
  if inUnit t then
    (List.range 1024).foldl (fun s q =>
      (List.range 32).foldl (fun s n => dramPut s t.pblock t.bank (t.cur * 1024 + q) n (valCw poisonZeros)) s) s
  else s

/-- The rows of a subarray that lie in a lost slice become poisoned lines, which the restore then writes (R208). -/
def poisonUnitRows (s : State) (idx : Nat) (t : TestRun) : State :=
  match t.unit with
  | some k => ((List.range 1024).filter (fun q => q % 16 = idx)).foldl (fun s q =>
      (List.range 32).foldl (fun s n => shadowPut s (t.pblock / 9) k q n (valCw poisonZeros)) s) s
  | none => s

/-- Open runs of a region whose subarray is under test. -/
def runsIn (s : State) (r : Nat) : List TestRun :=
  s.test.runs.filter (fun t => runOpen t && t.kind = 2 && t.pblock / 9 = r && t.unit.isSome && t.phase != .waitUnit)

/-- The frame of a set that lies in slice index `idx`. -/
def lostWay (idx set : Nat) : Nat := (idx + 16 - set % 16) % 16

/-- A frame is retired: its dirty lines leave, corrected or poisoned, and the set's SPARE takes an ACTIVE one's place; a
set without one goes on with fewer (R207). -/
def retireFrame (s : State) (r set w : Nat) (readable : Bool) : State :=
  let t := tagGet s r set w
  let s := if readable then frameWriteBack s r set w
    else (bitsSet t.dirty).foldl (fun s n => let (lb, key) := rowLine r t.rowId.toNat n
                                             poisonLine s lb key) s
  let s := tagPut s r set w { t with valid := 0, dirty := 0, busy := false, wstate := .retired }
  if t.wstate == .active then
    match (List.range 16).find? (fun x => (tagGet s r set x).wstate == .spare) with
    | some x => tagPut s r set x { tagGet s r set x with wstate := .active }
    | none => if (ucReg s r).noSpare.contains set then s
              else ucRegPut s r { ucReg s r with noSpare := set :: (ucReg s r).noSpare }
  else s

/-- One set loses its frame of a slice (R208). -/
def loseFrame (s : State) (r idx set : Nat) (readable : Bool) : State := retireFrame s r set (lostWay idx set) readable

/-- Some frame of the slice holds a dirty line. -/
def sliceDirty (s : State) (r idx : Nat) : Bool :=
  s.uc.tags.any (fun p => p.1 / 65536 = r && (p.1 / 16 % 4096 + p.1 % 16) % 16 = idx && p.2.dirty ≠ 0)

/-- The directory sets of a slice move to shadow units: copied, or cleared and lost. -/
def loseDirSlice (s : State) (r idx : Nat) (readable : Bool) : State :=
  let u := ucReg s r
  let s := ucRegPut s r { u with
    units := 15 * s.cfg.shadowUnits.toNat / 16, sliceLost := some idx, reloc := if s.cfg.dirSize = 3 then 2 else 1 }
  if readable then s
  else
    let s := { s with uc := { s.uc with dir := s.uc.dir.filter (fun p =>
      !(p.1 / 12 / 2 ^ 19 = r && p.1 / 12 % 2 ^ 19 % 16 = idx)) } }
    let u := ucReg s r
    ucRegPut s r { u with
      lostMod := idx :: u.lostMod, lostModNew := if u.sweep.isSome then idx :: u.lostModNew else u.lostModNew, sweep := if u.sweep.isNone then some 0 else u.sweep,
      known := u.known.filter (fun x => secSet s x % 16 ≠ idx) }

/-- The first slice loss of a region: its runs end (18 R495), those in a unit losing the rows of the slice and being
restored; staging starts over. -/
def firstLoss (s : State) (r idx : Nat) (readable : Bool) : State :=
  let runs := (runsIn s r).filter inUnit
  let pois := (!readable && sliceDirty s r idx) || !runs.isEmpty
  let s := (List.range (cSets s)).foldl (fun s set => loseFrame s r idx set readable) s
  let s := incompleteRuns (runs.foldl (fun s t => poisonUnitRows s idx t) s) (fun t => t.pblock / 9 = r) true
  let s := yieldTests (restartRings (loseDirSlice s r idx readable) r) r
  sliceFault s (if pois then .c2 else .c1) (16 * r + idx) 0x0604 1

/-- A slice is lost (R208); a second one in a region stops it. -/
def sliceLoss (s : State) (slice : Nat) (readable : Bool) : State :=
  let r := slice / 16
  let idx := slice % 16
  let u := ucReg s r
  match u.sliceLost with
  | none => firstLoss s r idx readable
  | some i =>
    if i = idx || u.secondLoss then s
    else
      let s := (List.range (cSets s)).foldl (fun s set => loseFrame s r idx set readable) s
      regionFault (ucRegPut s r { ucReg s r with secondLoss := true }) .c3 r 0x0605 1

/-! ## Faulty frames (R207) -/

/-- RETIRED frames of a slice. -/
def retiredIn (s : State) (slice : Nat) : Nat :=
  (s.uc.tags.filter (fun p => p.2.wstate == .retired &&
    sliceOf (p.1 / 65536) (p.1 / 16 % 4096) (p.1 % 16) = slice)).length

/-- A frame judged permanently faulty is retired, recorded, and raises C1 0x0602; a slice with more than 64 RETIRED
frames is lost. -/
def faultyFrame (s : State) (r set way : Nat) : State :=
  if (tagGet s r set way).wstate == .retired then s
  else
    let n := (ucReg s r).noSpare.length
    let slice := sliceOf r set way
    let s := storeChanged (retireFrame s r set way true)
    let s := sliceFault s .c1 slice 0x0602 (b2n (n < (ucReg s r).noSpare.length))
    if 64 < retiredIn s slice then sliceLoss s slice true else s

/-! ## Frame lines (R196) -/

/-- An uncorrectable frame line: a clean one is freed and read from DRAM, a dirty one is poisoned (R196); the value
served, if any. -/
def badFrame (s : State) (lb key set w : Nat) : State × Option LVal :=
  let r := lb % 4
  let slice := sliceOf r set w
  if (tagGet s r set w).dirty.getLsbD (keyLine key) then
    (sliceFault (framePut s r set w (keyLine key) (valCw poisonZeros)) .c2 slice 0x0603 (dpaOf s lb key), some poisonZeros)
  else
    (raiseC0 (frameDrop s r set w (keyLine key)) .cell r (2448 + slice) 0x0601 (dpaOf s lb key) 0, none)

/-- A corrected error of a frame line is judged: permanent at its third failure in 24 hours, which makes the frame faulty
(R196; 09 R282).  No verify of a frame line is stated: that a line fails again at once is an operand of the tag walk. -/
def judgeFrame (s : State) (r set w n : Nat) : State :=
  let key := tagKey r set w * 32 + n
  let nowMs := s.now / 1000000
  let live := s.uc.fails.filter (fun f => nowMs < f.2.1 + 86400000)
  let f : Nat × Nat × Nat := match live.find? (fun f => f.1 = key) with
    | some f => (key, f.2.1, f.2.2 + 1)
    | none => (key, nowMs, 1)
  let s := { s with uc := { s.uc with fails := live.filter (fun f => f.1 ≠ key) ++ [f] } }
  if 3 ≤ f.2.2 then faultyFrame s r set w else s

/-- A frame line through the line code: a corrected one is rewritten, its DIRTY bit unchanged, and judged (09 R279); the
value served, if any. -/
def frameCheck (s : State) (lb key set w : Nat) : State × Option LVal :=
  let r := lb % 4
  match decodeLine (frameCw s r set w (keyLine key)) with
  | .good d p h _ fixed =>
    let v : LVal := { d := d, p := p, h := h }
    (if fixed.isEmpty then s else judgeFrame (framePut s r set w (keyLine key) (valCw v)) r set w (keyLine key), some v)
  | .bad => badFrame s lb key set w

/-- A read of a frame line. -/
def readFrame (s : State) (lb key set w : Nat) : State × Option LVal :=
  let r := lb % 4
  frameCheck (occ (touchFrame s r set w) 0x0C0 6 r 1) lb key set w

end Sys2Proof.Machine
end

