-- ==== Sys2Proof/Machine/Coh.lean ====
section
/-! DEFINITION. The home's coherence: rows of 05 R174, sector chains (05 R158, R176), snoops and their answers (05 R175
to R177), back-invalidations (05 R178), broadcasts (06 R201), answers (05 R152, R166, R180), and the progress of queued
work that needs no command on the TSVs (`settle`). -/

namespace Sys2Proof.Machine

/-! ## Snoops -/

/-- Line address FA[52:6] of a sector's first line. -/
def sectorFa (s : State) (region sec : Nat) : Nat :=
  let (lb, key) := sectorLine region sec 0
  let dpa := dpaOf s lb key
  match faOfDpa s dpa with
  | some fa => fa / 64
  | none => dpa / 64

/-- Header of a snoop: TAG is the context's index, LMASK and BACKINV as 05 R148 places them. -/
def snoopHdr (s : State) (n : Snoop) : Slot :=
  mkH0 (if n.inv then opSnpInv else opSnpShare) s.fab.hopLimit.toNat s.fab.stackNode n.node (BitVec.ofNat 16 n.ctx) 0
      (sectorFa s n.region n.sector)
    ||| BitVec.ofNat 128 (n.lmask.toNat * 2 ^ 117 + b2n n.backInv * 2 ^ 121)

def sameSnoop (a b : Snoop) : Bool := a.ctx = b.ctx && a.region = b.region && a.sector = b.sector && a.node == b.node
def modSnoop (s : State) (n : Snoop) (f : Snoop → Snoop) : State :=
  { s with tx := { s.tx with snoops := s.tx.snoops.map (fun x => if sameSnoop x n then f x else x) } }
def dropSnoops (s : State) (ctx region sec : Nat) : State :=
  { s with tx := { s.tx with
      snoops := s.tx.snoops.filter (fun x => !(x.ctx = ctx && x.region = region && x.sector = sec)) } }

/-- A snoop with nothing more to come. -/
def snoopOver (n : Snoop) : Bool := n.answered && n.wbp = 0

def itemOrd (s : State) (ctx region sec : Nat) : Nat :=
  match s.tx.chain.find? (fun c => c.ctx = ctx && c.region = region && c.sector = sec) with
  | some c => c.ord
  | none => s.tx.nextOrd

/-- A write entry for a returned line: rank 5, in the snooping request's order position (05 R175, 07 R220). -/
def snoopEnt (s : State) (key ord : Nat) (d : Line) (p h : Bool) (ctx : Nat) : WEnt :=
  { key := key, ord := ord, be := allBytes, kind := .snoopLine, st := .ready, rank := 5, tgt := .both, data := d,
    poison := p, hint := h, ctx := some ctx, li := 1000, cmpSent := true, baseIssued := false, aop := 0, asz := 0,
    aoff := 0, cmpd := 0, at0 := s.now }

/-- Reads that took a line's data before an earlier request's snoop returned it dirty hold the merged line: they come
after it in the serialisation order (05 R164, R175). -/
def refreshReads (s : State) (lb key ord : Nat) : State :=
  let k := blk s (physBlock s lb)
  { s with tx := { s.tx with ctxs := s.tx.ctxs.map (fun c =>
      if c.phase == .working && (c.kind == .request || c.kind == .step) then
        { c with lines := c.lines.map (fun l =>
            if l.lblock = lb && l.key = key && ord ≤ l.ord && l.data.isSome && c.op ≠ opAtomic then
              let v := overlays poisonZeros (earlier k key l.ord)
              { l with data := some (if v.p then 0 else v.d, v.p) }
            else l) }
      else c) } }

/-- A returned line takes a snoop-reserve entry, or waits for one; in a stopped region it joins the lost-write list
(05 R175; 07 R220; 12 R354). -/
def placeReturned (s : State) (lb key ord : Nat) (d : Line) (p : Bool) (ctx : Nat) : State :=
  let pb := physBlock s lb
  let h := hintAt s lb key ord
  if reserveFree s pb && budgetRank s (lb % 4) 5 then
    refreshReads (placeEnt s lb (snoopEnt s key ord d p h ctx)) lb key ord
  else if regionStopped s (lb % 4) && !resetting s (lb % 4) && !reserveFree s pb then addLost s lb key
  else { s with tx := { s.tx with resWait := s.tx.resWait ++
          [{ region := lb % 4, lblock := lb, key := key, ord := ord, data := d, poison := p, ctx := ctx }] } }

/-- A dirty line merged for a context's sector: written, and the data of a read of that line (05 R175). -/
def mergeDirty (s : State) (ctx region sec i : Nat) (d : Line) (p : Bool) : State :=
  let (lb, key) := sectorLine region sec i
  let s := placeReturned s lb key (itemOrd s ctx region sec) d p ctx
  modCtx (occ s 0x015 region 0xF 1) ctx (fun c => { c with lines := c.lines.map (fun l =>
    if l.lblock = lb && l.key = key then { l with merged := some (d, p) } else l) })

/-! ## WRBACKs that serve a snoop (05 R176) -/

/-- An accepted WRBACK from a node for a line, still in its sector chain, with its data complete. -/
def waitingWb (s : State) (node : Node) (region sec i : Nat) : Option Ctx :=
  let (lb, key) := sectorLine region sec i
  s.tx.ctxs.find? (fun c => c.op = opWrback && c.kind == .request && c.src == node && c.dataOk &&
    c.lines.any (fun l => l.lblock = lb && l.key = key && !l.dirDone && !l.done))

/-- Serving: the WRBACK's data is the snoop's dirty data; it is answered CMP and makes no further write. -/
def serveWb (s : State) (w : Ctx) (n : Snoop) (i : Nat) : State :=
  let s := mergeDirty s n.ctx n.region n.sector i (w.wdata.head?.getD 0) (hPoison w.h0)
  let s := dropWrites s w.idx
  let s := { s with tx := { s.tx with chain := s.tx.chain.filter (fun c => c.ctx ≠ w.idx) } }
  let s := modCtx s w.idx (fun c => { c with lines := c.lines.map (fun l => { l with dirDone := true, done := true }) })
  if w.phase == .working then answerStatus s w stOk (hAddr w.h0) else cleanCtxs s

/-! ## Resolution without answer (05 R177) -/

/-- One resolved line: a waiting WRBACK serves; else an owner's line is poisoned; answers whether it was poisoned. -/
def resolveLine (s : State) (n : Snoop) (i : Nat) : State × Bool :=
  match waitingWb s n.node n.region n.sector i with
  | some w => (serveWb s w n i, false)
  | none => if n.owner then (mergeDirty s n.ctx n.region n.sector i 0 true, true) else (s, false)

/-- The lines of a snoop are resolved without answer; the context is quarantined for four times SNOOP_TIMEOUT. -/
def resolveLines (s : State) (n : Snoop) (lines : List Nat) : State :=
  let s := lines.foldl (fun s i => (resolveLine s n i).1) s
  let s := modCtx s n.ctx (fun c => { c with quarantine := some (s.now + 4 * us s.cfg.snoopTimeout.toNat) })
  let bc : Bool := match ctxGet s n.ctx with
    | some c => c.kind == .broadcast
    | none => false
  if bc then modCtx s n.ctx (fun c => { c with status := 1 })
  else if n.owner then regionFault s .c2 n.region 0x0503 n.node.toNat
  else raiseC0 s .region n.region n.region 0x0502 n.node.toNat 0

/-- A snoop resolved without answer. -/
def resolveSnoop (s : State) (n : Snoop) : State :=
  let s := sampEnd (sampReady s n.node (BitVec.ofNat 16 n.ctx) true) n.node (BitVec.ofNat 16 n.ctx) true 15
  resolveLines (modSnoop s n (fun x => { x with answered := true, wbp := 0, sent := some s.now })) n (bitsSet n.lmask)

/-! ## Sending (05 R158, R174) -/

/-- Sectors of a region with a snoop out. -/
def sectorsOut (s : State) (region : Nat) : List Nat :=
  ((s.tx.snoops.filter (fun n => n.region = region && n.sent.isSome && !snoopOver n)).map Snoop.sector).eraseDups

/-- One snoop is sent; without a usable egress it is resolved at once. -/
def sendSnoop (s : State) (n : Snoop) : State :=
  let s := modSnoop s n (fun x => { x with sent := some s.now })
  let s := occ s 0x014 n.region 0xF 1
  let s := sampEligible s 1 (snpSample s n.node n.ctx (if n.inv then opSnpInv else opSnpShare) n.region
    (sectorFa s n.region n.sector))
  let (s, ok) := sendTo s n.node (outMsg (snoopHdr s n) 0 [] (some n.ctx) false false)
  if ok then s else resolveSnoop s n

/-- The first sector of a region whose snoops wait. -/
def waitingSector (s : State) (region : Nat) : Option Nat :=
  (s.tx.snoops.find? (fun n => n.region = region && n.sent.isNone)).map Snoop.sector

/-- Snoops of waiting sectors are sent while fewer than 2,048 sectors have snoops out. -/
def admitSector (s : State) (region : Nat) : State :=
  match waitingSector s region with
  | some sec =>
    if (sectorsOut s region).length < 2048 then
      (s.tx.snoops.filter (fun n => n.region = region && n.sector = sec && n.sent.isNone)).foldl sendSnoop s
    else s
  | none => s

/-- New snoops of a context for one sector. -/
def addSnoops (s : State) (ctx region sec : Nat) (inv backInv : Bool) (lmask : BitVec 4) (dests : List (Node × Bool)) : State :=
  let ns := dests.map (fun t : Node × Bool =>
    ({ ctx := ctx, region := region, sector := sec, node := t.1, inv := inv, backInv := backInv, lmask := lmask,
       owner := t.2, sent := none, answered := false, wbp := 0, wbpSince := 0 } : Snoop))
  admitSector { s with tx := { s.tx with snoops := s.tx.snoops ++ ns } } region

/-! ## Internal contexts: back-invalidations, broadcasts, recalls -/

/-- The four lines of a sector as context lines. -/
def sectorLines (s : State) (region sec ord : Nat) : List CtxLine :=
  (List.range 4).map (fun i =>
    let (lb, key) := sectorLine region sec i
    { fa := sectorFa s region sec + i, dpa := dpaOf s lb key, region := region, lblock := lb, key := key, ord := ord,
      accepted := true, dirDone := true, data := none, merged := none, done := true })

/-- A context of the internal pool for work on one sector, with its place in the chain: at its end, or ahead of the
request whose order position it is given, whose returned lines precede that request's effect. -/
def openInternal (s : State) (kind : CtxKind) (region sec : Nat) (phase : ChainPhase) (ahead : Option Nat) : State × Nat :=
  let i := freeIdx s
  let ord := ahead.getD s.tx.nextOrd
  let c : Ctx :=
    { idx := i, ing := 5, kind := kind, src := s.fab.stackNode, tag := BitVec.ofNat 16 i, op := 0, h0 := 0, h1 := 0,
      cls := .tracked, rel := .guaranteed, lead := region, portEpoch := 0,
      blkEpochs := [], lines := sectorLines s region sec ord, wdata := [], dataOk := true, acceptedAt := s.now,
      reserved := false, grant := 0, status := 0, phase := .working,
      quarantine := none }
  let it : ChainItem := { ord := ord, region := region, sector := sec, ctx := i, phase := phase }
  ({ s with tx := { s.tx with
      ctxs := s.tx.ctxs ++ [c], nextIdx := i + 1, nextOrd := if ahead.isSome then s.tx.nextOrd else ord + 1,
      chain := if ahead.isSome then it :: s.tx.chain else s.tx.chain ++ [it] } }, i)

/-- A victim entry leaves the directory and is back-invalidated (05 R178). -/
def backInvalidate (s : State) (region set way : Nat) : State :=
  match slotView s region set way with
  | some (tag, _, v) =>
    let sec := sectorOf s set tag
    let s := dirFree s region set way
    let s := occ (occ s 0x0C7 6 region 1) 0x016 region 0xF 1
    let own := match v with
      | .owned _ _ => true
      | _ => false
    let dests := (listed s v).map (fun n => (n, own))
    let (s, i) := openInternal s .backInv region sec .snoop none
    addSnoops s i region sec true true 0xF dests
  | none => s

/-- The broadcast for an UNKNOWN sector (06 R201): ahead of the request that met it, in whose order position its returned
lines are merged, or at the end of the chain for the hint sweep. -/
def broadcast (s : State) (region sec : Nat) (ord : Option Nat) : State :=
  let u := ucReg s region
  let s := ucRegPut s region { u with broadcasts := satAdd 32 u.broadcasts 1 }
  let s := occ s 0x0C8 6 region 1
  let (s, i) := openInternal s .broadcast region sec .snoop ord
  addSnoops s i region sec true true 0xF ((broadcastSet s).map (fun n => (n, false)))

/-! ## Recalls of range scans (08 R261) -/

def scanCode : ScanFor → Nat
  | .routeCommit => 0
  | .accessCommit => 1
  | .regionReset => 2
  | .op id => id + 3

/-- Lines of a sector that lie in a range of DPA lines. -/
def coveredIn (s : State) (region sec first last : Nat) : List Nat :=
  (List.range 4).filter (fun i =>
    let (lb, key) := sectorLine region sec i
    let d := dpaOf s lb key / 64
    first ≤ d && d ≤ last)

/-- A recall takes its place in the sector's chain; h1 names the scan. -/
def addRecall (s : State) (c : Scan) (sec : Nat) : State :=
  let cov := coveredIn s c.region sec c.first c.last
  let (s, i) := openInternal s .recall c.region sec .wait none
  modCtx s i (fun x => { x with
    op := if c.inv then opSnpInv else opSnpShare, h1 := BitVec.ofNat 128 (scanCode c.owner),
    lines := (x.lines.zipIdx).map (fun p => { p.1 with accepted := cov.contains p.2 }) })

/-- Recalls of a scan take contexts of the internal pool as these are free (05 R155). -/
def admitRecalls (s : State) (c : Scan) : State :=
  if c.left.isEmpty then s
  else
    let n := poolSize 5 - poolUsed s 5
    let s := if ucOn s c.region then (c.left.take n).foldl (fun s x => addRecall s c x) s else s
    { s with trowel := { s.trowel with scans := s.trowel.scans.map (fun x =>
        if x = c then { c with left := if ucOn s c.region then c.left.drop n else [] } else x) } }

/-! ## Rows of the directory table (05 R174) -/

/-- Some line of a sector has hint 1 or a pending poisoned write (06 R201). -/
def sectorHinted (s : State) (region sec : Nat) : Bool :=
  (List.range 4).any (fun i =>
    let (lb, key) := sectorLine region sec i
    hintAt s lb key s.tx.nextOrd || poisonPending s lb key s.tx.nextOrd)

inductive NextDir where
  | same
  | uncached
  | owned
  | shared (ns : List Node)
  | add
  | remove
  deriving DecidableEq, Repr, Inhabited

/-- What a row says: targets with whether each is the owner, kind of snoop, LMASK, GRANT, whether data is returned, and
the next state. -/
structure DirRow where
  dests : List (Node × Bool) := []
  inv : Bool := true
  lmask : BitVec 4 := 0xF
  grant : Nat := 0
  data : Bool := true
  next : NextDir := .same
  deriving DecidableEq, Repr, Inhabited

/-- LMASK of the covered lines of a sector whose hint is 1. -/
def hintMask (s : State) (c : Ctx) (region sec ord : Nat) : BitVec 4 :=
  c.lines.foldl (fun (m : BitVec 4) l =>
    if l.region = region && lineSector l = sec && hintAt s l.lblock l.key ord then
      m ||| BitVec.ofNat 4 (2 ^ (keyLine l.key % 4)) else m) 0

def rdOwnRow (s : State) (n : Node) (v : DView) : DirRow :=
  match v with
  | .none => { grant := 2, next := .owned }
  | .owned _ o => if o == n then { grant := 2 } else { dests := [(o, true)], grant := 2, next := .owned }
  | _ => { dests := ((listed s v).filter (fun x => x != n)).map (fun x => (x, false)), grant := 2, next := .owned }

/-- The row for a request of node n over a sector's entry; `hm` is the mask of covered lines with hint 1. -/
def dirRow (s : State) (op : Nat) (n : Node) (last : Bool) (v : DView) (hm : BitVec 4) : DirRow :=
  let nOwns : Bool := match v with
    | .owned _ o => o == n
    | _ => false
  if op = opRdShared then
    match v with
    | .none => if s.cfg.eGrant then { grant := 2, next := .owned } else { grant := 1, next := .shared [n] }
    | .owned _ o => if o == n then { grant := 2 } else { dests := [(o, true)], inv := false, grant := 1, next := .shared [o, n] }
    | _ => { grant := 1, next := .add }
  else if op = opRdOwn then rdOwnRow s n v
  else if op = opClaim then
    match v with
    | .precise _ ns =>
      if ns.contains n then
        { dests := (ns.filter (fun x => x != n)).map (fun x => (x, false)), grant := 2, data := false, next := .owned }
      else rdOwnRow s n v
    | .owned _ _ => if nOwns then { grant := 2, data := false } else rdOwnRow s n v
    | _ => rdOwnRow s n v
  else if op = opRdCur ∨ op = opRdLong then
    match v with
    | .owned _ o => if hm = 0 then {} else { dests := [(o, true)], inv := false, lmask := hm }
    | _ => {}
  else if op = opWr ∨ op = opWrLong ∨ op = opAtomic then
    if hm = 0 then {}
    else
      let own := match v with
        | .owned _ _ => true
        | _ => false
      { dests := (listed s v).map (fun x => (x, own)), lmask := hm }
  else if op = opWrback then { data := false, next := if nOwns && last then .uncached else .same }
  else if op = opEvictClean then
    if !last then { data := false }
    else match v with
      | .owned _ _ => { data := false, next := if nOwns then .uncached else .same }
      | .precise _ ns => { data := false, next := if ns.contains n then .remove else .same }
      | _ => { data := false }
  else {}

/-- An entry that gains a node (05 R173). -/
def addNode (v : DView) (n : Node) : DView :=
  match v with
  | .precise w ns =>
    if ns.contains n then v
    else if ns.length < 2 then .precise w (ns ++ [n])
    else .coarse w ((n :: ns).foldl (fun (m : BitVec 64) x => m ||| BitVec.ofNat 64 (2 ^ (x.toNat / 64))) 0)
  | .coarse w vec => .coarse w (vec ||| BitVec.ofNat 64 (2 ^ (n.toNat / 64)))
  | _ => v

def viewWay (v : DView) : Option Nat :=
  match v with
  | .none => none
  | .precise w _ => some w
  | .coarse w _ => some w
  | .owned w _ => some w

def withWay (v : DView) (w : Nat) : DView :=
  match v with
  | .none => .none
  | .precise _ ns => .precise w ns
  | .coarse _ vec => .coarse w vec
  | .owned _ o => .owned w o

/-- The entry a row leads to. -/
def nextView (v : DView) (n : Node) (nx : NextDir) : DView :=
  let w := (viewWay v).getD 0
  match nx with
  | .same => v
  | .uncached => .none
  | .owned => .owned w n
  | .shared ns => .precise w ns
  | .add => addNode v n
  | .remove => (match v with
    | .precise w ns => if (ns.filter (fun x => x != n)).isEmpty then .none else .precise w (ns.filter (fun x => x != n))
    | x => x)

def isCoarse (v : DView) : Bool :=
  match v with
  | .coarse _ _ => true
  | _ => false

/-- Where the next entry of a sector goes. -/
def planFor (s : State) (region sec : Nat) (v v' : DView) : SlotPlan :=
  match viewWay v with
  | none => planOne s region sec
  | some w => if isCoarse v' && !isCoarse v then planPair s region sec w else .place w []

/-- Applying a row's next state; false when it must wait for a slot (06 R200, R210). -/
def applyNext (s : State) (region sec : Nat) (n : Node) (nx : NextDir) : State × Bool :=
  let v := dirFind s region sec
  let v' := nextView v n nx
  let set := secSet s sec
  if v' = v then (s, true)
  else if s.uc.reset != .none then (s, false)
  else if v' = .none then
    (match viewWay v with
     | some w => occ (dirFree s region set w) 0x0C6 6 region 1
     | none => s, true)
  else match planFor s region sec v v' with
    | .wait => (s, false)
    | .place w ev =>
      let s := ev.foldl (fun s x => backInvalidate s region set x) s
      let s := match viewWay v with
        | some w0 => dirFree s region set w0
        | none => s
      (occ (dirWrite s region sec w (withWay v' w)) 0x0C6 6 region 1, true)

/-! ## Chains (05 R158, R176) -/

def modItem (s : State) (it : ChainItem) (f : ChainItem → ChainItem) : State :=
  { s with tx := { s.tx with chain := s.tx.chain.map (fun c =>
      if c.ord = it.ord && c.region = it.region && c.sector = it.sector && c.ctx = it.ctx then f c else c) } }
def dropItem (s : State) (it : ChainItem) : State :=
  { s with tx := { s.tx with chain := s.tx.chain.filter (fun c =>
      !(c.ord = it.ord && c.region = it.region && c.sector = it.sector && c.ctx = it.ctx)) } }

/-- Lines of a context in a sector whose directory step is made. -/
def markDir (s : State) (i region sec : Nat) : State :=
  modCtx s i (fun c => { c with lines := c.lines.map (fun l =>
    if l.region = region && lineSector l = sec then { l with dirDone := true } else l) })

/-- A WRBACK or atomic that writes nothing leaves its queue. -/
def discardWrite (s : State) (i : Nat) : State :=
  modCtx (dropWrites s i) i (fun c => { c with lines := c.lines.map (fun l => { l with done := true }) })

/-- A context's lines in a sector. -/
def ctxLinesIn (c : Ctx) (region sec : Nat) : List CtxLine :=
  c.lines.filter (fun l => l.region = region && lineSector l = sec)

/-- Grants (a CLAIM of a node listed has no data in its answer, read or not): GRANT, the hint of the line, and the wait for GACK (05 R176, R179). -/
def giveGrant (s : State) (c : Ctx) (it : ChainItem) (row : DirRow) : State :=
  let s := (ctxLinesIn c it.region it.sector).foldl (fun s l => setHint s l.lblock l.key l.ord) s
  let s := if row.data then s else dropReads s c.idx
  let s := modCtx s c.idx (fun c => { c with
    grant := row.grant,
    lines := if row.data then c.lines else c.lines.map (fun l => { l with data := none, done := true }) })
  modItem s it (fun x => { x with phase := .gack none })

/-- The directory step of an item whose snoops are all over: its next state, its lines, its chain (05 R174). -/
def finishStep (s : State) (c : Ctx) (it : ChainItem) (row : DirRow) : State :=
  if c.phase != .working && row.grant ≠ 0 then dropItem (markDir s c.idx it.region it.sector) it
  else
    let (s, ok) := applyNext s it.region it.sector c.src row.next
    if !ok then modItem s it (fun x => { x with phase := .slot })
    else
      let s := markDir s c.idx it.region it.sector
      let s := if c.op = opWr ∨ c.op = opWrLong ∨ c.op = opAtomic then
          (ctxLinesIn c it.region it.sector).foldl (fun s l => clearHint s l.lblock l.key l.ord) s
        else s
      if row.grant ≠ 0 then giveGrant s c it row else dropItem s it

/-- What the directory holds decides a WRBACK: only the owner's data is written, and never a line already resolved
without it (05 R174, R176). -/
def wrbackTurn (s : State) (c : Ctx) (it : ChainItem) : State :=
  let l := c.lines.head?.getD default
  let late := (c.src.toNat, it.region, it.sector, keyLine l.key % 4)
  let isLate := s.tx.lateWb.contains late
  let owns := match dirFind s it.region it.sector with
    | .owned _ o => o == c.src
    | _ => false
  let s := { s with tx := { s.tx with lateWb := s.tx.lateWb.filter (fun x => x ≠ late) } }
  let s := if owns && !isLate then
      modBlk s (physBlock s l.lblock) (fun k => { k with wq := k.wq.map (fun e =>
        if e.ctx = some c.idx then { e with hint := hintAt s l.lblock l.key it.ord } else e) })
    else discardWrite s c.idx
  finishStep s c it (dirRow s c.op c.src (hLast c.h0) (dirFind s it.region it.sector) 0)

/-- A WRBACK admitted only because it might serve a snoop comes back to its chain: the refused check holds (11 R326). -/
def exemptTurn (s : State) (c : Ctx) (it : ChainItem) : State :=
  let l := c.lines.head?.getD default
  let s := match accCheck s c.src c.ing it.region (some (unitOf l.dpa)) (opRights c.op) with
    | .fail r m nr => violation s c.src c.op it.region r m nr c.ing l.dpa
    | .pass => s
  let s := dropItem (markDir (discardWrite s c.idx) c.idx it.region it.sector) it
  match ctxGet s c.idx with
  | some c => answerStatus s c stDenied (hAddr c.h0)
  | none => s

/-- The row of a Trowel step: target lines as WR with the hint condition met, else source lines as RD_CUR (08 R262).
Only lines its pipeline has accepted count. -/
def stepRow (s : State) (c : Ctx) (it : ChainItem) (v : DView) : DirRow :=
  let mine := (ctxLinesIn c it.region it.sector).filter (fun l => l.accepted)
  let mask (l : List CtxLine) : BitVec 4 := l.foldl (fun (m : BitVec 4) x => m ||| BitVec.ofNat 4 (2 ^ (keyLine x.key % 4))) 0
  let tm := mask (mine.filter (fun l => l.wr))
  let own : Bool := match v with
    | .owned _ _ => true
    | _ => false
  if tm ≠ 0 then { dests := (listed s v).map (fun x => (x, own)), lmask := mask mine }
  else match v with
    | .owned _ o =>
      let hm := mask (mine.filter (fun l => hintAt s l.lblock l.key l.ord))
      if hm = 0 then {} else { dests := [(o, true)], inv := false, lmask := hm }
    | _ => {}

/-- The row of a recall (08 R261): SNP_INV to every listed node, or SNP_SHARE to an owner, over the covered lines. -/
def recallRow (s : State) (c : Ctx) (it : ChainItem) (v : DView) : DirRow :=
  let m := ((ctxLinesIn c it.region it.sector).filter (fun l => l.accepted)).foldl (fun (m : BitVec 4) x =>
    m ||| BitVec.ofNat 4 (2 ^ (keyLine x.key % 4))) 0
  match v with
  | .owned _ o => { dests := [(o, true)], inv := c.op == opSnpInv, lmask := m }
  | _ => if c.op = opSnpInv then { dests := (listed s v).map (fun x => (x, false)), lmask := m } else {}

/-- The row a context's item takes. -/
def rowFor (s : State) (c : Ctx) (it : ChainItem) (v : DView) (hm : BitVec 4) : DirRow :=
  if c.kind == .step then stepRow s c it v
  else if c.kind == .recall then recallRow s c it v
  else dirRow s c.op c.src (hLast c.h0) v hm

/-- Snoops of range scans are counted (08 R272). -/
def countRecall (s : State) (c : Ctx) (n : Nat) : State :=
  if c.kind == .recall then { s with trowel := { s.trowel with recalls := satAdd 32 s.trowel.recalls n } } else s

/-- The head of a chain takes its turn. -/
def takeTurn (s : State) (c : Ctx) (it : ChainItem) : State :=
  if isUnknown s it.region it.sector then
    if sectorHinted s it.region it.sector then
      (if poolFree s 5 then broadcast s it.region it.sector (some it.ord) else s)
    else markKnown s it.region it.sector
  else
    let hm := hintMask s c it.region it.sector it.ord
    let s := if (c.op = opRdCur ∨ c.op = opRdLong) ∧ hm = 0 then occ s 0x017 it.region 0xF 1 else occ s 0x0C5 6 it.region 1
    let v := dirFind s it.region it.sector
    if c.op = opWrback then
      if !c.dataOk then s
      else if c.status = stDenied then exemptTurn s c it else wrbackTurn s c it
    else
      let row := rowFor s c it v hm
      if row.dests.isEmpty then (if c.kind == .recall then ctxPlaced (dropItem s it) c.idx else finishStep s c it row)
      else addSnoops (modItem (countRecall s c row.dests.length) it (fun x => { x with phase := .snoop })) c.idx it.region it.sector row.inv false row.lmask
             row.dests

/-- The snoops of an item are all over. -/
def snoopsOver (s : State) (it : ChainItem) : Bool :=
  (s.tx.snoops.filter (fun n => n.ctx = it.ctx && n.region = it.region && n.sector = it.sector)).all snoopOver &&
    !s.tx.resWait.any (fun w => w.ctx = it.ctx)

/-- The end of a broadcast with a snoop resolved without answer: lines poisoned, and C2 0x0603 (06 R201, R215). -/
def broadcastEnd (s : State) (c : Ctx) (it : ChainItem) : State :=
  if c.status = 0 then s
  else
    let bad := (List.range 4).filter (fun i =>
      let (lb, key) := sectorLine it.region it.sector i
      (hintAt s lb key it.ord || poisonPending s lb key it.ord) &&
        !c.lines.any (fun l => l.lblock = lb && l.key = key && l.merged.isSome))
    let s := bad.foldl (fun s i => mergeDirty s c.idx it.region it.sector i 0 true) s
    regionFault s .c2 it.region 0x0603 ((c.lines.head?.map CtxLine.dpa).getD 0)

/-- After the snoops of the head item. -/
def afterSnoops (s : State) (c : Ctx) (it : ChainItem) : State :=
  match c.kind with
  | .request | .step =>
    let v := dirFind s it.region it.sector
    let row := rowFor s c it v 0xF
    finishStep (dropSnoops s it.ctx it.region it.sector) c it row
  | .backInv => s
  | .broadcast =>
    let s := broadcastEnd s c it
    ctxPlaced (markKnown (dropItem (dropSnoops s it.ctx it.region it.sector) it) it.region it.sector) c.idx
  | .recall =>
    -- a sector whose four lines are all covered by an SNP_INV becomes UNCACHED (08 R261)
    let full := s.tx.snoops.any (fun n => n.ctx = it.ctx && n.sector = it.sector && n.inv && n.lmask = 0xF)
    let s := dropSnoops s it.ctx it.region it.sector
    let s := if full then (applyNext s it.region it.sector 0 .uncached).1 else s
    ctxPlaced (dropItem s it) c.idx

/-- A back-invalidation whose snoops are over frees its eviction-queue entry (05 R178). -/
def evictionDone (s : State) (it : ChainItem) : State :=
  ctxPlaced (dropItem (dropSnoops s it.ctx it.region it.sector) it) it.ctx

/-- One item at the head of its chain moves on if it can. -/
def advanceItem (s : State) (it : ChainItem) : State :=
  match ctxGet s it.ctx with
  | none => dropItem s it
  | some c =>
    match it.phase with
    | .wait => takeTurn s c it
    | .slot => takeTurn s c it
    | .snoop => if snoopsOver s it then afterSnoops s c it else s
    | .unknown => takeTurn s c it
    | .gack _ => s

/-- Chain heads: the first item of each sector. -/
def chainHeads (s : State) : List ChainItem :=
  s.tx.chain.filter (fun it => (s.tx.chain.find? (fun c => c.region = it.region && c.sector = it.sector)).map
    (fun c => (c.ord, c.ctx)) == some (it.ord, it.ctx))

def advanceChains (s : State) : State :=
  (chainHeads s).foldl (fun s it =>
    match s.tx.chain.find? (fun c => c.region = it.region && c.sector = it.sector) with
    | some h => if h.ctx = it.ctx && h.ord = it.ord && !regionStopped s it.region then advanceItem s h else s
    | none => s) s

/-! ## Reads (05 R164; 07 R219, R222) -/

/-- A context whose lines go through the read queue. -/
def isReadOp (op : Nat) : Bool := op == opRdShared || op == opRdOwn || op == opRdCur || op == opRdLong || op == opClaim

def rankOf (r : RelClass) : Nat :=
  match r with
  | .shared => 7
  | _ => 6

/-- A row's code {logical block, bank, row}. -/
def rowOf (lb key : Nat) : Nat := lb * 2 ^ 22 + key / 32

/-- A source line whose row still moves by a row path takes no read entry (08 R255). -/
def rowHeld (s : State) (c : Ctx) (l : CtxLine) : Bool :=
  c.kind == .step && s.trowel.steps.any (fun t => t.ctx = c.idx && t.rows.any (fun r => r.2 = rowOf l.lblock l.key))

/-- A source line of a COPY step that moves by line stream is read once the step holds a ring in the region of its target
(08 R258). -/
def unstaged (s : State) (c : Ctx) (li : Nat) : Bool :=
  c.kind == .step && (match s.trowel.steps.find? (fun t => t.ctx = c.idx) with
    | some t => (match c.lines[li + t.count]? with
      | some d => d.wr && !holdsRing (ucReg s d.region) (.trowel t.op t.no)
      | none => false)
    | none => false)

/-- A read of a block that waits for its place in the read queue. -/
structure WaitRead where
  ctx : Nat
  li : Nat
  key : Nat
  ord : Nat
  rank : Nat
  /-- the response allotment of 02 R59 is reserved -/
  reserved : Bool
  deriving DecidableEq, Repr, Inhabited

/-- Reads of a block not yet placed, in order-position order (07 R219). -/
def waitReads (s : State) (lb : Nat) : List WaitRead :=
  let k := blk s (physBlock s lb)
  let l := s.tx.ctxs.flatMap (fun c =>
    if c.phase == .working && (isReadOp c.op || c.kind == .step) then
      (c.lines.zipIdx).filterMap (fun p =>
        if p.1.accepted && !p.1.wr && p.1.lblock = lb && p.1.data.isNone && !p.1.done && !rowHeld s c p.1 && !unstaged s c p.2 &&
            !k.rq.any (fun e => e.owner == .ctx c.idx p.2) then
          some { ctx := c.idx, li := p.2, key := p.1.key, ord := p.1.ord, rank := rankOf c.rel, reserved := c.reserved } else none)
    else [])
  l.foldr (fun a l => (l.takeWhile (fun b => b.ord < a.ord)) ++ [a] ++ l.dropWhile (fun b => b.ord < a.ord)) []

/-- A logical block takes placements: serving, its unit not held for a migration switch, no TSV substitution due (09 R285,
R291). -/
def placing (s : State) (lb key : Nat) : Bool :=
  let pb := physBlock s lb
  (blk s pb).st == .serving && !switching s lb key && !substHolds s pb

/-- The first of a block's waiting reads may be placed: reserved, with room and budget. -/
def mayPlace (s : State) (lb : Nat) (p : WaitRead) : Bool :=
  p.reserved && placing s lb p.key && rqFree s (physBlock s lb) && budgetRank s (lb % 4) p.rank

def placeRead (s : State) (lb : Nat) (p : WaitRead) : State :=
  let e : REnt := { key := p.key, ord := p.ord, rank := p.rank, owner := .ctx p.ctx p.li, pool := true, issued := false,
                    at0 := s.now }
  countLines (modBlk s (physBlock s lb) (fun k => { k with rq := k.rq ++ [e] })) (lb % 4) 1

/-- A block's reads are placed in order: one that cannot be holds every later one (07 R219). -/
def placeInOrder (lb : Nat) : List WaitRead → State → State
  | [], s => s
  | p :: l, s => if mayPlace s lb p then placeInOrder lb l (placeRead s lb p) else s

/-- Placing what can be placed, block by block. -/
def placeReads (s : State) : State :=
  (List.range 32).foldl (fun s lb => placeInOrder lb (waitReads s lb) s) s

/-- A read entry leaves its queue. -/
def rqRemove (s : State) (pb : Nat) (e : REnt) : State :=
  modBlk s pb (fun k => { k with rq := k.rq.filter (fun x => !(x.owner == e.owner && x.key = e.key && x.ord = e.ord)) })

/-- A line's data reaches the context that reads it. -/
def giveData (s : State) (i li : Nat) (v : LVal) : State :=
  modCtx s i (fun c => { c with lines := c.lines.modify li (fun l =>
    { l with data := some (if v.p then 0 else v.d, v.p), done := true }) })

/-- A request's read completes with a value. -/
def finishRead (s : State) (pb : Nat) (e : REnt) (v : LVal) : State :=
  let s := rqRemove s pb e
  match e.owner with
  | .ctx i li => giveData s i li v
  | _ => s

/-- A read entry answered from the queue, a poison list or a slice; others go to the array (07 R222). -/
def resolveRead (s : State) (pb : Nat) (e : REnt) : State :=
  match e.owner with
  | .ctx i _ =>
    let k := blk s pb
    let lb := (logicalOf s pb).getD 0
    let es := earlier k e.key e.ord
    if e.issued || es.any waitsOn then s
    else if covers es then
      let s := modBlk s pb (fun k => { k with forwards := satAdd 32 k.forwards 1 })
      finishRead (occ s 0x024 (pb / 9) (pb % 9) 1) pb e (overlays { d := 0, p := false, h := false } es)
    else if poisonAny s lb e.key || lostPending s lb e.key then
      finishRead s pb e (overlays { d := 0, p := true, h := true } es)
    else match frameOf s lb e.key with
      | some (set, w) =>
        (match readFrame (sampCtx s i 1) lb e.key set w with
         | (s, some v) => finishRead s pb e (overlays v es)
         | (s, none) => s)
      | none => s
  | _ => s

/-! ## Write entries (07 R221 to R225) -/

/-- The CMP of a posted write waits for the merge: a partial WR whose key is in the poison table, or with OVERFLOW, or
behind a poisoned write of its line (07 R225, 05 R181). -/
def cmpWaits (s : State) (c : Ctx) : Bool :=
  c.op = opWr && hBe c.h1 ≠ allBytes && c.lines.any (fun l =>
    let k := blk s (physBlock s l.lblock)
    !l.done && (k.povf || k.ptab.contains l.key || (earlier k l.key l.ord).any (fun e => e.poison) ||
      poisonPending s l.lblock l.key l.ord))

/-- An atomic that met a poisoned or unreadable base: nothing written, answered POISONED (05 R181, 07 R224). -/
def atomicPoisoned (s : State) (pb : Nat) (e : WEnt) : State :=
  let s := wqRemove s pb e
  match e.ctx with
  | some i =>
    let s := markLineDone s i e.li
    (match ctxGet s i with
     | some c => if c.phase == .working then answerStatus s c stPoisoned (hAddr c.h0) else s
     | none => s)
  | none => s

/-- A base reaches its entry; a late CMP of a partial WR follows with POISONED or OK (07 R223 to R225). -/
def applyBase (s : State) (pb : Nat) (e : WEnt) (v : Option LVal) : State :=
  match baseDone e v with
  | .drop => atomicPoisoned s pb e
  | .ready e' poisoned old =>
    let s := wqUpdate s pb e e'
    match e.ctx with
    | none => s
    | some i =>
      (match old with
       | some x => modCtx s i (fun c => { c with lines := c.lines.modify e.li (fun l => { l with data := some (x, false) }) })
       | none =>
         (match ctxGet s i with
          | some c =>
            if c.phase == .working && c.dataOk && !e.cmpSent then
              answerStatus (wqUpdate s pb e' { e' with cmpSent := true }) c (if poisoned then stPoisoned else stOk) (hAddr c.h0)
            else s
          | none => s))

/-- An atomic is issued once its response line is reserved (02 R59). -/
def mayBase (s : State) (e : WEnt) : Bool :=
  !dirPending s e && (e.kind != .atomic || (match e.ctx with
    | some i => (match ctxGet s i with
      | some c => c.reserved || c.ing ≥ 5
      | none => true)
    | none => true))

/-- One entry's transition without a command on the TSVs. -/
def stepEnt (s : State) (pb : Nat) (e : WEnt) : State :=
  let k := blk s pb
  let lb := (logicalOf s pb).getD 0
  match e.st with
  | .waitData => s
  | .held =>
    if wholeLine { e with st := .held } then wqUpdate s pb e { e with st := .ready }
    else if mayBase s e && !((earlier k e.key e.ord).any (fun x => !sameEnt x e && x.st == .waitData)) then
      wqUpdate s pb e { e with st := .base }
    else s
  | .base =>
    let es := (earlier k e.key e.ord).filter (fun x => !sameEnt x e)
    if e.baseIssued || es.any waitsOn then s
    else match queueBase k e with
      | some v => applyBase s pb e (some v)
      | none =>
        if poisonAny s lb e.key || lostPending s lb e.key then
          applyBase s pb e (some (overlays poisonZeros es))
        else if es.any (fun x => x.kind == .atomic && x.st != .ready) then s
        else match frameOf s lb e.key with
          | some (set, w) =>
            (match readFrame (match e.ctx with | some i => sampCtx s i 1 | none => s) lb e.key set w with
             | (s, some v) => applyBase s pb e (some (overlays v es))
             | (s, none) => s)
          | none => s
  | .ready => s

def stepBlock (s : State) (pb : Nat) : State :=
  let s := ((blk s pb).wq).foldl (fun s e =>
    match (blk s pb).wq.find? (fun x => sameEnt x e) with
    | some x => stepEnt s pb x
    | none => s) s
  ((blk s pb).rq).foldl (fun s e => resolveRead s pb e) s

/-! ## Answers (05 R152, R153, R166, R174, R180) -/

def lineFinal (l : CtxLine) : Option (Line × Bool) :=
  match l.merged with
  | some m => some m
  | none => l.data

/-- Lines reserved for a response that carries no data return to the allotment. -/
def unreserve (s : State) (c : Ctx) : State :=
  if !c.reserved then s
  else
    freeLines (modCtx s c.idx (fun c => { c with reserved := false })) c.ing c.lines.length

/-- A posted write waits for its own snoops: a line of it that the hint says may be cached, or any line of a partial WR,
whose base may come back poisoned, has not made its directory step.  The last sentence of R174 has the response wait for
the snoops, R166 sends the CMP once the data is complete (DEDUCED, log 186). -/
def snoopWaits (s : State) (c : Ctx) : Bool :=
  c.op ≠ opWrback && c.lines.any (fun l => !l.dirDone &&
    (c.op = opWr && hBe c.h1 ≠ allBytes || hintAt s l.lblock l.key l.ord))

/-- A working request that can be answered is.  R159 sends the CMP of a WR_LONG once every line is performed, R166 names
WR_LONG among the writes whose CMP goes out once accepted with complete data: R166 is taken (DEDUCED, log 184). -/
def tryAnswer (s : State) (i : Nat) : State :=
  match ctxGet s i with
  | none => s
  | some c =>
    if c.phase != .working || c.kind != .request || c.op = opBulk then s
    else if !c.lines.all (fun l => l.accepted) then s
    else if isReadOp c.op then
      if !c.lines.all (fun l => l.dirDone) then s
      else if c.op = opClaim && c.lines.all (fun l => l.done && l.data.isNone) && c.grant ≠ 0 then
        let s := unreserve s c
        answerCmp s { c with reserved := false } stOk (hAddr c.h0) c.grant
      else if c.lines.all (fun l => l.data.isSome) then
        answerData s c (c.lines.map (fun l => (lineFinal l).getD (0, false))) (c.lines.map CtxLine.fa) c.grant
      else s
    else if c.op = opAtomic then
      (match c.lines.head? with
       | some l => (match l.data with
         | some d => if l.dirDone then answerData s c [d] [l.fa] 0 else s
         | none => s)
       | none => s)
    else if c.op = opEvictClean then
      if c.lines.all (fun l => l.dirDone) then answerStatus s c stOk (hAddr c.h0) else s
    else if c.dataOk && c.status ≠ stDenied && !snoopWaits s c && !cmpWaits s c then
      let s := { s with blocks := s.blocks.map (fun p => (p.1, { p.2 with wq := p.2.wq.map (fun e =>
        if e.ctx = some i then { e with cmpSent := true } else e) })) }
      answerStatus s c stOk (hAddr c.h0)
    else s

/-! ## Trowel steps (08 R250 to R267) -/

/-- The write entry of a step's target line gets its line. -/
def feedEnt (s : State) (pb i li : Nat) (d : Line) (p : Bool) : State :=
  modBlk s pb (fun k => { k with wq := k.wq.map (fun e =>
    if e.ctx = some i && e.li = li && e.kind == .stream && e.st == .waitData then
      { e with data := d, poison := p, hint := false, st := .ready } else e) })

/-- A COPY step's lines whose source is final, a FILL step's once the pattern is known (R258). -/
def feedStep (s : State) (t : TStep) : State :=
  match ctxGet s t.ctx, s.trowel.ops.find? (fun o => o.id = t.op) with
  | some c, some o =>
    let n := t.count
    if o.bop = 0 then
      (List.range n).foldl (fun s j =>
        match c.lines[j]?, c.lines[n + j]? with
        | some a, some b =>
          (match (if a.dirDone then lineFinal a else none) with
           | some (d, p) => feedEnt s (physBlock s b.lblock) c.idx (n + j) d p
           | none => s)
        | _, _ => s) s
    else if o.bop = 1 && 0 < n then
      (match o.pattern with
       | some (d, _) => (List.range n).foldl (fun s j => match c.lines[j]? with
         | some b => feedEnt s (physBlock s b.lblock) c.idx j d false
         | none => s) s
       | none => s)
    else s
  | _, _ => s

/-- Everything a step covers has been read or written. -/
def stepOver (s : State) (t : TStep) : Bool :=
  t.rows.isEmpty && (match ctxGet s t.ctx with
    | some c => c.lines.all (fun l => l.done && l.dirDone)
    | none => true)

/-- First index at which a list of lines is poisoned. -/
def firstPoison (ls : List CtxLine) : Option (Nat × CtxLine) :=
  findIdx (fun l => match lineFinal l with
    | some (_, p) => p
    | none => false) ls 0

/-- First byte at which two lines differ. -/
def diffByte (a b : Line) : Option Nat :=
  (List.range 64).find? (fun j => a.extractLsb' (8 * j) 8 != b.extractLsb' (8 * j) 8)

def lineData (l : CtxLine) : Line := ((lineFinal l).map (fun x => x.1)).getD 0

/-- First line of a COMPARE step that ends it: a poisoned line of either range, or a difference. -/
def compareEnd (c : Ctx) (n : Nat) : Option (Nat × Option Nat × Nat) :=
  (List.range n).findSome? (fun j =>
    match c.lines[j]?, c.lines[n + j]? with
    | some a, some b =>
      if (firstPoison [a]).isSome then some (j, none, a.fa)
      else if (firstPoison [b]).isSome then some (j, none, b.fa)
      else (diffByte (lineData a) (lineData b)).map (fun d => (j, some d, 0))
    | _, _ => none)

/-- What a finished step adds to its operation (R264 to R266). -/
def addStep (o : BulkOp) (t : TStep) (c : Ctx) : BulkOp :=
  if o.endWith.isSome && o.bop ≥ 3 then o
  else if o.bop = 1 && t.count = 0 then
    match c.lines.head? with
    | some l => (match lineFinal l with
      | some (d, p) => if p then { o with status := stPoisoned, statusFa := l.fa, endWith := some stPoisoned }
                       else { o with pattern := some (d, false) }
      | none => o)
    | none => o
  else if o.bop = 3 then
    match compareEnd c t.count with
    | some (j, some d, _) =>
      { o with linesDone := o.linesDone + j + 1, diff := some (t.first + j, d), endWith := some stOk }
    | some (j, none, fa) =>
      { o with linesDone := o.linesDone + j, status := stPoisoned, statusFa := fa, endWith := some stPoisoned }
    | none => { o with linesDone := o.linesDone + t.count }
  else if o.bop = 4 then
    match firstPoison c.lines with
    | some (j, l) => { o with linesDone := o.linesDone + j, status := stPoisoned, statusFa := l.fa, endWith := some stPoisoned }
    | none => { o with
        linesDone := o.linesDone + t.count,
        crc := BitVec.ofNat 32 (c.lines.foldl (fun a l => crc32cRun a (lineBytes (lineData l))) o.crc.toNat) }
  else
    let src := if o.bop = 0 then c.lines.take t.count else []
    let bad := (src.filter (fun l => (firstPoison [l]).isSome)).length
    let o := { o with linesDone := o.linesDone + t.count, poisoned := satAdd 32 o.poisoned bad, rowLines := o.rowLines + t.rowLines }
    match firstPoison (if o.desc then src.reverse else src) with
    | some (_, l) => if o.status = stOk then { o with status := stPoisoned, statusFa := l.fa } else o
    | none => o

/-- A step's rings are released (06 R204; 08 R258). -/
def releaseRings (s : State) (t : TStep) : State :=
  (List.range 4).foldl (fun s r => ucRegPut s r (dropRing (ucReg s r) (.trowel t.op t.no))) s

/-- Steps that are over leave, each operation's in their sequence. -/
def finishSteps (s : State) : State :=
  s.trowel.steps.foldl (fun s t =>
    if stepOver s t && t.ctx < 65536 && !s.trowel.steps.any (fun u => u.op = t.op && u.no < t.no) then
      match ctxGet s t.ctx with
      | some c =>
        let s := { s with trowel := { s.trowel with
          steps := s.trowel.steps.filter (fun u => !(u.op = t.op && u.no = t.no)),
          ops := s.trowel.ops.map (fun o => if o.id = t.op then addStep o t c else o),
          streamLines := satAdd 64 s.trowel.streamLines (t.count - t.rowLines) } }
        let s := if t.count = 0 then s else occ s 0x103 7 0xF (t.count - t.rowLines)
        ctxPlaced (releaseRings s t) c.idx
      | none => s
    else s) s

/-! ## The step sequence (08 R250, R251) -/

/-- First lines of both ranges, their distance, and whether row groups are steps. -/
def rowStepOk (o : BulkOp) : Bool :=
  o.bop = 1 || o.bop = 2 || o.bop = 0 && o.dpaSrc % 1024 = o.dpaDst % 1024

/-- The next step in ascending order: kind, first line, count. -/
def stepUp (o : BulkOp) : StepKind × Nat × Nat :=
  let a := o.dpaDst + o.nextLine
  let left := o.count - o.nextLine
  if rowStepOk o && a % 1024 = 0 && 1024 ≤ left then (.rowGroup, o.nextLine, 1024)
  else (.line, o.nextLine, min (64 - a % 64) left)

/-- The next step in descending order. -/
def stepDown (o : BulkOp) : StepKind × Nat × Nat :=
  let e := o.count - o.nextLine
  let b := o.dpaDst + e
  if rowStepOk o && b % 1024 = 0 && 1024 ≤ e then (.rowGroup, e - 1024, 1024)
  else
    let n := min ((b - 1) % 64 + 1) e
    (.line, e - n, n)

/-- The step an operation presents next, if any: for FILL, first the read of its pattern line. -/
def nextStepOf (o : BulkOp) : Option (StepKind × Nat × Nat) :=
  if o.phase != .running || o.endWith.isSome then none
  else if o.bop = 1 && o.pattern.isNone then (if o.nextStep = 0 then some (.line, 0, 0) else none)
  else if o.nextLine < o.count then some (if o.desc then stepDown o else stepUp o)
  else none

/-- A step joins the sequence at the regulator, ingress 5 (10 R299, R302). -/
def presentStep (s : State) (o : BulkOp) : State :=
  match nextStepOf o with
  | none => s
  | some (k, first, n) =>
    let t : TStep := { op := o.id, no := o.nextStep, kind := k, first := first, count := n, rel := .shared, ord := 0,
                       ctx := 65536, rows := [], rowLines := 0 }
    let w : Waiting := { ing := 5, msg := default, arr := s.tx.nextArr, data := [], dataOk := true, rel := .shared,
                         step := some (o.id, o.nextStep) }
    { s with
      tx := { s.tx with held := s.tx.held ++ [w], nextArr := s.tx.nextArr + 1 },
      trowel := { s.trowel with
        steps := s.trowel.steps ++ [t],
        ops := s.trowel.ops.map (fun x => if x.id = o.id then
          { x with nextStep := o.nextStep + 1, nextLine := o.nextLine + n } else x) } }

/-- Executing operations take turns: each presents a step once its last one has been accepted, and none while reissued
lines of it are not performed (08 R250, R267). -/
def presentSteps (s : State) : State :=
  s.trowel.ops.foldl (fun s o =>
    if (s.tx.held ++ s.tx.waiting).any (fun w => w.step.any (fun x => x.1 = o.id)) ||
        s.trowel.steps.any (fun t => t.op = o.id && t.again) then s
    else presentStep s o) s

/-! ## Reissued lines (08 R267) -/

/-- Lines of a context, by index, leave the queues and their order positions; a directory step under way goes on. -/
def unaccept (s : State) (c : Ctx) (idx : List Nat) : State :=
  let reads (e : REnt) : Bool := match e.owner with
    | .ctx i li => i = c.idx && idx.contains li
    | _ => false
  let busy (l : CtxLine) : Bool := s.tx.chain.any (fun it => it.ctx = c.idx && it.region = l.region && it.sector = lineSector l)
  let s := { s with blocks := s.blocks.map (fun (p : Nat × Block) => (p.1, { p.2 with
    rq := p.2.rq.filter (fun e => !reads e),
    wq := p.2.wq.filter (fun e => !(e.ctx = some c.idx && idx.contains e.li)) })) }
  modCtx s c.idx (fun c => { c with lines := (c.lines.zipIdx).map (fun p =>
    if idx.contains p.2 then { p.1 with accepted := false, dirDone := p.1.dirDone && !busy p.1 } else p.1) })

/-- Lines of a step are answered with a retry: rows they lie in move line by line, and they go through the regulator again
as a new step, each at a new order position (R267). -/
def reissueLines (s : State) (t : TStep) (c : Ctx) (idx : List Nat) : State :=
  if idx.isEmpty then s
  else
    let rows := idx.filterMap (fun i => (c.lines[i]?).map (fun l => rowOf l.lblock l.key))
    let w : Waiting := { ing := 5, msg := default, arr := s.tx.nextArr, data := [], dataOk := true, rel := .shared,
                         step := some (t.op, t.no) }
    let again (x : TStep) : TStep :=
      { x with again := true, redo := true, rows := x.rows.filter (fun r => !rows.contains r.1 && !rows.contains r.2) }
    let s := unaccept s c idx
    { s with
      tx := { s.tx with
        held := if t.redo then s.tx.held else s.tx.held ++ [w], nextArr := s.tx.nextArr + 1,
        waiting := s.tx.waiting.filter (fun v => v.step ≠ some (t.op, t.no)) },
      trowel := { s.trowel with steps := s.trowel.steps.map (fun x => if x.op = t.op && x.no = t.no then again x else x) } }

/-- Lines of steps in a physical block that satisfy a condition, with the entries that hold their places, are reissued; a
row operation already driven goes on. -/
def reissueIn (s : State) (pb : Nat) (p : Ctx → Nat → CtxLine → Bool) : State :=
  s.trowel.steps.foldl (fun s t =>
    match ctxGet s t.ctx with
    | some c =>
      let driven (l : CtxLine) : Bool := (blk s pb).rowOps.any (fun r => r.op = some t.op && r.issued.isSome &&
        (keyRow l.key = r.dst && physBank s pb (keyBank l.key) = r.dstBank || keyRow l.key = r.src && physBank s pb (keyBank l.key) = r.bank))
      let idx := ((c.lines.zipIdx).filter (fun q => q.1.accepted && !q.1.done && physBlock s q.1.lblock = pb && !driven q.1 &&
        p c q.2 q.1)).map (fun q => q.2)
      let s := modBlk s pb (fun k => { k with rowOps := k.rowOps.filter (fun r => r.op ≠ some t.op || r.issued.isSome || idx.isEmpty) })
      reissueLines s t c idx
    | none => s) s

/-! ## Progress -/

/-- Victims still BUSY send off more lines as write-queue entries free, in the order they were chosen (06 R195; 07
R220). -/
def busyBatches (s : State) : State :=
  s.uc.victims.foldl (fun s k =>
    if (tagGet s (k / 65536) (k / 16 % 4096) (k % 16)).busy then victimBatch s (k / 65536) (k / 16 % 4096) (k % 16)
    else { s with uc := { s.uc with victims := s.uc.victims.filter (fun x => x ≠ k) } }) s

/-- One round: placements, queue transitions, chain heads, answers. -/
def settleRound (s : State) : State :=
  let s := busyBatches (pruneMirrors s)
  let s := placeReads s
  let s := (s.blocks.map (fun p => p.1)).foldl stepBlock s
  let s := advanceChains s
  let s := s.trowel.scans.foldl admitRecalls s
  let s := giveRings s
  let s := presentSteps (finishSteps (s.trowel.steps.foldl feedStep s))
  (s.tx.ctxs.map Ctx.idx).foldl tryAnswer s

def settleN : Nat → State → State
  | 0, s => s
  | n + 1, s => settleN n (settleRound s)

/-- What follows at once from a change of the queues, chains and contexts. -/
def settle (s : State) : State := if s.faults.halted then s else settleN (4 + s.tx.chain.length) s

end Sys2Proof.Machine
end

