-- ==== Sys2Proof/Machine/Pipeline.lean ====
section
/-! DEFINITION. The region pipelines (05 R152 to R178): a request at its ingress, acceptance and its checks, write data,
the allotment, and the answers and timeouts of snoops, grants and write-backs. -/

namespace Sys2Proof.Machine

/-- Chip element of an ingress: the Wide Port, a fabric port, or the Trowel (12 R345). -/
def pElem (ing : Nat) : Nat := if ing = 4 then 0 else if ing < 4 then ing + 1 else 5

/-- C0 0x0501: duplicate, malformed response, GACK timeout or write data timeout, with the node in DETAIL (R183). -/
def c0Tx (s : State) (ing : Nat) (n : Node) : State := c0 s (pElem ing) 0x0501 n.toNat 0

/-! ## A request at its ingress (R154, 10 R302) -/

/-- The record of a request that passes its ingress step (R507). -/
def reqSample (s : State) (ing : Nat) (h0 : Slot) : Sample :=
  let op := hOp h0
  let src := hSrc h0
  let ag := if ing = 4 then agentOf s src else none
  let mg := op = opMgRd ∨ op = opMgWr
  { tag := hTag h0, node := src, ingress := ing, agentV := ag.isSome, agent := ag.getD 0, opcode := op,
    cls := opClass op, region := if mg then 0 else leadRegion s h0, served := 0,
    addr := if mg then hMoff h0 else hAddr h0, len := if mg then 0 else hLen h0, t0 := s.now, t1 := s.now, t2 := 0,
    t3 := 0 }

/-- Credits of a message that leaves its ingress. -/
def leaveIngress (s : State) (ing : Nat) (m : Msg) : State :=
  retLine (retHdr s ing (opClass (hOp m.h0)) 1) ing (opClass (hOp m.h0)) m.data.length

/-- A request served here passes its ingress step (19 R502, R505). -/
def passIngress (s : State) (ing : Nat) (m : Msg) : State :=
  let s := if ing = 4 then occ s 0x040 4 ((agentOf s (hSrc m.h0)).getD 15) 1 else s
  sampEligible s (opClass (hOp m.h0)) (reqSample s ing m.h0)

/-- A duplicate (SRC, TAG) is discarded with no response (R154). -/
def dupDiscard (s : State) (ing : Nat) (m : Msg) : State :=
  let s := leaveIngress { s with tx := { s.tx with dups := s.tx.dups + 1 } } ing m
  c0Tx s ing (hSrc m.h0)

/-- A memory request for this stack: WRBACK and EVICT_CLEAN wait for acceptance at once, every other is held until the
regulator releases it (10 R300, R302, R304). -/
def takeRequest (s : State) (ing : Nat) (m : Msg) : State :=
  let op := hOp m.h0
  if (openCtx s (hSrc m.h0) (hTag m.h0)).isSome then dupDiscard s ing m
  else
    let s := passIngress s ing m
    let ok : Bool := m.data.length = dataLines m.h0
    let w : Waiting :=
      { ing := ing, msg := { m with data := [] }, arr := s.tx.nextArr, data := if ok then m.data else [], dataOk := ok,
        rel := firstRel s m.h0, step := none }
    let s := { s with tx := { s.tx with nextArr := s.tx.nextArr + 1 } }
    if op = opWrback ∨ op = opEvictClean then
      let s := if op = opWrback then debitWrback s (hSrc m.h0).toNat (chargeOf s w) else s
      leaveIngress { s with tx := { s.tx with waiting := s.tx.waiting ++ [w] } } ing m
    else { s with tx := { s.tx with held := s.tx.held ++ [w] } }

/-! ## Checks at acceptance (R156, R157; 11 R325) -/

/-- What acceptance decides: a status with the address of its answer, or acceptance; `exempt` marks a WRBACK admitted
only because it may serve a snoop (11 R326). -/
inductive Verdict where
  | refuse (status addr : Nat)
  | accept (exempt : Bool)
  deriving DecidableEq, Repr, Inhabited

/-- A WRBACK that a snoop to its sender may still use (R176). -/
def maySnoop (s : State) (n : Node) (ls : List (Nat × Nat)) : Bool :=
  s.tx.snoops.any (fun x => x.node == n && x.sent.isSome && (!x.answered || x.wbp ≠ 0) &&
    ls.any (fun l =>
      let loc := decodeDpa (nRegions s) l.2
      loc.region = x.region && sectorId loc.lblock loc.key = x.sector))

/-- All lines of a request lie in one granule of one window, below the enabled capacity, at this stack (R157, 04 R141). -/
def rangeOk (s : State) (h0 : Slot) : Bool :=
  let n := if hOp h0 = opRdLong ∨ hOp h0 = opWrLong then hLen h0 + 1 else 1
  match mapFa s.fab.windows (hAddr h0 * 64) with
  | none => false
  | some m =>
    m.node == s.fab.stackNode && (hAddr h0 * 64) / 2 ^ m.granBits == ((hAddr h0 + n - 1) * 64) / 2 ^ m.granBits &&
      m.dpa + 64 * n ≤ capacity s

/-- The private-node check (R163). -/
def privateBad (m : Mapped) (n : Node) : Bool := m.cls == .hostPrivate && m.priv != n

/-- The class check, with the directory absent (R162, R163; 06 R208). -/
def classBad (s : State) (op : Nat) (m : Mapped) : Bool :=
  !opLegalIn op m.cls || (m.cls == .tracked && opNeedsDir op && !ucOn s (decodeDpa (nRegions s) m.dpa).region)

/-- A denial of R163: counted, C0 0x0505, no violation. -/
def privateDenied (s : State) (r : Nat) (n : Node) : State :=
  let s := { s with tx := { s.tx with privDenied := s.tx.privDenied + 1 } }
  raiseC0 s .region r r 0x0505 n.toNat 0

/-- The checks in the order of 11 R325; a stopped region comes after the address (12 R354). -/
def verdict (s : State) (w : Waiting) : State × Verdict :=
  let h0 := w.msg.h0
  let op := hOp h0
  let n := hSrc h0
  let ls := reqLines s h0
  let la := hAddr h0
  if !fieldsOk w.msg then (s, .refuse stMalformed la)
  else if !rangeOk s h0 then
    (c0 { s with fab := { s.fab with addrErrs := s.fab.addrErrs + 1 } } (pElem w.ing) 0x0409 0 0,
      .refuse stAddrErr la)
  else if (reqRegions s h0).any (regionStopped s) then (s, .refuse stRegionDown la)
  else
    let rest (exempt : Bool) : State × Verdict :=
      match mapFa s.fab.windows (la * 64) with
      | none => (s, .refuse stAddrErr la)
      | some m =>
        if privateBad m n then (privateDenied s (leadRegion s h0) n, .refuse stDenied la)
        else if classBad s op m then (s, .refuse stClassErr la)
        else (s, .accept exempt)
    match checkRegions s n w.ing (opRights op) ls with
    | none => rest false
    | some (r, c, dpa) =>
      if op = opWrback && maySnoop s n ls then rest true
      else match c with
        | .fail rule nm nr => (violation s n op r rule nm nr w.ing dpa, .refuse stDenied la)
        | .pass => rest false

/-- Releasing what a refused header holds: its charge is refunded (10 R301). -/
def refuseReq (s : State) (w : Waiting) (status addr : Nat) : State :=
  let s := { s with tx := { s.tx with
    waiting := s.tx.waiting.filter (fun v => v.arr ≠ w.arr), refused := s.tx.refused + 1 } }
  let s := occ (refund s w) 0x011 (leadRegion s w.msg.h0) 0xF 1
  answerNoCtx s w.ing w.msg status addr

/-! ## Acceptance (R155 to R158) -/

def isWriteOp (op : Nat) : Bool := op == opWr || op == opWrLong || op == opWrback || op == opAtomic

/-- The directory serves a class in a region. -/
def usesDir (s : State) (cls : AClass) (r : Nat) : Bool := cls == .tracked && ucOn s r

/-- Lines of a new context: those in its lead region have the order position of its acceptance, the others are parts that
their own pipelines accept (R157). -/
def newLines (s : State) (h0 : Slot) (cls : AClass) (ord : Nat) : List CtxLine :=
  (reqLines s h0).map (fun l =>
    let loc := decodeDpa (nRegions s) l.2
    let here : Bool := loc.region = leadRegion s h0
    { fa := l.1, dpa := l.2, region := loc.region, lblock := loc.lblock, key := loc.key, ord := if here then ord else 0,
      accepted := here, dirDone := !usesDir s cls loc.region, data := none, merged := none, done := hOp h0 = opEvictClean })

/-- Write-queue slots each block must have free, mirrored entries counted (R156; 09 R290). -/
def slotsFree (s : State) (rank : Nat) (ls : List CtxLine) : Bool :=
  ls.all (fun l => budgetRank s l.region rank && (blk s (physBlock s l.lblock)).st == .serving && !substHolds s (physBlock s l.lblock)) && (List.range 36).all (fun pb =>
    let mine := (ls.filter (fun l =>
      physBlock s l.lblock = pb)).length
    let mirrored := (ls.filter (fun l =>
      match mirrorOf s (physBlock s l.lblock) (keyBank l.key) with
      | some (tb, _) => tb = pb
      | none => false)).length
    mine + mirrored = 0 || mine + mirrored ≤ wqFree s pb)

/-- Kind, byte enables and sender's poison of a line's entry (R168; 07 R221). -/
def entKind (h0 h1 : Slot) : WKind :=
  if hOp h0 = opAtomic then .atomic
  else if hOp h0 = opWr then (if hBe h1 = allBytes then .full else .partialW) else .full
def entBe (h0 h1 : Slot) : BitVec 64 :=
  if hOp h0 = opAtomic then 0 else if hOp h0 = opWr then hBe h1 else allBytes
def entPoison (h0 h1 : Slot) (li : Nat) : Bool :=
  if hOp h0 = opWr then hWrPoison h1 else if hOp h0 = opWrLong then h1.getLsbD li
  else if hOp h0 = opWrback then hPoison h0 else false

/-- The entry a write takes for one of its lines, waiting for its data unless the context has it. -/
def newEnt (s : State) (c : Ctx) (li : Nat) (l : CtxLine) : WEnt :=
  { key := l.key, ord := l.ord, be := entBe c.h0 c.h1, kind := entKind c.h0 c.h1,
    st := if c.dataOk then .held else .waitData,
    rank := rankOf c.rel, tgt := if c.cls == .bulk then .dram else .both, data := (c.wdata[li]?).getD 0, poison := entPoison c.h0 c.h1 li,
    hint := usesDir s c.cls l.region && hintAt s l.lblock l.key l.ord, ctx := some c.idx, li := li, cmpSent := false,
    baseIssued := false, aop := hAop c.h1, asz := hAsize c.h1, aoff := hAoff c.h1, cmpd := 0, at0 := s.now }

/-- Entries of a write's lines in a region. -/
def addEnts (s : State) (c : Ctx) (region : Nat) : State :=
  ((c.lines.zipIdx).filter (fun p => p.1.region = region)).foldl (fun s p =>
    placeEnt s p.1.lblock (newEnt s c p.2 p.1)) s

/-- A reservation of the response allotment takes its place in acceptance order (02 R59; 04 R131). -/
def askAllot (s : State) (c : Ctx) : State :=
  let a : AllotReq := { ctx := c.idx, lines := c.lines.length }
  if !(isReadOp c.op || c.op == opAtomic) then s
  else if c.ing = 4 then { s with wp := { s.wp with allotQ := s.wp.allotQ ++ [a] } }
  else if c.ing < 4 then modPort s c.ing (fun x => { x with allotQ := x.allotQ ++ [a] })
  else modCtx s c.idx (fun c => { c with reserved := true })

/-- Bytes accepted for a master and for the bulk class (10 R316). -/
def countBytes (s : State) (n : Nat) (c : Charge) : State :=
  let s := putRegSt s n { regSt s n with acc := (regSt s n).acc + c.own + c.bulk }
  { s with reg := { s.reg with bulkSt := { s.reg.bulkSt with acc := s.reg.bulkSt.acc + c.bulk } } }

/-- Places in the chains of the sectors that lines of a request cover (R158). -/
def chainFor (i : Nat) (ls : List CtxLine) : List ChainItem :=
  (((ls.filter (fun l => !l.dirDone)).map (fun l => (l.region, lineSector l))).eraseDups).map (fun p =>
    { ord := (ls.head?.map CtxLine.ord).getD 0, region := p.1, sector := p.2, ctx := i, phase := .wait })

/-- Epochs of the blocks that lines enter (01 R19). -/
def lineBlkEpochs (s : State) (ls : List CtxLine) : List (Nat × BitVec 8) :=
  ((ls.map (fun l => physBlock s l.lblock)).eraseDups).map (fun b => (b, blkEpoch s b))

/-- The context a request takes. -/
def newCtx (s : State) (w : Waiting) (m : Mapped) (exempt : Bool) : Ctx :=
  let h0 := w.msg.h0
  let op := hOp h0
  let ls := newLines s h0 m.cls s.tx.nextOrd
  { idx := freeIdx s, ing := w.ing, kind := .request, src := hSrc h0, tag := hTag h0, op := op, h0 := h0, h1 := w.msg.h1,
    cls := m.cls, rel := w.rel, lead := leadRegion s h0, portEpoch := if w.ing < 5 then (linkOf s w.ing).epoch else 0,
    arr := w.arr, blkEpochs := lineBlkEpochs s (ls.filter CtxLine.accepted),
    regEpochs := lineRegEpochs s (ls.filter CtxLine.accepted), lines := ls,
    wdata := [], dataOk := false, acceptedAt := s.now, reserved := false,
    grant := if m.cls == .hostPrivate && (op = opRdShared ∨ op = opRdOwn ∨ op = opClaim) then 2 else 0,
    status := if exempt then stDenied else stOk, phase := .working, quarantine := none }

/-! ## Write data (07 R221) -/

/-- A WRBACK whose line a snoop response announced serves that snoop (R176). -/
def serveAwaited (s : State) (i : Nat) : State :=
  match ctxGet s i with
  | some c =>
    if c.op ≠ opWrback then s
    else match c.lines.head? with
      | none => s
      | some l =>
        let k := keyLine l.key % 4
        match s.tx.snoops.find? (fun n => n.node == c.src && n.region = l.region && n.sector = lineSector l && n.answered &&
            n.wbp.getLsbD k) with
        | some n => serveWb (modSnoop s n (fun x => { x with wbp := setBit x.wbp k false })) c n k
        | none => s
  | none => s

/-- A write's data is complete and good: its entries become HELD. -/
def feedData (s : State) (i : Nat) (data : List Line) : State :=
  let s := modCtx s i (fun c => { c with wdata := data, dataOk := true })
  let s := { s with blocks := s.blocks.map (fun p => (p.1, { p.2 with wq := p.2.wq.map (fun e =>
    if e.ctx = some i && e.st == .waitData then
      let d := (data[e.li]?).getD 0
      { e with data := d, st := .held, cmpd := d.extractLsb' 128 128 }
    else e) })) }
  serveAwaited s i

/-- A request enters its lead region's pipeline: context, order position, write slots, chains, allotment. -/
def acceptReq (s : State) (w : Waiting) (m : Mapped) (exempt : Bool) : State :=
  let c := newCtx s w m exempt
  let ch := chargeOf s w
  let s := { s with tx := { s.tx with
    waiting := s.tx.waiting.filter (fun v => v.arr ≠ w.arr), ctxs := s.tx.ctxs ++ [c], nextIdx := c.idx + 1,
    nextOrd := s.tx.nextOrd + 1, chain := s.tx.chain ++ chainFor c.idx (c.lines.filter CtxLine.accepted) } }
  let s := countBytes (occ s 0x010 c.lead 0xF 1) c.src.toNat ch
  let s := if isWriteOp c.op then addEnts s c c.lead else s
  let s := askAllot s c
  if isWriteOp c.op && w.dataOk then feedData s c.idx w.data else s

/-- The part of an accepted long request that the pipeline of a region takes next from an ingress (R157). -/
def nextPart (s : State) (region ing : Nat) : Option Ctx :=
  argMin Ctx.arr (s.tx.ctxs.filter (fun c => c.kind == .request && c.ing = ing && c.phase == .working &&
    c.lines.any (fun l => l.region = region && !l.accepted && !l.done)))

/-- Pipelines a header is bound for: its lead region, and the regions of its lines. -/
def boundFor (s : State) (h0 : Slot) : List Nat := leadRegion s h0 :: reqRegions s h0

/-- The first header of an ingress bound for a region; headers bound for other regions do not hold it (R156, R157). -/
def nextFor (s : State) (region ing : Nat) : Option Waiting :=
  s.tx.waiting.find? (fun w => w.ing = ing && w.step.isNone && (boundFor s w.msg.h0).contains region)

/-- A part is accepted: its lines take their order position, write slots, chains and epochs in that region. -/
def takePart (s : State) (c : Ctx) (region : Nat) : State :=
  let ord := s.tx.nextOrd
  let ls := c.lines.map (fun l => if l.region = region then { l with ord := ord, accepted := true } else l)
  let mine := ls.filter (fun l => l.region = region)
  let c' : Ctx := { c with lines := ls, blkEpochs := c.blkEpochs ++ lineBlkEpochs s mine, regEpochs := c.regEpochs ++ lineRegEpochs s mine }
  let s := modCtx { s with tx := { s.tx with nextOrd := ord + 1, chain := s.tx.chain ++ chainFor c.idx mine } } c.idx (fun _ => c')
  if isWriteOp c.op then addEnts s c' region else s

/-- Acceptance of a part, which waits for its write slots (R156). -/
def acceptPart (s : State) (c : Ctx) (region : Nat) : State :=
  if !isWriteOp c.op || slotsFree s (rankOf c.rel) (c.lines.filter (fun l => l.region = region)) then takePart s c region else s

/-- Acceptance of a header at its lead region, its refusal, or its wait (R154 to R157). -/
def acceptHeader (s : State) (ing : Nat) (w : Waiting) : State :=
  if (openCtx s (hSrc w.msg.h0) (hTag w.msg.h0)).isSome then
    let s := { s with tx := { s.tx with
      waiting := s.tx.waiting.filter (fun v => v.arr ≠ w.arr), dups := s.tx.dups + 1 } }
    c0Tx (refund s w) ing (hSrc w.msg.h0)
  else
    match verdict s w with
    | (s, .refuse st a) => refuseReq s w st a
    | (s', .accept exempt) =>
      match mapFa s.fab.windows (hAddr w.msg.h0 * 64) with
      | none => s
      | some m =>
        if poolFree s ing && (!isWriteOp (hOp w.msg.h0) ||
            slotsFree s (rankOf w.rel) ((newLines s w.msg.h0 m.cls 0).filter CtxLine.accepted)) then
          acceptReq s' w m exempt
        else s

/-- The next of an ingress at a region's pipeline, in arrival order: a part, or a header that it leads; a header that
another region leads is waited for (R157). -/
def acceptNext (s : State) (region ing : Nat) : State :=
  match nextPart s region ing, nextFor s region ing with
  | some c, some w => if c.arr < w.arr then acceptPart s c region else lead s w
  | some c, none => acceptPart s c region
  | none, some w => lead s w
  | none, none => s
where
  lead (s : State) (w : Waiting) : State :=
    if leadRegion s w.msg.h0 = region then acceptHeader s ing w else s

/-- A directory set one of whose slots fails its code: cleared to FREE and lost, C1 0x0602; the sweep covers it, in a new
pass when one runs (06 R199, R202). -/
def loseDirSet (r : Nat) (s : State) (set : Nat) : State :=
  if !ucOn s r || s.uc.reset != .none || 2 ^ dirK s ≤ set then s
  else
    let s := { s with uc := { s.uc with dir := s.uc.dir.filter (fun p => p.1 / 12 ≠ r * 2 ^ 19 + set) } }
    let u := ucReg s r
    let s := ucRegPut s r { u with
      lostSets := if u.lostSets.contains set then u.lostSets else set :: u.lostSets,
      lostNew := if u.sweep.isNone || u.lostNew.contains set then u.lostNew else set :: u.lostNew,
      sweep := if u.sweep.isNone then some 0 else u.sweep,
      known := u.known.filter (fun x => secSet s x ≠ set) }
    sliceFault s .c1 (16 * r + set % 16) 0x0602 2

/-- A released request is accepted or refused at its region pipeline (R156), whose directory lookups meet the sets whose
code fails. -/
def execRequestAccept (region ing : Nat) (badSets : List Nat) (s : State) : Host.Outcome State Fault Refusal :=
  whenLive s (fun s =>
    if pipesOpen s then settle (acceptNext (badSets.foldl (loseDirSet region) s) region ing) else s)

/-! ## Data and reservations -/

/-- A waiting header's data arrives before its acceptance. -/
def waitData (s : State) (ing : Nat) (src : Node) (tag : Tag) (data : List Line) : State :=
  let hit (w : Waiting) : Bool := w.ing = ing && w.step.isNone && !w.dataOk && hSrc w.msg.h0 == src && hTag w.msg.h0 == tag
    && data.length = dataLines w.msg.h0
  let put (w : Waiting) : Waiting := if hit w then { w with data := data, dataOk := true } else w
  let s := if s.tx.waiting.any hit then retLine s ing 3 data.length else s
  { s with tx := { s.tx with held := s.tx.held.map put, waiting := s.tx.waiting.map put } }

/-- The data of a write arrives: in its accepted context, or at its waiting header. -/
def writeData (s : State) (ing : Nat) (src : Node) (tag : Tag) (data : List Line) : State :=
  match s.tx.ctxs.find? (fun c => c.kind == .request && c.ing = ing && c.src == src && c.tag == tag &&
      c.phase == .working && isWriteOp c.op && !c.dataOk && c.lines.length = data.length) with
  | some c => settle (feedData (retLine s ing 3 data.length) c.idx data)
  | none => waitData s ing src tag data

/-- A write's data becomes complete and good (R166; 07 R221). -/
def execWriteDataComplete (ing : Nat) (src : Node) (tag : Tag) (data : List Line) (s : State) :
    Host.Outcome State Fault Refusal :=
  whenLive s (fun s => writeData s ing src tag data)

/-- A write whose data is not complete DATA_TIMEOUT after acceptance is abandoned with RETRY and a C0 event (R170). -/
def abandonLate (s : State) (i : Nat) : State :=
  match ctxGet s i with
  | some c =>
    if c.kind == .request && isWriteOp c.op && c.phase == .working && !c.dataOk &&
        expired s c.acceptedAt (us s.cfg.dataTimeout.toNat) then
      settle (c0Tx (endCtx s c stRetry) c.ing c.src)
    else s
  | none => s

def execDataTimeout (ctx : Nat) (s : State) : Host.Outcome State Fault Refusal :=
  whenLive s (fun s => abandonLate s ctx)

/-- The first reservation of a port is granted when the allotment has room (02 R59; 04 R131). -/
def reserveHead (s : State) (p : Nat) : State :=
  let q := if p = 4 then s.wp.allotQ else (port s p).allotQ
  let free := if p = 4 then s.wp.allotFree else (port s p).allotFree
  let waits := if p = 4 then s.wp.allotNext.isSome else (port s p).allotNext.isSome
  match q with
  | [] => s
  | a :: rest =>
    if a.lines ≤ free && !waits then
      let s := if p = 4 then { s with wp := { s.wp with allotQ := rest, allotFree := free - a.lines } }
               else modPort s p (fun x => { x with allotQ := rest, allotFree := free - a.lines })
      settle (modCtx s a.ctx (fun c => { c with reserved := true }))
    else s

def execAllotReserve (port : Nat) (s : State) : Host.Outcome State Fault Refusal :=
  if port < 5 then whenLive s (fun s => reserveHead s port) else .next s

/-- A returned line takes a snoop-reserve entry when one is free (07 R220). -/
def placeReserve (s : State) (region : Nat) : State :=
  match s.tx.resWait.find? (fun w => w.region = region && reserveFree s (physBlock s w.lblock) && budgetRank s region 5) with
  | some w =>
    let s := { s with tx := { s.tx with resWait := s.tx.resWait.erase w } }
    settle (refreshReads (placeEnt s w.lblock
      (snoopEnt s w.key w.ord w.data w.poison (hintAt s w.lblock w.key w.ord) w.ctx)) w.lblock w.key w.ord)
  | none => s

def execSnoopReservePlace (region : Nat) (s : State) : Host.Outcome State Fault Refusal :=
  whenLive s (fun s => placeReserve s region)

/-! ## Snoops and grants (R172 to R178) -/

/-- A back-invalidation of the region completes and frees its eviction-queue entry (R178). -/
def freeEviction (s : State) (region : Nat) : State :=
  match (chainHeads s).find? (fun it => it.region = region && snoopsOver s it && (match ctxGet s it.ctx with
    | some c => c.kind == .backInv
    | none => false)) with
  | some it => settle (evictionDone s it)
  | none => s

def execEvictionQueueFree (region : Nat) (s : State) : Host.Outcome State Fault Refusal :=
  whenLive s (fun s => freeEviction s region)

/-- Snoops of a waiting sector are sent (R158). -/
def execSnoopSectorAdmit (region : Nat) (s : State) : Host.Outcome State Fault Refusal :=
  whenLive s (fun s => settle (admitSector s region))

/-- A discarded response: malformed with its C0 event, or too late (R151, R177). -/
def dropResponse (s : State) (ing : Nat) (n : Node) (malformed : Bool) : State :=
  let s := { s with tx := { s.tx with rspDiscards := s.tx.rspDiscards + 1 } }
  if malformed then c0Tx s ing n else s

/-- Lines a snoop response returns, in ascending order, with the index of their data (R148). -/
def returned (h0 : Slot) : List (Nat × Nat) := (bitsSet (hDirty h0)).zipIdx

/-- An answer's dirty lines are merged, its announced WRBACKs serve or are awaited (R175, R176). -/
def takeAnswer (s : State) (n : Snoop) (m : Msg) : State :=
  let s := (returned m.h0).foldl (fun s p =>
    mergeDirty s n.ctx n.region n.sector p.1 ((m.data[p.2]?).getD 0) ((hPmask m.h0).getLsbD p.1)) s
  let (s, left) := (bitsSet (hWbp m.h0)).foldl (fun (acc : State × BitVec 4) i =>
    match waitingWb acc.1 n.node n.region n.sector i with
    | some w => (serveWb acc.1 w n i, acc.2)
    | none => (acc.1, setBit acc.2 i true)) (s, 0)
  let s := sampEnd (sampReady s n.node (BitVec.ofNat 16 n.ctx) true) n.node (BitVec.ofNat 16 n.ctx) true 15
  modSnoop s n (fun x => { x with answered := true, wbp := left, wbpSince := s.now })

/-- A snoop response (R172, R175 to R177). -/
def snoopAnswer (s : State) (ing : Nat) (m : Msg) : State :=
  let s := leaveIngress s ing m
  if !snpFieldsOk m then dropResponse s ing (hSrc m.h0) true
  else match s.tx.snoops.find? (fun n => n.ctx = (hTag m.h0).toNat && n.node == hSrc m.h0 && n.sent.isSome && !n.answered &&
      sectorFa s n.region n.sector = hAddr m.h0) with
    | some n => settle (takeAnswer s n m)
    | none => dropResponse s ing (hSrc m.h0) false

/-- Items of a context that wait for its GACK. -/
def gackItem (s : State) (i : Nat) : Option ChainItem :=
  s.tx.chain.find? (fun it => it.ctx = i && (match it.phase with
    | .gack _ => true
    | _ => false))

/-- A grant acknowledgement releases the sector's chain (R176). -/
def takeGack (s : State) (ing : Nat) (m : Msg) : State :=
  let s := leaveIngress s ing m
  if !(h0Clean m.h0) then dropResponse s ing (hSrc m.h0) true
  else match s.tx.ctxs.find? (fun c => c.kind == .request && c.src == hSrc m.h0 && c.tag == hTag m.h0 &&
      (gackItem s c.idx).isSome) with
    | some c => (match gackItem s c.idx with
      | some it => settle (cleanCtxs (dropItem s it))
      | none => s)
    | none => dropResponse s ing (hSrc m.h0) false

/-- A GACK absent SNOOP_TIMEOUT after the grant is taken as received, with a C0 event (R176). -/
def lateGack (s : State) (i : Nat) : State :=
  match gackItem s i, ctxGet s i with
  | some it, some c =>
    (match it.phase with
     | .gack (some t) =>
       if expired s t (us s.cfg.snoopTimeout.toNat) then settle (c0Tx (cleanCtxs (dropItem s it)) c.ing c.src) else s
     | _ => s)
  | _, _ => s

def execGackTimeout (ctx : Nat) (s : State) : Host.Outcome State Fault Refusal :=
  whenLive s (fun s => lateGack s ctx)

/-- A snoop unanswered SNOOP_TIMEOUT after it was sent is resolved without answer (R177). -/
def lateSnoop (s : State) (i : Nat) (node : Node) : State :=
  match s.tx.snoops.find? (fun n => n.ctx = i && n.node == node && !n.answered && !n.again && (match n.sent with
    | some t => expired s t (us s.cfg.snoopTimeout.toNat)
    | none => false)) with
  | some n => settle (resolveSnoop s n)
  | none => s

def execSnoopTimeout (ctx : Nat) (node : Node) (s : State) : Host.Outcome State Fault Refusal :=
  whenLive s (fun s => lateSnoop s ctx node)

/-- A WRBACK announced by WBP and absent SNOOP_TIMEOUT after the response: its lines are resolved, and the WRBACK makes
no write when it comes (R176, R177). -/
def lateWrback (s : State) (i : Nat) (node : Node) : State :=
  match s.tx.snoops.find? (fun n => n.ctx = i && n.node == node && n.answered && n.wbp ≠ 0 &&
      expired s n.wbpSince (us s.cfg.snoopTimeout.toNat)) with
  | some n =>
    let lines := bitsSet n.wbp
    let s := modSnoop s n (fun x => { x with wbp := 0 })
    let s := { s with tx := { s.tx with
      lateWb := s.tx.lateWb ++ lines.map (fun k => (node.toNat, n.region, n.sector, k)) } }
    settle (resolveLines s n lines)
  | none => s

def execWrbackWaitTimeout (ctx : Nat) (node : Node) (s : State) : Host.Outcome State Fault Refusal :=
  whenLive s (fun s => lateWrback s ctx node)

/-- A quarantined context becomes reusable (R177). -/
def endQuarantine (s : State) (i : Nat) : State :=
  match ctxGet s i with
  | some c =>
    (match c.quarantine with
     | some t => if t ≤ s.now then cleanCtxs (modCtx s i (fun c => { c with quarantine := none })) else s
     | none => s)
  | none => s

def execContextQuarantineEnd (ctx : Nat) (s : State) : Host.Outcome State Fault Refusal :=
  whenLive s (fun s => endQuarantine s ctx)

end Sys2Proof.Machine
end

