-- ==== Sys2Proof/Machine/SchedCore.lean ====
section
/-! DEFINITION. Choosing and issuing a command on a block's TSVs (07 R226 to R238): the work that may be issued, the
timing parameters, READ and WRITE modes, rank, row hits and age. -/

namespace Sys2Proof.Machine

/-! ## Timing parameters, in ticks (R230) -/

def tRCD : Nat := 16
def tRP : Nat := 15
def tRAS : Nat := 32
def tRC : Nat := 47
def tRRD : Nat := 2
def tFAW : Nat := 16
def tAECHO : Nat := 8
def tCL : Nat := 33
def tCWL : Nat := 5
def tCCD : Nat := 2
def tRTP : Nat := 6
def tWR : Nat := 15
def tECHO : Nat := 3
def tWTR : Nat := 6
def tRTW : Nat := 2
def tRFCpb : Nat := 120
def tCLONE : Nat := 45
def tSHUTTLE : Nat := 60
def tMODE : Nat := 10
def tXS : Nat := 150

/-! ## Work (R216) -/

/-- What a command on the TSVs, or a slice write, does. -/
inductive Cmd where
  | slice (e : WEnt)
  | rd (e : REnt)
  | base (e : WEnt)
  | wr (e : WEnt)
  | pwr (p : PoisonItem)
  | act (bank row : Nat)
  | pre (bank : Nat)
  | ref (bank : Nat)
  | rowop (r : RowOp)
  | preDie (die : Nat)
  | mode (die : Nat)
  deriving DecidableEq, Repr, Inhabited

/-- An item that waits for a row of a physical bank; rank doubled, so that the catch-up burst lies between 7 and 8. -/
structure Item where
  rank : Nat
  ord : Nat
  /-- an internal item: its place is just after that order position (R232) -/
  int : Bool
  at0 : Nat
  bank : Nat
  row : Nat
  wr : Bool
  cmd : Cmd
  deriving DecidableEq, Repr, Inhabited

/-- A read that nothing of its line holds back and that needs the array (R222, R240). -/
def readItem (s : State) (pb : Nat) (e : REnt) : Bool :=
  let k := blk s pb
  let lb := (logicalOf s pb).getD 0
  let es := earlier k e.key e.ord
  !e.issued && (match e.owner with
    | .rowFill => es.isEmpty && (bankOf k (physBank s pb (keyBank e.key))).row = some (keyRow e.key)
    | .ctx _ _ => !es.any waitsOn && !covers es && !poisonAny s lb e.key && !lostPending s lb e.key &&
        (frameOf s lb e.key).isNone
    | _ => es.isEmpty)

/-- A base read that may be issued (R223). -/
def baseItem (s : State) (pb : Nat) (e : WEnt) : Bool :=
  let k := blk s pb
  let lb := (logicalOf s pb).getD 0
  let es := (earlier k e.key e.ord).filter (fun x => !sameEnt x e)
  e.st == .base && !e.baseIssued && !(e.after && k.st == .serving) && !es.any waitsOn && (queueBase k e).isNone && (frameOf s lb e.key).isNone &&
    !poisonAny s lb e.key

/-- A write's WR has been issued and its column echo is awaited. -/
def awaitsEcho (k : Block) (ord key : Nat) : Bool := k.wrEcho.any (fun p => p.1 = ord && p.2.1 = key)

/-- A write that goes to a slice: its row has a frame, or gets one (06 R192). -/
def sliceBound (s : State) (pb : Nat) (e : WEnt) : Bool :=
  let lb := (logicalOf s pb).getD 0
  e.tgt != .dram && ((rowFrame s lb e.key).isSome || (allocs s e && (allocFrame s lb e.key).2.isSome))

/-- A write's rank, raised to that of a read that waits on it (R222, R233). -/
def rankRaised (k : Block) (e : WEnt) : Nat :=
  minNat e.rank ((k.rq.filter (fun r => r.key = e.key && e.ord < r.ord && !r.issued)).map REnt.rank)

/-- A poisoned write of the region's list may go: no earlier write of its line is pending (06 R210). -/
def poisonReady (s : State) (pb : Nat) (p : PoisonItem) : Bool :=
  physBlock s p.lblock = pb && !(blk s pb).wq.any (fun e => e.key = p.key && e.ord < p.ord) &&
    !awaitsEcho (blk s pb) p.ord p.key

/-- Place of a write among order positions (R232): a request's own, an internal entry's latest accepted before it. -/
def entPlace (e : WEnt) : Nat × Bool := if e.kind == .internal || e.kind == .victim then (e.pos, true) else (e.ord, false)
def readPlace (e : REnt) : Nat × Bool := if e.pool then (e.ord, false) else (e.pos, true)

/-- Items of a block that are pending in the sense of R233. -/
def blockItems (s : State) (pb : Nat) : List Item :=
  let k := blk s pb
  let item (key rank : Nat) (place : Nat × Bool) (at0 : Nat) (wr : Bool) (c : Cmd) : Item :=
    { rank := 2 * rank, ord := place.1, int := place.2, at0 := at0, bank := physBank s pb (keyBank key), row := keyRow key,
      wr := wr, cmd := c }
  (k.rq.filter (readItem s pb)).map (fun e => item e.key e.rank (readPlace e) e.at0 false (.rd e))
    ++ (k.wq.filter (baseItem s pb)).map (fun e => item e.key (rankRaised k e) (entPlace e) e.at0 false (.base e))
    ++ (k.wq.filter (fun e => performable s pb e && !awaitsEcho k e.ord e.key)).map (fun e =>
      item e.key (rankRaised k e) (entPlace e) e.at0 true (if sliceBound s pb e then .slice e else .wr e))
    ++ ((ucReg s (pb / 9)).poison.filter (poisonReady s pb)).map (fun p =>
      item p.key 6 (p.ord, false) s.uc.t0 true (.pwr p))

/-- A queued item, pending or waiting on ordering: rank, bank and row it is for (R234, R238).  One that a slice serves wants
no row; a row operation wants its source row open, a zero clone none. -/
def queued (s : State) (pb : Nat) : List (Nat × Nat × Nat) :=
  let k := blk s pb
  let lb := (logicalOf s pb).getD 0
  let at_ (rank key : Nat) : Nat × Nat × Nat := (rank, physBank s pb (keyBank key), keyRow key)
  (k.rq.filter (fun e => !e.issued && (frameOf s lb e.key).isNone)).map (fun e => at_ e.rank e.key)
    ++ (k.wq.filter (fun e => !awaitsEcho k e.ord e.key && !sliceBound s pb e)).map (fun e => at_ e.rank e.key)
    ++ ((ucReg s (pb / 9)).poison.filter (fun p => physBlock s p.lblock = pb && !awaitsEcho k p.ord p.key)).map (fun p =>
      at_ 6 p.key)
    ++ (k.rowOps.filter (fun r => r.issued.isNone)).map (fun r => (r.rank, r.bank, if r.kind = 2 then 65536 else r.src))

/-- Some queued item hits a row. -/
def rowWanted (s : State) (pb bank row : Nat) : Bool := (queued s pb).any (fun q => q.2.1 = bank && q.2.2 = row)

/-! ## READ and WRITE modes (R233) -/

def readyWrites (k : Block) : Nat := (k.wq.filter (fun e => e.st == .ready)).length

/-- Highest rank among the READY writes, pending or not. -/
def readyRank (k : Block) : Nat := minNat 100 ((k.wq.filter (fun e => e.st == .ready)).map (fun e => 2 * rankRaised k e))

/-- Highest rank, as the lowest number, among items. -/
def bestRank (l : List Item) : Nat := minNat 100 (l.map Item.rank)

/-- The mode after R233: WRITE or READ, and whether it is a drain. -/
def nextMode (s : State) (pb : Nat) (items : List Item) : Bool × Bool :=
  let k := blk s pb
  let ws := items.filter (fun i => i.wr)
  let rs := items.filter (fun i => !i.wr)
  let high := decide (s.cfg.wrHigh.toNat ≤ readyWrites k)
  let wins := decide (bestRank rs ≤ bestRank ws)
  if k.wmode then
    if ws.isEmpty || (!rs.isEmpty && bestRank rs < readyRank k) then (false, false)
    else if k.drain then (if readyWrites k ≤ s.cfg.wrLow.toNat then (false, false) else (true, true))
    else if high then (true, true)
    else if !rs.isEmpty && wins then (false, false)
    else (true, false)
  else if high && !ws.isEmpty && !(!rs.isEmpty && bestRank rs < readyRank k) then (true, true)
  else if !ws.isEmpty && (rs.isEmpty || !wins) then (true, false)
  else (false, false)

def setMode (s : State) (pb : Nat) (m : Bool × Bool) : State :=
  let s := if (blk s pb).wmode = m.1 then s else occ s 0x02B (pb / 9) (pb % 9) 1
  modBlk s pb (fun k => { k with wmode := m.1, drain := m.2 })

/-! ## Eligibility (R230, R232) -/

def dieFree (d : BDie) (t : Nat) : Bool := !d.selfRef && d.modeTill ≤ t

def actOk (k : Block) (pb bank t : Nat) : Bool :=
  let x := bankOf k bank
  let d := bdieOf k (dieOfBank pb bank)
  x.row.isNone && (x.preAt = 0 || x.preAt + tRP ≤ t) && (x.actAt = 0 || x.actAt + tRC ≤ t) && x.busyTill ≤ t && dieFree d t &&
    d.acts.all (fun a => a + tRRD ≤ t) && (d.acts.filter (fun a => t < a + tFAW)).length < 4

/-- The next CA slot of a tick; five slots in two ticks (R231). -/
def caSlotNo (k : Block) (t : Nat) : Nat := max k.caBusyTill ((5 * t + 1) / 2)

/-- Reads of two dies keep one idle beat between their data: a line's four beats fill a slot, so the next slot is too
early (R231). -/
def beatFree (k : Block) (die t : Nat) : Bool :=
  match k.rdDie with
  | some d => d = die || k.rdSlot + 2 ≤ caSlotNo k t
  | none => true

def colOk (k : Block) (pb bank t : Nat) (wr : Bool) : Bool :=
  let x := bankOf k bank
  x.echoOk && x.actAt + tRCD ≤ t && x.busyTill ≤ t && dieFree (bdieOf k (dieOfBank pb bank)) t &&
    (x.lastCol ≠ (if wr then 2 else 1) || x.colAt + tCCD ≤ t) &&
    (wr || beatFree k (dieOfBank pb bank) t) &&
    (if wr then k.rdEnd = 0 || k.rdEnd + tRTW ≤ t else k.wrEnd = 0 || k.wrEnd + tWTR ≤ t)

def preOk (k : Block) (pb bank t : Nat) : Bool :=
  let x := bankOf k bank
  x.row.isSome && x.actAt + tRAS ≤ t && (x.lastCol ≠ 1 || x.colAt + tRTP ≤ t) && (x.wrEnd = 0 || x.wrEnd + tWR ≤ t) &&
    x.busyTill ≤ t && dieFree (bdieOf k (dieOfBank pb bank)) t

/-- Banks of a block now in refresh. -/
def refreshing (k : Block) (t : Nat) : List Nat := (k.banks.filter (fun p => t < p.2.refTill)).map (fun p => p.1)

def refOk (k : Block) (pb bank t : Nat) : Bool :=
  let x := bankOf k bank
  x.row.isNone && (x.preAt = 0 || x.preAt + tRP ≤ t) && x.busyTill ≤ t && dieFree (bdieOf k (dieOfBank pb bank)) t &&
    (refreshing k t).length < 16 && !(refreshing k t).any (fun b => dieOfBank pb b = dieOfBank pb bank)

/-! ## Candidates -/

/-- A command that is eligible now, with what R232 compares. -/
structure Cand where
  rank : Nat
  hit : Bool
  ord : Nat
  int : Bool := false
  at0 : Nat
  cmd : Cmd
  deriving DecidableEq, Repr, Inhabited

/-- Older items of the same or a higher rank wait for another row of the bank (R235). -/
def otherRow (items : List Item) (i : Item) : Bool :=
  items.any (fun j => j.bank = i.bank && j.row ≠ i.row && j.rank ≤ i.rank && j.ord < i.ord && (match j.cmd with
    | .slice _ => false
    | _ => true))

/-- HIT_CAP applies to an item that hits the open row. -/
def capped (s : State) (k : Block) (items : List Item) (i : Item) : Bool :=
  s.cfg.hitCap.toNat ≤ (bankOf k i.bank).hits && otherRow items i

/-- The oldest item of a rank for a bank has waited longer than AGE_LIMIT (R232). -/
def aged (s : State) (items : List Item) (i : Item) : Bool :=
  match argMin Item.ord (items.filter (fun j => j.bank = i.bank && j.rank = i.rank)) with
  | some j => s.cfg.ageLimit.toNat < s.now - j.at0
  | none => false

/-- An item's command, if one is eligible. -/
def itemCand (s : State) (pb : Nat) (wmode : Bool) (items : List Item) (i : Item) : Option Cand :=
  let k := blk s pb
  let x := bankOf k i.bank
  let mk (hit : Bool) (c : Cmd) : Cand := { rank := i.rank, hit := hit, ord := i.ord, int := i.int, at0 := i.at0, cmd := c }
  match i.cmd with
  | .slice e => some (mk true (.slice e))
  | c =>
    match x.row with
    | none => if actOk k pb i.bank s.now && i.wr == wmode then some (mk false (.act i.bank i.row)) else none
    | some r =>
      if r = i.row then
        if i.wr == wmode && colOk k pb i.bank s.now i.wr && !capped s k items i then some (mk (!aged s items i) c) else none
      else if preOk k pb i.bank s.now && i.wr == wmode then some (mk false (.pre i.bank)) else none

/-- Refresh: forced at rank 4; a debt is paid in a burst between ranks 7 and 8 once ranks 5 to 7 want nothing of the
bank (R238). -/
def refreshCand (s : State) (pb : Nat) (wants : List (Nat × Nat × Nat)) (p : Nat × Bank) : Option Cand :=
  let k := blk s pb
  let x := p.2
  let mk (rank : Nat) : Option Cand :=
    if x.row.isSome then
      (if preOk k pb p.1 s.now then some { rank := rank, hit := false, ord := 0, at0 := 0, cmd := .pre p.1 } else none)
    else if refOk k pb p.1 s.now then some { rank := rank, hit := false, ord := 0, at0 := 0, cmd := .ref p.1 } else none
  if x.forced then mk 8
  else if 0 < x.debt && !wants.any (fun q => q.2.1 = p.1 && q.1 ≤ 7) then mk 15
  else none

/-- Banks of a block on a die with an open row. -/
def openOn (k : Block) (pb d : Nat) : List Nat :=
  (k.banks.filter (fun p => p.2.row.isSome && dieOfBank pb p.1 = d)).map (fun p => p.1)

/-- The refresh slot of a die takes its next correction: one to a REF, STROBE only where no read was in flight as the REF was
issued (R239; 15 R427; 21 R533). -/
def slotTakes (x : BDie) : Bool :=
  match x.modes with
  | [] => false
  | (sub, _) :: _ => if sub = 0x07 then x.refSlot = 2 else x.refSlot ≠ 0

/-- A correction that waits for its die: MODE within the refresh of one of its banks, at rank 9, its open rows closed
first (R235, R239). -/
def modeCand (s : State) (pb d : Nat) : Option Cand :=
  let k := blk s pb
  if !slotTakes (bdieOf k d) || !dieFree (bdieOf k d) s.now || !(refreshing k s.now).any (fun b => dieOfBank pb b = d) then
    none
  else
    let mk (c : Cmd) : Option Cand := some { rank := 18, hit := false, ord := 0, at0 := 0, cmd := c }
    if (openOn k pb d).isEmpty then mk (.mode d)
    else if (openOn k pb d).all (fun b => preOk k pb b s.now) then mk (.preDie d) else none

/-- Earlier work on the destination row of a row operation is over, and every earlier write of a row it copies (08 R256,
R257). -/
def rowClear (k : Block) (s : State) (pb : Nat) (r : RowOp) : Bool :=
  let hits (key : Nat) : Bool := physBank s pb (keyBank key) = r.dstBank && keyRow key = r.dst
  let src (key : Nat) : Bool := r.kind ≠ 2 && physBank s pb (keyBank key) = r.bank && keyRow key = r.src
  !k.wq.any (fun e => (hits e.key || src e.key) && e.ord < r.ord || e.kind == .rowHold && hits e.key && dirPending s e) &&
    !k.rq.any (fun e => hits e.key && e.ord < r.ord)

/-- A row operation: a zero clone on a closed bank; a clone or shuttle on its open source row, after its check read there
(08 R255, R256). -/
def rowCand (s : State) (pb : Nat) (r : RowOp) : Option Cand :=
  let k := blk s pb
  let x := bankOf k r.bank
  let mk (c : Cmd) : Option Cand := some { rank := 2 * r.rank, hit := false, ord := r.ord, at0 := 0, cmd := c }
  if r.issued.isSome || !rowClear k s pb r then none
  else if r.dstBank ≠ r.bank && (bankOf k r.dstBank).row.isSome then
    (if preOk k pb r.dstBank s.now then mk (.pre r.dstBank) else none)
  else if r.kind = 2 then
    (if x.row.isSome then (if preOk k pb r.bank s.now then mk (.pre r.bank) else none)
     else if refOk k pb r.bank s.now then mk (.rowop r) else none)
  else match x.row with
    | none => if actOk k pb r.bank s.now then mk (.act r.bank r.src) else none
    | some q =>
      if q ≠ r.src then (if preOk k pb r.bank s.now then mk (.pre r.bank) else none)
      else if r.checked && colOk k pb r.bank s.now false && (r.dstBank = r.bank || refOk k pb r.dstBank s.now) then mk (.rowop r)
      else none

/-- The order of R232 between two candidates: rank, then row hits, then age. -/
def candBefore (a b : Cand) : Bool :=
  if a.rank ≠ b.rank then a.rank < b.rank
  else if a.hit != b.hit then a.hit
  else if a.ord ≠ b.ord then a.ord < b.ord
  else if a.int != b.int then b.int
  else a.at0 < b.at0

def bestCand : List Cand → Option Cand
  | [] => none
  | c :: l => match bestCand l with
    | none => some c
    | some d => if candBefore d c then some d else some c

/-- A block that schedules requests; a stopped one issues refresh alone (R241). -/
def schedules (st : BState) : Bool := st == .serving || st == .leaving || st == .returning

def isRetiredBank (s : State) (pb bank : Nat) : Bool := (srBlk s pb).retired.getLsbD bank

/-- The first command under R232. -/
def chooseCand (s : State) (pb : Nat) : Option Cand :=
  let k := blk s pb
  let items := if schedules k.st then blockItems s pb else []
  let wants := if schedules k.st then queued s pb else []
  let refs := (k.banks.filter (fun p => !isRetiredBank s pb p.1)).filterMap (refreshCand s pb wants)
  let rows := if schedules k.st then k.rowOps.filterMap (rowCand s pb) else []
  bestCand (items.filterMap (itemCand s pb k.wmode items) ++ refs ++ rows ++ (List.range 16).filterMap (modeCand s pb))

/-! ## Issuing (R226 to R228) -/

/-- First word of a command. -/
def caWord (op die dbank line : Nat) (flag : Bool) : BitVec 16 :=
  BitVec.ofNat 16 (op + die * 8 + dbank * 128 + line * 1024 + b2n flag * 32768)

/-- CAP beside a word: its even parity in beat 0, 0 in beats 1 to 3 (R227). -/
def capOf (w : BitVec 16) : BitVec 4 := if parity w.toNat 16 then 1 else 0

/-- DBANK of a physical bank: 4 for the block's spare bank on the die. -/
def dbankOf (bank : Nat) : Nat := if bank < 64 then bank % 4 else 4

/-- Words driven in the next slots, one each. -/
def driveWords (s : State) (pb : Nat) (ws : List (BitVec 16)) : State :=
  modBlk s pb (fun k => { k with
    lastCa := (ws.zipIdx).map (fun p => { word := p.1, cap := capOf p.1, slot := caSlotNo k s.now + p.2 }),
    caBusyTill := caSlotNo k s.now + ws.length, lastBusy := s.now })

/-- A MODE word to a die with its operand in the NOP word that follows (R226; 15 R423). -/
def modeWords (d sub operand : Nat) : List (BitVec 16) := [caWord 7 d 0 sub false, BitVec.ofNat 16 (8 * operand)]

/-- Calibration as it is reapplied to a block: the substitution map, then each die's trims (R242; 15 R429; 21 R533). -/
def calWords (s : State) (pb : Nat) : List (BitVec 16) :=
  let x := srBlk s pb
  ((List.range 8).filter (fun k => x.tsvUsed.getLsbD k)).flatMap (fun k => (List.range 16).flatMap (fun d =>
      modeWords d 0x18 ((x.tsvTarget.toNat >>> (8 * k)) % 256 + k * 256))) ++
    (List.range 16).flatMap (fun d => (trimWords (trimV s pb d)).flatMap (fun p => modeWords d p.1 p.2))

/-- The commands of a die are remembered for a reissue, as far back as a read's data can lag. -/
def noteSent (s : State) (pb d : Nat) (c : Sent) : State :=
  modBlk s pb (fun k => putBdie k d { bdieOf k d with sent := ((s.now, c) :: (bdieOf k d).sent).take 64 })

/-- A slot that starts in this tick is free. -/
def slotFree (s : State) (pb : Nat) : Bool := 2 * caSlotNo (blk s pb) s.now < 5 * (s.now + 1)

def issueAct (s : State) (pb bank row : Nat) : State :=
  let d := dieOfBank pb bank
  let s := driveWords s pb [caWord 1 d (dbankOf bank) 0 false, BitVec.ofNat 16 row]
  let s := occ (noteSent s pb d (.act bank row)) 0x021 (pb / 9) (pb % 9) 1
  modBlk s pb (fun k =>
    let k := putBdie k d { bdieOf k d with acts := (s.now :: (bdieOf k d).acts).take 4 }
    modBank k bank (fun x => { x with row := some row, actAt := s.now, echoOk := false, hits := 0, lastCol := 0 }))

/-- PRE closes the row; `at_` is when the precharge begins. -/
def closeRow (k : Block) (bank at_ : Nat) : Block :=
  modBank k bank (fun x => { x with row := none, preAt := at_, echoOk := false, hits := 0 })

def issuePre (s : State) (pb bank : Nat) : State :=
  let d := dieOfBank pb bank
  modBlk (noteSent (driveWords s pb [caWord 4 d (dbankOf bank) 0 false]) pb d (.pre bank)) pb (fun k => closeRow k bank s.now)

/-- PRE with FLAG = 1: every bank of the block on a die. -/
def issuePreDie (s : State) (pb d : Nat) : State :=
  let bs := openOn (blk s pb) pb d
  modBlk (driveWords s pb [caWord 4 d 0 0 true]) pb (fun k => bs.foldl (fun k b => closeRow k b s.now) k)

/-- A read or base read of a die is in flight. -/
def readsOut (k : Block) (s : State) (pb d : Nat) : Bool :=
  let here (key : Nat) : Bool := dieOfBank pb (physBank s pb (keyBank key)) = d
  k.rq.any (fun e => e.issued && here e.key) || k.wq.any (fun e => e.baseIssued && here e.key)

/-- REF of the next 8 rows: one debt paid, or a forced refresh with the debt unchanged (R236, R238). -/
def issueRef (s : State) (pb bank : Nat) : State :=
  let d := dieOfBank pb bank
  let s := noteSent (driveWords s pb [caWord 5 d (dbankOf bank) 0 false]) pb d (.ref bank)
  let s := occ s 0x022 (pb / 9) (pb % 9) 1
  modBlk s pb (fun k => modBank (putBdie k d { bdieOf k d with refSlot := if readsOut k s pb d then 1 else 2 }) bank (fun x => { x with
      debt := if x.forced then x.debt else x.debt - 1, forced := false, busyTill := s.now + tRFCpb,
      refTill := s.now + tRFCpb, refRow := (x.refRow + 8) % 65536 }))

/-- MODE: the first correction that waits for the die, its operand in the NOP word that follows; the die is busy for tMODE
(R230, R239; 09 R286). -/
def issueMode (s : State) (pb d : Nat) : State :=
  match (bdieOf (blk s pb) d).modes with
  | [] => s
  | (sub, v) :: rest =>
    let s := noteSent (driveWords s pb [caWord 7 d 0 sub false, BitVec.ofNat 16 (v * 8)]) pb d (.mode sub v)
    let s := if sub = 0x07 then putStrobe s pb d v else s
    modBlk s pb (fun k => putBdie k d { bdieOf k d with modes := rest, modeTill := s.now + tMODE, refSlot := 0 })

/-- The next LOOPBACK word of a walk step, in a slot that nothing else wants (15 R425; 21 R533). -/
def driveLoop (s : State) (pb : Nat) : State :=
  let w := walkOf s pb
  match w.wire, w.loops with
  | some n, (d, on) :: rest =>
    if dieFree (bdieOf (blk s pb) d) s.now && (openOn (blk s pb) pb d).isEmpty then
      let s := noteSent (driveWords s pb [caWord 7 d 0 subLoop false, BitVec.ofNat 16 (8 * loopOperand n on)]) pb d
        (.mode subLoop (loopOperand n on))
      modBlk (putWalk s pb { w with loops := rest }) pb (fun k => putBdie k d { bdieOf k d with modeTill := s.now + tMODE })
    else s
  | _, _ => s

/-- RD and WR carry auto-precharge with IDLE_TIMER 0 and no queued hit left (R234). -/
def autoPre (s : State) (pb bank row : Nat) : Bool := s.cfg.idleTimer = 0 && !rowWanted s pb bank row

/-- A column command to the open row, its item marked already: driven, hit or miss counted, the idle timer restarted, the
row closed by auto-precharge. -/
def issueCol (s : State) (pb bank row line : Nat) (wr : Bool) : State :=
  let d := dieOfBank pb bank
  let auto := autoPre s pb bank row
  let slot := caSlotNo (blk s pb) s.now
  let miss := (bankOf (blk s pb) bank).hits = 0
  let s := noteSent (driveWords s pb [caWord (if wr then 3 else 2) d (dbankOf bank) line auto]) pb d (.col bank)
  let s := if miss then s else occ s 0x020 (pb / 9) (pb % 9) 1
  modBlk s pb (fun k =>
    let k := { k with
      rowHits := if miss then k.rowHits else satAdd 64 k.rowHits 1,
      rowMisses := if miss then satAdd 64 k.rowMisses 1 else k.rowMisses,
      rdEnd := if wr then k.rdEnd else s.now + tCL + 1, wrEnd := if wr then s.now + tCWL + 1 else k.wrEnd,
      rdSlot := if wr then k.rdSlot else slot, rdDie := if wr then k.rdDie else some d }
    let k := modBank k bank (fun x => { x with
      colAt := s.now, lastCol := if wr then 2 else 1, hits := x.hits + 1, idleAt := s.now,
      wrEnd := if wr then s.now + tCWL + 1 else x.wrEnd })
    if auto then closeRow k bank (max ((bankOf k bank).actAt + tRAS) (s.now + (if wr then tCWL + 1 + tWR else tRTP))) else k)

/-- How a sampled request is served from DRAM (19 R507). -/
def markServed (s : State) (pb bank : Nat) (i : Nat) : State :=
  sampCtx s i (if (bankOf (blk s pb) bank).hits = 0 then 3 else 2)

/-- Issuing a chosen command. -/
def issue (s : State) (pb : Nat) (c : Cmd) : State :=
  match c with
  | .slice e =>
    let s := match e.ctx with
      | some i => sampCtx s i 1
      | none => s
    settle (performEnt s pb e)
  | .rd e =>
    let bank := physBank s pb (keyBank e.key)
    let s := match e.owner with
      | .ctx i _ => markServed s pb bank i
      | _ => s
    let s := modBlk s pb (fun k => { k with rq := k.rq.map (fun x =>
      if x.owner == e.owner && x.key = e.key && x.ord = e.ord then { x with issued := true, at0 := s.now } else x) })
    issueCol s pb bank (keyRow e.key) (keyLine e.key) false
  | .base e =>
    let bank := physBank s pb (keyBank e.key)
    let s := occ s 0x025 (pb / 9) (pb % 9) 1
    let s := match e.ctx with
      | some i => markServed s pb bank i
      | none => s
    let s := modBlk (wqUpdate s pb e { e with baseIssued := true, baseAt := s.now }) pb (fun k => { k with rmw := satAdd 32 k.rmw 1 })
    issueCol s pb bank (keyRow e.key) (keyLine e.key) false
  | .wr e =>
    let s := modBlk s pb (fun k => { k with wrEcho := k.wrEcho ++ [(e.ord, e.key, s.now)] })
    issueCol s pb (physBank s pb (keyBank e.key)) (keyRow e.key) (keyLine e.key) true
  | .pwr p =>
    let s := modBlk s pb (fun k => { k with wrEcho := k.wrEcho ++ [(p.ord, p.key, s.now)] })
    issueCol s pb (physBank s pb (keyBank p.key)) (keyRow p.key) (keyLine p.key) true
  | .act bank row => issueAct s pb bank row
  | .pre bank => issuePre s pb bank
  | .ref bank => issueRef s pb bank
  | .preDie d => issuePreDie s pb d
  | .mode d => issueMode s pb d
  | .rowop r =>
    let t := if r.kind = 1 then tSHUTTLE else tCLONE
    let d := dieOfBank pb r.bank
    -- a shuttle's destination is named by FLAG, or else by the DBANK of the NOP word that follows (R226)
    let spare : Bool := 64 ≤ r.dstBank
    let ws := [caWord 6 d (dbankOf r.bank) r.kind spare, BitVec.ofNat 16 r.dst]
    let ws := if r.kind = 1 && !spare then ws ++ [caWord 0 d (dbankOf r.dstBank) 0 false] else ws
    let s := noteSent (driveWords s pb ws) pb d (.row r.bank r.dst r.dstBank)
    let s := occ s 0x02A (pb / 9) (pb % 9) 1
    modBlk s pb (fun k =>
      let k := { k with rowOps := k.rowOps.map (fun x => if x = r then { x with issued := some s.now } else x) }
      let k := closeRow k r.bank s.now
      let k := modBank k r.bank (fun x => { x with busyTill := s.now + t })
      if r.dstBank = r.bank then k else modBank k r.dstBank (fun x => { x with busyTill := s.now + t }))

/-! ## Internal work placed by its own commands (R216; 13 R372; 21 R524, R527) -/

/-- Pending work of a block of some rank or higher, forced refresh included. -/
def outranked (s : State) (pb rank : Nat) : Bool :=
  (blk s pb).banks.any (fun p => p.2.forced) ||
    (schedules (blk s pb).st && (blockItems s pb).any (fun i => i.rank ≤ 2 * rank))

/-- n lines fit the throttle's budget, more than a window's being placed through the windows since the work waits. -/
def budgetRun (s : State) (r n since : Nat) : Bool :=
  let m := 977 * (zone s r).t
  (zone s r).t ≥ 16 || (if n ≤ m then placedNow s r + n ≤ m
    else n + placedNow s r ≤ m * (windowOf s.now + 1 - windowOf since))

/-- Internal work of a rank may place n lines in a block: no eligible work of a higher rank waits there, but that rank 7
yields the progress reserve to ranks 8, 10 and 11 after 10 µs; the internal pools and the budget have room.  The work is
done in one event and holds no entry after it (DEDUCED, log 205). -/
def mayRun (s : State) (pb rank n since : Nat) : Bool :=
  !outranked s pb 6 && !(lowWork s pb).any (fun p => p.1 < rank) && rqIntFree s pb && wqIntFree s pb &&
    budgetRun s (pb / 9) n since && (!outranked s pb 7 || (waited s since (us 10) && n ≤ resvLeft s pb since))

/-- What the placement of n such lines takes: budget, and reserve when it passes rank 7. -/
def runLines (s : State) (pb n : Nat) : State :=
  let s := if outranked s pb 7 then takeResv s pb n else s
  let m := 977 * (zone s (pb / 9)).t
  countLines s (pb / 9) (if (zone s (pb / 9)).t ≥ 16 then n else min n (m - placedNow s (pb / 9)))

/-! ## A CA slot -/

/-- Row-fill reads are given up once their row has closed (06 R193). -/
def dropFills (s : State) (pb : Nat) : State :=
  let k := blk s pb
  if k.rq.any (fun e => e.owner == .rowFill && !e.issued) then
    modBlk s pb (fun k => { k with rq := k.rq.filter (fun e => e.owner != .rowFill || e.issued ||
      (bankOf k (physBank s pb (keyBank e.key))).row = some (keyRow e.key)) })
  else s

/-- One CA slot of a block (R231 to R233); a slot nothing else takes carries a walk's LOOPBACK words. -/
def caSlot (s : State) (pb : Nat) : State :=
  if !slotFree s pb then s
  else
    let s := dropFills s pb
    let s := if schedules (blk s pb).st then setMode s pb (nextMode s pb (blockItems s pb)) else s
    if (blk s pb).st == .selfRefresh || (blk s pb).st == .bist || (blk s pb).st == .retired then s
    else match chooseCand s pb with
      | some c => issue s pb c.cmd
      | none => driveLoop s pb

end Sys2Proof.Machine
end

