-- ==== Sys2Proof/Machine/Undercoat.lean ====
section
/-! DEFINITION. The Undercoat's own events: tag walk, hint sweep, slice loss and domain reset (06 R191, R199, R202, R207 to
R211). -/

namespace Sys2Proof.Machine

/-! ## Tag walk (R191) -/

/-- An entry the walk cannot correct: its row is named by the frame's header, or the region is lost.  A header that no
allocation has written yet names no row: it fails like one whose check does (DESIGN CHOICE, log 187). -/
def lostTag (s : State) (r set way : Nat) (hdrLost : Bool) : State :=
  if hdrLost then regionFault s .c3 r 0x0605 0
  else
    match (tagGet s r set way).hdr with
    | some rid => sliceFault (frameFree (poisonRow s r rid.toNat) r set way) .c2 (sliceOf r set way) 0x0603 1
    | none => regionFault s .c3 r 0x0605 0

/-! ## Hint sweep (R202) -/

/-- Sectors of a region. -/
def sectorCount : Nat := 2 ^ 28

/-- The next UNKNOWN sector at or above the pointer: in a pass over the whole region the first among the sectors past the
entries and the resolved ones, else the lowest of the lost sets' sectors. -/
def nextUnknown (s : State) (region p : Nat) : Option Nat :=
  let u := ucReg s region
  if u.sweepAll then
    ((List.range (u.known.length + s.uc.dir.length + 1)).map (fun i => p + i)).find? (fun x => x < sectorCount && isUnknown s region x)
  else
    let sets := u.lostSets ++ u.lostMod.flatMap (fun m => (List.range (2 ^ dirK s / 16)).map (fun i => 16 * i + m))
    let c := (sets.flatMap (fun set => (List.range (2 ^ (28 - dirK s))).map (sectorOf s set))).filter (fun x =>
      p ≤ x && isUnknown s region x)
    argMin (fun x => x) c

/-- A pass ends; sets lost while it ran start another (R202). -/
def endPass (s : State) (region : Nat) : State :=
  let u := ucReg s region
  ucRegPut s region
    { u with sweep := if u.lostNew.isEmpty && u.lostModNew.isEmpty then none else some 0, sweepAll := false,
             lostSets := u.lostNew, lostNew := [], lostMod := u.lostModNew, lostModNew := [],
             known := u.known.filter (fun x => u.lostNew.contains (secSet s x) || u.lostModNew.contains (secSet s x % 16)) }

/-- Quarter-bytes per tick of the Deliverable Floor, in sixteenths of which SWEEP_SHARE counts: the sweep reads at most that
much in each window of 1,000 ticks, 1,024 quarter-bytes a sector (R202; the window is a DESIGN CHOICE, log 15). -/
def sweepRoom (s : State) (region : Nat) : Bool :=
  let n := (List.range 4).foldl (fun n r =>
    let u := ucReg s r
    if u.sweepWin = windowOf s.now then n + u.sweepRead else n) 0
  (n + 1) * 1024 * 16 ≤ s.cfg.sweepShare.toNat * dfNow s * 1000 && (ucReg s region).sweep.isSome

/-- A sector's metadata is read: the pointer moves on, the sector is counted. -/
def sweepPast (s : State) (region sec : Nat) : State :=
  let u := ucReg s region
  let w := windowOf s.now
  ucRegPut s region { u with
    sweep := some (sec + 1), sweepWin := w, sweepRead := if u.sweepWin = w then u.sweepRead + 1 else 1, sweepAt := s.now }

/-- The sweep reads one sector's metadata: four lines at rank 8 of its block (07 R216).  A sector with a request in progress
is waited for, as the broadcast's place in its chain would be. -/
def sweepStep (s : State) (region : Nat) : State :=
  let u := ucReg s region
  match u.sweep with
  | none => s
  | some p =>
    match nextUnknown s region p with
    | none => endPass s region
    | some sec =>
      let pb := physBlock s (sectorLine region sec 0).1
      if s.tx.chain.any (fun c => c.region = region && c.sector = sec) || !sweepRoom s region || !mayRun s pb 8 4 u.sweepAt then s
      else if sectorHinted s region sec then
        (if poolFree s 5 then broadcast (runLines (sweepPast s region sec) pb 4) region sec none else s)
      else markKnown (runLines (sweepPast s region sec) pb 4) region sec

def execHintSweepRead (region : Nat) (s : State) : Host.Outcome State Fault Refusal :=
  if region < 4 then
    whenLive s (fun s => if ucUsable s region && (!regionStopped s region || resetting s region) && s.heat.stop == .running then settle (sweepStep s region) else s)
  else .next s

/-- Bits of a frame line that its cells have flipped: symbols and the bits of each. -/
def flipFrame (r set way : Nat) (s : State) (e : Nat × Nat × BitVec 8) : State :=
  framePut s r set way e.1 (frameCw s r set way e.1 ^^^ BitVec.ofNat 576 (e.2.2.toNat * 2 ^ (8 * e.2.1)))

/-- One entry of the walk: read, corrected, or lost; its frame sound, or judged permanently faulty.  `errs` are the errors
that the cells of the frame have taken since the walk last reached it: line, symbol, bits (DESIGN CHOICE, log 189). -/
def execTagWalk (region set way : Nat) (lost hdrLost faulty : Bool) (errs : List (Nat × Nat × BitVec 8)) (s : State) :
    Host.Outcome State Fault Refusal :=
  if region < 4 ∧ way < 16 ∧ errs.all (fun e => e.1 < 32 && e.2.1 < 72) then
    whenLive s (fun s =>
      if ucUsable s region && set < cSets s then
        let s := errs.foldl (flipFrame region set way) (ucRegPut s region { ucReg s region with walk := set * 16 + way })
        let s := if lost then lostTag s region set way hdrLost else s
        if faulty then settle (faultyFrame s region set way) else if lost then settle s else s
      else s)
  else .next s

/-! ## Domain reset (R209 to R211) -/

/-- Lines the tags show DIRTY in a region, as poisoned writes ordered at t0. -/
def dirtyItems (s : State) (r : Nat) : List PoisonItem :=
  (s.uc.tags.filter (fun p => p.1 / 65536 = r && p.2.dirty ≠ 0)).flatMap (fun p =>
    (bitsSet p.2.dirty).map (fun n =>
      let l := rowLine r p.2.rowId.toNat n
      { lblock := l.1, key := l.2, ord := s.tx.nextOrd }))

/-- What a domain reset does to one region at t0. -/
def resetRegion (s : State) (r : Nat) : State :=
  if !ucOn s r then s
  else
    let items := dirtyItems s r
    let s := restartRings s r
    let u := ucReg s r
    ucRegPut s r { u with
      poison := u.poison ++ items, known := [], lostSets := [], lostNew := [], lostMod := [], lostModNew := [], sweep := some 0,
      sweepAll := true }

/-- A domain reset is decided (t0). -/
def startUcReset (s : State) : State :=
  if s.uc.reset != .none || !s.cfg.ucEnable then s
  else
    let pois := (List.range 4).any (fun r => ucOn s r && (!(dirtyItems s r).isEmpty ||
      (runsIn s r).any inUnit))
    let s := (s.test.runs.filter runOpen).foldl (fun s t => endRun (poisonTestRows s t) t.id .incomplete) s
    let s := (List.range 4).foldl resetRegion s
    let s := { s with
      tx := { s.tx with nextOrd := s.tx.nextOrd + 1 },
      uc := { s.uc with dir := [], reset := .decided, t0 := s.now, epoch := s.uc.epoch + 1 } }
    settle (chipFault s (if pois then .c2 else .c1) 6 0x0604 0)

/-- The slice is retired instead of causing a reset: it failed within the last second (R209), or it fails to acknowledge
after a reset, found within 2.5 µs of the slices' return (R207). -/
def failedLately (s : State) (slice : Nat) : Bool :=
  s.uc.returned.any (fun t => s.now ≤ t + 2500) || (match s.uc.lastReset.find? (fun p => p.1 = slice) with
    | some p => s.now < p.2 + ms 1000
    | none => false)

/-- A slice does not acknowledge: a domain reset, or its loss when it failed within the last second (R209). -/
def sliceTimeout (s : State) (slice : Nat) (readable : Bool) : State :=
  if !ucOn s (slice / 16) then s
  else
    if failedLately s slice then settle (sliceLoss s slice readable)
    else if s.uc.reset != .none then s
    else
      let s := { s with uc := { s.uc with lastReset := (slice, s.now) :: s.uc.lastReset.filter (fun p => p.1 ≠ slice) } }
      startUcReset s

def execUcSliceTimeout (slice : Nat) (readable : Bool) (s : State) : Host.Outcome State Fault Refusal :=
  if slice < 64 then whenLive s (fun s => sliceTimeout s slice readable)
  else .next s

/-- The oscillator is found stopped or off frequency (R209). -/
def execUcOscFault (s : State) : Host.Outcome State Fault Refusal :=
  whenLive s (fun s => startUcReset s)

/-- t0 + 0.5 µs: the domain is held in reset. -/
def execUcResetHold (s : State) : Host.Outcome State Fault Refusal :=
  whenLive s (fun s =>
    if s.uc.reset = .decided ∧ waited s s.uc.t0 500 then { s with uc := { s.uc with reset := .held } } else s)

/-- t0 + 5 µs: oscillator stable. -/
def execUcResetOscStable (s : State) : Host.Outcome State Fault Refusal :=
  whenLive s (fun s =>
    if s.uc.reset = .held ∧ waited s s.uc.t0 (us 5) then { s with uc := { s.uc with reset := .stable } } else s)

/-- A Hatch command that waited for a later step now has its result: status, payload, DONE and ERR_AT. -/
def hatchResult (s : State) (h status : Nat) (payload : List (BitVec 8)) (done errAt : Nat) : State :=
  let x := hatch s h
  if x.st == .busy then putHatch s h { x with result := some (status, payload, done, errAt), waiting := false } else s

/-- Hatches whose command of this opcode waits. -/
def waitingFor (s : State) (op : Nat) : List Nat :=
  (List.range 16).filter (fun h => (hatch s h).waiting && leNat (bmRead (hatch s h).copy 0 2) = op)

/-- t0 + 11 µs: directory and tags cleared, shadow discarded, slices back empty, the sweep starts; UC_RESET has its
answer (17 R468). -/
def slicesReturn (s : State) : State :=
  let s := { s with uc := { s.uc with
    reset := .none, dir := [], frames := [], shadow := [], returned := some s.now,
    tags := s.uc.tags.foldl (fun m p =>
      smSet (tagInit (p.1 % 16)) m p.1 { p.2 with valid := 0, dirty := 0, busy := false, hdr := none }) s.uc.tags } }
  settle ((waitingFor s 0x0306).foldl (fun s h => hatchResult s h 0 [] 0 0xFFFFFFFF) s)

def execUcResetSlicesReturn (s : State) : Host.Outcome State Fault Refusal :=
  whenLive s (fun s => if s.uc.reset = .stable ∧ waited s s.uc.t0 (us 11) then slicesReturn s else s)

end Sys2Proof.Machine
end

