-- ==== Sys2Proof/Machine/TwoCore.lean ====
section
/-! DEFINITION. Requests to the two-wire bus (20 R513 to R515): records of the calibration store, image commands of
14 R412, regulator requests; and what their completion does. -/

namespace Sys2Proof.Machine

/-- The 7-bit address of a transaction (20 R513). -/
def twAddr (s : State) : TwKind → Nat
  | .eeWrite a _ => 0x50 + a / 2 ^ 20
  | .eeRead a _ => 0x50 + a / 2 ^ 20
  | .sensor i _ _ => (smGet (BitVec.ofNat 7 (0x48 + i)) s.tw.sensorAddr i).toNat
  | _ => s.tw.regAddr.toNat

/-- A request queued. -/
def twAsk (s : State) (cls : Nat) (kind : TwKind) (who : TwFor) : State :=
  { s with tw := { s.tw with waiting := s.tw.waiting ++ [{ cls := cls, kind := kind, who := who, addr := twAddr s kind, attempts := 0 }] } }

/-- A request put before those that wait. -/
def twFront (s : State) (t : TwTrans) : State :=
  { s with tw := { s.tw with waiting := { t with addr := twAddr s t.kind } :: s.tw.waiting } }

/-- Some request of a requester is on the bus, in a write cycle, or waiting. -/
def twBusyFor (s : State) (who : TwFor) : Bool :=
  s.tw.waiting.any (fun t => t.who == who) || s.tw.polls.any (fun p => p.1.who == who) ||
    (match s.tw.cur with
     | some t => t.who == who
     | none => false)

def twDrop (s : State) (who : TwFor) : State :=
  { s with tw := { s.tw with waiting := s.tw.waiting.filter (fun t => t.who != who) } }

/-! ## Records (14 R413, R414) -/

/-- The record in force of a type. -/
def recOf (s : State) (typ : Nat) : StoreRec :=
  if typ = 1 then s.img.storeRec else if typ = 2 then s.img.calRec else s.img.wearRec

def recPut (s : State) (typ : Nat) (r : StoreRec) : State :=
  if typ = 1 then { s with img := { s.img with storeRec := r } }
  else if typ = 2 then { s with img := { s.img with calRec := r } } else { s with img := { s.img with wearRec := r } }

def recWho (typ : Nat) : TwFor := if typ = 1 then .storeRoom else if typ = 2 then .calibration else .wear

/-- The record after its next write: the other copy, SEQ one higher. -/
def recNext (r : StoreRec) : StoreRec := { seq := r.seq + 1, copy := 1 - r.copy, valid := true }

/-- A record write queued: the body pages first, the header page last. -/
def askRecord (s : State) (typ : Nat) (body : List (BitVec 8)) : State :=
  let r := recNext (recOf s typ)
  let b := recCopy typ r.seq.toNat body
  let a := recBase typ r.copy
  let p := eePage s
  let s := if b.length ≤ p then s else twAsk s 3 (.eeWrite (a + p) (b.drop p)) (recWho typ)
  twAsk s 3 (.eeWrite a (b.take p)) (recWho typ)

/-- Repairs past the 880 entries a record holds are not persisted. -/
def repairsFit (s : State) : Bool := ((List.range 36).flatMap (repairEntries s)).length ≤ 880

/-- A record wholly written. -/
def recWritten (s : State) (typ : Nat) : State :=
  if twBusyFor s (recWho typ) then s
  else
    let s := recPut s typ (recNext (recOf s typ))
    if typ = 1 then
      { s with store := { s.store with
          unsaved := if s.store.saving = some s.store.seq && repairsFit s then false else s.store.unsaved, saving := none } }
    else s

/-- A record write given up: it is made again later. -/
def recFailed (s : State) (typ : Nat) : State :=
  let s := twDrop s (recWho typ)
  if typ = 1 then { s with store := { s.store with saving := none } }
  else if typ = 2 then { s with cal := { s.cal with moved := true } } else s

/-! ## Image commands (14 R412) -/

/-- The slot that did not win at the last load; slot B under base-coat defaults. -/
def standby (s : State) : Nat := if s.vault.imgSlot = 1 then 0 else 1

/-- The image command of a Hatch is over. -/
def imgEnd (s : State) (h status : Nat) (payload : List (BitVec 8)) (done : Nat) : State :=
  let s := hatchResult s h status payload done 0xFFFFFFFF
  { s with img := { s.img with eeJob := none } }

/-- IMAGE_COMMIT after the read-back: the checks of R409 but COMMIT, and SEQ above the SEQ of the last winner. -/
def imgCheck (s : State) (h : Nat) : State :=
  let b := slotBase s (standby s)
  if slotSound s b ∧ s.vault.imgSeq.toNat < hdrSeq s b then
    twAsk s 4 (.eeWrite (b + 60) (leBytes 0x5A3CC3A5 4)) (.hatch h)
  else imgEnd s h 2 [] 0

/-- The last transaction of an image command has completed. -/
def imgFinish (s : State) (h : Nat) (wrote : Bool) : State :=
  match s.img.eeJob with
  | none => s
  | some j =>
    if j.hatch ≠ h ∨ twBusyFor s (.hatch h) then s
    else if j.opcode = 0x0510 then imgEnd s h 0 [BitVec.ofNat 8 (standby s)] 0
    else if j.opcode = 0x0511 then imgEnd s h 0 [] j.done
    else if j.opcode = 0x0512 then
      (if wrote then imgEnd { s with img := { s.img with session := none } } h 0 [] 0 else imgCheck s h)
    else if j.opcode = 0x0513 then
      let (st, hh, w) := match s.img.session with
        | some x => (1, x.hatch, x.written)
        | none => (0, 0, 0)
      imgEnd s h 0 (leBytes st 1 ++ leBytes (standby s) 1 ++ leBytes hh 2 ++ leBytes w 4 ++
        bmRead s.img.eeprom (slotBase s 0) 64 ++ bmRead s.img.eeprom (slotBase s 1) 64) 0
    else imgEnd s h 0 (bmRead s.img.eeprom j.done j.total) 0

/-- An image command stops part-way: TEMP_RANGE, or ABORTED, with the bytes written. -/
def imgStop (s : State) (h status : Nat) : State :=
  let d := match s.img.eeJob with
    | some j => if j.opcode = 0x0511 then j.done else 0
    | none => 0
  let b := match s.img.eeJob with
    | some j => j.opcode == 0x0510
    | none => false
  let s := if b then { s with img := { s.img with session := none } } else s
  imgEnd (twDrop s (.hatch h)) h status [] d

/-! ## Completion and failure (20 R514, R517) -/

/-- A page written: the image command's and the session's counts. -/
def pageDone (s : State) (t : TwTrans) (n : Nat) : State :=
  match t.who, s.img.eeJob with
  | .hatch _, some j =>
    if j.opcode = 0x0511 then
      { s with img := { s.img with
          eeJob := some { j with done := j.done + n },
          session := s.img.session.map (fun x => { x with written := x.written + n }) } }
    else s
  | _, _ => s

/-- What an access leaves to do after its first transaction. -/
def twRest (s : State) (t : TwTrans) : Option TwTrans :=
  let n := twChunk s t.kind
  match t.kind with
  | .eeWrite a d => if n < d.length then some { t with kind := .eeWrite (a + n) (d.drop n), attempts := 0 } else none
  | .eeRead a l => if n < l then some { t with kind := .eeRead (a + n) (l - n), attempts := 0 } else none
  | _ => none

/-- The requester is told of a whole access. -/
def twDone (s : State) (t : TwTrans) : State :=
  let wrote := match t.kind with
    | .eeWrite _ _ => true
    | _ => false
  match t.who with
  | .storeRoom => recWritten s 1
  | .calibration => recWritten s 2
  | .wear => recWritten s 3
  | .hatch h => imgFinish s h wrote
  | _ => s

/-- After one transaction: the rest of its access goes back to the front, or its requester is told. -/
def twNext (s : State) (t : TwTrans) : State :=
  match twRest s t with
  | some r => twFront s r
  | none => twDone s t

/-- An access fails for good: the conditions of R523, and the requester. -/
def twGiveUp (s : State) (t : TwTrans) : State :=
  let s := match t.kind with
    | .voutCommand _ => chipFault s .c1 15 0x1404 0
    | _ => c0 s 15 0x1402 0 0
  match t.who with
  | .storeRoom => recFailed s 1
  | .calibration => recFailed s 2
  | .wear => recFailed s 3
  | .hatch h => imgStop s h 10
  | .larder => { s with tw := { s.tw with larderRead := [] } }
  | .stack => s

/-- One attempt failed: the transaction is retried from its first byte, at most three times. -/
def twFailed (s : State) (t : TwTrans) : State :=
  let t := { t with attempts := t.attempts + 1 }
  if t.attempts < 4 then twFront s t else twGiveUp s t

/-! ## Resets (20 R521; 16 R450) -/

/-- t0 of a retaining reset: waiting transactions of classes 3 to 5 are dropped. -/
def twResetT0 (s : State) : State :=
  let drop := s.tw.waiting.filter (fun t => 3 ≤ t.cls)
  let s := { s with tw := { s.tw with waiting := s.tw.waiting.filter (fun t => t.cls < 3) } }
  drop.foldl (fun s t => match t.who with
    | .storeRoom => recFailed s 1
    | .calibration => recFailed s 2
    | _ => s) s

/-- te: the controller stops at the next byte boundary. -/
def twResetTe (s : State) : State := { (twRelease s) with store := { s.store with saving := none } }

end Sys2Proof.Machine
end

