-- ==== Sys2Proof/Machine/HatchCore.lean ====
section
/-! DEFINITION. The Hatches (17 R458 to R466): rings, checks of a request, execution and answers. -/

namespace Sys2Proof.Machine

/-! ## Requests (R462) -/

def hatchOn (s : State) (h : Nat) : Bool := h < 16 && s.mg.hatchEn.getLsbD h

/-- n bytes of the executing request from offset i. -/
def reqNat (s : State) (h i n : Nat) : Nat := leNat (bmRead (hatch s h).copy i n)
def hOpcode (s : State) (h : Nat) : Nat := reqNat s h 0 2
def hLength (s : State) (h : Nat) : Nat := reqNat s h 4 2 % 4096
/-- n bytes of the payload from offset i. -/
def pl (s : State) (h i n : Nat) : Nat := reqNat s h (32 + i) n
def plBytes (s : State) (h i n : Nat) : List (BitVec 8) := bmRead (hatch s h).copy (32 + i) n

/-! ## The command set (R468) -/

def inRange (a lo hi : Nat) : Bool := lo ≤ a && a ≤ hi

def opListed (op : Nat) : Bool :=
  [0x0201, 0x0202, 0x0210, 0x0211, 0x0212, 0x0213].contains op || inRange op 0x0101 0x0104 || inRange op 0x0230 0x0235 ||
    inRange op 0x0301 0x0307 || inRange op 0x03F0 0x03FF || inRange op 0x0401 0x0403 || inRange op 0x0501 0x0506 ||
    inRange op 0x0510 0x0514 || inRange op 0x0601 0x060A || inRange op 0x0701 0x0703 || inRange op 0x0801 0x0805

/-- Executed by Strongroom (R465). -/
def opStrong (op : Nat) : Bool :=
  op / 256 = 1 || op / 256 = 5 || op / 256 = 8 || inRange op 0x0230 0x0235

/-- A command of the fabric manager: its Hatch, rung by its node (11 R329). -/
def fromFm (s : State) (h : Nat) : Bool := h = s.acc.fmHatch.toNat && (hatch s h).ringer == s.acc.fmNode

/-- The Hatch column of R468. -/
def hatchMay (s : State) (h op : Nat) : Bool :=
  if op = 0x0202 || inRange op 0x0210 0x0213 || inRange op 0x0230 0x0235 || op / 256 = 5 || op = 0x0603 then fromFm s h
  else if [0x0303, 0x0305, 0x0306, 0x0609].contains op then fromFm s h || h = 0
  else if op / 256 = 8 then h = 0
  else true

/-- Bytes of an entry of a table command: routes, windows, masters, WCLASS, bulk fields. -/
def tblSize (t : Nat) : Nat := if t = 0 then 2 else if t = 1 then 16 else if t = 2 then 8 else if t = 3 then 1 else 8

/-- Payload bytes a command's layout requires (R469). -/
def reqBytesOf (s : State) (h op : Nat) : Nat :=
  if [0x0104, 0x0232, 0x0234, 0x0235, 0x0303, 0x0305, 0x0307, 0x0503, 0x0504, 0x0505, 0x0506, 0x0602, 0x0604, 0x0605,
      0x0608, 0x060A, 0x0801, 0x0201].contains op then 4
  else if [0x0103, 0x0211, 0x0231, 0x0609, 0x0701].contains op then 8
  else if op = 0x0202 ∨ op = 0x0603 then 16
  else if op = 0x0514 then 12
  else if op = 0x0301 then 32
  else if op = 0x0210 then 8 + pl s h 4 2 * tblSize (pl s h 0 1)
  else if op = 0x0230 then 8 + pl s h 4 2 * (if pl s h 0 1 = 0 then 1 else 16)
  else if op = 0x0502 then 8 + 4 * (pl s h 4 2 + pl s h 1 1 % 2)
  else if op = 0x0511 ∨ op = 0x0802 then 8 + pl s h 4 4
  else 0

/-! ## Results and answers (R460, R463, R464) -/

/-- A command's result with a status and no payload. -/
def ans (s : State) (h status : Nat) : State := hatchResult s h status [] 0 0xFFFFFFFF
def ansOk (s : State) (h : Nat) (p : List (BitVec 8)) : State := hatchResult s h 0 p 0 0xFFFFFFFF
/-- MALFORMED at a payload offset. -/
def ansBad (s : State) (h off : Nat) : State := hatchResult s h 2 [] 0 (32 + off)

/-- The command's answer waits for a later step. -/
def hatchWait (s : State) (h : Nat) : State := putHatch s h { hatch s h with waiting := true }

/-- The response with its header. -/
def rspBytes (s : State) (h status : Nat) (p : List (BitVec 8)) (done errAt : Nat) : List (BitVec 8) :=
  let x := hatch s h
  let words := (p.length + 3) / 4
  leBytes (hOpcode s h) 2 ++ leBytes x.seq.toNat 2 ++ leBytes words 2 ++ leBytes status 1 ++ leBytes (b2n x.exec) 1 ++
    leBytes done 4 ++ leBytes (if status = 2 then errAt else 0xFFFFFFFF) 4 ++ leBytes s.now 8 ++ leBytes 0 8 ++ p

/-- The response is written and the Hatch is DONE. -/
def answerHatch (s : State) (h : Nat) : State :=
  let x := hatch s h
  match x.result with
  | some (status, p, done, errAt) =>
    if x.st != .busy then s
    else
      let s' := putHatch s h { x with
        st := .done, rsp := bmWrite [] 0 (rspBytes s h status p done errAt), result := none, waiting := false }
      let s' := occ s' 0x105 7 0xF 1
      if x.notify then
        notice s' 0x1180 (h + status * 2 ^ 8 + x.seq.toNat * 2 ^ 16 + hOpcode s h * 2 ^ 32)
      else s'
  | none => s

/-- A busy Hatch is answered ABORTED at once, with units done. -/
def abortHatch (s : State) (h done : Nat) : State :=
  let x := hatch s h
  if x.st == .busy && x.result.isNone then answerHatch (hatchResult s h 10 [] done 0xFFFFFFFF) h else answerHatch s h

/-! ## Rings (R460, R465) -/

/-- The first three checks and the fourth and fifth of R465: status and ERR_AT of the first that fails. -/
def ringCheck (s : State) (h : Nat) : Option (Nat × Nat) :=
  let op := hOpcode s h
  let lv := reqNat s h 4 2
  let flags := reqNat s h 7 1
  if lv % 4096 > 1016 || lv / 4096 ≠ 0 then some (2, 4)
  else if flags / 2 ≠ 0 then some (2, 7)
  else if reqNat s h 8 24 ≠ 0 then some (2, 8)
  else if reqNat s h 6 1 ≠ 3 || !opListed op then some (4, 0)
  else if !opStrong op && s.boot.larder == .stopped then some (4, 0)
  else if !opStrong op && s.boot.larder != .running then some (1, 0)
  else if !hatchMay s h op then some (3, 0)
  else if lv ≠ (reqBytesOf s h op + 3) / 4 && !inRange op 0x03F0 0x03FF then some (2, 4)
  else none

def rejectHatch (s : State) (h : Nat) : State :=
  let x := hatch s h
  putHatch s h { x with rejected := BitVec.ofNat 16 (satAdd 16 x.rejected.toNat 1) }

/-- RING = 1 from a node. -/
def ringHatch (s : State) (h : Nat) (node : Node) : State :=
  let x := hatch s h
  if !hatchOn s h || x.st == .frozen then s
  else if node != hatchNode s h || x.st == .busy then rejectHatch s h
  else
    let s := putHatch s h { x with st := .busy, copy := x.req, ringer := node, result := none, waiting := false }
    let op := hOpcode s h
    let s := putHatch s h { hatch s h with
      exec := opStrong op, seq := BitVec.ofNat 16 (reqNat s h 2 2), notify := bit (reqNat s h 7 1) 0 }
    match ringCheck s h with
    | some (st, at_) => hatchResult s h st [] 0 at_
    | none => s

/-- A write to a request buffer (R459). -/
def hatchWrite (s : State) (h : Nat) (node : Node) (off : Nat) (bs : List (BitVec 8)) : State :=
  let x := hatch s h
  if !hatchOn s h then s
  else if node != hatchNode s h then rejectHatch s h
  else putHatch s h { x with req := bmWrite x.req off bs }

/-! ## Running a command (R465 steps 6 and 7) -/

/-- A Hatch whose command of one of the opcodes is taken and has not run. -/
def hatchReady (s : State) (h lo hi : Nat) : Bool :=
  let x := hatch s h
  x.st == .busy && x.result.isNone && !x.waiting && inRange (hOpcode s h) lo hi

/-- A command's meaning: carried out for a Hatch that holds it. -/
def hatchRun (h lo hi : Nat) (s : State) (f : State → State) : Host.Outcome State Fault Refusal :=
  if h < 16 then whenLive s (fun s => if hatchReady s h lo hi then f s else s)
  else .next s

/-- Offsets of reserved payload bytes that are not 0. -/
def reservedBad (s : State) (h : Nat) (used : List (Nat × Nat)) : List Nat :=
  (List.range (4 * hLength s h)).filter (fun i => !used.any (fun p => p.1 ≤ i && i < p.1 + p.2) && pl s h i 1 ≠ 0)

/-- Step 6: MALFORMED at the first illegal field; otherwise the command's own effect. -/
def withFields (s : State) (h : Nat) (used : List (Nat × Nat)) (bad : List (Nat × Bool)) (f : State → State) : State :=
  match reservedBad s h used ++ (bad.filter (fun p => p.2)).map (fun p => p.1) with
  | [] => f s
  | a :: l => ansBad s h (minNat a l)

/-! ## Registers (R461) -/

def hatchCode (s : State) (h : Nat) : Nat :=
  if !hatchOn s h then 3
  else match (hatch s h).st with
    | .idle => 0
    | .busy => 1
    | .done => 2
    | .frozen => 1

/-- CW_HATCH_n. -/
def hatchReg (s : State) (h : Nat) : Nat :=
  let x := hatch s h
  hatchCode s h * 2 + b2n x.exec * 8 + x.seq.toNat * 2 ^ 16 + (hatchNode s h).toNat * 2 ^ 32 + x.rejected.toNat * 2 ^ 48

/-- A buffer as read; a disabled Hatch's buffers read as 0. -/
def hatchBuf (s : State) (h : Nat) (rsp : Bool) (off n : Nat) : List (BitVec 8) :=
  if hatchOn s h then bmRead (if rsp then (hatch s h).rsp else (hatch s h).req) off n else bmRead [] off n

/-- te of a retaining reset, cold power-on, full stack reset: every Hatch IDLE, every buffer zeroed. -/
def hatchClear (s : State) : State := { s with mg := { s.mg with hatches := [] } }

/-! ## Commands -/

/-- HATCH_RING. -/
def execHatchRing (h : Nat) (node : Node) (s : State) : Host.Outcome State Fault Refusal :=
  if h < 16 then whenLive s (fun s => ringHatch s h node) else .next s

/-- HATCH_BUFFER_WRITE. -/
def execHatchBufferWrite (h : Nat) (node : Node) (off : Nat) (bytes : List (BitVec 8)) (s : State) :
    Host.Outcome State Fault Refusal :=
  if h < 16 ∧ off + bytes.length ≤ 4096 then whenLive s (fun s => hatchWrite s h node off bytes)
  else .next s

/-- HATCH_ANSWER. -/
def execHatchAnswer (h : Nat) (s : State) : Host.Outcome State Fault Refusal :=
  if h < 16 then whenLive s (fun s => answerHatch s h) else .next s

/-- Fault injection of opcodes 0x03F0 to 0x03FF: UNSUPPORTED in the field (12 R362). -/
def execFaultInjection (h : Nat) (s : State) : Host.Outcome State Fault Refusal :=
  hatchRun h 0x03F0 0x03FF s (fun s => ans s h 4)

end Sys2Proof.Machine
end

