-- ==== Sys2Proof/Machine/PhyCore.lean ====
section
/-! DEFINITION. The fabric ports' physical layer (03): tags, status words, lanes, the bring-up state machine, lane maps
and lane tests, as operations the commands of the lanes and of the links share. -/

namespace Sys2Proof.Machine

/-! ## Tags and status words (R86, R89) -/

/-- Table tag of a profile; P0's is 0. -/
def tableTag (x : FabPort) (prof : Nat) : Nat :=
  if prof = 0 then 0 else crc8 0xFF ((loadTable x prof).flatMap (fun e => leBytes e.toNat 2))

/-- A lane is qualified: also while the far direction is Quiet, and under a test that began so (R102, R109). -/
def laneQual (y : Lane) : Bool :=
  y.st == .qualified || y.st == .quiet || (y.st == .test && (match y.test with
    | some t => t.before == .qualified || t.before == .quiet
    | none => false))

/-- Receive lanes qualified at a profile. -/
def qualLanes (x : FabPort) (prof : Nat) : List Nat :=
  (List.range 5).filter (fun l => laneQual (lane x l) && (lane x l).prof = prof)

/-- The lanes qualified at the partner's TX_PROF. -/
def lockMap (x : FabPort) : Nat := (qualLanes x x.partnerTx).foldl (fun a l => a + 2 ^ l) 0

/-- RX_LOCK_MAP reported: from the first status word with LINK_UP = 1 until ACTIVE, that word's (04 R133). -/
def lockReport (x : FabPort) : Nat :=
  match x.ownLock with
  | some m => if x.st == .active then lockMap x else m.toNat
  | none => lockMap x

/-- The status word a lane sends. -/
def statusWord (x : FabPort) (l : Nat) : BitVec 32 :=
  let v := x.txProf + b2n x.linkUp * 4 + x.partnerTx * 8 + lockReport x * 32 + (x.best.getD 0) * 1024 + b2n x.best.isSome * 4096
    + l * 8192 + tableTag x x.txProf * 65536
  BitVec.ofNat 32 (v + crc8 0xFF (leBytes v 3) * 2 ^ 24)

/-- A status word's CRC holds. -/
def wordCrc (w : BitVec 32) : Bool := field w.toNat 24 8 == crc8 0xFF (leBytes (field w.toNat 0 24) 3)

/-- A received status word is good: its CRC, and a legal LANE_ID. -/
def wordGood (w : BitVec 32) : Bool :=
  wordCrc w && field w.toNat 13 3 ≤ 4

/-! ## Lanes and maps (R90 to R92; 04 R132, R133) -/

/-- A lane that searches, its estimates and equalisers kept. -/
def searching (y : Lane) : Lane :=
  { y with st := .search, missed := 0, badWords := 0, degradedSince := none, degraded := false }

/-- A lane that acquires afresh: nothing retained. -/
def freshLane (y : Lane) : Lane :=
  { searching y with
    syncs := 0, goodWords := 0, copies := 0, markers := 0, lostSince := none, stale := false, freq := 0, timing := 0,
    taps := [], snr := [], tagProf := 0 }

def modLane (s : State) (p l : Nat) (f : Lane → Lane) : State := modPort s p (fun x => putLane x l (f (lane x l)))

/-- The map of a direction from the lanes of an RX_LOCK_MAP: logical lanes, and the spare. -/
def mapOf (lanes : List Nat) : List Nat × Option Nat :=
  if lanes.length = 5 then ([0, 1, 2, 3], some 4) else (lanes.take 4, none)

/-- Lanes of a map that carry no traffic and are no spare have failed at bring-up (03 R96). -/
def failedAtUp (lanes : List Nat) : List Nat := (List.range 5).filter (fun l => !lanes.contains l)

/-! ## Bring-up (R94, R95) -/

/-- The power-on sequence has released the ports' physical layers (16 R442). -/
def portsOn (s : State) : Bool :=
  match s.boot.phase with
  | .calibration | .primer | .released | .retaining | .retHeld => true
  | _ => false

/-- A fabric rail is out of its range (22 R548). -/
def railDown (s : State) : Bool := smGet false s.pins.railOut 3 || smGet false s.pins.railOut 4

/-- The port may be brought up: released, enabled, no base-die stop in force, the fabric rails in range. -/
def mayBring (s : State) (p : Nat) : Bool :=
  (port s p).enable && !(s.heat.baseStop && s.heat.stop != .running) && portsOn s && !railDown s

/-- A port starts its bring-up (OFF). -/
def startBring (s : State) (p : Nat) : State :=
  if !mayBring s p then s
  else modPort s p (fun x =>
    let x := { x with
      bring := .search, txProf := x.maxProfile.toNat, restoreFlag := false, best := none, linkUp := false,
      partnerUp := false, partnerBest := none, partnerLock := 0, partnerMap := none, ownLock := none, partnerRx := 0,
      partnerTx := 0, unacked := 0, stream := { at_ := s.now }, darkDue := none,
      stepAt := some s.now, restoreAt := none, bringAt := s.now, bringRaised := false, tagRaised := false,
      subst := none, txSubst := none, txPower := .active, rxPower := .active, txChange := none, retained := none,
      wakeAt := none, failedLanes := [] }
    (List.range 5).foldl (fun x l => putLane x l (freshLane (lane x l))) x)

/-- Acknowledged at T: the partner's last status word reports four or more lanes at RX_PROF T. -/
def acked (x : FabPort) : Bool := x.partnerRx = x.txProf && 4 ≤ popCount x.partnerLock.toNat 5

/-- Four receive lanes are qualified at the partner's TX_PROF. -/
def rxOk (x : FabPort) : Bool := 4 ≤ (qualLanes x x.partnerTx).length

/-- LINK_UP set: UP, the receive map built from the lanes reported, the lane left out marked failed (R96, 04 R133). -/
def setUp (x : FabPort) : FabPort :=
  let q := qualLanes x x.partnerTx
  let x := { x with
    bring := .up, linkUp := true, stepAt := none, restoreAt := none, laneMap := (mapOf q).1, spare := (mapOf q).2,
    failedLanes := failedAtUp q, rxProf := x.partnerTx, ownLock := some (BitVec.ofNat 5 (lockMap x)) }
  (failedAtUp q).foldl (fun x l => putLane x l { lane x l with st := .failed }) x

/-- ACKED: restore once, or up. -/
def fromAcked (s : State) (x : FabPort) : FabPort :=
  if !rxOk x then x
  else match x.partnerBest with
    | some b =>
      if x.txProf < b && !x.restoreFlag then
        { x with bring := .restore, restoreFlag := true, savedT := x.txProf, txProf := b, restoreAt := some s.now }
      else setUp x
    | none => setUp x

/-- One step of the bring-up machine on what the port has seen. -/
def bringStep (s : State) (x : FabPort) : FabPort :=
  match x.bring with
  | .search => if acked x then fromAcked s { x with bring := .acked, stepAt := none, unacked := 0 } else x
  | .acked => fromAcked s x
  | .restore => if acked x then setUp x else x
  | _ => x

/-- C1 0x0306: a lane failed at bring-up or in service (R113). -/
def laneFault (s : State) (p l : Nat) : State := chipFault s .c1 (p + 1) 0x0306 l

/-- The handover to the link layer: maps in force, the port in INIT with its epoch advanced and four WAKE markers to send
(04 R124). -/
def handOver (s : State) (p : Nat) : State :=
  let x := port s p
  if x.bring == .up && x.linkUp && x.partnerUp && x.st == .down && mayBring s p then
    let tx := bitsSet (x.partnerMap.getD x.partnerLock)
    let s := putPort s p { x with
      st := .init, txMap := (mapOf tx).1, txSpare := (mapOf tx).2, partnerSeen := false, sentSeen := false, seen := false,
      link := { epoch := x.link.epoch + 1, initAt := s.now, outQ := x.link.outQ, reinits := x.link.reinits },
      stream := { passIdle x.txProf s.now x.stream with wakeDue := true } }
    x.failedLanes.foldl (fun s l => laneFault s p l) s
  else s

/-- Bring-up looks at what it has seen. -/
def bringEval (s : State) (p : Nat) : State := handOver (modPort s p (bringStep s)) p

/-! ## Lane tests (R109 to R112) -/

/-- Parameters of a test by byte. -/
def testMicros (t : LaneTest) : Nat := leNat (t.params.drop 12 |>.take 4)

/-- The response record: bits, errors, resyncs, microseconds run, COMPLETE, errors by bin. -/
def laneTestRec (s : State) (t : LaneTest) (complete : Bool) : List (BitVec 8) :=
  leBytes t.bits 8 ++ leBytes t.errors 8 ++ leBytes t.resyncs 4 ++ leBytes ((s.now - t.start) / 1000) 4 ++
    leBytes (b2n complete) 8 ++
    (List.range 127).flatMap (fun i => leBytes (min (smGet 0 t.binErr (i + 1)) 0xFFFFFFFF) 4)

/-- Tests running on a port. -/
def laneTests (x : FabPort) : List (Nat × LaneTest) :=
  (List.range 5).filterMap (fun l => (lane x l).test.map (fun t => (l, t)))

/-- QUIET_TIMER stops while a lane test holds the direction (R102). -/
def timerAfter (s : State) (start last : Nat) : Nat := if last < start then last + (s.now - start) else s.now

/-- A lane test ends with a status; the lane is what it was before.  A held port whose last test ends returns to OFF and
brings itself up again. -/
def endTest (s : State) (p l status : Nat) (t : LaneTest) (complete : Bool) : State :=
  let s := modLane s p l (fun y => { y with test := none, st := if y.st == .test then t.before else y.st })
  let s := modPort s p (fun x => { x with lastTx := timerAfter s t.start x.lastTx })
  let s := hatchResult s t.hatch status (laneTestRec s t complete) 0 0xFFFFFFFF
  if (port s p).bring == .testHold && (laneTests (port s p)).isEmpty then
    startBring (modPort s p (fun x => { x with bring := .off })) p
  else s

/-- Counts so far of a test cut short: a checker's are known to the checker alone, a generator has none (R111, R112). -/
def countsSoFar (s : State) (t : LaneTest) : State × LaneTest :=
  if (byteAt t.params 1).toNat = 0 then (s, t)
  else
    ({ s with free := s.free + 130 },
     { t with
       bits := (freeBits 64 s.free).toNat, errors := (freeBits 64 (s.free + 1)).toNat, resyncs := (freeBits 32 (s.free + 2)).toNat,
       binErr := (List.range 127).map (fun i => (i + 1, (freeBits 32 (s.free + 3 + i)).toNat)) })

/-- A lane test is cut short: ABORTED with the counts so far (R112). -/
def endLaneTest (s : State) (p l : Nat) : State :=
  match (lane (port s p) l).test with
  | some t =>
    let r := countsSoFar s t
    endTest r.1 p l 10 r.2 false
  | none => s

/-- Every test of a port ends ABORTED (R112). -/
def abortLaneTests (s : State) (p : Nat) : State :=
  (laneTests (port s p)).foldl (fun s t => endLaneTest s p t.1) s

/-- A test holds its direction out of Quiet and Dark (R109). -/
def testHolds (x : FabPort) : Bool := !(laneTests x).isEmpty

/-! ## Leaving Quiet and Dark (R102 to R104, R106) -/

/-- One symbol more where a sync position falls inside the wake steps (R103). -/
def wakeSlip (x : TxStream) : Nat := if hasSync x then 3 else 0

/-- A direction leaves Quiet: the first data symbol 90 ns later (R103). -/
def fromQuiet (s : State) (x : FabPort) : FabPort :=
  let st := streamWake x.txProf s.now true x.stream
  { x with txPower := .active, lastTx := s.now, txChange := some (90 + wakeSlip st, s.now), stream := st }

/-- Ticks for which the four DARK markers, and then the pilots, still run (R102). -/
def darkMarkers : Nat := 10
def darkPilots : Nat := 60

/-- A direction leaves Dark: before its pilots have stopped from R103's second step, after the DARK markers in progress;
later by R104, the first data symbol 3.52 µs after the decision (R106). -/
def fromDark (s : State) (x : FabPort) : FabPort :=
  let early : Option Nat := match x.txChange with
    | some (_, t) => if s.now < t + darkPilots then some (max s.now (t + darkMarkers)) else none
    | none => none
  match early with
  | some t =>
    let st := streamWake x.txProf t false x.stream
    { x with txPower := .active, lastTx := s.now, txChange := some (t - s.now + 10 + wakeSlip st, s.now), stream := st }
  | none =>
    { x with txPower := .active, lastTx := s.now, txChange := some (3520, s.now), stream := streamFresh x.txProf s.now x.stream }

/-- A direction is taken out of Quiet or Dark. -/
def wakeTx (s : State) (x : FabPort) : FabPort :=
  match x.txPower with
  | .active => x
  | .quiet => fromQuiet s x
  | .dark => fromDark s x

end Sys2Proof.Machine
end

