-- ==== Sys2Proof/Machine/Trowel.lean ====
section
/-! DEFINITION. The Trowel (08 R246 to R267): descriptors and their checks, range scans, the acceptance of steps, row
paths, and the end of an operation. -/

namespace Sys2Proof.Machine

/-! ## Ranges (R160, R246, R247) -/

/-- The source range in lines: as long as the target, one line for FILL, none for ZERO and DIGEST. -/
def srcLines (bop count : Nat) : Nat := if bop = 0 ∨ bop = 3 then count else if bop = 1 then 1 else 0

/-- Lines of a range at which its decode may change: its ends and every 1 MiB. -/
def rangeMarks (la count : Nat) : List Nat :=
  let first := (la + 16383) / 16384 * 16384 - la
  [0, count - 1] ++ ((List.range (count / 16384 + 1)).map (fun k => first + 16384 * k)).filter (fun i => i < count)

/-- The first line of a range in DPA lines, when every line decodes to this stack below its capacity. -/
def rangeDpa (s : State) (la count : Nat) : Option (Nat × Mapped) :=
  match mapFa s.fab.windows (la * 64) with
  | none => none
  | some m =>
    if la + count ≤ 2 ^ 47 ∧ (rangeMarks la count).all (fun i =>
        match mapFa s.fab.windows ((la + i) * 64) with
        | some x => x.node == s.fab.stackNode && x.dpa = m.dpa + 64 * i && x.dpa + 64 ≤ capacity s
        | none => false) then some (m.dpa / 64, m) else none

/-- Lines of an operation's target and source range that the Trowel touches: first DPA line, count, rights needed, BULK
with READ or WRITE (05 R162). -/
def opRanges (o : BulkOp) : List (Nat × Nat × Nat) :=
  let t := (o.dpaDst, o.count, 16 + if o.bop ≤ 2 then 2 else 1)
  if srcLines o.bop o.count = 0 then [t] else [t, (o.dpaSrc, srcLines o.bop o.count, 16 + 1)]

/-- Some line of a range lies in a tracked coherent window. -/
def someTracked (s : State) (la count : Nat) : Bool :=
  (rangeMarks la count).any (fun i => lineCls s (la + i) == .tracked)

/-! ## BULK_CMP (R264 to R266) -/

/-- RESULT of an operation. -/
def opResult (o : BulkOp) : Nat :=
  if o.bop ≤ 2 then o.poisoned + o.rowLines % 2 ^ 32 * 2 ^ 32
  else if o.bop = 3 then
    match o.diff with
    | some (i, b) => i + b * 2 ^ 32
    | none => 0xFFFFFFFF + b2n (o.linesDone = o.count && o.status = stOk) * 2 ^ 63
  else o.crc.toNat ^^^ 0xFFFFFFFF

/-- The BULK credit of an operation whose BULK_CMP was discarded for want of an egress. -/
def bulkCredit (s : State) (c : Ctx) : State :=
  let gone : Bool := match ctxGet s c.idx with
    | some x => x.phase == .placed
    | none => true
  if gone && c.ing < 5 && c.portEpoch == liveEpoch (linkOf s c.ing) then retHdr s c.ing 4 1 else s

/-- BULK_CMP with a status and its address. -/
def bulkAnswer (s : State) (o : BulkOp) (status addr : Nat) : State :=
  let s := { s with trowel := { s.trowel with
    ops := s.trowel.ops.filter (fun x => x.id ≠ o.id), opsDone := satAdd 64 s.trowel.opsDone 1 } }
  match ctxGet s o.ctx with
  | some c =>
    bulkCredit (answerWith s c (statusMsg s opBulk c.src c.tag c.h0 status addr)
      (BitVec.ofNat 128 (opResult o + o.linesDone * 2 ^ 64)) []) c
  | none => s

/-- A BULK_OP refused at acceptance: LINES_DONE 0; its credit returns when the BULK_CMP is placed. -/
def bulkRefuse (s : State) (ing : Nat) (m : Msg) (status : Nat) : State :=
  let s := { s with tx := { s.tx with refused := s.tx.refused + 1 } }
  if ing ≥ 5 then s
  else
    let h := statusMsg s opBulk (hSrc m.h0) (hTag m.h0) m.h0 status (hAddr m.h0)
    let (s, ok) := sendTo (sampReady s (hSrc m.h0) (hTag m.h0) false) (hSrc m.h0)
      { outMsg h 0 [] none true false with ing := some ing }
    if ok then s else retHdr s ing 4 1

/-! ## Acceptance (R248, R249; 11 R324, R325) -/

/-- A new operation at its queue entry, with its context. -/
def newOp (s : State) (ing : Nat) (m : Msg) (src : Node) (d : Nat × Mapped) (c : Nat × Mapped) : State :=
  let i := freeIdx s
  let cx : Ctx :=
    { idx := i, ing := ing, kind := .request, src := src, tag := hTag m.h0, op := opBulk, h0 := m.h0, h1 := m.h1,
      cls := d.2.cls, rel := .shared, lead := (decodeDpa (nRegions s) d.2.dpa).region,
      portEpoch := if ing < 5 then (linkOf s ing).epoch else 0, blkEpochs := [], lines := [],
      wdata := [], dataOk := true, acceptedAt := s.now, reserved := false, grant := 0,
      status := stOk, phase := .working, quarantine := none }
  let bop := hBop m.h0
  let n := hCount m.h1
  let o : BulkOp :=
    { id := s.trowel.nextOp, ing := ing, master := src, ctx := i, bop := bop, dst := hAddr m.h0, src := hSrcAddr m.h1,
      dpaDst := d.1, dpaSrc := c.1, count := n, cls := d.2.cls, srcCls := c.2.cls, phase := .checking,
      desc := bop = 0 && c.1 < d.1 && d.1 < c.1 + n, nextLine := 0, nextStep := 0, linesDone := 0,
      poisoned := 0, rowLines := 0, crc := 0xFFFFFFFF, diff := none, pattern := none, status := stOk, statusFa := 0,
      endWith := none, fillRows := [] }
  { s with
    tx := { s.tx with ctxs := s.tx.ctxs ++ [cx], nextIdx := i + 1 },
    trowel := { s.trowel with ops := s.trowel.ops ++ [o], nextOp := s.trowel.nextOp + 1 } }

/-- The checks of R249 that come before the range port's; the operation then waits at its entry. -/
def acceptBulk (s : State) (ing : Nat) (m : Msg) (src : Node) : State :=
  let n := hCount m.h1
  let sn := srcLines (hBop m.h0) n
  if !s.trowel.enable then bulkRefuse s ing m stClassErr
  else if !fieldsOk m then bulkRefuse s ing m stMalformed
  else
    match rangeDpa s (hAddr m.h0) n, (if sn = 0 then rangeDpa s (hAddr m.h0) n else rangeDpa s (hSrcAddr m.h1) sn) with
    | some d, some c =>
      if (List.range 4).any (fun r => regionStopped s r &&
          (rangeTouches s (64 * d.1) n r || sn ≠ 0 && rangeTouches s (64 * c.1) sn r)) then bulkRefuse s ing m stRegionDown
      else
        (match accCheck s src ing tgtTrowel none 16 with
         | .fail r nm nr => bulkRefuse (violation s src opBulk tgtTrowel r nm nr ing (64 * d.1)) ing m stDenied
         | .pass => newOp s ing m src d c)
    | _, _ =>
      bulkRefuse (c0 { s with fab := { s.fab with addrErrs := s.fab.addrErrs + 1 } } (pElem ing) 0x0409 0 0)
        ing m stAddrErr

/-- A BULK_OP at its ingress: a duplicate is discarded; without a free context it waits there (05 R154, R155); a
retaining reset answers RETRY (16 R450). -/
def takeBulk (s : State) (ing : Nat) (m : Msg) : State :=
  if (openCtx s (hSrc m.h0) (hTag m.h0)).isSome ||
      s.trowel.extWait.any (fun w => hSrc w.2.h0 == hSrc m.h0 && hTag w.2.h0 == hTag m.h0) then dupDiscard s ing m
  else
    let s := passIngress s ing m
    if poolFree s ing && !s.trowel.extWait.any (fun w => w.1 = ing) then acceptBulk s ing m (hSrc m.h0)
    else { s with trowel := { s.trowel with extWait := s.trowel.extWait ++ [(ing, m)] } }

def internalOps (s : State) : Nat := (s.trowel.ops.filter (fun o => o.ing ≥ 5)).length

/-- The first waiting descriptor whose ingress has a context enters. -/
def admitExt (s : State) : State :=
  match s.trowel.extWait.find? (fun w => poolFree s w.1) with
  | some w =>
    acceptBulk { s with trowel := { s.trowel with extWait := s.trowel.extWait.erase w } } w.1 w.2 (hSrc w.2.h0)
  | none => s

/-- Waiting descriptors enter as contexts and internal entries free. -/
def admitWaiting (s : State) : State :=
  let s := s.trowel.extWait.foldl (fun s _ => admitExt s) s
  match s.trowel.intWait with
  | [] => s
  | (n, h0, h1) :: l =>
    if internalOps s < 16 then acceptBulk { s with trowel := { s.trowel with intWait := l } } 5 { h0 := h0, h1 := h1, data := [] } n
    else s

/-- Units of a range of DPA lines. -/
def unitsIn (first count : Nat) : List Nat :=
  let a := unitOf (64 * first)
  (List.range (unitOf (64 * (first + count - 1)) - a + 1)).map (fun k => a + k)

/-- The first line of a range in a unit that decodes to a region, else the first one there: its DPA. -/
def refusedLine (s : State) (r f n u : Nat) : Nat :=
  let start := max f (u * 2 ^ 15)
  match (List.range (min 1024 (f + n - start))).find? (fun k => (decodeDpa (nRegions s) (64 * (start + k))).region = r) with
  | some k => 64 * (start + k)
  | none => 64 * start

/-- The first region table, in index order, that refuses an operation, with the first refused line (11 R324, R335). -/
def rangeDenied (s : State) (o : BulkOp) : Option (Nat × Nat × ACheck) :=
  (List.range (nRegions s)).findSome? (fun r => (opRanges o).findSome? (fun (f, n, need) =>
    (unitsIn f n).findSome? (fun u =>
      let c := accCheck s o.master o.ing r (some u) need
      if c.ok then none else some (r, refusedLine s r f n u, c))))

/-- A line of either range in another node's private window (05 R163). -/
def rangePrivate (s : State) (o : BulkOp) : Bool :=
  [(o.dst, o.count), (o.src, srcLines o.bop o.count)].any (fun p => p.2 ≠ 0 && (rangeMarks p.1 p.2).any (fun i =>
    match mapFa s.fab.windows ((p.1 + i) * 64) with
    | some m => privateBad m o.master
    | none => false))

def setOp (s : State) (id : Nat) (f : BulkOp → BulkOp) : State :=
  { s with trowel := { s.trowel with ops := s.trowel.ops.map (fun o => if o.id = id then f o else o) } }
def opGet (s : State) (id : Nat) : Option BulkOp := s.trowel.ops.find? (fun o => o.id = id)

/-- The range port has checked the last unit (11 R324). -/
def rangeChecked (s : State) (id : Nat) : State :=
  match opGet s id with
  | some o =>
    if o.phase != .checking then s
    else match rangeDenied s o with
      | some (r, dpa, .fail rule nm nr) =>
        admitWaiting (bulkAnswer (violation s o.master opBulk r rule nm nr o.ing dpa) o stDenied o.dst)
      | _ =>
        if rangePrivate s o then
          admitWaiting (bulkAnswer (privateDenied s (decodeDpa (nRegions s) (64 * o.dpaDst)).region o.master) o stDenied o.dst)
        else setOp (occ s 0x100 7 0xF 1) id (fun o => { o with phase := .queued })
  | none => s

def execBulkAccessCheckComplete (op : Nat) (s : State) : Host.Outcome State Fault Refusal :=
  whenLive s (fun s => rangeChecked s op)

/-- Larder firmware issues a bulk operation as the master of the Hatch whose command asked for it (R249; 11 R324). -/
def internalBulk (s : State) (h : Nat) (h0 h1 : Slot) : State :=
  let n := hatchNode s h
  if internalOps s < 16 && s.trowel.intWait.isEmpty then acceptBulk s 5 { h0 := withSrc h0 n, h1 := h1, data := [] } n
  else { s with trowel := { s.trowel with intWait := s.trowel.intWait ++ [(n, withSrc h0 n, h1)] } }

def execInternalBulkOp (h : Nat) (h0 h1 : Slot) (s : State) : Host.Outcome State Fault Refusal :=
  if h < 16 ∧ hOp h0 = opBulk then
    whenLive s (fun s => if s.boot.larder == .running && pipesOpen s then internalBulk s h h0 h1 else s)
  else .next s

/-! ## Range scans (R261) -/

/-- Sectors the directory holds in a region, in ascending set order. -/
def heldSectors (s : State) (region : Nat) : List Nat :=
  (s.uc.dir.filter (fun p => p.1 / 12 / 2 ^ 19 = region)).filterMap (fun p =>
    let set := p.1 / 12 % 2 ^ 19
    (slotView s region set (p.1 % 12)).map (fun v => sectorOf s set v.1))

/-- Sectors of a range in a region whose state the directory has lost. -/
def lostIn (s : State) (region first last : Nat) : List Nat :=
  if !(ucReg s region).sweepAll && (ucReg s region).lostSets.isEmpty && (ucReg s region).lostMod.isEmpty then []
  else (((List.range (last - first + 1)).map (fun k => decodeDpa (nRegions s) (64 * (first + k)))).filter
    (fun l => l.region = region)).map (fun l => sectorId l.lblock l.key) |>.eraseDups |>.filter (isUnknown s region)

/-- The sectors one scan recalls. -/
def scanSectors (s : State) (region first last : Nat) : List Nat :=
  let held := (heldSectors s region).filter (fun x => !(coveredIn s region x first last).isEmpty)
  held ++ (lostIn s region first last).filter (fun x => !held.contains x)

/-- Scans of a range in those of some regions that it touches. -/
def startScansIn (s : State) (regs : List Nat) (owner : ScanFor) (first count : Nat) (inv : Bool) : State :=
  regs.foldl (fun s r =>
    if ucOn s r && (!regionStopped s r || owner == .regionReset) && rangeTouches s (64 * first) count r then
      let last := first + count - 1
      let c : Scan :=
        { owner := owner, region := r, first := first, last := last, inv := inv, left := scanSectors s r first last }
      admitRecalls { s with trowel := { s.trowel with scans := s.trowel.scans ++ [c] } } c
    else s) s

/-- Scans of a range in every region it touches. -/
def startScans (s : State) (owner : ScanFor) (first count : Nat) (inv : Bool) : State :=
  startScansIn s (List.range (nRegions s)) owner first count inv

/-- A scan whose recalls are over. -/
def scanOver (s : State) (c : Scan) : Bool :=
  c.left.isEmpty && !s.tx.ctxs.any (fun x => x.kind == .recall && x.lead = c.region && x.h1.toNat = scanCode c.owner && x.phase != .placed)

/-- An operation runs once none of its scans is left. -/
def scansDone (s : State) : State :=
  { s with trowel := { s.trowel with ops := s.trowel.ops.map (fun o =>
      if o.phase == .scanning && !s.trowel.scans.any (fun c => c.owner == .op o.id) then { o with phase := .running } else o) } }

/-- A scan of an operation; a commit's scan is suspended by a thermal stop and restarts at resume (21 R535). -/
def isOpScan (c : Scan) : Bool :=
  match c.owner with
  | .op _ => true
  | _ => false

/-- A scan's directory reads meet the sets whose code fails (06 R199); the scan ends once its recalls are over. -/
def scanComplete (s : State) (region : Nat) (badSets : List Nat) : State :=
  let s := if s.trowel.scans.any (fun c => c.region = region) then badSets.foldl (loseDirSet region) s else s
  match s.trowel.scans.find? (fun c => c.region = region && scanOver s c && (isOpScan c || s.heat.stop == .running)) with
  | some c => settle (scansDone { s with trowel := { s.trowel with scans := s.trowel.scans.erase c } })
  | none => s

def execRangeScanComplete (region : Nat) (badSets : List Nat) (s : State) : Host.Outcome State Fault Refusal :=
  whenLive s (fun s => scanComplete s region badSets)

/-! ## Starting (R250, R262) -/

def executing (s : State) : Nat := (s.trowel.ops.filter (fun o => o.phase == .scanning || o.phase == .running)).length

/-- Service of requests: pipelines open and no thermal stop. -/
def inService (s : State) : Bool := pipesOpen s

/-- The queued operation accepted first starts with its scans: SNP_INV over what it writes, SNP_SHARE to owners over what
it reads; none in windows without a directory (R263). -/
def startOp (s : State) : State :=
  match s.trowel.ops.find? (fun o => o.phase == .queued && o.endWith.isNone) with
  | some o =>
    if executing s < s.trowel.maxActive && inService s then
      let s := setOp s o.id (fun o => { o with phase := .scanning })
      let s := if someTracked s o.dst o.count then startScans s (.op o.id) o.dpaDst o.count (o.bop ≤ 2) else s
      let sn := srcLines o.bop o.count
      let s := if sn ≠ 0 && someTracked s o.src sn then startScans s (.op o.id) o.dpaSrc sn false else s
      settle (scansDone s)
    else s
  | none => s

def execTrowelOpStart (s : State) : Host.Outcome State Fault Refusal := whenLive s startOp

/-! ## Row paths (R254 to R257) -/

/-- A row may use a row path: no test in its subarray, no migration of its bank or block, its block serving; in-die repair
leaves every row in its subarray (09 R286). -/
def rowUsable (s : State) (pb bank row : Nat) : Bool :=
  (blk s pb).st == .serving && (testOn s pb (physBank s pb bank) row).isNone && (mirrorOf s pb bank).isNone

/-- The row operation that moves a row to a row of the same logical block, if R254 allows one. -/
def copyKind (s : State) (pb kd ks : Nat) : Option Nat :=
  let bd := physBank s pb (keyBank kd)
  let bs := physBank s pb (keyBank ks)
  if !rowUsable s pb (keyBank kd) (keyRow kd) || !rowUsable s pb (keyBank ks) (keyRow ks) then none
  else if bd = bs then (if keyRow kd / 1024 = keyRow ks / 1024 then some 0 else none)
  else if dieOfBank pb bd = dieOfBank pb bs then some 1 else none

/-- A pattern row of the operation in a row's subarray: logical block, bank, row. -/
def patternRow (o : BulkOp) (lb key : Nat) : Option (Nat × Nat × Nat) :=
  o.fillRows.find? (fun p => p.1 = lb && p.2.1 = keyBank key && p.2.2 / 1024 = keyRow key / 1024)

def zeroFill (o : BulkOp) : Bool :=
  o.bop = 2 || o.bop = 1 && (match o.pattern with
    | some (d, _) => d = 0
    | none => false)

/-- The row path of a target row: kind and source key; none moves by line stream. -/
def rowPath (s : State) (o : BulkOp) (d : CtxLine) (c : Option CtxLine) : Option (Nat × Nat) :=
  let pb := physBlock s d.lblock
  if !s.trowel.rowMoves then none
  else if zeroFill o then (if rowUsable s pb (keyBank d.key) (keyRow d.key) then some (2, d.key) else none)
  else if o.bop = 1 then
    match patternRow o d.lblock d.key with
    | some (_, b, r) =>
      let k := lineKey b r 0
      if k / 32 = d.key / 32 then none else (copyKind s pb d.key k).map (fun kind => (kind, k))
    | none => none
  else match c with
    | some c => if c.lblock = d.lblock then (copyKind s pb d.key c.key).map (fun kind => (kind, c.key)) else none
    | none => none

def mkRowOp (s : State) (o : BulkOp) (t : TStep) (ord lb kd ks kind : Nat) : RowOp :=
  let pb := physBlock s lb
  let bd := physBank s pb (keyBank kd)
  { kind := kind, bank := if kind = 2 then bd else physBank s pb (keyBank ks), src := keyRow ks, dst := keyRow kd,
    dstBank := bd, op := some o.id, rank := rankOf t.rel, ord := ord, issued := none, checked := o.bop ≠ 0 }

def addRowOp (s : State) (pb : Nat) (r : RowOp) : State :=
  modBlk s pb (fun k => { k with rowOps := k.rowOps ++ [r] })

/-! ## Step acceptance (R250 to R259) -/

/-- One line of a step, before any pipeline has accepted it. -/
def stepLine (s : State) (fa dpaLine : Nat) (write : Bool) : CtxLine :=
  let loc := decodeDpa (nRegions s) (64 * dpaLine)
  { fa := fa, dpa := 64 * dpaLine, region := loc.region, lblock := loc.lblock, key := loc.key, ord := 0, accepted := false,
    dirDone := !usesDir s (lineCls s fa) loc.region, data := none, merged := none, done := false, wr := write }

def srcPart (s : State) (o : BulkOp) (first n : Nat) : List CtxLine :=
  (List.range n).map (fun j => stepLine s (o.src + first + j) (o.dpaSrc + first + j) false)
def dstPart (s : State) (o : BulkOp) (first n : Nat) (write : Bool) : List CtxLine :=
  (List.range n).map (fun j => stepLine s (o.dst + first + j) (o.dpaDst + first + j) write)

/-- Lines of a step: what it reads, then what it writes. -/
def stepLines (s : State) (o : BulkOp) (t : TStep) : List CtxLine :=
  let n := t.count
  if o.bop = 0 then srcPart s o t.first n ++ dstPart s o t.first n true
  else if o.bop = 1 ∧ n = 0 then srcPart s o 0 1
  else if o.bop ≤ 2 then dstPart s o t.first n true
  else if o.bop = 3 then srcPart s o t.first n ++ dstPart s o t.first n false
  else dstPart s o t.first n false

/-- Row moves of a row-group step: the first line index of each target row, its line, kind and source key. -/
def rowMoves (s : State) (o : BulkOp) (t : TStep) (ls : List CtxLine) : List (CtxLine × Nat × Nat) :=
  if t.kind != .rowGroup then []
  else
    let n := t.count
    let ds := if o.bop = 0 then ls.drop n else ls
    let heads := (ds.zipIdx).filter (fun p => keyLine p.1.key = 0)
    heads.filterMap (fun p => (rowPath s o p.1 (if o.bop = 0 then ls[p.2]? else none)).map (fun x => (p.1, x.1, x.2)))

/-- Row credits taken in the last microsecond (R259). -/
def creditsUsed (s : State) : Nat :=
  (s.trowel.credits.filter (fun p => s.now < p.1 + 1000)).foldl (fun a p => a + p.2) 0

/-- Credits a step's row moves cost: a check read too for a clone or shuttle of COPY. -/
def creditsFor (o : BulkOp) (rows : Nat) : Nat := if o.bop = 0 then 2 * rows else rows

/-- The entry of a target line: zeros at once for ZERO, a place held for a row operation, else waiting for its line. -/
def stepEnt' (s : State) (o : BulkOp) (t : TStep) (c : Ctx) (li : Nat) (l : CtxLine) (held : Bool) : WEnt :=
  { key := l.key, ord := l.ord, be := allBytes, kind := if held then .rowHold else .stream,
    st := if !held && zeroFill o then .ready else .waitData, rank := rankOf t.rel,
    tgt := if lineCls s l.fa == .bulk then .dram else .both, data := 0, poison := false, hint := false, ctx := some c.idx, li := li,
    cmpSent := true, baseIssued := false, aop := 0, asz := 0, aoff := 0, cmpd := 0, at0 := s.now }

def stepCtx (s : State) (o : BulkOp) (t : TStep) (ls : List CtxLine) : Ctx :=
  { idx := freeIdx s, ing := 5, kind := .step, src := o.master, tag := 0, op := opBulk, h0 := 0, h1 := 0, cls := o.cls,
    rel := t.rel, lead := (ls.head?.map CtxLine.region).getD 0, portEpoch := 0, blkEpochs := [], lines := ls, wdata := [],
    dataOk := true, acceptedAt := s.now, reserved := true, grant := 0, status := stOk, phase := .working, quarantine := none }

/-- A COPY step that moves lines of a region by line stream asks for a ring, or for the base-die buffer, there (06 R204,
R206; 08 R258). -/
def askRings (s : State) (t : TStep) (r : Nat) : State :=
  let s := ucRegPut s r (askRing (ucReg s r) (.trowel t.op t.no))
  if ucOn s r then yieldTests s r else s

/-- Entries of the target lines that a region accepts. -/
def addStepEnts (s : State) (o : BulkOp) (t : TStep) (c : Ctx) (held : List Nat) (mine : List Nat) : State :=
  mine.foldl (fun s li =>
    match c.lines[li]? with
    | some l =>
      if !l.wr then s
      else
        let h := held.contains (rowOf l.lblock l.key)
        if h then modBlk s (physBlock s l.lblock) (fun k => { k with wq := k.wq ++ [stepEnt' s o t c li l h] })
        else placeEnt s l.lblock (stepEnt' s o t c li l h)
    | none => s) s

/-- First target rows of a FILL in their subarrays, written line by line (R256). -/
def newFillRows (o : BulkOp) (t : TStep) (ls : List CtxLine) : List (Nat × Nat × Nat) :=
  if o.bop ≠ 1 || t.kind != .rowGroup || zeroFill o then o.fillRows
  else (ls.filter (fun l => keyLine l.key = 0)).foldl (fun fr l =>
    if (patternRow { o with fillRows := fr } l.lblock l.key).isSome then fr
    else fr ++ [(l.lblock, keyBank l.key, keyRow l.key)]) o.fillRows

/-- Lines of a step, by index, that the pipeline of a region has still to accept. -/
def partOf (ls : List CtxLine) (region : Nat) : List Nat :=
  ((ls.zipIdx).filter (fun p => p.1.region = region && !p.1.accepted && !p.1.done)).map (fun p => p.2)

def setStep (s : State) (t : TStep) : State :=
  { s with trowel := { s.trowel with steps := s.trowel.steps.map (fun x => if x.op = t.op && x.no = t.no then t else x) } }

/-- A step starts: its context, the rows that move by a row path, the row credits, its charge. -/
def openStep (s : State) (w : Waiting) (o : BulkOp) (t : TStep) : State × TStep :=
  let ls := stepLines s o t
  let mv := rowMoves s o t ls
  let rows := mv.map (fun m => (rowOf m.1.lblock m.1.key, if m.2.1 = 2 then rowOf m.1.lblock m.1.key else rowOf m.1.lblock m.2.2))
  let c := stepCtx s o t ls
  let s := if t.no = 0 then sampCtx s o.ctx 0 else s
  let s := countBytes (occ s 0x101 7 0xF 1) o.master.toNat (chargeOf s w)
  let s := { s with
    tx := { s.tx with ctxs := s.tx.ctxs ++ [c], nextIdx := c.idx + 1 },
    trowel := { s.trowel with
      credits := (s.now, creditsFor o mv.length) :: s.trowel.credits.filter (fun p => s.now < p.1 + 1000) } }
  let t := { t with ord := s.tx.nextOrd, ctx := c.idx, rows := rows }
  (setOp (setStep s t) o.id (fun o => { o with fillRows := newFillRows o t ls }), t)

/-- The pipeline of a region accepts the lines a step covers there: order positions, for what it reads before what it
writes, epochs, chains, write slots, row operations, a ring (R252). -/
def takeLines (s : State) (o : BulkOp) (t : TStep) (region : Nat) : State :=
  match ctxGet s t.ctx with
  | none => s
  | some c =>
    let ord := s.tx.nextOrd
    let mine := partOf c.lines region
    let ls := (c.lines.zipIdx).map (fun p =>
      if mine.contains p.2 then { p.1 with ord := if p.1.wr then ord + 1 else ord, accepted := true } else p.1)
    let new := mine.filterMap (fun i => ls[i]?)
    -- a row that can no longer move by its path moves by line stream
    let mv := (rowMoves s o t ls).filter (fun m => m.1.region = region && t.rows.any (fun r => r.1 = rowOf m.1.lblock m.1.key))
    let t := { t with rows := t.rows.filter (fun r => r.1 / 2 ^ 22 % 4 ≠ region || mv.any (fun m => r.1 = rowOf m.1.lblock m.1.key)) }
    let c : Ctx := { c with
      lines := ls, rel := t.rel,
      blkEpochs := (c.blkEpochs.filter (fun p => !new.any (fun l => physBlock s l.lblock = p.1))) ++ lineBlkEpochs s new,
      regEpochs := (c.regEpochs.filter (fun p => p.1 ≠ region)) ++ lineRegEpochs s new }
    let items := ((chainFor c.idx new).map (fun it => { it with ord := ord })).filter (fun it =>
      !s.tx.chain.any (fun x => x.ctx = it.ctx && x.region = it.region && x.sector = it.sector))
    let s := setStep (modCtx { s with tx := { s.tx with nextOrd := ord + 2, chain := s.tx.chain ++ items } } c.idx (fun _ => c)) t
    let s := addStepEnts s o t c (mv.map (fun m => rowOf m.1.lblock m.1.key)) mine
    let s := mv.foldl (fun s m =>
      addRowOp s (physBlock s m.1.lblock) (mkRowOp s o t (ord + 1) m.1.lblock m.1.key m.2.2 m.2.1)) s
    if o.bop = 0 && new.any (fun l => l.wr && !t.rows.any (fun r => r.1 = rowOf l.lblock l.key)) then askRings s t region else s

/-- Where a waiting step stands: its lines, and the first of the sequence that a region has still to accept lines of; a new
step of an operation waits for the lines it reissues (R252, R267). -/
def linesOf (s : State) (o : BulkOp) (t : TStep) : List CtxLine :=
  match ctxGet s t.ctx with
  | some c => c.lines
  | none => stepLines s o t

def headStep (s : State) (region : Nat) : Option (Waiting × TStep × BulkOp) :=
  s.tx.waiting.findSome? (fun w => match w.step with
    | some (op, no) => (match stepOf s op no with
      | some (t, o) =>
        if o.endWith.isSome || (t.ctx ≥ 65536 && s.trowel.steps.any (fun x => x.op = op && x.again)) ||
            (partOf (linesOf s o t) region).isEmpty then none
        else some (w, t, o)
      | none => none)
    | none => none)

/-- What a step's first acceptance needs: no more than 32 are in flight, a context, and row credits (R250, R259). -/
def mayOpen (s : State) (o : BulkOp) (t : TStep) : Bool :=
  t.ctx < 65536 || ((s.trowel.steps.filter (fun x => x.ctx < 65536)).length < 32 && poolFree s 5 &&
    creditsUsed s + creditsFor o (rowMoves s o t (stepLines s o t)).length ≤ 2929)

/-- A step's reissued lines go on once the regulator has released them: charged as a new step. -/
def resumeStep (s : State) (w : Waiting) (o : BulkOp) (t : TStep) : State × TStep :=
  if t.redo then
    let t := { t with redo := false }
    (setStep (countBytes (occ s 0x101 7 0xF 1) o.master.toNat (chargeOf s w)) t, t)
  else (s, t)

/-- A pipeline accepts its part of the next step of the sequence once its write slots are to be had; the step leaves the
sequence with its last part. -/
def acceptStep (s : State) (region : Nat) : State :=
  match headStep s region with
  | none => s
  | some (w, t, o) =>
    let ls := linesOf s o t
    let new := (partOf ls region).filterMap (fun i => ls[i]?)
    let held := (rowMoves s o t ls).map (fun m => rowOf m.1.lblock m.1.key)
    let writes := new.filter CtxLine.wr
    if inService s && mayOpen s o t && writes.all (fun l => (blk s (physBlock s l.lblock)).st == .serving) &&
        slotsFree s (rankOf w.rel) (writes.filter (fun l => !held.contains (rowOf l.lblock l.key))) then
      let (s, t) := if t.ctx < 65536 then resumeStep s w o t else openStep s w o t
      let s := takeLines s o t region
      let all := match ctxGet s t.ctx with
        | some c => c.lines.all (fun l => l.accepted || l.done)
        | none => true
      let s := if all then { s with tx := { s.tx with waiting := s.tx.waiting.filter (fun v => v.arr ≠ w.arr) } } else s
      settle s
    else s

def execTrowelStepAccept (region : Nat) (s : State) : Host.Outcome State Fault Refusal :=
  whenLive s (fun s => acceptStep s region)

/-! ## Check reads and row operations -/

/-- The dirty lines of a row's frame are written back (06 R193). -/
def rowWriteBack (s : State) (lb key : Nat) : State :=
  match rowFrame s lb key with
  | none => s
  | some (set, w) =>
    let r := lb % 4
    let s := (bitsSet (tagGet s r set w).dirty).foldl (fun s n =>
      let k := key / 32 * 32 + n
      let v := (readVal (frameCw s r set w n)).getD poisonZeros
      ptabMark (keyWrite s (physBlock s lb) k (valCw v)) (physBlock s lb) k v.p) s
    tagPut s r set w { tagGet s r set w with dirty := 0 }

/-- A row's frame is freed. -/
def rowFree (s : State) (lb key : Nat) : State :=
  match rowFrame s lb key with
  | some (set, w) => frameFree s (lb % 4) set w
  | none => s

/-- A line of a check read as it came back: clean, without poison or hint. -/
def checkClean (s : State) (pb key : Nat) (errs : List (Nat × Nat × BitVec 8)) : Bool :=
  let e := (errs.filter (fun x => x.1 = keyLine key)).map (fun x => x.2)
  match decodeLine (cwOf ((cwSyms (keyRead s pb key)).zipIdx.map (fun p =>
      e.foldl (fun v x => if x.1 = p.2 then v ^^^ x.2.toNat else v) p.1))) with
  | .good _ p h _ fixed => !p && !h && fixed.isEmpty
  | .bad => false

/-- The operation of a block that moves a row of a step. -/
def moveOf (s : State) (t : TStep) (row : Nat × Nat) : Option RowOp :=
  let pb := physBlock s (row.1 / 2 ^ 22)
  (blk s pb).rowOps.find? (fun x => x.op = some t.op && x.dst = row.1 % 65536 && x.dstBank = physBank s pb (row.1 / 65536 % 64))

/-- A row falls back to line stream. -/
def rowFallback (s : State) (t : TStep) (row : Nat × Nat) (pb : Nat) : State :=
  let s := match moveOf s t row with
    | some r => modBlk s pb (fun k => { k with rowOps := k.rowOps.erase r })
    | none => s
  let s := { s with
    blocks := s.blocks.map (fun p => if p.1 = pb then (p.1, { p.2 with wq := p.2.wq.map (fun e =>
      if e.ctx = some t.ctx && e.kind == .rowHold && e.key / 32 = row.1 % 2 ^ 22 then { e with kind := .stream } else e) }) else p),
    trowel := { s.trowel with
      steps := s.trowel.steps.map (fun x => if x.op = t.op && x.no = t.no then { x with rows := x.rows.filter (fun r => r ≠ row) } else x),
      checkFallback := satAdd 32 s.trowel.checkFallback 1 } }
  settle (askRings s t (row.1 / 2 ^ 22 % 4))

/-- The row of a step that awaits its check read in a logical block, with its operation. -/
def checkRow (s : State) (op lb : Nat) : Option (TStep × (Nat × Nat) × RowOp) :=
  s.trowel.steps.findSome? (fun t =>
    if t.op ≠ op || t.ctx ≥ 65536 then none
    else t.rows.findSome? (fun r =>
      if r.1 / 2 ^ 22 ≠ lb then none
      else (moveOf s t r).bind (fun m => if m.checked then none else some (t, r, m))))

/-- The check read of a source row may be made: its directory steps and earlier writes are over, the row is open and 32
column reads long since its activation, and no work of a higher rank waits (R255; 07 R216, R230). -/
def checkReady (s : State) (t : TStep) (row : Nat) (pb : Nat) (m : RowOp) : Bool :=
  let x := bankOf (blk s pb) m.bank
  (match ctxGet s t.ctx with
   | some c => c.lines.all (fun l => l.dirDone || rowOf l.lblock l.key ≠ row)
   | none => false) &&
  rowClear (blk s pb) s pb m && x.row = some m.src && x.echoOk && x.actAt + tRCD + 31 * tCCD + tCL ≤ s.now &&
  !outranked s pb (m.rank - 1)

/-- The check read of a source row completes (R255). -/
def checkRead (s : State) (op lb : Nat) (errs : List (Nat × Nat × BitVec 8)) : State :=
  match checkRow s op lb with
  | some (t, (d, c), m) =>
    let pb := physBlock s lb
    if (blk s pb).st != .serving || !checkReady s t c pb m then s
    else
      let kd := d % 2 ^ 22 * 32
      let ks := c % 2 ^ 22 * 32
      let s := rowWriteBack s lb ks
      if (copyKind s pb kd ks).isSome && (List.range 32).all (fun n => checkClean s pb (ks + n) errs) then
        modBlk s pb (fun k => { k with rowOps := k.rowOps.map (fun r => if r = m then { r with checked := true } else r) })
      else rowFallback s t (d, c) pb
  | none => s

def execRowCheckReadComplete (op lb : Nat) (errs : List (Nat × Nat × BitVec 8)) (s : State) :
    Host.Outcome State Fault Refusal :=
  if lb < 32 then whenLive s (fun s => checkRead s op lb errs) else .next s

/-- A line written by a row operation: the stored bits of the source line, or zeros (R256, R257). -/
def rowLineWrite (s : State) (lb kd ks n : Nat) (zero : Bool) : State :=
  let pb := physBlock s lb
  let s := dropPoison (keyWrite s pb (kd + n) (if zero then 0 else keyRead s pb (ks + n))) lb (kd + n)
  modBlk s pb (fun k => ptabDrop k (kd + n))

/-- A row operation of a step is done: 32 lines written, the entries that held their places removed. -/
def rowDone (s : State) (pb : Nat) (r : RowOp) (t : TStep) (row : Nat × Nat) : State :=
  let lb := row.1 / 2 ^ 22
  let kd := row.1 % 2 ^ 22 * 32
  let ks := row.2 % 2 ^ 22 * 32
  let s := rowFree (if r.kind = 2 then s else rowWriteBack s lb ks) lb kd
  let s := (List.range 32).foldl (fun s n => countLines (rowLineWrite s lb kd ks n (r.kind = 2)) (lb % 4) 1) s
  let s := modBlk s pb (fun k => { k with wq := k.wq.filter (fun e => !(e.ctx = some t.ctx && e.kind == .rowHold && e.key / 32 = kd / 32)) })
  let s := modCtx s t.ctx (fun c => { c with lines := c.lines.map (fun l =>
    if rowOf l.lblock l.key = (if l.wr then row.1 else row.2) then { l with done := true } else l) })
  let s := { s with trowel := { s.trowel with
    steps := s.trowel.steps.map (fun x => if x.op = t.op && x.no = t.no then
      { x with rows := x.rows.filter (fun q => q ≠ row), rowLines := x.rowLines + 32 } else x),
    rowOps := satAdd 64 s.trowel.rowOps 1 } }
  settle (occ s 0x102 7 0xF 1)

/-- A block's row operation completes tCLONE or tSHUTTLE after its issue. -/
def rowOpDone (s : State) (pb : Nat) : State :=
  match (blk s pb).rowOps.find? (fun r => match r.issued with
    | some t => waited s t (if r.kind = 1 then 60 else 45)
    | none => false) with
  | none => s
  | some r =>
    let s := modBlk s pb (fun k => { k with rowOps := k.rowOps.erase r })
    match s.trowel.steps.findSome? (fun t =>
        if r.op = some t.op then
          (t.rows.find? (fun q => physBlock s (q.1 / 2 ^ 22) = pb && q.1 % 65536 = r.dst &&
            physBank s pb (q.1 / 65536 % 64) = r.dstBank)).map (fun q => (t, q))
        else none) with
    | some (t, q) => rowDone s pb r t q
    | none => s

def execRowOpComplete (b : Nat) (s : State) : Host.Outcome State Fault Refusal :=
  if b < 36 then whenLive s (fun s => rowOpDone s b) else .next s

/-! ## The end (R265 to R267) -/

/-- What an operation that ends early has in flight is given up: steps, entries, contexts, row operations, rings. -/
def abortSteps (s : State) (id : Nat) : State :=
  let mine := s.trowel.steps.filter (fun t => t.op = id)
  let s := { s with
    tx := { s.tx with
      held := s.tx.held.filter (fun w => !(w.step.any (fun x => x.1 = id))),
      waiting := s.tx.waiting.filter (fun w => !(w.step.any (fun x => x.1 = id))) },
    trowel := { s.trowel with
      steps := s.trowel.steps.filter (fun t => t.op ≠ id),
      scans := s.trowel.scans.filter (fun c => c.owner != .op id) },
    blocks := s.blocks.map (fun p => (p.1, { p.2 with rowOps := p.2.rowOps.filter (fun r => r.op ≠ some id || r.issued.isSome) })) }
  let s := (mine.filter (fun t => t.ctx < 65536)).foldl (fun s t =>
    let s := dropWrites (dropReads s t.ctx) t.ctx
    let s := { s with tx := { s.tx with chain := s.tx.chain.filter (fun i => i.ctx ≠ t.ctx || i.phase == .snoop) } }
    ctxPlaced s t.ctx) s
  mine.foldl releaseRings s

/-- Status and address of an operation's BULK_CMP. -/
def opStatus (o : BulkOp) : Nat × Nat :=
  match o.endWith with
  | some st => (st, if st = stPoisoned then o.statusFa else o.dst)
  | none => if o.status = stOk then (stOk, o.dst) else (o.status, o.statusFa)

/-- An operation may be answered: all its lines are done, or it ends early; RETRY waits for service. -/
def opOver (s : State) (o : BulkOp) : Bool :=
  match o.endWith with
  | some st => st ≠ stRetry || inService s
  | none => o.phase == .running && o.nextLine = o.count && !s.trowel.steps.any (fun t => t.op = o.id)

/-- BULK_CMP of an operation that is over. -/
def finishOp (s : State) (id : Nat) : State :=
  match opGet s id with
  | some o =>
    if opOver s o then
      let s := abortSteps s id
      let (st, a) := opStatus o
      settle (admitWaiting (bulkAnswer s o st a))
    else s
  | none => s

def execTrowelOpComplete (op : Nat) (s : State) : Host.Outcome State Fault Refusal :=
  whenLive s (fun s => finishOp s op)

/-- A thermal stop or retaining reset ends every operation with RETRY (R267). -/
def endOps (s : State) : State :=
  { s with trowel := { s.trowel with ops := s.trowel.ops.map (fun o =>
      if o.endWith.isNone then { o with endWith := some stRetry } else o) } }

/-- Re-initialisation of a port: a queued operation of it is answered RETRY with LINES_DONE 0 (R267). -/
def retryQueued (s : State) (ing : Nat) : State :=
  { s with trowel := { s.trowel with ops := s.trowel.ops.map (fun o =>
      if o.ing = ing && (o.phase == .queued || o.phase == .checking) && o.endWith.isNone then
        { o with endWith := some stRetry } else o) } }

end Sys2Proof.Machine
end

