-- ==== Sys2Proof/Machine/LinkCore.lean ====
section
/-! DEFINITION. What the Wide Port and the fabric ports share above their flits: contexts resolved when an epoch
advances (02 R69), queued messages moved when a port goes down (04 R127, R137), re-initialisation and port-down. -/

namespace Sys2Proof.Machine

/-! ## Contexts of the old epoch (02 R69; 04 R127) -/

/-- A working context of the port that is not performed and is not a write whose data is complete and good. -/
def epochEnds (c : Ctx) (p : Nat) : Bool :=
  c.kind == .request && c.ing = p && c.phase == .working && c.op ≠ opBulk && c.lines.any (fun l => !l.done) &&
    !(isWriteOp c.op && c.dataOk)

/-- A later context of the same requester with a line of an abandoned one.  Of a write or atomic whose data is complete and
good, 02 R69 says both that it is not abandoned and that it is answered with a retry when it was held behind an abandoned
one: here it is answered with a retry (DESIGN CHOICE, log 171). -/
def heldBehind (a c : Ctx) : Bool :=
  c.kind == .request && c.phase == .working && c.op ≠ opBulk && c.src == a.src && c.ing = a.ing && c.idx ≠ a.idx &&
    c.lines.any (fun l => !l.done && a.lines.any (fun k => k.accepted && k.lblock = l.lblock && k.key = l.key && k.ord < l.ord))

/-- Partly received messages are discarded: what has not been placed of a forwarded one; a request of this stack whose
header has come, held or waiting for acceptance, is answered RETRY (02 R69; 05 R152). -/
def dropPartial (s : State) (p : Nat) : State :=
  let bad (w : Waiting) : Bool := w.ing = p && w.step.isNone && !w.dataOk
  let cut (m : OutMsg) : Bool := m.ing = some p && m.lines.length ≠ m.need && m.part.length ≠ 4 * m.need
  let waiting := s.tx.waiting.filter bad
  let gone := s.tx.held.filter bad ++ waiting
  let s := { s with tx := { s.tx with
    held := s.tx.held.filter (fun w => !bad w), waiting := s.tx.waiting.filter (fun w => !bad w) } }
  let s := (List.range 5).foldl (fun s q => modLink s q (fun l => { l with outQ := l.outQ.filter (fun m => !cut m) })) s
  let s := waiting.foldl refund s
  gone.foldl (fun s w => answerNoCtx s p w.msg stRetry (hAddr w.msg.h0)) s

/-- Messages taken before an initialisation owe no credit of the new one (02 R52): held requests, those that wait for a
context (answered RETRY) and refusals of BULK_OPs not yet sent. -/
def forgetCredits (s : State) (p : Nat) : State :=
  let ext := s.tx.mgWait.filter (fun w => w.1 = p) ++ s.trowel.extWait.filter (fun w => w.1 = p)
  let s := { s with
    tx := { s.tx with mgWait := s.tx.mgWait.filter (fun w => w.1 ≠ p), held := s.tx.held.map (fun w => if w.ing = p then { w with owes := false } else w) },
    trowel := { s.trowel with extWait := s.trowel.extWait.filter (fun w => w.1 ≠ p) } }
  let s := ext.foldl (fun s w => answerNoCtx s p w.2 stRetry (hAddr w.2.h0)) s
  (List.range 5).foldl (fun s q => modLink s q (fun l => { l with outQ := l.outQ.map (fun m =>
    if m.ing = some p && hOp m.h0 = opBulkCmp && hSrc m.h0 == s.fab.stackNode then { m with ing := none } else m) })) s

/-- Every context of the port that R69 abandons is answered with a retry. -/
def resolveEpoch (s : State) (p : Nat) : State :=
  let s := forgetCredits (dropPartial s p) p
  let first := s.tx.ctxs.filter (fun c => epochEnds c p)
  let later := s.tx.ctxs.filter (fun c => !epochEnds c p && first.any (fun a => heldBehind a c))
  let s := (first ++ later).foldl (fun s c => endCtx s c stRetry) s
  settle (retryQueued s p)

/-- Unanswered snoops placed in a flit of an egress. -/
def snoopsVia (s : State) (p : Nat) : List Snoop := s.tx.snoops.filter (fun n => !n.answered && n.via = some p)

/-- Unanswered snoops placed at a port are sent again over the route in force; their SNOOP_TIMEOUT restarts as they are
placed again (02 R69, 04 R127). -/
def resendSnoops (s : State) (p : Nat) : State :=
  (snoopsVia s p).foldl (fun s n =>
    let s := modSnoop s n (fun x => { x with via := none, again := true })
    let (s, ok) := sendTo s n.node (outMsg (snoopHdr s n) 0 [] (some n.ctx) false false)
    if ok then s else resolveSnoop s n) s

/-! ## Messages of a port (02 R69; 04 R127, R137) -/

/-- Node a queued message goes to: on the Wide Port its header names the agent. -/
def msgNode (s : State) (p : Nat) (m : OutMsg) : Node := if p = 4 then agentNode s (hDst m.h0).toNat else hDst m.h0

/-- Management writes of which only the header has come are answered RETRY (05 R152). -/
def cutMgmt (s : State) (p : Nat) : State :=
  let l := (linkOf s p).rx.filter (fun m => hOp m.msg.h0 = opMgWr && m.fwd.isNone && !m.drop)
  l.foldl (fun s m => answerNoCtx s p m.msg stRetry 0) (modLink s p (fun l => { l with rx := [] }))

/-- A response whose data was cut short is queued again whole; its reserved lines have gone back.  What was being received
ends. -/
def requeueCut (s : State) (p : Nat) : State :=
  let l := linkOf s p
  let back := l.txData.filter (fun d => d.m.final)
  let s := cutMgmt s p
  let s := back.foldl (fun s d => if d.m.allot then freeLines s d.m.home ((d.left + 3) / 4) else s) s
  modLink s p (fun l => { l with
    txData := [], outQ := back.map (fun d => { d.m with allot := false }) ++ l.outQ })

/-- The ingress whose BULK header credit a BULK_CMP of this stack returns, when its port has not initialised afresh since
(08 R249). -/
def bulkIng (s : State) (m : OutMsg) : Option Nat :=
  if hOp m.h0 = opBulkCmp && hSrc m.h0 == s.fab.stackNode then
    match m.ctx with
    | some i => (match ctxGet s i with
      | some c => if c.ing < 5 && c.portEpoch == liveEpoch (linkOf s c.ing) then some c.ing else none
      | none => none)
    | none => m.ing
  else none

/-- Its credit returns. -/
def bulkBack (s : State) (m : OutMsg) : State :=
  match bulkIng s m with
  | some p => retHdr s p 4 1
  | none => s

/-- A message of this stack that will not be placed: its lines and its BULK credit return, its context ends. -/
def endMsg (s : State) (m : OutMsg) : State :=
  let s := if m.allot then freeLines s m.home m.need else s
  let s := bulkBack s m
  match m.ctx with
  | some i => if m.final then
      (match ctxGet s i with
       | some c => ctxPlaced (sampEnd s c.src c.tag false 15) i
       | none => s)
    else s
  | none => s

/-- A message with no usable egress: a forwarded request is answered UNREACHABLE, any other is discarded (R138). -/
def dropMsg (s : State) (p : Nat) (m : OutMsg) : State :=
  let n := msgNode s p m
  if m.ing.isSome && opIsRequest (hOp m.h0) then
    let s := unreachable s p n true
    (sendTo s (hSrc m.h0) (outMsg (statusMsg s (hOp m.h0) (hSrc m.h0) (hTag m.h0) m.h0 stUnreach (hAddr m.h0)) 0 []
      none true false)).1
  else endMsg (unreachable s p n false) m

/-- A queued message moves to its node's egress, its own fields as they were.  At the Wide Port a node of no enabled agent
discards it (02 R50); from there, a header whose hops are spent does not leave on a fabric port (R139). -/
def moveMsg (s : State) (p : Nat) (m : OutMsg) : State :=
  let n := msgNode s p m
  let q := routeOf s n
  let h := withDst (if p < 4 then withHops m.h0 (hHops m.h0 + 1) else m.h0) n
  if q = 4 && p ≠ 4 && egressUsable s 4 && (agentOf s n).isNone then endMsg (wpDiscard s n) m
  else if hasEgress s n && q ≠ p then
    (if q < 4 && hHops h = 0 then endMsg (hopDiscard s (m.ing.getD 15) h) m
     else enqueue s q { m with h0 := egressHeader s q h n })
  else dropMsg s p m

/-- Routing entries whose egress in force has gone down (R137): on PRIMARY they change to their ALTERNATE when that is
usable; on ALTERNATE they return to PRIMARY, usable or not. -/
def failover (s : State) (p : Nat) : State :=
  s.fab.routes.foldl (fun s r =>
    let alt := smGet false s.fab.altUse r.1
    if alt && rAlternate r.2 = p then
      { s with fab := { s.fab with altUse := smSet false s.fab.altUse r.1 false } }
    else if !alt && rPrimary r.2 = p && rAlternate r.2 < 5 && egressUsable s (rAlternate r.2) then
      { s with fab := { s.fab with altUse := smSet false s.fab.altUse r.1 true } }
    else s) s

/-- Everything queued at a port that has gone down. -/
def moveQueue (s : State) (p : Nat) : State :=
  let s := requeueCut s p
  let q := (linkOf s p).outQ
  let s := modLink s p (fun l => { l with outQ := [], rx := [], unacked := [], resend := [], ctl := [] })
  q.foldl (fun s m => moveMsg s p m) s

/-- An egress has gone down: entries change over, snoops already sent through it are resolved without answer (05 R177),
queued messages move, contexts that entered through it are resolved. -/
def egressLost (s : State) (p : Nat) : State :=
  let dead := snoopsVia s p
  let s := moveQueue (failover s p) p
  let s := dead.foldl resolveSnoop s
  let s := (s.tx.snoops.filter (fun n => n.sent.isSome && !n.answered && !hasEgress s n.node)).foldl resolveSnoop s
  settle s

/-! ## Fabric ports (04 R124, R125) -/

/-- A fabric port goes DOWN: reported to the physical layer, whose bring-up starts again (03 R94, R112). -/
def fpDown (s : State) (p : Nat) (restart : Bool) : State :=
  let s := abortLaneTests s p
  let s := modPort s p (fun x => { x with
    st := .down, linkUp := false, bring := .off, subst := none, txSubst := none, txPower := .active, rxPower := .active })
  let s := egressLost (resolveEpoch s p) p
  if restart then startBring s p else s

/-- DOWN with its C1 fault 0x0403. -/
def fpFail (s : State) (p : Nat) : State :=
  if (port s p).st == .init || (port s p).st == .active then
    fpDown (chipFault s .c1 (p + 1) 0x0403 0) p true
  else s

/-- The link starts over: every count is fresh, queued messages stay. -/
def freshLink (s : State) (l : Link) : Link :=
  { epoch := l.epoch + 1, initAt := s.now, outQ := l.outQ, reinits := l.reinits, reinitLeft := l.reinitLeft }

/-- Re-initialisations within 10 ms, this one included. -/
def reinitCount (s : State) (l : Link) : Nat := (l.reinits.filter (fun t => s.now < t + ms 10)).length + 1

/-- Re-initialisation of a fabric port: 64 REINIT flits, C1 0x0402, contexts resolved, INIT; the third within 10 ms
takes the port DOWN (R124, R125). -/
def fpReinit (s : State) (p : Nat) : State :=
  if (port s p).st != .active then s
  else if 3 ≤ reinitCount s (port s p).link then fpFail s p
  else
    let s := chipFault s .c1 (p + 1) 0x0402 0
    let s := requeueCut s p
    let s := modPort s p (fun x =>
      let l := { x.link with reinitLeft := 64, reinits := s.now :: x.link.reinits.filter (fun t => s.now < t + ms 10) }
      let x := wakeTx s x
      { x with st := .init, seen := false, partnerSeen := false, sentSeen := false, link := freshLink s l,
               stream := { x.stream with wakeDue := true } })
    resendSnoops (resolveEpoch s p) p

/-- SUBST_REQ names the logical lane, the failed and the spare physical lane (R134). -/
def substSlot (u : LaneSubst) : Slot := BitVec.ofNat 128 (u.logical + u.failed * 256 + u.spare * 65536)

/-- The receiver asks for the spare: any test on it ends (03 R112); SUBST_REQ goes out while the link is ACTIVE (R134). -/
def askSubst (s : State) (p logical : Nat) : State :=
  let x := port s p
  match x.spare, x.subst with
  | some sp, none =>
    let u : LaneSubst :=
      { logical := logical, failed := (x.laneMap[logical]?).getD 0, spare := sp, since := s.now }
    let s := endLaneTest s p sp
    modPort s p (fun x => { x with subst := some u, link := { x.link with ctl := x.link.ctl ++ [(4, [substSlot u])] } })
  | _, _ => s

/-- Position of a physical lane in the receive map. -/
def logicalOfLane (x : FabPort) (l : Nat) : Option Nat := x.laneMap.findIdx? (fun k => k = l)

/-- Logical lanes that await a substitution: failed, or degraded while there is a spare (R134). -/
def lanesAwaiting (x : FabPort) : List Nat :=
  (List.range 4).filter (fun i => match x.laneMap[i]? with
    | some k => x.failedLanes.contains k || (lane x k).degraded
    | none => false)

/-- A link that has reached ACTIVE asks for the substitution its lanes await, or asks again for the one in progress. -/
def askAwaiting (s : State) (p : Nat) : State :=
  match (port s p).subst, lanesAwaiting (port s p) with
  | some u, _ => modPort s p (fun x => { x with link := { x.link with ctl := x.link.ctl ++ [(4, [substSlot u])] } })
  | none, i :: _ => askSubst s p i
  | none, [] => s

/-- Another active lane has failed and needs the spare, or has been promised it. -/
def spareTaken (x : FabPort) (i : Nat) : Bool :=
  (match x.subst with
    | some u => u.logical ≠ i
    | none => false) ||
  (x.laneMap.zipIdx).any (fun q => q.2 ≠ i && x.failedLanes.contains q.1)

/-- A receive lane reported failed to the link layer (03 R98; R124, R134): an active lane without a spare left fails the
port.  A spare that fails is lost; a substitution that needed it fails the port at its 10 µs, or at once where the lane it
was to replace has failed. -/
def laneFailed (s : State) (p l : Nat) : State :=
  let s := modLane s p l (fun y => { y with st := .failed, lostSince := none })
  let s := modPort s p (fun x => { x with failedLanes := x.failedLanes.filter (fun k => k ≠ l) ++ [l] })
  let x := port s p
  match logicalOfLane x l with
  | some i =>
    if x.spare.isNone || spareTaken x i then fpFail s p
    else if x.st == .active then askSubst s p i
    else s
  | none =>
    if x.spare = some l then
      let s := chipFault (modPort s p (fun x => { x with spare := none })) .c1 (p + 1) 0x0405 l
      match x.subst with
      | some u => if x.failedLanes.contains u.failed then fpFail s p else s
      | none => if x.laneMap.any (fun k => x.failedLanes.contains k) then fpFail s p else s
    else s

/-- The Wide Port enters FAILED: what was queued for it is lost or moves. -/
def wpOut (s : State) : State :=
  egressLost (resolveEpoch { s with wp := { s.wp with
    st := .failed, idleIn := false, idleOut := false, wakeAt := none } } 4) 4

end Sys2Proof.Machine
end

