-- ==== Sys2Proof/Machine/Lanes.lean ====
section
/-! DEFINITION. The fabric lanes (03): sync symbols, status words, markers, qualification and its loss, the bring-up
timers, Quiet and Dark, and lane tests. -/

namespace Sys2Proof.Machine

/-- C0 of R113, once per call. -/
def laneC0 (s : State) (p row detail : Nat) : State := c0 s (p + 1) (0x0300 + row) detail 0

/-! ## Sync symbols and qualification (R90 to R93, R95, R98, R100) -/

/-- The partner's last good status word gives the tag of this profile (R86, R89). -/
def tagKnown (y : Lane) (prof : Nat) : Bool := y.tagProf = prof

/-- Its tag differs from this side's own; a side without the table has none to compare (log 181). -/
def tagDiffers (x : FabPort) (y : Lane) (prof : Nat) : Bool :=
  prof ≠ 0 && tagKnown y prof && !(loadTable x prof).isEmpty && y.tagRemote.toNat ≠ tableTag x prof

/-- The tag of a profile matches the partner's: P0 needs none (R86, R91). -/
def tagMatches (x : FabPort) (y : Lane) (prof : Nat) : Bool :=
  prof = 0 || (tagKnown y prof && !(loadTable x prof).isEmpty && y.tagRemote.toNat = tableTag x prof)

/-- C0 0x0302, once per bring-up, as soon as a lane with pattern sync shows a tag that differs (R86). -/
def noteTag (s : State) (p l : Nat) : State :=
  let x := port s p
  let y := lane x l
  if y.st == .patternSync && tagDiffers x y y.prof && !x.tagRaised then
    laneC0 (modPort s p (fun x => { x with tagRaised := true })) p 2 l
  else s

/-- BEST follows the highest profile at which four lanes qualified together; the first such lock in SEARCH below
MAX_PROFILE raises T once (R94, R95). -/
def noteLocks (s : State) (p prof : Nat) : State :=
  modPort s p (fun x =>
    if (qualLanes x prof).length < 4 || x.bring == .off || x.bring == .testHold then x
    else
      let first := x.best.isNone
      let x := { x with best := some (max prof (x.best.getD 0)) }
      if first && x.bring == .search && x.txProf < x.maxProfile.toNat then
        { x with txProf := x.maxProfile.toNat, stepAt := some s.now }
      else x)

/-- A lane that is in use: not switched off, not failed. -/
def laneInUse (y : Lane) : Bool := y.st != .off && y.st != .failed

/-- A lane with pattern sync on a profile qualifies by its estimate and its tag; 4096 codes 1e-4. In service it must be
the profile in force (R91, R98). -/
def tryQualify (s : State) (p l : Nat) : State :=
  let s := noteTag s p l
  let x := port s p
  let y := lane x l
  if y.st != .patternSync || y.prefec.toNat < 4096 || !tagMatches x y y.prof then s
  else if x.bring == .up && y.prof ≠ x.rxProf then laneFailed s p l
  else
    let lost := y.lostSince.isSome && !y.stale && x.bring == .up
    let s := modLane s p l (fun y => { y with st := .qualified, lostSince := none, stale := false, missed := 0 })
    let s := modPort s p (fun x =>
      if (List.range 5).all (fun k => !laneInUse (lane x k) || laneQual (lane x k)) then { x with wakeAt := none } else x)
    let s := if lost then laneC0 s p 3 l else s
    bringEval (noteLocks s p y.prof) p

/-- SNR of a bin over the frames kept: the mean of its codes; none where no frame measured it (R100; log 182). -/
def meanSnr (y : Lane) (k : Nat) : Option Nat :=
  let l := (y.snr.map (fun f => (f.getD k 0xFF).toNat)).filter (fun v => v ≠ 255)
  if l.isEmpty then none else some (l.sum / l.length)

/-- The pre-FEC estimate of a lane at a profile: that of the profile's loading at the averaged SNRs (R100). -/
def laneEstimate (x : FabPort) (y : Lane) (prof : Nat) : BitVec 16 :=
  prefecOf ((loading x prof).map (fun b => (b.2, (meanSnr y b.1).getD 0)))

/-- One bin's equaliser: the mean of its corrections over the last eight frames (R93). -/
def equaliser (y : Lane) (k : Nat) : Int × Int :=
  let l := y.taps.map (fun f => f.getD k (0, 0))
  ((l.map Prod.fst).sum / l.length, (l.map Prod.snd).sum / l.length)

/-- What a sync symbol measures on a lane. -/
structure SyncSeen where
  evm : BitVec 8
  freq : Int
  timing : Int
  wordOk : Bool
  snr : List (BitVec 8)
  taps : List (Int × Int)
  deriving DecidableEq, Repr, Inhabited

/-- The measurements of a sync symbol: estimates, 64 frames of SNR, eight frames of equaliser (R93, R100, R108). -/
def syncMeasure (s : State) (x : FabPort) (y : Lane) (m : SyncSeen) : Lane :=
  let y := { y with
    evm := m.evm, freq := m.freq, timing := m.timing, missed := 0, syncAt := s.now, snr := (m.snr :: y.snr).take 64,
    taps := (m.taps :: y.taps).take 8 }
  let est := laneEstimate x y y.prof
  { y with
    prefec := est, degradedSince := if est.toNat < 3072 then some (y.degradedSince.getD s.now) else none,
    degraded := y.degraded && est.toNat < 3072 }

/-- The spacing of sync symbols: 1,025 symbols of 17/7 ns are 2489.3 ticks, to a tick of either clock (R90; log 51). -/
def syncSpaced (last now : Nat) : Bool := last + 2488 ≤ now && now ≤ last + 2491

/-- The search notes a sync symbol of a pattern (R90). -/
def noteCand (s : State) (y : Lane) (prof : Nat) (wordOk : Bool) : Lane :=
  let same : Bool := y.syncs ≠ 0 && y.candProf = prof && syncSpaced y.candAt s.now
  { y with
    candProf := prof, candAt := s.now, syncs := if same then y.syncs + 1 else 1,
    goodWords := (if same then y.goodWords else 0) + b2n wordOk }

/-- Three sync symbols of one pattern at their spacing, with two good status words among them (R90). -/
def candFound (y : Lane) : Bool := 3 ≤ y.syncs && 2 ≤ y.goodWords

/-- A sync symbol of a profile on a lane.  The search goes on whether or not the lane is locked (R90); a lane locked on
another pattern misses one (R92). -/
def syncReceived (s : State) (p l prof : Nat) (m : SyncSeen) : State :=
  let x := port s p
  let y := noteCand s (lane x l) prof m.wordOk
  let found (y : Lane) : Lane :=
    if candFound y then syncMeasure s x { y with st := .patternSync, prof := prof } m
    else syncMeasure s x { y with prof := prof } m
  match y.st with
  | .search => tryQualify (modLane s p l (fun _ => found y)) p l
  | .patternSync =>
    tryQualify (modLane s p l (fun _ => if y.prof = prof then syncMeasure s x y m
      else if candFound y then found y else { y with missed := y.missed + 1 })) p l
  | .qualified | .test =>
    modLane s p l (fun _ => if y.prof = prof then syncMeasure s x y m else { y with missed := y.missed + 1 })
  | _ => s

def execLaneSyncSymbolReceived (p l prof : Nat) (evm : BitVec 8) (freq timing : Int) (wordOk : Bool) (snr : List (BitVec 8))
    (taps : List (Int × Int)) (s : State) : Host.Outcome State Fault Refusal :=
  if p < 4 ∧ l < 5 ∧ prof < 4 ∧ snr.length ≤ 128 ∧ taps.length ≤ 128 then
    whenWired s (fun s => syncReceived s p l prof
      { evm := evm, freq := freq, timing := timing, wordOk := wordOk, snr := snr, taps := taps })
  else .next s

/-! ## Status words (R89, R94) -/

/-- What the partner reports; ACKED falls back to SEARCH after four words that do not acknowledge T. -/
def takeWord (s : State) (x : FabPort) (w : Nat) : FabPort :=
  let x := { x with
    partnerTx := field w 0 2, partnerUp := x.partnerUp || bit w 2, partnerRx := field w 3 2,
    partnerLock := BitVec.ofNat 5 (field w 5 5),
    partnerMap := if x.partnerMap.isNone && bit w 2 then some (BitVec.ofNat 5 (field w 5 5)) else x.partnerMap,
    partnerBest := if bit w 12 then some (field w 10 2) else none }
  let ack := field w 3 2 = x.txProf && 4 ≤ popCount (field w 5 5) 5
  let x := { x with unacked := if ack then 0 else x.unacked + 1 }
  if x.bring == .acked && 4 ≤ x.unacked then { x with bring := .search, stepAt := some s.now, unacked := 0 } else x

/-- A status word: a bad one is only counted on its lane. -/
def wordReceived (s : State) (p l : Nat) (w : BitVec 32) : State :=
  let y := lane (port s p) l
  if y.st == .off || y.st == .dark || y.st == .failed then s
  else if !wordCrc w then modLane s p l (fun y => { y with badWords := y.badWords + 1 })
  else if !wordGood w then modLane s p l (fun y => { y with badWords := 0 })
  else
    let s := modLane s p l (fun y => { y with
      badWords := 0, tagRemote := BitVec.ofNat 8 (field w.toNat 16 8), tagProf := field w.toNat 0 2 })
    if y.st == .search then s
    else
      let s := bringEval (modPort s p (fun x => takeWord s x w.toNat)) p
      tryQualify s p l

def execLaneStatusWordReceived (p l : Nat) (w : BitVec 32) (s : State) : Host.Outcome State Fault Refusal :=
  if p < 4 ∧ l < 5 then whenWired s (fun s => wordReceived s p l w) else .next s

/-! ## Markers (R88, R102; 04 R134) -/

/-- The substitution completes at two good WAKE markers on the spare: the logical lane is taken from it; recorded, with
C1 0x0404 (04 R134). -/
def takeSpare (s : State) (p l : Nat) : State :=
  let x := port s p
  match x.subst with
  | some u =>
    if u.spare ≠ l then s
    else
      let s := putPort s p { x with
        laneMap := x.laneMap.set u.logical l, spare := none, subst := none,
        failedLanes := x.failedLanes.filter (fun k => k ≠ u.failed) ++ [u.failed] }
      let s := modLane s p u.failed (fun y => { y with st := .failed, lostSince := none })
      chipFault (storeChanged s) .c1 (p + 1) 0x0404 u.failed
  | none => s

/-- The base-die sensor of a port, S(12 + p) (13 R363). -/
def portTemp (s : State) (p : Nat) : BitVec 16 := (tpos s (84 + p)).value

/-- Ticks from the second of four DARK markers until the pilots stop: two markers more, then 50 ns (R102). -/
def darkDelay : Nat := 55

/-- What a receiver does on a marker acted upon: QUIET, it tracks the pilots; DARK, it powers down when the pilots stop,
which a WAKE before then revokes (R88, R102, R106). -/
def actMarker (s : State) (p l n : Nat) : State :=
  if n = 4 then
    modPort (modLane s p l (fun y => if y.st == .qualified then { y with st := .quiet } else y)) p
      (fun x => { x with rxPower := .quiet })
  else if n = 6 then modPort s p (fun x => { x with darkDue := some (x.darkDue.getD (s.now + darkDelay)) })
  else
    let s := modLane s p l (fun y => if y.st == .quiet then { y with st := .qualified, syncAt := s.now } else y)
    takeSpare (modPort s p (fun x => { x with rxPower := .active, darkDue := none })) p l

/-- The far pilots stop: the receiver records the temperature and powers down, its state kept (R102). -/
def darkFall (s : State) (p : Nat) : State :=
  match (port s p).darkDue with
  | some t =>
    if t ≤ s.now then
      modPort s p (fun x =>
        let x := { x with rxPower := .dark, darkDue := none, retained := some (portTemp s p), darkAt := s.now }
        (List.range 5).foldl (fun x l =>
          let y := lane x l
          if y.st == .qualified || y.st == .quiet then putLane x l { y with st := .dark } else x) x)
    else s
  | none => s

/-- A copy of a marker belongs to the group of four before it: at most three symbols of 17/7 ns apart. -/
def sameGroup (y : Lane) (n now : Nat) : Bool := y.lastMarker = n && y.copies < 4 && now ≤ y.markerAt + 8

/-- Markers come four in a row; the second copy with a good status word makes the receiver act (R88). -/
def markerReceived (s : State) (p l n : Nat) (wordOk : Bool) : State :=
  let y := lane (port s p) l
  if y.st == .off || y.st == .dark || y.st == .failed then s
  else
    let same := sameGroup y n s.now
    let good := (if same then y.markers else 0) + b2n wordOk
    let s := modLane s p l (fun y => { y with
      lastMarker := n, markerAt := s.now, copies := (if same then y.copies else 0) + 1, markers := good })
    if wordOk && good = 2 then actMarker s p l n else s

def execLaneMarkerReceived (p l n : Nat) (wordOk : Bool) (s : State) : Host.Outcome State Fault Refusal :=
  if p < 4 ∧ l < 5 ∧ 4 ≤ n ∧ n ≤ 6 then whenWired s (fun s => markerReceived s p l n wordOk)
  else .next s

/-! ## Loss of qualification (R92, R98, R100) -/

/-- Ticks of four sync positions: four consecutive ones without SP (R92). -/
def missTime : Nat := 9958

/-- A condition of R92 holds on a lane: 0 missed sync positions (a Quiet direction sends none), 1 status words with a bad
CRC, 2 the frequency estimate, in hundredths of a ppm. -/
def qualBroken (s : State) (y : Lane) (cause : Nat) : Bool :=
  if cause = 0 then y.st != .quiet && (4 ≤ y.missed || y.syncAt + missTime ≤ s.now)
  else if cause = 1 then 8 ≤ y.badWords
  else 40000 < y.freq.natAbs

/-- A lane that has lost its pattern searches; where the search has already found another pattern, it has sync on it. -/
def reSearch (y : Lane) : Lane :=
  let y := searching y
  if candFound y then { y with st := .patternSync, prof := y.candProf } else y

/-- A lane loses its qualification, or its pattern sync before it (R90, R92); one under test is found lost at its end. -/
def lostQual (s : State) (p l cause : Nat) (freq : Int) : State :=
  let s := modLane s p l (fun y => { y with freq := freq })
  let y := lane (port s p) l
  if !qualBroken s y cause then s
  else if laneQual y then
    tryQualify (modLane s p l (fun y =>
      let z := { y with lockLosses := satAdd 32 y.lockLosses 1, lostSince := some s.now, stale := false }
      match y.test with
      | some t => { z with test := some { t with before := .search }, missed := 0, badWords := 0 }
      | none => reSearch z)) p l
  else if y.st == .patternSync then tryQualify (modLane s p l reSearch) p l
  else s

def execLaneQualificationLost (p l cause : Nat) (freq : Int) (s : State) : Host.Outcome State Fault Refusal :=
  if p < 4 ∧ l < 5 ∧ cause < 3 then whenWired s (fun s => lostQual s p l cause freq)
  else .next s

/-- Not qualified again within 100 µs in service: failed, C1 (R98). -/
def requalifyTimeout (s : State) (p l : Nat) : State :=
  let x := port s p
  match (lane x l).lostSince with
  | some t =>
    if x.bring == .up && !laneQual (lane x l) && expired s t (us 100) then laneFailed (laneFault s p l) p l else s
  | none => s

def execLaneRequalifyTimeout (p l : Nat) (s : State) : Host.Outcome State Fault Refusal :=
  if p < 4 ∧ l < 5 then whenWired s (fun s => requalifyTimeout s p l) else .next s

/-- Above 1e-3 for 1 ms: C0, reported to the link layer, which substitutes it while it has a spare (R100; 04 R134). -/
def degradeLane (s : State) (p l : Nat) : State :=
  let x := port s p
  let y := lane x l
  match y.degradedSince with
  | some t =>
    if laneQual y && !y.degraded && waited s t (ms 1) then
      let s := laneC0 (modLane s p l (fun y => { y with degraded := true })) p 4 l
      match logicalOfLane x l with
      | some i => if x.st == .active && !spareTaken x i then askSubst s p i else s
      | none => s
    else s
  | none => s

def execLaneDegraded (p l : Nat) (s : State) : Host.Outcome State Fault Refusal :=
  if p < 4 ∧ l < 5 then whenWired s (fun s => degradeLane s p l) else .next s

/-! ## Bring-up timers (R94) -/

def stepTimer (s : State) (p : Nat) : State :=
  let x := port s p
  match x.stepAt with
  | some t =>
    if x.bring == .search && expired s t (us 200) && !acked x then
      putPort s p { x with txProf := x.txProf - 1, stepAt := some s.now }
    else s
  | none => s

def execBringupStepTimer (p : Nat) (s : State) : Host.Outcome State Fault Refusal :=
  if p < 4 then whenWired s (fun s => stepTimer s p) else .next s

def restoreTimer (s : State) (p : Nat) : State :=
  let x := port s p
  match x.restoreAt with
  | some t =>
    if x.bring == .restore && expired s t (us 200) then
      putPort s p { x with bring := .search, txProf := x.savedT, stepAt := some s.now, restoreAt := none, unacked := 0 }
    else s
  | none => s

def execBringupRestoreTimer (p : Nat) (s : State) : Host.Outcome State Fault Refusal :=
  if p < 4 then whenWired s (fun s => restoreTimer s p) else .next s

/-- C1 0x0307 once; the search continues. -/
def bringTimer (s : State) (p : Nat) : State :=
  let x := port s p
  let searching := x.bring == .search || x.bring == .acked || x.bring == .restore
  if searching && !x.bringRaised && expired s x.bringAt (ms 2) then
    chipFault (putPort s p { x with bringRaised := true }) .c1 (p + 1) 0x0307 0
  else s

def execBringupTimer (p : Nat) (s : State) : Host.Outcome State Fault Refusal :=
  if p < 4 then whenWired s (fun s => bringTimer s p) else .next s

/-! ## Quiet and Dark (R102 to R107; 04 R126) -/

/-- The link layer of a port has something to send. -/
def linkBusy (l : Link) : Bool :=
  !l.outQ.isEmpty || !l.txData.isEmpty || !l.ctl.isEmpty || !l.resend.isEmpty || l.nakDue || l.ackDue || l.reinitLeft ≠ 0 ||
    l.owed != {}

/-- Quiet after QUIET_TIMER with nothing to send. -/
def quietEnter (s : State) (p : Nat) : State :=
  let x := port s p
  if x.quietEn && x.st == .active && x.txPower == .active && !linkBusy x.link && !testHolds x &&
      waited s x.lastTx x.quietTimer.toNat then
    putPort s p { x with
      txPower := .quiet, quietSince := s.now, txChange := none, stream := streamQuiet x.txProf s.now x.stream }
  else s

def execFpQuietEnter (p : Nat) (s : State) : Host.Outcome State Fault Refusal :=
  if p < 4 then whenWired s (fun s => quietEnter s p) else .next s

/-- A transmit direction enters Dark: its DARK markers, then pilots for 50 ns (R102, R107). -/
def goDark (s : State) (x : FabPort) : FabPort :=
  { x with txPower := .dark, txChange := some (0, s.now),
           stream := streamDark x.txProf s.now (x.txPower == .quiet) x.stream }

/-- Dark after DARK_TIMER in Quiet, or at once in a retaining reset, never with an unacknowledged flit. -/
def darkEnter (s : State) (p : Nat) : State :=
  let x := port s p
  let reset := s.boot.phase == .retaining || s.boot.phase == .retHeld
  if x.st == .active && x.txPower == .quiet && x.link.unacked.isEmpty && !testHolds x &&
      (reset || (x.darkEn && !linkBusy x.link && waited s x.quietSince (us x.darkTimer.toNat))) then
    putPort s p (goDark s x)
  else s

def execFpDarkEnter (p : Nat) (s : State) : Host.Outcome State Fault Refusal :=
  if p < 4 then whenWired s (fun s => darkEnter s p) else .next s

/-- A Quiet direction with something to send leaves Quiet. -/
def quietExit (s : State) (p : Nat) : State :=
  let x := port s p
  if x.st == .active && x.txPower == .quiet && linkBusy x.link then putPort s p (fromQuiet s x) else s

def execFpQuietExit (p : Nat) (s : State) : Host.Outcome State Fault Refusal :=
  if p < 4 then whenWired s (fun s => quietExit s p) else .next s

/-- A Dark direction with something to send leaves Dark. -/
def darkExit (s : State) (p : Nat) : State :=
  let x := port s p
  if x.st == .active && x.txPower == .dark && linkBusy x.link then putPort s p (fromDark s x) else s

def execFpDarkExit (p : Nat) (s : State) : Host.Outcome State Fault Refusal :=
  if p < 4 then whenWired s (fun s => darkExit s p) else .next s

/-- Ticks from t0 of R104 until the energy detector has woken its receiver: 1.5 µs, then up to 0.2 µs (log 183). -/
def wakeLead : Nat := 1700

/-- Retained state is stale: every lane in use acquires afresh, with 100 µs from t0; C0 0x0305 (R105). -/
def staleWake (s : State) (p : Nat) (woken : Nat) : State :=
  let s := modPort s p (fun x =>
    let x := { x with rxPower := .active, retained := none, wakeAt := none }
    (List.range 5).foldl (fun x l =>
      let y := lane x l
      if laneInUse y then
        putLane x l { freshLane y with
          staleWakes := satAdd 32 y.staleWakes 1, lostSince := some (woken - wakeLead), stale := true }
      else x) x)
  laneC0 s p 5 0

/-- The reference was lost at some time from t on (15 R419). -/
def refLostSince (s : State) (t : Nat) : Bool :=
  s.cal.spans.any (fun q => match q.2 with
    | none => true
    | some e => t < e)

/-- The energy detector wakes a Dark receiver. -/
def energyWake (s : State) (p : Nat) : State :=
  let x := port s p
  if x.rxPower != .dark then s
  else
    let moved : Bool := match x.retained with
      | some t => 240 < (s16 t - s16 (portTemp s p)).natAbs
      | none => true
    if moved || refLostSince s x.darkAt then staleWake s p s.now
    else modPort s p (fun x =>
      let x := { x with rxPower := .active, wakeAt := some s.now }
      (List.range 5).foldl (fun x l => if (lane x l).st == .dark then putLane x l { lane x l with st := .patternSync } else x) x)

def execFpEnergyWake (p : Nat) (s : State) : Host.Outcome State Fault Refusal :=
  if p < 4 then whenWired s (fun s => energyWake s p) else .next s

/-- 8 µs after an energy wake with a lane not qualified. -/
def wakeTimeout (s : State) (p : Nat) : State :=
  let x := port s p
  match x.wakeAt with
  | some t =>
    if expired s t (us 8) && (List.range 5).any (fun k => laneInUse (lane x k) && !laneQual (lane x k)) then staleWake s p t
    else s
  | none => s

def execFpWakeQualifyTimeout (p : Nat) (s : State) : Host.Outcome State Fault Refusal :=
  if p < 4 then whenWired s (fun s => wakeTimeout s p) else .next s

/-! ## Lane tests (R109 to R112) and quality reports (R108) -/

/-- A parameter field outside R110, by payload offset. -/
def laneTestBad (s : State) (h : Nat) : List (Nat × Bool) :=
  let mode := pl s h 3 1
  let iv := pl s h 4 4
  let len := pl s h 8 1
  [(0, 5 ≤ pl s h 0 1 / 4 % 8 || pl s h 0 1 / 64 ≠ 0), (1, 2 < pl s h 1 1), (2, 4 < pl s h 2 1), (3, 2 < mode),
   (4, (mode = 0 && iv ≠ 0) || ((mode = 1 || mode = 2) && iv = 0)), (8, if mode = 2 then len = 0 else len ≠ 0),
   (12, pl s h 12 4 = 0)]

/-- Lanes on which a test is accepted: the standby spare of a port that is not OFF; any lane of a port held, or that the
command can take out of service (R94, R109). -/
def testAdmits (x : FabPort) (l : Nat) (hold : Bool) : Bool :=
  x.bring != .off && (hold || x.bring == .testHold || x.spare = some l)

/-- The test starts: BUSY while a test of the port runs (17 R466), DENIED on a lane in service; the direction leaves Quiet
and Dark. -/
def startLaneTest (s : State) (h : Nat) : State :=
  let p := pl s h 0 1 % 4
  let l := pl s h 0 1 / 4 % 8
  let hold := bit (pl s h 0 1) 5
  let x := port s p
  if testHolds x then ans s h 1
  else if !testAdmits x l hold then ans s h 3
  else
    let s := if hold && x.bring != .testHold then
        modPort (if x.st == .init || x.st == .active then fpDown s p false else s) p (fun x =>
          { x with bring := .testHold, stepAt := none, restoreAt := none })
      else modPort s p (wakeTx s)
    hatchWait (modLane s p l (fun y => { y with
      st := .test,
      test := some { hatch := h, params := plBytes s h 0 16, start := s.now, bits := 0, errors := 0, resyncs := 0,
                     binErr := [], before := y.st } })) h

def laneTest (s : State) (h : Nat) : State :=
  withFields s h [(0, 9), (12, 4)] (laneTestBad s h) (fun s => startLaneTest s h)

def execLaneTest (h : Nat) (s : State) : Host.Outcome State Fault Refusal :=
  hatchRun h 0x0603 0x0603 s (fun s => laneTest s h)

/-- The checker (R111): where it has been synchronised since, or from which bit on bits have been good; bits compared,
errors counted, losses, errors by bin, and the errors of the last 256 bits. -/
structure Checker where
  since : Option Nat := none
  good : Nat := 0
  bits : Nat := 0
  errors : Nat := 0
  resyncs : Nat := 0
  bins : SMap Nat := []
  recent : List Nat := []
  deriving DecidableEq, Repr, Inhabited

/-- It synchronises after 64 consecutive good bits. -/
def checkSync (c : Checker) (upTo : Nat) : Checker :=
  if c.since.isNone && c.good + 64 ≤ upTo then { c with since := some (c.good + 64), recent := [] } else c

/-- A bit in error, charged to its bin; more than 32 in 256 bits lose synchronisation.  R111 does not say where the 256
bits lie: they are the last 256 (log 180). -/
def checkErr (binOf : Nat → Nat) (c0 : Checker) (e : Nat) : Checker :=
  let c := checkSync c0 e
  match c.since with
  | none => { c with good := e + 1 }
  | some a =>
    let recent := c.recent.filter (fun k => e < k + 256) ++ [e]
    let c := { c with errors := c.errors + 1, bins := smMod 0 c.bins (binOf e) (fun n => n + 1), recent := recent }
    if 32 < recent.length then
      { c with since := none, good := e + 1, bits := c.bits + (e + 1 - a), resyncs := c.resyncs + 1, recent := [] }
    else c

/-- The checker over n data bits of which those listed are in error. -/
def checked (binOf : Nat → Nat) (n : Nat) (errs : List Nat) : Checker :=
  let c := checkSync (errs.foldl (checkErr binOf) {}) n
  match c.since with
  | some a => { c with bits := c.bits + (n - a) }
  | none => c

/-- The bin whose bits hold position e of a symbol's data bits. -/
def binAt : List (Nat × Nat) → Nat → Nat
  | [], _ => 1
  | (k, b) :: l, e => if e < b then k else binAt l (e - b)

/-- The bin of a data bit of a lane under test; SOUND carries a bit on each data bin. -/
def testBin (x : FabPort) (t : LaneTest) (prof e : Nat) : Nat :=
  let ld : List (Nat × Nat) := if (byteAt t.params 2).toNat = 4 then
      (((List.range 128).drop 1).filter (fun k => !isPilot k)).map (fun k => (k, 1))
    else loading x prof
  binAt ld (e % max 1 (ld.map Prod.snd).sum)

/-- A test reaches DURATION: its checker's counts over the data bits received; a generator alone has none. -/
def laneTestDone (s : State) (p l n : Nat) (errs : List Nat) : State :=
  let x := port s p
  match (lane x l).test with
  | some t =>
    if waited s t.start (us (testMicros t)) then
      let c := if (byteAt t.params 1).toNat = 0 then {} else checked (testBin x t (lane x l).prof) n errs
      endTest s p l 0 { t with bits := c.bits, errors := c.errors, resyncs := c.resyncs, binErr := c.bins } true
    else s
  | none => s

/-- Positions in error rise and lie among the bits received. -/
def errsLegal (n : Nat) (errs : List Nat) : Bool := errs.all (fun e => e < n) && (errs.zip errs.tail).all (fun p => p.1 < p.2)

def execLaneTestComplete (p l n : Nat) (errs : List Nat) (s : State) : Host.Outcome State Fault Refusal :=
  if p < 4 ∧ l < 5 ∧ errsLegal n errs then whenWired s (fun s => laneTestDone s p l n errs)
  else .next s

def laneCode : LaneSt → Nat
  | .off => 0
  | .search => 1
  | .patternSync => 2
  | .qualified => 3
  | .quiet => 4
  | .dark => 5
  | .test => 6
  | .failed => 7

/-- Receive profile in force: the direction's once it is up, the lane's own before (R108). -/
def profInForce (x : FabPort) (y : Lane) : Nat := if x.bring == .up then x.rxProf else y.prof

/-- FOFFSET saturates at 327.67 ppm. -/
def foffset (y : Lane) : BitVec 16 := BitVec.ofInt 16 (max (-32767) (min 32767 y.freq))

/-- SNR byte of a bin: 0xFF for bin 0, masked bins and bins outside the profile, all but bin 0 measured under SOUND. -/
def snrByte (x : FabPort) (y : Lane) (k : Nat) : BitVec 8 :=
  let sound : Bool := match y.test with
    | some t => (byteAt t.params 2).toNat = 4
    | none => false
  if k = 0 || (binMasked x (profInForce x y) k && !sound) then 0xFF
  else match meanSnr y k with
    | some v => BitVec.ofNat 8 v
    | none => 0xFF

/-- A lane's record of R108. -/
def laneRecord (x : FabPort) (l : Nat) : List (BitVec 8) :=
  let y := lane x l
  leBytes (l + 8 * b2n (x.spare = some l) + 16 * laneCode y.st) 1 ++ leBytes (profInForce x y + 4 * x.txProf) 1 ++
    [y.evm, y.tagRemote] ++ leBytes (foffset y).toNat 2 ++ leBytes y.prefec.toNat 2 ++
    leBytes (min y.corrected (2 ^ 64 - 1)) 8 ++ leBytes y.lockLosses 4 ++ leBytes y.staleWakes 4 ++ leBytes 0 8 ++
    (List.range 128).map (snrByte x y)

/-- FP_LANES: the five records of a port. -/
def fpLanes (s : State) (h : Nat) : State :=
  withFields s h [(0, 1)] [(0, 4 ≤ pl s h 0 1)] (fun s =>
    ansOk s h ((List.range 5).flatMap (laneRecord (port s (pl s h 0 1)))))

def execFpLanes (h : Nat) (s : State) : Host.Outcome State Fault Refusal :=
  hatchRun h 0x0602 0x0602 s (fun s => fpLanes s h)

end Sys2Proof.Machine
end

