-- ==== Sys2Proof/Machine/TableHatch.lean ====
section
/-! DEFINITION. Table and configuration commands of the Hatches: live configuration (17 R470), routing and map tables
(04 R136, R142), regulator tables (10 R313, R314), access tables (11 R329 to R336). -/

namespace Sys2Proof.Machine

/-! ## CFG_GET and CFG_SET (17 R470) -/

/-- A response allotment set: at once, or once the reserved lines fit. -/
def allotSet (allot free v : Nat) : Nat × Nat × Option Nat :=
  if allot - free ≤ v then (v, v - (allot - free), none) else (allot, free, some v)

/-- A field's value in force; none for a field R470 does not list. -/
def cfgVal (s : State) (sec field i : Nat) : Option Nat :=
  if sec = 0x0002 ∧ field = 4 then some s.wp.allot
  else if sec = 0x0007 ∧ field = 3 then some (port s i).allot
  else if sec = 0x000A then
    [s.cfg.idleTimer.toNat, s.cfg.hitCap.toNat, s.cfg.ageLimit.toNat, s.cfg.wrHigh.toNat, s.cfg.wrLow.toNat][field - 1]?
  else if sec = 0x000C then [b2n s.store.autoRetire, s.store.scrubPeriod.toNat, s.store.scrubRate.toNat][field - 1]?
  else if sec = 0x000F ∧ field = 2 then some s.faults.autoAck.toNat
  else if sec = 0x0010 then
    [s.heat.warnLimit.toNat, s.heat.throttleLimit.toNat, s.heat.resumeLimit.toNat, s.heat.tMin.toNat][field - 1]?
  else none

/-- FIELD counts from 1. -/
def cfgGet (s : State) (sec field i : Nat) : Option Nat := if field = 0 then none else cfgVal s sec field i

/-- The state with a field changed; none for an illegal value. -/
def cfgPut (s : State) (sec field i v : Nat) : Option State :=
  let f (k : Nat) (old : Nat) : Nat := if field = k then v else old
  if sec = 0x0002 then
    if 64 ≤ v ∧ v ≤ 8192 then
      let r := allotSet s.wp.allot s.wp.allotFree v
      some { s with wp := { s.wp with allot := r.1, allotFree := r.2.1, allotNext := r.2.2 } }
    else none
  else if sec = 0x0007 then
    if 64 ≤ v ∧ v ≤ 2048 then
      some (modPort s i (fun x =>
        let r := allotSet x.allot x.allotFree v
        { x with allot := r.1, allotFree := r.2.1, allotNext := r.2.2 }))
    else none
  else if sec = 0x000A then
    let it := f 1 s.cfg.idleTimer.toNat
    let hc := f 2 s.cfg.hitCap.toNat
    let al := f 3 s.cfg.ageLimit.toNat
    let wh := f 4 s.cfg.wrHigh.toNat
    let wl := f 5 s.cfg.wrLow.toNat
    if schedOk it hc al wh wl then
      some { s with cfg := { s.cfg with
        idleTimer := BitVec.ofNat 11 it, hitCap := BitVec.ofNat 7 hc, ageLimit := BitVec.ofNat 16 al,
        wrHigh := BitVec.ofNat 7 wh, wrLow := BitVec.ofNat 7 wl } }
    else none
  else if sec = 0x000C then
    if (field = 1 ∧ 2 ≤ v) ∨ 256 ≤ v ∨ (field = 3 ∧ v = 0) then none
    else some { s with store := { s.store with
      autoRetire := f 1 (b2n s.store.autoRetire) = 1, scrubPeriod := BitVec.ofNat 8 (f 2 s.store.scrubPeriod.toNat),
      scrubRate := BitVec.ofNat 8 (f 3 s.store.scrubRate.toNat) } }
  else if sec = 0x000F then
    if v < 3 then some { s with faults := { s.faults with autoAck := BitVec.ofNat 2 v } } else none
  else
    let w := f 1 s.heat.warnLimit.toNat
    let t := f 2 s.heat.throttleLimit.toNat
    let r := f 3 s.heat.resumeLimit.toNat
    let m := f 4 s.heat.tMin.toNat
    if thermOk w t r m then
      some { s with heat := { s.heat with
        warnLimit := BitVec.ofNat 8 w, throttleLimit := BitVec.ofNat 8 t, resumeLimit := BitVec.ofNat 8 r,
        tMin := BitVec.ofNat 5 m } }
    else none

/-- INDEX is an entry of an array field, 0 for a scalar one. -/
def cfgIndexBad (sec i : Nat) : Bool := if sec = 0x0007 then 4 ≤ i else i ≠ 0

def cfgCmd (s : State) (h : Nat) (set : Bool) : State :=
  let sec := pl s h 0 2
  let fd := pl s h 2 1
  let i := pl s h 3 1
  withFields s h (if set then [(0, 4), (8, 8)] else [(0, 4)]) [] (fun s =>
    match cfgGet s sec fd i with
    | none => ans s h 4
    | some old =>
      if cfgIndexBad sec i then ansBad s h 3
      else if set then
        match cfgPut s sec fd i (pl s h 8 8) with
        | some s' => ansOk s' h (leBytes old 8)
        | none => ansBad s h 8
      else ansOk s h (leBytes old 8))

def execCfgGet (h : Nat) (s : State) : Host.Outcome State Fault Refusal :=
  hatchRun h 0x0201 0x0201 s (fun s => cfgCmd s h false)

def execCfgSet (h : Nat) (s : State) : Host.Outcome State Fault Refusal :=
  hatchRun h 0x0202 0x0202 s (fun s => cfgCmd s h true)

/-! ## TBL_WRITE and TBL_READ (17 R469) -/

/-- Entries of a table. -/
def tblCount (t : Nat) : Nat := if t = 0 ∨ t = 2 then 4096 else if t = 1 ∨ t = 3 then 1024 else 1

/-- The bulk-class fields as one word, and back. -/
def bulkWord (b : BulkCfg) : Nat := b.min.toNat + b2n b.ceilEn * 2 ^ 15 + b.ceil.toNat * 2 ^ 16 + b.depth.toNat * 2 ^ 31
def bulkOf (v : Nat) : BulkCfg :=
  { min := BitVec.ofNat 15 (field v 0 15), ceilEn := bit v 15, ceil := BitVec.ofNat 15 (field v 16 15),
    depth := BitVec.ofNat 8 (field v 31 8) }

/-- One entry of a shadow written; a table's legality is checked at its commit. -/
def tblPut (s : State) (t k v : Nat) : State :=
  if t = 0 then { s with fab := { s.fab with routesSh := smSet 0x36 s.fab.routesSh k (BitVec.ofNat 16 v) } }
  else if t = 1 then { s with fab := { s.fab with windowsSh := smSet 0 s.fab.windowsSh k (BitVec.ofNat 128 v) } }
  else if t = 2 then { s with reg := { s.reg with mastersSh := smSet regDefault s.reg.mastersSh k (BitVec.ofNat 64 v) } }
  else if t = 3 then { s with reg := { s.reg with wclassSh := smSet 0 s.reg.wclassSh k (BitVec.ofNat 2 v) } }
  else { s with reg := { s.reg with bulkSh := bulkOf v } }

def tblGet (s : State) (t k : Nat) (active : Bool) : Nat :=
  if t = 0 then (smGet 0x36 (if active then s.fab.routes else s.fab.routesSh) k).toNat
  else if t = 1 then (smGet 0 (if active then s.fab.windows else s.fab.windowsSh) k).toNat
  else if t = 2 then (smGet regDefault (if active then s.reg.masters else s.reg.mastersSh) k).toNat
  else if t = 3 then (smGet 0 (if active then s.reg.wclass else s.reg.wclassSh) k).toNat
  else bulkWord (if active then s.reg.bulk else s.reg.bulkSh)

/-- An entry's bits past its width, where the layout gives fewer than its bytes. -/
def tblPad (t v : Nat) : Bool := (t = 3 && 4 ≤ v) || (t = 4 && 2 ^ 39 ≤ v)

def tblWrite (s : State) (h : Nat) : State :=
  let t := pl s h 0 1
  let k := pl s h 2 2
  let n := pl s h 4 2
  let z := tblSize t
  withFields s h [(0, 1), (2, 4), (8, n * z)]
    [(0, 5 ≤ t), (4, n = 0 || tblCount t < k + n || 4064 < 8 + n * z),
     (8, (List.range n).any (fun i => tblPad t (pl s h (8 + i * z) z)))] (fun s =>
    if t ≤ 1 && s.fab.committing then ans s h 1
    else ans ((List.range n).foldl (fun s i => tblPut s t (k + i) (pl s h (8 + i * z) z)) s) h 0)

def tblRead (s : State) (h : Nat) : State :=
  let t := pl s h 0 1
  let a := pl s h 1 1
  let k := pl s h 2 2
  let n := pl s h 4 2
  let z := tblSize t
  withFields s h [(0, 6)] [(0, 5 ≤ t), (1, 2 ≤ a), (4, n = 0 || tblCount t < k + n || 4064 < 8 + n * z)] (fun s =>
    ansOk s h ((List.range n).flatMap (fun i => leBytes (tblGet s t (k + i) (a = 1)) z)))

def execTblWrite (h : Nat) (s : State) : Host.Outcome State Fault Refusal :=
  hatchRun h 0x0210 0x0210 s (fun s => tblWrite s h)

def execTblRead (h : Nat) (s : State) : Host.Outcome State Fault Refusal :=
  hatchRun h 0x0211 0x0211 s (fun s => tblRead s h)

/-! ## ROUTE_COMMIT and the switch of the map (04 R136, R142; 10 R314; 21 R535) -/

/-- A window with a share of this stack. -/
def ownWindow (s : State) (w : BitVec 128) : Bool :=
  winValid w && winNodeBase w ≤ s.fab.stackNode.toNat && s.fab.stackNode.toNat < winNodeBase w + 2 ^ winWays w

/-- What places GiB g of a window: class, ways, granule, first node, and its start in DPA. -/
def gibPlace (w : BitVec 128) (g : Nat) : Nat × Nat × Nat × Nat × Nat :=
  (winClass w, winWays w, winGran w, winNodeBase w, winDpaBase w * 2 ^ 30 + (g - winBase w) * 2 ^ (30 - winWays w))

/-- GiB g keeps its place under other windows. -/
def gibKept (wins : SMap (BitVec 128)) (w : BitVec 128) (g : Nat) : Bool :=
  wins.any (fun p => winValid p.2 && winBase p.2 ≤ g && g ≤ winLimit p.2 && gibPlace p.2 g == gibPlace w g)

/-- DPA ranges, in first line and lines, whose class or placement the shadow changes, of tracked windows: only these
have cached copies to recall. -/
def recallRanges (s : State) : List (Nat × Nat) :=
  (s.fab.windows.filter (fun p => ownWindow s p.2 && winClass p.2 = 0)).flatMap (fun p =>
    let w := p.2
    ((List.range (winLimit w + 1 - winBase w)).map (fun i => winBase w + i)).filterMap (fun g =>
      if gibKept s.fab.windowsSh w g then none
      else some ((gibPlace w g).2.2.2.2 / 64, 2 ^ (30 - winWays w) / 64)))

def startRouteScans (s : State) : State :=
  (recallRanges s).foldl (fun s r => startScans s .routeCommit r.1 r.2 true) s

/-- DPA ranges the shadow's bulk windows give this stack: first byte and bytes. -/
def bulkRanges (s : State) : List (Nat × Nat) :=
  (s.fab.windowsSh.filter (fun p => ownWindow s p.2 && winClass p.2 = 2)).map (fun p =>
    (winDpaBase p.2 * 2 ^ 30, (winLimit p.2 + 1 - winBase p.2) * 2 ^ (30 - winWays p.2)))

/-- A frame whose row lies in a range that becomes bulk: a row's lines share their GiB. -/
def toBulk (s : State) (rs : List (Nat × Nat)) (r : Nat) (t : Tag6) : Bool :=
  let (lb, key) := rowLine r t.rowId.toNat 0
  let d := dpaOf s lb key
  t.valid ≠ 0 && rs.any (fun x => x.1 ≤ d && d < x.1 + x.2)

/-- Rows of ranges that become bulk are written back and freed before the switch (06 R212). -/
def freeBulkRows (s : State) : State :=
  let rs := bulkRanges s
  if rs.isEmpty then s
  else (s.uc.tags.filter (fun p => ucUsable s (p.1 / 65536) && toBulk s rs (p.1 / 65536) p.2)).foldl (fun s p =>
    let r := p.1 / 65536
    let set := p.1 / 16 % 4096
    let w := p.1 % 16
    frameFree (frameWriteBack s r set w) r set w) s

/-- The tables switch between two messages, with the WCLASS of the windows whose class changes, and the commit answers. -/
def mapSwitch (s : State) : State :=
  if !s.fab.committing || s.trowel.scans.any (fun c => c.owner == .routeCommit) then s
  else
    let s := freeBulkRows s
    let ch := (s.fab.windowsSh.map (fun p => p.1)).filter (classChanges s)
    let wc := ch.foldl (fun m i => smSet 0 m i (smGet 0 s.reg.wclassSh i)) s.reg.wclass
    let s := { s with
      fab := { s.fab with routes := s.fab.routesSh, windows := s.fab.windowsSh, altUse := [], committing := false },
      reg := { s.reg with wclass := wc } }
    match s.mg.routeCommit with
    | some h => answerHatch (ansOk { s with mg := { s.mg with routeCommit := none } } h []) h
    | none => s

def routeCommit (s : State) (h : Nat) : State :=
  if s.fab.committing then ans s h 1
  else match routeErr s with
    | some i => hatchResult s h 2 [] 0 i
    | none =>
      let s := { (hatchWait s h) with fab := { s.fab with committing := true } }
      settle (mapSwitch (startRouteScans { s with mg := { s.mg with routeCommit := some h } }))

def execRouteCommit (h : Nat) (s : State) : Host.Outcome State Fault Refusal :=
  hatchRun h 0x0212 0x0212 s (fun s => routeCommit s h)

def execMapSwitch (s : State) : Host.Outcome State Fault Refusal :=
  whenLive s (fun s => settle (mapSwitch s))

/-! ## REG_COMMIT (10 R314) -/

/-- The buckets of a master after a commit. -/
def commitBucket (s0 s : State) (n : Nat) : State :=
  let e := regEntry s n
  let m := regSt s n
  let cap := depthQ (rDepth e)
  putRegSt s n { m with
    guar := if minEff s n = 0 then 0 else min m.guar cap,
    ceil := if !rCeilEn e then 0 else if rCeilEn (regEntry s0 n) then min m.ceil cap else cap, deficit := 0 }

def commitBulk (s0 s : State) : State :=
  let b := s.reg.bulk
  let m := s.reg.bulkSt
  let cap := depthQ b.depth.toNat
  { s with reg := { s.reg with bulkSt := { m with
      guar := if bulkMinEff s = 0 then 0 else min m.guar cap,
      ceil := if !b.ceilEn then 0 else if s0.reg.bulk.ceilEn then min m.ceil cap else cap, deficit := 0 } } }

/-- The new entries in force at one tick. -/
def regSwitch (s : State) : State :=
  let s0 := regAdvance s
  let s := regRescale { s0 with reg := { s0.reg with
    masters := s0.reg.mastersSh, wclass := s0.reg.wclassSh, bulk := s0.reg.bulkSh,
    commits := BitVec.ofNat 32 (satAdd 32 s0.reg.commits.toNat 1) } }
  let ks := (s0.reg.masters.map (fun p => p.1) ++ s.reg.masters.map (fun p => p.1) ++ s.reg.st.map (fun p => p.1)).eraseDups
  commitBulk s0 (ks.foldl (fun s n => commitBucket s0 s n) s)

/-- A route commit that changes an address class is in progress (21 R530). -/
def classCommit (s : State) : Bool := s.fab.committing && (s.fab.windowsSh.map (fun p => p.1)).any (classChanges s)

def regCommit (s : State) (h : Nat) : State :=
  if classCommit s then ans s h 1
  else match regErr s.fab.windows s.reg.mastersSh s.reg.wclassSh s.reg.bulkSh with
    | some i => hatchResult s h 2 [] 0 i
    | none =>
      let sum := sumOf s.reg.mastersSh s.reg.bulkSh
      if admitted sum (dfNow s) then ans (regSwitch s) h 0
      else
        hatchResult { s with reg := { s.reg with refused := BitVec.ofNat 32 (satAdd 32 s.reg.refused.toNat 1) } } h 5
          (leBytes (min sum 0xFFFF) 2 ++ leBytes (dfNow s) 2) 0 0xFFFFFFFF

def execRegCommit (h : Nat) (s : State) : Host.Outcome State Fault Refusal :=
  hatchRun h 0x0213 0x0213 s (fun s => regCommit s h)

/-! ## Access tables: writes and reads (11 R329, R330; 17 R469) -/

def accSize (t : Nat) : Nat := if t = 0 then 1 else 16
def accCount (t : Nat) : Nat := if t = 0 then 4096 else 256

def accPut (s : State) (t k v : Nat) : State :=
  if t = 0 then { s with acc := { s.acc with groupsSh := smSet groupNone s.acc.groupsSh k (BitVec.ofNat 8 v) } }
  else { s with acc := { s.acc with rulesSh := smSet 0 s.acc.rulesSh ((t - 1) * 256 + k) (BitVec.ofNat 128 v) } }

def accGet (s : State) (t k : Nat) (active : Bool) : Nat :=
  if t = 0 then (smGet groupNone (if active then s.acc.groups else s.acc.groupsSh) k).toNat
  else (smGet 0 (if active then s.acc.rules else s.acc.rulesSh) ((t - 1) * 256 + k)).toNat

def accWrite (s : State) (h : Nat) : State :=
  let t := pl s h 0 1
  let k := pl s h 2 2
  let n := pl s h 4 2
  let z := accSize t
  withFields s h [(0, 1), (2, 4), (8, n * z)] [(0, 23 ≤ t), (4, n = 0 || accCount t < k + n || 4064 < 8 + n * z)] (fun s =>
    if s.acc.commit.isSome then ans s h 1
    else ans ((List.range n).foldl (fun s i => accPut s t (k + i) (pl s h (8 + i * z) z)) s) h 0)

def accRead (s : State) (h : Nat) : State :=
  let t := pl s h 0 1
  let a := pl s h 1 1
  let k := pl s h 2 2
  let n := pl s h 4 2
  let z := accSize t
  withFields s h [(0, 6)] [(0, 23 ≤ t), (1, 2 ≤ a), (4, n = 0 || accCount t < k + n || 4064 < 8 + n * z)] (fun s =>
    ansOk s h ((List.range n).flatMap (fun i => leBytes (accGet s t (k + i) (a = 1)) z)))

def execAccWrite (h : Nat) (s : State) : Host.Outcome State Fault Refusal :=
  hatchRun h 0x0230 0x0230 s (fun s => accWrite s h)

def execAccRead (h : Nat) (s : State) : Host.Outcome State Fault Refusal :=
  hatchRun h 0x0231 0x0231 s (fun s => accRead s h)

/-! ## ACC_COMMIT (11 R330 to R333; 21 R535) -/

/-- The state as it stands under the tables being committed. -/
def withShadow (s : State) : State :=
  { s with acc := { s.acc with rules := s.acc.rulesSh, groups := s.acc.groupsSh, baseCoat := false, commit := none } }

/-- Rights of a node on a unit under the tables in force: in the base-coat state, every right for the node of an enabled
Wide Port agent and none for others (R332). -/
def oldHas (s : State) (r n unit need : Nat) : Bool :=
  if s.acc.baseCoat then (agentOf s (BitVec.ofNat 12 n)).isSome
  else (aEval s.acc.rules s.acc.groups r n (some unit) need).ok

/-- Some master loses READ, WRITE or CACHEABLE on a unit. -/
def loses (s : State) (r unit : Nat) : Bool :=
  (List.range 4096).any (fun n => [1, 2, 8].any (fun need =>
    oldHas s r n unit need && !(aEval s.acc.rulesSh s.acc.groupsSh r n (some unit) need).ok))

/-- Units of a region at which the rules of either table change. -/
def unitMarks (s : State) (r : Nat) : List Nat :=
  let top := 0x8000 * nRegions s
  let b := (s.acc.rules ++ s.acc.rulesSh).filter (fun p => p.1 / 256 = r && aValid p.2)
  ((0 :: b.flatMap (fun p => [aBase p.2, aLimit p.2 + 1])).filter (fun u => u < top)).eraseDups

/-- The first mark above a unit. -/
def nextMark (s : State) (ms : List Nat) (u : Nat) : Nat := minNat (0x8000 * nRegions s) (ms.filter (fun x => u < x))

/-- Narrowed units: region, first, last. -/
def narrowed (s : State) : List (Nat × Nat × Nat) :=
  (List.range (nRegions s)).flatMap (fun r =>
    let ms := unitMarks s r
    (ms.filter (loses s r)).map (fun u => (r, u, nextMark s ms u - 1)))

/-- The scans of narrowed units of some regions: the parts that lie in a tracked share, by GiB. -/
def startUnitScans (s : State) (owner : ScanFor) (l : List (Nat × Nat × Nat)) : State :=
  l.foldl (fun s p =>
    let (r, a, b) := p
    ((List.range (b / 512 + 1 - a / 512)).map (fun i => a / 512 + i)).foldl (fun s g =>
      let u := max a (512 * g)
      let v := min b (512 * g + 511)
      if (classOfDpa s (u * 2 ^ 21)).1 == .tracked then startScansIn s [r] owner (u * 2 ^ 15) ((v - u + 1) * 2 ^ 15) true
      else s) s) s

def startAccessScans (s : State) (l : List (Nat × Nat × Nat)) : State := startUnitScans s .accessCommit l

def accCommitCmd (s : State) (h : Nat) : State :=
  withFields s h [(0, 1)] [(0, 2 ≤ pl s h 0 1)] (fun s =>
    if s.acc.commit.isSome then ans s h 1
    else match accErr (nRegions s) s.acc.groupsSh s.acc.rulesSh with
      | some i => hatchResult s h 2 [] 0 i
      | none =>
        let nw := narrowed s
        let s := hatchWait s h
        let s := { s with acc := { s.acc with
          commit := some { hatch := some h, bulkEnd := pl s h 0 1 = 1, narrowed := nw },
          owed := s.acc.owed ++ nw.filter (fun p => regionStopped s p.1) } }
        settle (startAccessScans s nw))

def execAccCommit (h : Nat) (s : State) : Host.Outcome State Fault Refusal :=
  hatchRun h 0x0232 0x0232 s (fun s => accCommitCmd s h)

/-- Operations accepted and not answered that the new tables refuse (R333). -/
def bulkFails (s : State) : List (BulkOp × Nat × Nat × ACheck) :=
  (s.trowel.ops.filter (fun o => o.phase != .finished && o.endWith.isNone)).filterMap (fun o =>
    (rangeDenied (withShadow s) o).map (fun d => (o, d)))

def isQueuedOp (o : BulkOp) : Bool := o.phase == .queued || o.phase == .checking

/-- Queued operations that fail are answered DENIED, executing ones end at their next step with BULK_END = 1. -/
def bulkRecheck (s : State) (endThem : Bool) : State :=
  (bulkFails s).foldl (fun s d =>
    let o := d.1
    if isQueuedOp o then
      (match d.2.2.2 with
       | .fail rule nm nr =>
         bulkAnswer (violation s o.master opBulk d.2.1 rule nm nr o.ing d.2.2.1) o stDenied o.dst
       | .pass => s)
    else if endThem then setOp s o.id (fun o => { o with endWith := some stRetry }) else s) s

/-- The switch: one tick boundary, generation advanced, the commit answered OK. -/
def accessSwitch (s : State) : State :=
  match s.acc.commit with
  | none => s
  | some c =>
    if s.trowel.scans.any (fun x => x.owner == .accessCommit) then s
    else
      let s := admitWaiting (bulkRecheck s c.bulkEnd)
      if (bulkFails s).any (fun d => !isQueuedOp d.1) then s
      else
        let s := { s with acc := { s.acc with
          rules := s.acc.rulesSh, groups := s.acc.groupsSh, baseCoat := false, gen := s.acc.gen + 1, commit := none } }
        match c.hatch with
        | some h => answerHatch (ansOk s h []) h
        | none => s

def execAccessSwitch (s : State) : Host.Outcome State Fault Refusal :=
  whenLive s (fun s => settle (accessSwitch s))

/-! ## ACC_STATUS, ACC_LOG, ACC_LOG_CLEAR (11 R336, R338) -/

def accStatus (s : State) : List (BitVec 8) :=
  leBytes s.acc.gen.toNat 4 ++ leBytes (b2n s.acc.baseCoat + 2 * b2n s.acc.commit.isSome) 4 ++
    (List.range 22).flatMap (fun t =>
      let v := violTgt s t
      let n := (s.acc.rules.filter (fun p => p.1 / 256 = t && aValid p.2)).length
      leBytes v.log.length 1 ++ leBytes (min n 255) 1 ++ leBytes 0 2 ++ leBytes v.count.toNat 4)

def execAccStatus (h : Nat) (s : State) : Host.Outcome State Fault Refusal :=
  hatchRun h 0x0233 0x0233 s (fun s => ansOk s h (accStatus s))

/-- A violation log record (R336). -/
def violBytes (r : ViolRec) : List (BitVec 8) :=
  leBytes r.node.toNat 2 ++ leBytes r.opcode.toNat 1 ++ leBytes (r.target + b2n r.noMatch * 32 + b2n r.narrowed * 64) 1 ++
    leBytes r.rule 1 ++ leBytes r.ingress 3 ++ leBytes r.addr 8 ++ leBytes r.time 8

def execAccLog (h : Nat) (s : State) : Host.Outcome State Fault Refusal :=
  hatchRun h 0x0234 0x0234 s (fun s =>
    withFields s h [(0, 1)] [(0, 22 ≤ pl s h 0 1)] (fun s => ansOk s h ((violTgt s (pl s h 0 1)).log.flatMap violBytes)))

def execAccLogClear (h : Nat) (s : State) : Host.Outcome State Fault Refusal :=
  hatchRun h 0x0235 0x0235 s (fun s =>
    let t := pl s h 0 1
    withFields s h [(0, 1)] [(0, 22 ≤ t && t ≠ 0xFF)] (fun s =>
      ans ((List.range 22).foldl (fun s k => if t = 0xFF ∨ t = k then putViol s k { violTgt s k with log := [] } else s) s) h 0))

end Sys2Proof.Machine
end

