-- ==== Sys2Proof/Machine/VaultCore.lean ====
section
/-! DEFINITION. The Vault (14 R390 to R402): words, margins, regions, states, locks, and the start-up reading with its
repairs and remaps. -/

namespace Sys2Proof.Machine

/-! ## Words (R390 to R392) -/

def fuseT (s : State) (w : Nat) : BitVec 32 := smGet 0 s.vault.tight w
def fuseL (s : State) (w : Nat) : BitVec 32 := smGet 0 s.vault.loose w

/-- Parity under R390. -/
def fuseEven (v : BitVec 32) : Bool := !parity v.toNat 32

/-- A word of 31 data bits with its parity bit. -/
def fuseWord (v : Nat) : BitVec 32 := BitVec.ofNat 32 (v % 2 ^ 31 + b2n (parity (v % 2 ^ 31) 31) * 2 ^ 31)

def fuseWeak (s : State) (w : Nat) : Bool := !fuseEven (fuseT s w)
def fuseLost (s : State) (w : Nat) : Bool := fuseWeak s w && !fuseEven (fuseL s w)

/-- A word after burning: what it reads at the tight margin, of the bits burned; at the loose margin, every bit burned. -/
def fuseBurn (s : State) (w : Nat) (want reads : BitVec 32) : State :=
  { s with vault := { s.vault with
      tight := smSet 0 s.vault.tight w (fuseT s w ||| (reads &&& (fuseL s w ||| want))),
      loose := smSet 0 s.vault.loose w (fuseL s w ||| want) } }

/-! ## Regions (R393, R395, R396) -/

def fuseHeader (s : State) (n : Nat) : BitVec 32 := fuseT s (192 * n) ||| fuseT s (192 * n + 1)
def hdrFunction (h : BitVec 32) : Nat := field h.toNat 0 4
def hdrMode (h : BitVec 32) : Nat := field h.toNat 4 2
def hdrLen (h : BitVec 32) : Nat := field h.toNat 6 7

/-- A legal header (R395). -/
def hdrLegal (h : BitVec 32) : Bool :=
  fuseEven h && (hdrMode h = 1 && 1 ≤ hdrLen h && hdrLen h ≤ 94 || hdrMode h = 2 && 1 ≤ hdrLen h && hdrLen h ≤ 124) &&
    field h.toNat 21 10 = 0

/-- Redirection entry e of a Spare-row region. -/
def redirect (s : State) (n e : Nat) : BitVec 32 := fuseT s (192 * n + 158 + e)
def redirectUsed (s : State) (n e : Nat) : Bool := (redirect s n e).getLsbD 7

/-- The entry that names a data word; the lowest prevails. -/
def redirectOf (s : State) (n d : Nat) : Option Nat :=
  (List.range 32).find? (fun e => redirectUsed s n e && field (redirect s n e).toNat 0 7 = d)

/-- Fuse words that hold data word d: one, or a pair. -/
def dataWords (s : State) (n mode d : Nat) : List Nat :=
  if mode = 1 then [192 * n + 2 + 2 * d, 192 * n + 3 + 2 * d]
  else match redirectOf s n d with
    | some e => [192 * n + 126 + e]
    | none => [192 * n + 2 + d]

/-- Data word d as served. -/
def dataWord (s : State) (n d : Nat) : BitVec 32 :=
  (dataWords s n (hdrMode (fuseHeader s n)) d).foldl (fun v w => v ||| fuseT s w) 0

/-- The commit word is in both copies, or in one with the other WEAK. -/
def commitWord : BitVec 32 := 0x6C3A95A5
def fuseCommitted (s : State) (n : Nat) : Bool :=
  let a := 192 * n + 190
  let b := 192 * n + 191
  (fuseT s a == commitWord && (fuseT s b == commitWord || fuseWeak s b)) || (fuseT s b == commitWord && fuseWeak s a)

/-- Lock fuses and their copies are safety bits (R391, R393). -/
def lockFuses (s : State) (k : Nat) : BitVec 32 := fuseL s (3852 + k) ||| fuseL s (3854 + k)

/-- No word that the region's content uses is WEAK. -/
def regionSound (s : State) (n : Nat) : Bool :=
  let h := fuseHeader s n
  hdrLegal h && (List.range (hdrLen h)).all (fun d => fuseEven (dataWord s n d)) &&
    (hdrMode h ≠ 2 || (List.range 32).all (fun e => fuseEven (redirect s n e)))

/-- State of a region (R397). -/
def regionState (s : State) (n : Nat) : VState :=
  if fuseCommitted s n then (if regionSound s n then .committed else .defective)
  else if (lockFuses s 0).getLsbD n then .lockedIncomplete
  else if (List.range 192).all (fun w => fuseT s (192 * n + w) = 0) then .blank
  else .openR

def vState (s : State) (n : Nat) : VState := smGet .blank s.vault.states n
def putVState (s : State) (n : Nat) (v : VState) : State :=
  { s with vault := { s.vault with states := smSet .blank s.vault.states n v } }

/-- Map entry of a function (R393). -/
def mapEntry (s : State) (f : Nat) : Nat :=
  field (fuseT s (3856 + f / 10) ||| fuseT s (3858 + f / 10)).toNat (3 * f % 30) 3

/-- The region that serves a function: its own, or the spare the map names. -/
def serving (s : State) (f : Nat) : Nat := if 1 ≤ mapEntry s f ∧ mapEntry s f ≤ 4 then 15 + mapEntry s f else f
def fnOk (s : State) (f : Nat) : Bool := vState s (serving s f) == .committed

/-- Content of a committed function as one number: 31 bits of each data word, the first lowest. -/
def fnContent (s : State) (f : Nat) : Nat :=
  let n := serving s f
  (List.range (hdrLen (fuseHeader s n))).foldl (fun a d => a + (dataWord s n d).toNat % 2 ^ 31 * 2 ^ (31 * d)) 0
def fnBits (s : State) (f lo w : Nat) : Nat := if fnOk s f then field (fnContent s f) lo w else 0

/-- Identity complete (R399). -/
def identOk (s : State) : Bool := fnOk s 0 && fnOk s 1 && fnOk s 2

/-- Anti-rollback count (R394): safety bits, either copy. -/
def stepFuse (k : Nat) : Nat × Nat := (3844 + 2 * ((k - 1) / 16), (k - 1) % 16)
def stepSet (s : State) (k : Nat) : Bool :=
  let p := stepFuse k
  (fuseL s p.1 ||| fuseL s (p.1 + 1)).getLsbD p.2
def rollbackCount (s : State) : Nat := maxNat ((List.range 65).filter (fun k => k ≠ 0 && stepSet s k))

/-- Factory mode is on while every FACTORY_OFF word reads 0. -/
def factoryMode (s : State) : Bool := (List.range 4).all (fun i => fuseL s (3840 + i) = 0)

/-- A spare region is free: BLANK and mapped by no function (R402). -/
def freeSpareRegion (s : State) : Option Nat :=
  (List.range 4).find? (fun k => vState s (16 + k) == .blank && (List.range 16).all (fun f => mapEntry s f ≠ k + 1))
def freeSpareRegions (s : State) : Nat :=
  ((List.range 4).filter (fun k => vState s (16 + k) == .blank && (List.range 16).all (fun f => mapEntry s f ≠ k + 1))).length

/-- A field function, or the spare that serves one (R398). -/
def fieldRegion (s : State) (n : Nat) : Bool := n = 4 || n = 11 || (16 ≤ n && (mapEntry s 4 = n - 15 || mapEntry s 11 = n - 15))

/-! ## Temperature (13 R382) -/

/-- Every base-die position lies in a range, in degrees. -/
def baseWithin (s : State) (lo hi : Int) : Bool :=
  (List.range 16).all (fun i => 16 * lo ≤ s16 (tpos s (72 + i)).value && s16 (tpos s (72 + i)).value ≤ 16 * hi)

/-- A fuse word may be burned: before cold-start calibration with the guard band. -/
def burnOk (s : State) : Bool := if s.cal.done then s.heat.fuseOk else baseWithin s 15 65

/-! ## Repair at start-up (R401); `reads` holds what words read at the tight margin after their last re-burn -/

def readBack (reads : List (Nat × BitVec 32)) (w : Nat) (v : BitVec 32) : BitVec 32 :=
  match reads.find? (fun p => p.1 = w) with
  | some p => p.2
  | none => v

/-- Re-burning a WEAK word that is not lost. -/
def reburn (reads : List (Nat × BitVec 32)) (s : State) (w : Nat) : State :=
  if fuseWeak s w && !fuseLost s w then fuseBurn s w (fuseL s w) (readBack reads w (fuseL s w)) else s

/-- A Spare-row data word still WEAK moves to the lowest free spare row. -/
def redirectWord (reads : List (Nat × BitVec 32)) (n : Nat) (s : State) (d : Nat) : State :=
  let w := 192 * n + 2 + d
  if fuseWeak s w && !fuseLost s w && (redirectOf s n d).isNone then
    match (List.range 32).find? (fun e => !redirectUsed s n e && fuseT s (192 * n + 126 + e) = 0 && redirect s n e = 0) with
    | some e =>
      let v := fuseWord (d + 128)
      let s := fuseBurn s (192 * n + 126 + e) (fuseL s w) (readBack reads (192 * n + 126 + e) (fuseL s w))
      chipFault (fuseBurn s (192 * n + 158 + e) v (readBack reads (192 * n + 158 + e) v)) .c1 10 0x0E06 0
    | none => s
  else s

/-- WEAK words of a region. -/
def weakWords (s : State) (n : Nat) : List Nat := ((List.range 192).map (fun w => 192 * n + w)).filter (fuseWeak s)

/-- Twin copies masked: WEAK, while the pair reads good. -/
def maskedIn (s : State) (n : Nat) : Nat :=
  if hdrMode (fuseHeader s n) = 1 then
    ((weakWords s n).filter (fun w =>
      let i := w - 192 * n
      let p := if i % 2 = 0 then w + 1 else w - 1
      fuseEven (fuseT s w ||| fuseT s p))).length
  else 0

/-- One region's repair. -/
def repairRegion (reads : List (Nat × BitVec 32)) (s : State) (n : Nat) : State :=
  let s := (weakWords s n).foldl (reburn reads) s
  if hdrMode (fuseHeader s n) = 2 then (List.range 124).foldl (redirectWord reads n) s else s

/-! ## Remap (R402) -/

/-- The map entry of a function burned in both copies. -/
def burnMap (s : State) (f v : Nat) : State :=
  let w := BitVec.ofNat 32 (v * 2 ^ (3 * f % 30))
  fuseBurn (fuseBurn s (3856 + f / 10) w w) (3858 + f / 10) w w

/-- Content of a region copied into a spare with recovered values, verified, committed, and mapped. -/
def copyRegion (s : State) (n sp : Nat) : State :=
  let s := (List.range 190).foldl (fun s i =>
    let w := 192 * n + i
    let v := if fuseWeak s w then fuseL s w else fuseT s w
    if v = 0 then s else fuseBurn s (192 * sp + i) v v) s
  let s := fuseBurn (fuseBurn s (192 * sp + 190) commitWord commitWord) (192 * sp + 191) commitWord commitWord
  putVState (burnMap s n (sp - 15)) sp .committed

def anyLost (s : State) (n : Nat) : Bool := (weakWords s n).any (fuseLost s)

/-- The automatic remap of a DEFECTIVE function region without a lost word; a function whose spare is DEFECTIVE is not
remapped again. -/
def autoRemap (s : State) (f : Nat) : State :=
  if mapEntry s f ≠ 0 && vState s (serving s f) == .defective then chipFault s .c1 10 0x0E08 0
  else if vState s f == .defective && mapEntry s f = 0 && !anyLost s f then
    match freeSpareRegion s with
    | some k => storeChanged (chipFault (copyRegion s f (16 + k)) .c1 10 0x0E07 1)
    | none => chipFault s .c1 10 0x0E08 0
  else s

/-! ## The start-up reading (R397 to R402; 16 R442) -/

/-- Regions that are factory regions for R400: the functions programmed by the factory and the reserved ones. -/
def factoryRegion (n : Nat) : Bool := n < 16 && n ≠ 4 && n ≠ 11

/-- Locks set after repair (R400). -/
def setLocks (s : State) : State :=
  let prog := (List.range 20).foldl (fun (v : BitVec 20) n =>
    setBit v n ((lockFuses s 0).getLsbD n || vState s n == .committed || factoryRegion n)) 0
  let read := (List.range 20).foldl (fun (v : BitVec 20) n => setBit v n ((lockFuses s 1).getLsbD n || n = 1)) 0
  { s with vault := { s.vault with
      prog := prog, read := read, rollback := false, factory := factoryMode s, fuseAll := !factoryMode s } }

/-- Identity registers loaded from region 0 (17 R472). -/
def loadIdent (s : State) : State :=
  { s with mg := { s.mg with
      part := BitVec.ofNat 32 (fnBits s 0 0 32), serial := BitVec.ofNat 64 (fnBits s 0 32 64),
      lot := BitVec.ofNat 32 (fnBits s 0 96 32) } }

/-- The words of the spare-region map, which are data bits too (R391). -/
def mapWords : List Nat := [3856, 3857, 3858, 3859]

/-- The Vault read at both margins, repaired where the temperature permits, its states, remaps and locks. -/
def readVault (s : State) (reads : List (Nat × BitVec 32)) : State :=
  let weak := (List.range 20).flatMap (weakWords s) ++ mapWords.filter (fuseWeak s)
  let ok := baseWithin s 15 65
  let s := if ok then mapWords.foldl (reburn reads) ((List.range 20).foldl (repairRegion reads) s) else s
  let s := (List.range 20).foldl (fun s n => putVState s n (regionState s n)) s
  let s := if ok then (List.range 16).foldl autoRemap s else s
  let s := { s with vault := { s.vault with
    repairDeferred := !ok && !weak.isEmpty, weak := BitVec.ofNat 16 weak.length,
    masked := BitVec.ofNat 16 ((List.range 20).foldl (fun a n => a + maskedIn s n) 0) } }
  let s := if weak.isEmpty then s else c0 s 10 0x0E05 (if ok then 1 else 2) 0
  let s := (List.range 20).foldl (fun s n =>
    if (vState s n == .defective || vState s n == .lockedIncomplete) && !(n < 16 && mapEntry s n ≠ 0) then chipFault s .c1 10 0x0E07 0
    else s) s
  let s := setLocks (loadIdent s)
  if identOk s then s else chipFault s .c1 10 0x0E09 0

/-! ## Anti-rollback steps (16 R439) -/

/-- Steps burned from the count upward to an SVN, step 64 the last (14 R394); a step the temperature forbids ends the burning with a C0 event. -/
def burnSteps (s : State) (svn : Nat) : State :=
  let l := (List.range (min svn 64 + 1)).filter (fun k => rollbackCount s < k)
  if l.isEmpty || s.vault.rollback then s
  else if burnOk s then
    l.foldl (fun s k =>
      let p := stepFuse k
      let v := BitVec.ofNat 32 (2 ^ p.2)
      fuseBurn (fuseBurn s p.1 v v) (p.1 + 1) v v) s
  else c0 s 10 0x1002 0 0

/-! ## Records (R400, R407) -/

/-- VAULT_LOCK. -/
def vaultLock (s : State) : Nat :=
  s.vault.prog.toNat + s.vault.read.toNat * 2 ^ 20 + b2n s.vault.rollback * 2 ^ 40 + b2n s.vault.fuseAll * 2 ^ 41 +
    b2n s.vault.factory * 2 ^ 42

def vCode : VState → Nat
  | .blank => 0
  | .openR => 1
  | .committed => 2
  | .defective => 3
  | .lockedIncomplete => 4

/-- STATE of a region's entry: 5 once its function is remapped. -/
def stateCode (s : State) (n : Nat) : Nat := if n < 16 && mapEntry s n ≠ 0 then 5 else vCode (vState s n)

def vaultEntry (s : State) (n : Nat) : List (BitVec 8) :=
  let h := fuseHeader s n
  leBytes (stateCode s n + hdrMode h * 8 + b2n (s.vault.prog.getLsbD n) * 32 + b2n (s.vault.read.getLsbD n) * 64) 1 ++
    leBytes (hdrFunction h + (if n < 16 then mapEntry s n else 0) * 16) 1 ++ leBytes (hdrLen h) 1 ++
    leBytes (if hdrMode h = 2 then ((List.range 32).filter (redirectUsed s n)).length else 0) 1 ++ leBytes 0 4

def vaultRecord (s : State) : List (BitVec 8) :=
  leBytes (b2n s.vault.factory + 2 * b2n (identOk s) + 4 * b2n s.vault.repairDeferred) 1 ++ leBytes (rollbackCount s) 1 ++
    leBytes (freeSpareRegions s) 1 ++ leBytes s.vault.imgSlot.toNat 1 ++ leBytes s.vault.imgSeq.toNat 4 ++
    leBytes s.vault.weak.toNat 2 ++ leBytes s.vault.masked.toNat 2 ++ leBytes (vaultLock s / 2 ^ 20 % 2 ^ 22) 4 ++
    (List.range 20).flatMap (vaultEntry s)

end Sys2Proof.Machine
end

