-- ==== Sys2Proof/Machine/HeatCore.lean ====
section
/-! DEFINITION. Heat (13): sensor positions and readings, the thermal model, replacement, limits, throttling, bond wear
and the registers; a die's sample brings them all up to date. -/

namespace Sys2Proof.Machine

/-! ## Positions (R363, R366) -/

/-- Die of a position: 0 to 15, 16 the Undercoat, 17 the base die. -/
def posDie (i : Nat) : Nat := if i < 64 then i / 4 else if i < 72 then 16 else 17

/-- Positions of a die. -/
def diePos (d : Nat) : List Nat :=
  if d < 16 then (List.range 4).map (fun r => 4 * d + r)
  else if d = 16 then (List.range 8).map (fun k => 64 + k) else (List.range 16).map (fun k => 72 + k)

/-- Zone of a region. -/
def zonePos (r : Nat) : List Nat :=
  (List.range 16).map (fun d => 4 * d + r) ++ [64 + 2 * r, 65 + 2 * r, 72 + 2 * r, 73 + 2 * r] ++
    (List.range 8).map (fun k => 80 + k)

/-- Region of a position that belongs to one. -/
def posRegion (i : Nat) : Option Nat :=
  if i < 64 then some (i % 4) else if i < 72 then some ((i - 64) / 2) else if i < 80 then some ((i - 72) / 2) else none

/-- Value in use, in sixteenths of a degree. -/
def tval (s : State) (i : Nat) : Int := s16 (tpos s i).value

/-- Limits of a position in sixteenths: warning, throttle, stop, and the foot of its hold band (R367, R373). -/
def warnAt (s : State) (i : Nat) : Int := if i < 72 then 16 * s.heat.warnLimit.toNat else 1600
def throttleAt (s : State) (i : Nat) : Int := if i < 72 then 16 * s.heat.throttleLimit.toNat else 1680
def stopAtT (i : Nat) : Int := if i < 72 then 1760 else 1840
def holdAt (s : State) (i : Nat) : Int := if i < 72 then 16 * s.heat.throttleLimit.toNat - 48 else 1632

/-- Rate of rise: the latest value minus that of the latest sample taken at least 1 ms earlier (R366). -/
def rateOf (s : State) (i : Nat) : Int :=
  match (tpos s i).hist with
  | [] => 0
  | (t, v) :: rest => match rest.find? (fun p => p.1 + ms 1 ≤ t) with
    | some p => s16 v - s16 p.2
    | none => 0

/-! ## The thermal model (R370) -/

/-- The die below, and the die above, of those with sensors. -/
def dieBelow (d : Nat) : Option Nat := if d = 17 then none else if d = 16 then some 17 else if d = 0 then some 16 else some (d - 1)
def dieAbove (d : Nat) : Option Nat := if d = 17 then some 16 else if d = 16 then some 0 else if d < 15 then some (d + 1) else none

/-- The hottest of a die's values in the zone of a region, S8 to S15 left aside. -/
def dieHot (s : State) (d r : Nat) : Int :=
  if d < 16 then tval s (4 * d + r)
  else if d = 16 then max (tval s (64 + 2 * r)) (tval s (65 + 2 * r))
  else max (tval s (72 + 2 * r)) (tval s (73 + 2 * r))

/-- Θ(d) × Pw(r). -/
def powerRise (s : State) (d r : Nat) : Int :=
  (thetaOf (if fnOk s 10 then fnContent s 10 else 0) d * (zone s r).power / 1000 : Nat)

/-- Neighbour values used for a position. -/
def neighbours (s : State) (i : Nat) : List Int :=
  match posRegion i with
  | none => []
  | some r => ((dieBelow (posDie i)).toList ++ (dieAbove (posDie i)).toList).map (fun d => dieHot s d r)

/-- The estimate E; S8 to S15 have none. -/
def estimate (s : State) (i : Nat) : Option Int :=
  match posRegion i, neighbours s i with
  | some r, [a, b] => some ((a + b) / 2 + powerRise s (posDie i) r)
  | some r, [a] => some (a + powerRise s (posDie i) r)
  | _, _ => none

/-! ## Readings and replacement (R364, R371) -/

/-- The place a die's spare serves. -/
def spareServes (s : State) (d : Nat) : Option Nat := (diePos d).find? (fun i => (tpos s i).source == .spare)

/-- Entry of a die's spare. -/
def spareEntry (d : Nat) : Nat := 88 + d

/-- A plausible reading of a sensor whose earlier one is at the head of its history. -/
def plausible (p : TPos) (v : Int) : Bool :=
  -640 ≤ v && v ≤ 2400 && (match p.hist.head? with
    | some q => (v - s16 q.2).natAbs ≤ 160
    | none => true)

def of16 (v : Int) : BitVec 16 := BitVec.ofInt 16 (max (-32768) (min 32767 v))

/-- Samples kept: those of the last millisecond and the latest before it. -/
def keepHist (now : Nat) (l : List (Nat × BitVec 16)) : List (Nat × BitVec 16) :=
  l.takeWhile (fun p => now < p.1 + ms 1) ++ ((l.dropWhile (fun p => now < p.1 + ms 1)).take 1)

/-- A value taken at a position. -/
def putValue (s : State) (i : Nat) (v : Int) : State :=
  let p := tpos s i
  putTpos s i { p with value := of16 v, badRun := 0, hist := (s.now, of16 v) :: keepHist s.now p.hist }

/-- DETAIL of an event that names a position (17 R477). -/
def posDetail (s : State) (i : Nat) : Nat := i + (tpos s i).value.toNat * 2 ^ 16

/-- A position leaves its sensor: for the die's spare when it is free and sound, else for the model estimate; recorded
in the store room, C1 0x0D04. -/
def replacePos (s : State) (i : Nat) : State :=
  let d := posDie i
  let p := tpos s i
  let spare := (spareServes s d).isNone && !smGet false s.heat.spareBad d
  let s :=
    if spare then putTpos s i { p with source := .spare, suspectRun := 0, badRun := 0 }
    else
      let s := if p.source == .spare then
          { s with heat := { s.heat with spareBad := smSet false s.heat.spareBad d true } } else s
      let s := putTpos s i { p with source := .model, suspectRun := 0, suspectNow := false, badRun := 0 }
      match estimate s i with
      | some e => putValue s i e
      | none => s
  chipFault (storeChanged s) .c1 11 0x0D04 (posDetail s i)

/-- An implausible reading is discarded with C0 0x0D03; the third in a row fails the sensor. -/
def badReading (s : State) (i : Nat) : State :=
  let p := tpos s i
  let s := c0 (putTpos s i { p with badRun := p.badRun + 1 }) 11 0x0D03 (if i < 88 then posDetail s i else i) 0
  if p.badRun + 1 < 3 then s
  else if i < 88 then replacePos s i
  else { (putTpos s i { p with badRun := 0, source := .failed }) with
         heat := { (putTpos s i { p with badRun := 0, source := .failed }).heat with
           spareBad := smSet false s.heat.spareBad (i - 88) true } }

/-- The spare's own reading; a spare in use that fails leaves its position to the model. -/
def spareReading (s : State) (d : Nat) (v : Option (BitVec 16)) : State × Option Int :=
  if smGet false s.heat.spareBad d then (s, none)
  else match v with
    | some x =>
      if plausible (tpos s (spareEntry d)) (s16 x) then (putValue s (spareEntry d) (s16 x), some (s16 x))
      else (badReading s (spareEntry d), none)
    | none => (badReading s (spareEntry d), none)

/-- The reading a position takes at a sample, from its own sensor, its spare or the model. -/
def takeReading (s : State) (powers : List Nat) (i : Nat) (own : Option (BitVec 16)) (spare : Option Int) : State :=
  let p := tpos s i
  match p.source with
  | .own => (match own with
    | some x => if plausible p (s16 x) then putValue s i (s16 x) else badReading s i
    | none => badReading s i)
  | .spare =>
    if smGet false s.heat.spareBad (posDie i) then replacePos s i
    else (match spare with
      | some v => putValue s i (v + spareOffset (posDie i) i powers)
      | none => s)
  | _ => (match estimate s i with
    | some e => putValue s i e
    | none => s)

/-- The suspect check: more than 4 °C below E and below every neighbour, on three samples running (R371). -/
def suspectCheck (s : State) (i : Nat) : State :=
  let p := tpos s i
  if p.source == .model || p.source == .failed then s
  else match estimate s i with
    | none => s
    | some e =>
      let v := s16 p.value
      let bad := v < e - 64 && (neighbours s i).all (fun n => v < n)
      let s := putTpos s i { p with suspectNow := bad, suspectRun := if bad then p.suspectRun + 1 else 0 }
      if bad && 2 ≤ p.suspectRun then replacePos s i else s

/-! ## Warnings (R368) -/

def warnCheck (s : State) (i : Nat) : State :=
  let p := tpos s i
  let v := s16 p.value
  if warnAt s i ≤ v then
    if p.warned then s else c0 (putTpos s i { p with warned := true }) 11 0x0D01 (posDetail s i) 0
  else if v ≤ warnAt s i - 32 then putTpos s i { p with warned := false } else s

/-! ## Throttling (R372 to R375) -/

/-- C0 0x0D02 of a region; a change of level at most once per 1 ms. -/
def throttleC0 (s : State) (r : Nat) (start : Bool) : State :=
  let z := zone s r
  let ok : Bool := start || (match z.lastC0 with
    | some t => waited s t (ms 1)
    | none => true)
  if ok then
    let s := if start then s else putZone s r { z with lastC0 := some s.now }
    c0 s 11 0x0D02 (r + z.t * 2 ^ 8 + b2n start * 2 ^ 16) 0
  else
    let key := 0x0D02 * 65536 + 11
    { s with
      mg := { s.mg with occ := smMod 0 s.mg.occ key (fun n => n + 1) },
      faults := { s.faults with c0Counts := smMod 0 s.faults.c0Counts 0x0D02 (fun n => n + 1) } }

/-- T(r) set, with its event when it changes. -/
def setLevel (s : State) (r t : Nat) : State :=
  let z := zone s r
  if t = z.t then s else throttleC0 (putZone s r { z with t := t }) r false

def zoneHot (s : State) (r : Nat) : Bool := (zonePos r).any (fun i => throttleAt s i ≤ tval s i)
def zoneCool (s : State) (r : Nat) : Bool := (zonePos r).all (fun i => tval s i < holdAt s i)

/-- One step down. -/
def levelDown (s : State) (r : Nat) : State :=
  let z := zone s r
  setLevel (putZone s r { z with lastDown := some s.now }) r (max s.heat.tMin.toNat (z.t - 2))

/-- What a sample does to a region's throttle. -/
def throttleSample (s : State) (r : Nat) : State :=
  let hot := zoneHot s r
  let s := if hot then (if (zone s r).lastDown.isNone then levelDown s r else s)
           else putZone s r { zone s r with lastDown := none }
  let z := zone s r
  let s := putZone s r { z with belowSince := if zoneCool s r then some (z.belowSince.getD s.now) else none }
  let rising := (zonePos r).any (fun i => 32 ≤ rateOf s i)
  let calm := (zonePos r).all (fun i => rateOf s i < 24)
  let z := zone s r
  let z := { z with calmSince := if calm then some (z.calmSince.getD s.now) else none }
  let s := putZone s r z
  if rising && !z.pre then
    throttleC0 (setLevel (putZone s r { z with pre := true }) r (min z.t 12)) r true
  else if z.pre && (match z.calmSince with
      | some t => waited s t (ms 1)
      | none => false) then putZone s r { zone s r with pre := false }
  else s

/-! ## Refresh intervals (07 R236) and wear (R383, R384) -/

/-- REFI of a die's banks in a region, by the value in use, or the estimate while it is suspect. -/
def refiOf (v : Int) : Nat := if v ≤ 1360 then 3906 else if v ≤ 1520 then 1953 else 976

/-- REFI after a sample: a faster rate at once; a slower one only 2 °C below its threshold, 83 °C or 93 °C (07 R237). -/
def nextRefi (old : Nat) (v : Int) : Nat := min (refiOf v) (max old (refiOf (v + 32)))

/-- A die's banks take a new REFI; a faster one moves their next due time to the last plus the new interval, where that is
earlier. -/
def dieRefi (pb d refi : Nat) (k : Block) : Block :=
  let x := bdieOf k d
  let k := if refi < x.refi then { k with banks := k.banks.map (fun p =>
      if dieOfBank pb p.1 = d && p.2.due ≠ 0 then (p.1, { p.2 with due := p.2.due - (x.refi - refi) }) else p) } else k
  putBdie k d { x with refi := refi }

def setRefi (s : State) (d r : Nat) : State :=
  let i := 4 * d + r
  let v := if (tpos s i).suspectNow then (estimate s i).getD (tval s i) else tval s i
  (regionBlocks r).foldl (fun s b => modBlk s b (fun k => dieRefi b d (nextRefi (bdieOf k d).refi v) k)) s

/-- A cycle or half-cycle of a range in sixteenths, added to its bin. -/
def addCycle (w : Wear) (range n : Nat) : Wear :=
  let up (b : BitVec 32) : BitVec 32 := BitVec.ofNat 32 (satAdd 32 b.toNat n)
  if 960 ≤ range then { w with bin60 := up w.bin60 }
  else if 640 ≤ range then { w with bin40 := up w.bin40 }
  else if 320 ≤ range then { w with bin20 := up w.bin20 } else w

/-- Rainflow over the turning points, latest first: an inner range closes a cycle, one that holds the first point a
half-cycle. -/
def rainflow : Nat → Wear → Wear
  | 0, w => w
  | n + 1, w =>
    match w.turns with
    | a :: b :: c :: rest =>
      let x := (a - b).natAbs
      let y := (b - c).natAbs
      if x < y then w
      else if rest.isEmpty then rainflow n (addCycle { w with turns := [a, b] } y 1)
      else rainflow n (addCycle { w with turns := a :: rest } y 2)
    | _ => w

/-- Turning points with 1 °C hysteresis; the head is the extreme so far. -/
def turnWith (l : List Int) (v : Int) : List Int :=
  match l with
  | [] => [v]
  | [h] => if 16 ≤ (v - h).natAbs then [v, h] else [h]
  | h :: g :: rest =>
    if (g ≤ h && h ≤ v) || (h ≤ g && v ≤ h) then v :: g :: rest
    else if 16 ≤ (v - h).natAbs then v :: h :: g :: rest else l

/-- Thresholds of R384 a damage index has passed: 0.5, 0.8, 1.0. -/
def damagePassed (s : State) (w : Wear) : Nat :=
  let a := s.heat.wearLimit20.toNat
  let b := s.heat.wearLimit40.toNat
  let c := s.heat.wearLimit60.toNat
  let n := w.bin20.toNat * b * c + w.bin40.toNat * a * c + w.bin60.toNat * a * b
  ([5, 8, 10].filter (fun k => 2 * k * a * b * c ≤ 10 * n)).length

/-- Interface temperature: the mean of the two dies' hottest values; the cap has D15's. -/
def ifaceTemp (s : State) (r k : Nat) : Int :=
  let lo := if k = 0 then 17 else if k = 1 then 16 else k - 2
  if k = 17 then dieHot s 15 r
  else (dieHot s lo r + dieHot s (if k = 0 then 16 else k - 1) r) / 2

def wearStep (s : State) (r k : Nat) : State :=
  let w := wearOf s r k
  let w := rainflow (w.turns.length + 2) { w with turns := turnWith w.turns (ifaceTemp s r k) }
  let p := damagePassed s w
  let s := { s with heat := { s.heat with wear := smSet {} s.heat.wear (18 * r + k) { w with passed := p } } }
  if (wearOf s r k).passed ≤ w.passed then s else c0 s 11 0x0D06 0 0

/-- Interfaces of a die. -/
def dieIfaces (d : Nat) : List Nat := if d = 17 then [0] else if d = 16 then [0, 1] else [d + 1, d + 2]

/-! ## Status (R369, R382, R386) -/

def argMaxPos (s : State) (l : List Nat) : Nat := (argMin (fun i => (40000 - tval s i).toNat) l).getD 0

/-- Every base-die position lies in a range of degrees, inclusive. -/
def baseIn (s : State) (lo hi : Int) : Bool := (diePos 17).all (fun i => 16 * lo ≤ tval s i && tval s i ≤ 16 * hi)

/-- Every position at or below its resume limit (R381). -/
def allCool (s : State) : Bool :=
  (List.range 88).all (fun i => tval s i ≤ if i < 72 then 16 * s.heat.resumeLimit.toNat else 1600)

/-- THERM_N low: a region throttled or pre-throttled, or a stop in force or in progress. -/
def thermLow (s : State) : Bool :=
  (List.range 4).any (fun r => (zone s r).t < 16 || (zone s r).pre) || s.heat.stop != .running

/-- The fields that follow every sample. -/
def heatStatus (s : State) : State :=
  let d := argMaxPos s (List.range 72)
  let b := argMaxPos s (diePos 17)
  let rates := (List.range 88).map (rateOf s)
  { s with
    heat := { s.heat with
      hotDram := (tpos s d).value, hotDie := BitVec.ofNat 5 (posDie d), hotRegion := BitVec.ofNat 2 ((posRegion d).getD 0),
      hotBase := (tpos s b).value, hotBasePos := BitVec.ofNat 4 (b - 72),
      maxRate := of16 (rates.foldl max (rates.headD 0)), fuseOk := baseIn s 10 70, storeOk := baseIn s 0 95,
      coolSince := if allCool s then some (s.heat.coolSince.getD s.now) else none },
    pins := { s.pins with thermLow := thermLow s } }

/-- CW_THERM_STATUS. -/
def stopCode : StopSt → Nat
  | .running => 0
  | .orderly => 1
  | .stopped => 2
  | .stoppedImm => 3
  | .resuming => 4

def thermStatus (s : State) : Nat :=
  let h := s.heat
  h.hotDram.toNat + h.hotDie.toNat * 2 ^ 16 + h.hotRegion.toNat * 2 ^ 21 + h.hotBase.toNat * 2 ^ 24 +
    h.hotBasePos.toNat * 2 ^ 40 + stopCode h.stop * 2 ^ 44 + b2n h.baseStop * 2 ^ 47 + b2n h.fuseOk * 2 ^ 48 +
    b2n h.storeOk * 2 ^ 49 + (replaced s).length * 2 ^ 50

/-- CW_THERM_ZONE. -/
def thermZone (s : State) : Nat :=
  (List.range 4).foldl (fun a r =>
    let z := zone s r
    a + (z.t + b2n z.pre * 32 + b2n (z.t < 16) * 64) * 2 ^ (8 * r)) 0 + s.heat.maxRate.toNat * 2 ^ 32

def sourceCode : TSource → Nat
  | .own => 0
  | .spare => 1
  | .model => 2
  | .failed => 3

/-- The record of R387: 88 positions, and the spares of D0 to D15. -/
def thermRecord (s : State) : List (BitVec 8) :=
  (List.range 104).flatMap (fun i =>
    let p := tpos s i
    leBytes p.value.toNat 2 ++ leBytes (sourceCode p.source + 4 * b2n p.suspectNow) 2)

end Sys2Proof.Machine
end

