-- ==== Sys2Proof/Machine/Sched.lean ====
section
/-! DEFINITION. Events of a block: a CA slot, echoes, read data and their retries, idle rows, refresh, and leaving and
returning (07 R225 to R242; 09 R279, R280). -/

namespace Sys2Proof.Machine

/-! ## Row echoes (R227 to R229) -/

/-- The 4-bit code of a bank's open row: {DBANK, row} modulo 15. -/
def rowCode (bank row : Nat) : Nat := (dbankOf bank * 65536 + row) % 15

/-- The command a die ignored is driven once more: what it was to have done is undone here, for the scheduler to do again;
a PRE is driven at once. -/
def reissueSent (s : State) (pb d t : Nat) (c : Sent) : State :=
  match c with
  | .act bank row => if (bankOf (blk s pb) bank).row = some row then modBlk s pb (fun k => closeRow k bank s.now) else s
  | .pre bank => if (bankOf (blk s pb) bank).row.isNone then issuePre s pb bank else s
  | .ref bank => modBlk s pb (fun k => modBank k bank (fun x => { x with
      debt := min 8 (x.debt + 1), refRow := (x.refRow + 65528) % 65536 }))
  | .row bank dst dstBank => modBlk s pb (fun k => { k with rowOps := k.rowOps.map (fun r =>
      if r.bank = bank && r.dst = dst && r.dstBank = dstBank && r.issued = some t then { r with issued := none } else r) })
  | .mode sub v => modBlk s pb (fun k => putBdie k d { bdieOf k d with modes := (sub, v) :: (bdieOf k d).modes })
  | .col bank =>
    let here (key : Nat) : Bool := physBank s pb (keyBank key) = bank
    modBlk s pb (fun k => { k with
      rq := k.rq.map (fun e => if here e.key && e.issued && e.at0 = t then { e with issued := false } else e),
      wq := k.wq.map (fun e => if here e.key && e.baseIssued && e.baseAt = t then { e with baseIssued := false } else e),
      wrEcho := k.wrEcho.filter (fun p => !(here p.2.1 && p.2.2 = t)) })

/-- The last command driven to a die before the column command of a bank at a tick: the one whose word the alert in that
command's code rejects (R227 has the die raise it in the next code it drives; DEDUCED, log 190). -/
def ignoredBy (s : State) (pb bank t : Nat) : Option (Nat × Sent) :=
  ((((bdieOf (blk s pb) (dieOfBank pb bank)).sent.filter (fun p => p.1 ≤ t)).erase (t, .col bank))).head?

/-- CA[3:0] and CAP are to be walked next (15 R426); alerts again within 1 ms of such a walk charge the wire whose delay moved
most in it (09 R282). -/
def startRequal (s : State) (pb : Nat) : State :=
  let w := walkOf s pb
  match w.requalEnd, w.requalWorst with
  | some t, some (x, _) => if s.now < t + ms 1 then chargeTsv (putWalk s pb { w with requalEnd := none }) pb x
                           else putWalk s pb { w with requal := [144, 145, 146, 147, 148], requalEnd := none, requalWorst := none }
  | _, _ => putWalk s pb { w with requal := [144, 145, 146, 147, 148], requalEnd := none, requalWorst := none }

/-- A parity alert in the code of a column command driven at a tick: counted, and the command it rejects driven again; the
third within 1 ms raises C0 0x0702 and starts the CA requalification (R227). -/
def parityAlert (s : State) (pb bank t : Nat) : State :=
  let d := dieOfBank pb bank
  let old := (blk s pb).alerts.filter (fun t => s.now < t + ms 1)
  let three := 2 ≤ old.length
  let s := match ignoredBy s pb bank t with
    | some p => reissueSent s pb d p.1 p.2
    | none => s
  let s := modBlk s pb (fun k =>
    let k := { k with
      capAlerts := satAdd 32 k.capAlerts 1, alerts := if three then [] else s.now :: old,
      requal := k.requal || three }
    modBank k bank (fun x => { x with alerted := true }))
  if three then startRequal (raiseC0 s .block (pb / 9) pb 0x0702 0 0) pb else s

/-- A command that succeeds after a mismatch or an alert raises C0 0x0701 and ends the run; the activate echo of a row whose
column code failed does not (R229). -/
def echoGood (s : State) (pb bank : Nat) (col : Bool) : State :=
  let x := bankOf (blk s pb) bank
  if (x.missCnt = 0 && !x.alerted) || (!col && x.missCol) then s
  else
    let s := modBlk s pb (fun k => modBank k bank (fun x => { x with
      missCnt := 0, missRow := 0, missCol := false, alerted := false }))
    raiseC0 s .cell (pb / 9) (68 * pb + bank) 0x0701 (b2n (0 < x.missCnt)) 0

/-- Reads of a failed row are answered POISONED. -/
def failRead (s : State) (pb : Nat) (e : REnt) : State := finishRead s pb e { d := 0, p := true, h := true }

/-- Writes to a failed row are not performed, and answered POISONED while no CMP has gone. -/
def failWrite (s : State) (pb : Nat) (e : WEnt) : State :=
  let s := wqRemove s pb e
  match e.ctx with
  | some i =>
    let s := markLineDone s i e.li
    (match ctxGet s i with
     | some c => if c.phase == .working && isWriteOp c.op then answerStatus (unreserve s c) { c with reserved := false } stPoisoned (hAddr c.h0)
                 else s
     | none => s)
  | none => s

/-- A key lies in a row given up (R229). -/
def inBadRow (s : State) (pb key : Nat) : Bool :=
  (bankOf (blk s pb) (physBank s pb (keyBank key))).badRows.contains (keyRow key)

/-- Reads of rows given up are answered POISONED; writes to them, poisoned ones included, are not performed. -/
def endBadRows (s : State) (pb : Nat) : State :=
  if (blk s pb).banks.all (fun p => p.2.badRows.isEmpty) then s
  else
    let s := ((blk s pb).rq.filter (fun e => inBadRow s pb e.key)).foldl (fun s e => failRead s pb e) s
    let s := ((blk s pb).wq.filter (fun e => inBadRow s pb e.key)).foldl (fun s e => failWrite s pb e) s
    let u := ucReg s (pb / 9)
    if u.poison.any (fun p => physBlock s p.lblock = pb && inBadRow s pb p.key) then
      ucRegPut s (pb / 9) { u with poison := u.poison.filter (fun p => !(physBlock s p.lblock = pb && inBadRow s pb p.key)) }
    else s

/-- A bank is precharged at once: PRE driven, effective once tRAS has passed (R229; 09 R280). -/
def forcePre (s : State) (pb bank : Nat) : State :=
  let s := driveWords s pb [caWord 4 (dieOfBank pb bank) (dbankOf bank) 0 false]
  modBlk s pb (fun k => closeRow k bank (max s.now ((bankOf k bank).actAt + tRAS)))

/-- Three consecutive mismatches on a row: its requests end POISONED from now on, C2 0x0705, and the bank is charged
(R229). -/
def rowFailed (s : State) (pb bank row : Nat) : State :=
  let s := modBlk s pb (fun k => modBank k bank (fun x => { x with
    missCnt := 0, missRow := 0, missCol := false, badRows := row :: x.badRows.filter (fun q => q ≠ row) }))
  chargeBank (cellFault (endBadRows s pb) .c2 pb bank 0x0705 0) pb bank

/-- A mismatch: the bank is precharged, to be activated again; at the third the row has failed. -/
def echoBad (s : State) (pb bank row : Nat) (col : Bool) : State :=
  let x := bankOf (blk s pb) bank
  let run : Bool := x.missRow = row ∧ 0 < x.missCnt
  let n := if run then x.missCnt + 1 else 1
  let s := modBlk (forcePre s pb bank) pb (fun k =>
    modBank { k with echoMiss := satAdd 32 k.echoMiss 1 } bank (fun x => { x with
      missRow := row, missCnt := n, missCol := col || (run && x.missCol) }))
  if 3 ≤ n then rowFailed s pb bank row else s

/-- The activate echo (R228, R229). -/
def activateEcho (s : State) (pb bank : Nat) (row : BitVec 16) (dbank : BitVec 3) (p : Bool) : State :=
  let x := bankOf (blk s pb) bank
  match x.row with
  | none => s
  | some r =>
    if x.echoOk || s.now < x.actAt + tAECHO then s
    else
      let even := parity (row.toNat + dbank.toNat * 65536 + b2n p * 2 ^ 19) 20 == false
      if even && row.toNat = r && dbank.toNat = dbankOf bank then
        echoGood (modBlk s pb (fun k => modBank k bank (fun x => { x with echoOk := true }))) pb bank false
      else echoBad s pb bank r false

def execActEchoReceived (b bank : Nat) (row : BitVec 16) (dbank : BitVec 3) (parity : Bool) (s : State) :
    Host.Outcome State Fault Refusal :=
  if b < 36 ∧ bank < 68 then whenLive s (fun s => settle (activateEcho s b bank row dbank parity))
  else .next s

/-- The pending poisoned write of a line is performed (06 R210). -/
def performPoison (s : State) (pb : Nat) (p : PoisonItem) : State :=
  let u := ucReg s (pb / 9)
  let s := ucRegPut s (pb / 9) { u with poison := u.poison.filter (fun q => q ≠ p) }
  ptabMark (keyWrite s pb p.key (valCw poisonZeros)) pb p.key true

/-- The column echo of a WR: data is driven and the write performed only when the code matches (R228, R229). -/
def columnEcho (s : State) (pb key : Nat) (echo : BitVec 4) : State :=
  match (blk s pb).wrEcho.find? (fun p => p.2.1 = key && p.2.2 + tECHO ≤ s.now) with
  | none => s
  | some p =>
    let bank := physBank s pb (keyBank key)
    let s := modBlk s pb (fun k => { k with wrEcho := k.wrEcho.erase p })
    if echo.toNat = rowCode bank (keyRow key) then
      let s := echoGood s pb bank true
      match (blk s pb).wq.find? (fun e => e.key = key && e.ord = p.1) with
      | some e => settle (performEnt s pb e)
      | none => (match (ucReg s (pb / 9)).poison.find? (fun q => q.key = key && q.ord = p.1 && physBlock s q.lblock = pb) with
        | some q => settle (performPoison s pb q)
        | none => s)
    else if echo = 15 then settle (parityAlert s pb bank p.2.2)
    else settle (echoBad s pb bank (keyRow key) true)

def execWrColumnEcho (b key : Nat) (echo : BitVec 4) (s : State) : Host.Outcome State Fault Refusal :=
  if b < 36 then whenLive s (fun s => columnEcho s b key echo) else .next s

/-! ## Read data (R222, R223; 09 R279, R280) -/

/-- What a column read was for. -/
inductive Reader where
  | read (e : REnt)
  | base (e : WEnt)
  deriving DecidableEq, Repr, Inhabited

/-- The issued read of a line whose data returns. -/
def readerOf (s : State) (pb key : Nat) : Option Reader :=
  let k := blk s pb
  match k.rq.find? (fun e => e.key = key && e.issued && e.at0 + tCL ≤ s.now) with
  | some e => some (.read e)
  | none => (k.wq.find? (fun e => e.key = key && e.st == .base && e.baseIssued && e.baseAt + tCL ≤ s.now)).map Reader.base

/-- The read is to be made again. -/
def reissue (s : State) (pb : Nat) (r : Reader) : State :=
  match r with
  | .read e => modBlk s pb (fun k => { k with rq := k.rq.map (fun x =>
      if x.owner == e.owner && x.key = e.key && x.ord = e.ord then { x with issued := false } else x) })
  | .base e => wqUpdate s pb e { e with baseIssued := false }

/-- Bytes as the bus and the cells returned them. -/
def withErrs (c : Codeword) (errs : List (Nat × BitVec 8)) : Codeword :=
  errs.foldl (fun c p => if p.1 < 72 then c ^^^ BitVec.ofNat 576 (p.2.toNat * 2 ^ (8 * p.1)) else c) c

/-- Whether a read installs its line: a request outside bulk windows, or a row fill; the Trowel allocates nothing (06
R193). -/
def cachesFor (s : State) (e : REnt) : Bool :=
  match e.owner with
  | .ctx i _ => (match ctxGet s i with
    | some c => c.kind == .request && c.cls != .bulk
    | none => false)
  | .rowFill => true
  | _ => false

/-- With ROW_FILL, the row's other lines are read too while it is open (06 R193). -/
def rowFills (s : State) (pb : Nat) (e : REnt) (r set w : Nat) : State :=
  if !s.cfg.rowFill || e.owner == .rowFill then s
  else (List.range 32).foldl (fun s n =>
    let key := lineKey (keyBank e.key) (keyRow e.key) n
    if (tagGet s r set w).valid.getLsbD n || !rqIntFree s pb || !budgetRank s r 7 || (blk s pb).rq.any (fun x => x.key = key) ||
        (blk s pb).wq.any (fun x => x.key = key) then s
    else countLines (modBlk s pb (fun k => { k with rq := k.rq ++
      [{ key := key, ord := s.tx.nextOrd - 1, rank := 7, owner := .rowFill, pool := false, issued := false, at0 := s.now,
         pos := s.tx.nextOrd - 1 }] })) r 1) s

/-- A request's read that found no line in the Undercoat is counted by what it found there (19 R502). -/
def countLookup (s : State) (lb : Nat) (e : REnt) : State :=
  match e.owner with
  | .ctx _ _ => if ucUsable s (lb % 4) then occ s (if (rowFrame s lb e.key).isSome then 0x0C1 else 0x0C2) 6 (lb % 4) 1 else s
  | _ => s

/-- A DRAM line that is read is installed clean in its row's frame, or in one allocated for it (06 R192). -/
def installRead (s : State) (pb : Nat) (e : REnt) (v : LVal) : State :=
  let lb := (logicalOf s pb).getD 0
  let s := countLookup s lb e
  if !cachesFor s e then s
  else
    let (s, f) := match rowFrame s lb e.key with
      | some f => (s, some f)
      | none => if e.owner == .rowFill then (s, none) else allocFrame s lb e.key
    match f with
    | some (set, w) =>
      let t := tagGet s (lb % 4) set w
      if t.valid.getLsbD (keyLine e.key) || t.busy then s
      else rowFills (frameInstall s (lb % 4) set w (keyLine e.key) (valCw v) false) pb e (lb % 4) set w
    | none => s

/-- The write-back of a corrected line takes its entry of the internal pool at rank 11, ordered at the read; one whose line a
write of the queue stores anyway is dropped. -/
def placeBack (s : State) (pb : Nat) (v : Verify) : State :=
  match (if v.await.any (fun o => (blk s pb).wq.any (fun e => e.key = v.key && e.ord = o)) then none else v.back) with
  | none => s
  | some (ord, d, p, h) =>
    let x := srBlk s pb
    let s' := putSr s pb { x with verify := x.verify.map (fun y => if y = v then { v with back := none, await := none } else y) }
    if (blk s pb).wq.any (fun e => e.key = v.key) then s'
    else if wqIntFree s pb && budgetRank s (pb / 9) 11 then
      countLines (modBlk s' pb (fun k => { k with wq := k.wq ++
        [{ key := v.key, ord := ord, be := allBytes, kind := .internal, st := .ready, rank := 11, tgt := .dram, data := d,
           poison := p, hint := h, ctx := none, li := 0, cmpSent := true, baseIssued := false, aop := 0, asz := 0,
           aoff := 0, cmpd := 0, at0 := s.now, pos := s.tx.nextOrd - 1 }] })) (pb / 9) 1
    else s

/-- The verify takes its entry once the write-back, or the write that replaced it, has been performed. -/
def placeVerify (s : State) (pb : Nat) (v : Verify) : State :=
  if v.back.isNone && !(blk s pb).wq.any (fun e => e.key = v.key) && !(blk s pb).rq.any (fun e => e.owner == .verify && e.key = v.key) &&
      rqIntFree s pb && budgetRank s (pb / 9) 11 then
    countLines (modBlk s pb (fun k => { k with rq := k.rq ++
      [{ key := v.key, ord := s.tx.nextOrd, rank := 11, owner := .verify, pool := false, issued := false, at0 := s.now,
         pos := s.tx.nextOrd - 1 }] })) (pb / 9) 1
  else s

/-- Write-backs and verifies of a block take the entries that are free; a write-back not yet issued is dropped once a later
write of its line has been accepted (09 R279). -/
def placeInternal (s : State) (pb : Nat) : State :=
  if (srBlk s pb).verify.all (fun v => v.retry) then s
  else
    let s := modBlk s pb (fun k => { k with wq := k.wq.filter (fun e => !(e.kind == .internal && e.rank = 11 &&
      !awaitsEcho k e.ord e.key && k.wq.any (fun x => x.key = e.key && e.ord < x.ord))) })
    let s := ((srBlk s pb).verify.filter (fun v => !v.retry)).foldl (fun s v => placeBack s pb v) s
    ((srBlk s pb).verify.filter (fun v => !v.retry)).foldl (fun s v => placeVerify s pb v) s

/-- A corrected line is to be written back, or to be stored by the write that read it as its base, and verified (09 R279). -/
def writeBack (s : State) (pb key ord : Nat) (v : LVal) (syms : List (Nat × BitVec 8)) (rewrite : Bool) : State :=
  let x := srBlk s pb
  placeInternal (putSr s pb { x with verify := x.verify ++
    [{ bank := physBank s pb (keyBank key), row := keyRow key, line := keyLine key, syms := syms, key := key, retry := false,
       owner := none, back := some (ord, v.d, v.p, v.h), await := if rewrite then none else some ord }] }) pb

/-- A corrected line is counted, and raises C0 0x0901 at most once per block per second (09 R279). -/
def countCorrected (s : State) (pb key : Nat) : State :=
  let k := blk s pb
  let s := occ (modBlk s pb (fun k => { k with corrected := k.corrected + 1 })) 0x028 (pb / 9) (pb % 9) 1
  let due : Bool := match k.lastC0 with
    | none => true
    | some t => waited s t (ms 1000)
  if due then
    raiseC0 (modBlk s pb (fun k => { k with lastC0 := some s.now })) .cell (pb / 9)
      (68 * pb + physBank s pb (keyBank key)) 0x0901 (keyDpa s pb key) 0
  else s

/-- POISON neither 0x0 nor 0xF is read as poisoned and reported (09 R277). -/
def oddPoison (s : State) (pb key : Nat) (odd : Bool) : State :=
  if odd then raiseC0 s .cell (pb / 9) (68 * pb + physBank s pb (keyBank key)) 0x0902 (keyDpa s pb key) 0 else s

/-- A retry is owed for this line and reader (09 R280). -/
def retryOf (s : State) (pb key : Nat) (o : ROwner) : Option Verify :=
  (srBlk s pb).verify.find? (fun v => v.retry && v.key = key && v.owner == some o)

def dropVerify (s : State) (pb : Nat) (v : Verify) : State :=
  let x := srBlk s pb
  putSr s pb { x with verify := x.verify.erase v }

/-- Who a reader is, for its retry. -/
def readerOwner : Reader → ROwner
  | .read e => e.owner
  | .base e => .base e.ord e.key

/-- Good data reaches its reader. -/
def deliver (s : State) (pb : Nat) (r : Reader) (v : LVal) : State :=
  match r with
  | .read e =>
    let es := earlier (blk s pb) e.key e.ord
    let s := installRead s pb e v
    finishRead s pb e (overlays v es)
  | .base e =>
    let es := (earlier (blk s pb) e.key e.ord).filter (fun x => !sameEnt x e)
    applyBase s pb e (some (overlays v es))

/-- A partial WR whose CMP has gone. -/
def cmpGone (s : State) (r : Reader) : Option Node :=
  match r with
  | .base e => if e.kind == .partialW && e.cmpSent then
      (match e.ctx with
       | some i => (match ctxGet s i with
         | some c => some c.src
         | none => some 0)
       | none => some 0) else none
  | .read _ => none

/-- The poisoned zeros of a lost line are to be read back, to find the symbols in error (09 R282).  The rule gives that read no
rank; it takes the verify's (DESIGN CHOICE, log 191). -/
def askReadBack (s : State) (pb key : Nat) : State :=
  let x := srBlk s pb
  placeInternal (putSr s pb { x with verify := x.verify ++
    [{ bank := physBank s pb (keyBank key), row := keyRow key, line := keyLine key, syms := [], key := key, retry := false,
       owner := none, readBack := true }] }) pb

/-- Symbols of a read-back that differ from the codeword written, with their failing bits; once a later write has stored the
line anew, those the decoder finds. -/
def backSyms (s : State) (pb key : Nat) (c : Codeword) : List (Nat × BitVec 8) :=
  if keyRead s pb key == valCw poisonZeros || (blk s pb).ptab.contains key then
    ((cwSyms c).zip (cwSyms (valCw poisonZeros))).zipIdx.filterMap (fun p =>
      if p.1.1 = p.1.2 then none else some (p.2, BitVec.ofNat 8 (p.1.1 ^^^ p.1.2)))
  else match decodeLine c with
    | .good _ _ _ _ fixed => fixed
    | .bad => []

/-- A line uncorrectable after its retry: answered POISONED, written as poisoned zeros, C2 0x0904, or C2 0x0706 for a
partial WR already answered OK; its read-back follows (09 R280, R282; 07 R225). -/
def lineLost (s : State) (pb key : Nat) (r : Reader) : State :=
  let bank := physBank s pb (keyBank key)
  let lb := (logicalOf s pb).getD 0
  let s := occ s 0x029 (pb / 9) (pb % 9) 1
  let s := ptabMark (keyWrite s pb key (valCw poisonZeros)) pb key true
  let s := match cmpGone s r with
    | some n => blockFault s .c2 pb 0x0706 (dpaOf s lb key + n.toNat * 2 ^ 48)
    | none => cellFault s .c2 pb bank 0x0904 (keyDpa s pb key)
  let s := match r with
    | .read e => finishRead s pb e (overlays poisonZeros (earlier (blk s pb) e.key e.ord))
    | .base e => applyBase s pb e none
  askReadBack s pb key

/-- An uncorrectable read: retried after a fresh activation, or lost (09 R280). -/
def uncorrectable (s : State) (pb key : Nat) (r : Reader) (errs : List (Nat × BitVec 8)) : State :=
  match retryOf s pb key (readerOwner r) with
  | some v => lineLost (dropVerify s pb v) pb key r
  | none =>
    let bank := physBank s pb (keyBank key)
    let x := srBlk s pb
    let s := putSr s pb { x with verify := x.verify ++
      [{ bank := bank, row := keyRow key, line := keyLine key, syms := errs, key := key, retry := true,
         owner := some (readerOwner r) }] }
    let s := reissue s pb r
    if (bankOf (blk s pb) bank).row = some (keyRow key) then forcePre s pb bank else s

/-- The read-back of a lost line: a permanent error of the symbols that differ (R282). -/
def backRead (s : State) (pb : Nat) (e : REnt) (v : Verify) (c : Codeword) : State :=
  let syms := backSyms s pb e.key c
  judge (dropVerify (rqRemove s pb e) pb v) pb v.bank v.row v.line syms syms true

/-- The read-back an issued read makes. -/
def backOf (s : State) (pb : Nat) (r : Reader) : Option (REnt × Verify) :=
  match r with
  | .read e => if e.owner == .verify then ((srBlk s pb).verify.find? (fun v => !v.retry && v.key = e.key && v.readBack)).map
      (fun v => (e, v)) else none
  | .base _ => none

/-- The verify of a corrected line: the error is judged (09 R279, R282). -/
def verified (s : State) (pb : Nat) (e : REnt) (again : List (Nat × BitVec 8)) : State :=
  let s := rqRemove s pb e
  match (srBlk s pb).verify.find? (fun v => !v.retry && v.key = e.key) with
  | some v => judge (dropVerify s pb v) pb v.bank v.row v.line v.syms again false
  | none => s

/-- A decoded line: clean, or corrected with its write-back and verify. -/
def goodRead (s : State) (pb key : Nat) (r : Reader) (v : LVal) (odd : Bool) (fixed : List (Nat × BitVec 8)) : State :=
  let s := oddPoison s pb key odd
  let first := retryOf s pb key (readerOwner r)
  let s := match first with
    | some f => dropVerify s pb f
    | none => s
  let ord := match r with
    | .read e => e.ord
    | .base e => e.ord
  match r with
  | .read e =>
    if e.owner == .verify then verified (if fixed.isEmpty then s else countCorrected s pb key) pb e fixed
    else
      let s := deliver s pb r v
      let s := match first with
        | some f => judge s pb f.bank f.row f.line f.syms fixed false
        | none => s
      if fixed.isEmpty then s else writeBack (countCorrected s pb key) pb key ord v fixed true
  | .base _ =>
    let s := deliver s pb r v
    if fixed.isEmpty then s else writeBack (countCorrected s pb key) pb key ord v fixed false

/-- Data returns for an issued read, with its row code (R228, R229). -/
def readData (s : State) (pb key : Nat) (echo : BitVec 4) (errs : List (Nat × BitVec 8)) : State :=
  match readerOf s pb key with
  | none => s
  | some r =>
    let bank := physBank s pb (keyBank key)
    let t := match r with
      | .read e => e.at0
      | .base e => e.baseAt
    if echo = 15 then parityAlert (reissue s pb r) pb bank t
    else if echo.toNat ≠ rowCode bank (keyRow key) then echoBad (reissue s pb r) pb bank (keyRow key) true
    else
      let s := echoGood s pb bank true
      match backOf s pb r, decodeLine (withErrs (keyRead s pb key) errs) with
      | some (e, v), _ => backRead s pb e v (withErrs (keyRead s pb key) errs)
      | none, .good d p h odd fixed => goodRead s pb key r { d := d, p := p, h := h } odd fixed
      | none, .bad => uncorrectable s pb key r errs

def execDramReadData (b key : Nat) (echo : BitVec 4) (errs : List (Nat × BitVec 8)) (s : State) :
    Host.Outcome State Fault Refusal :=
  if b < 36 ∧ errs.all (fun p => p.1 < 72) then whenLive s (fun s => settle (readData s b key echo errs))
  else .next s

/-! ## The CA slot (R232) -/

/-- A block's CA slot: internal work that waits takes its entries, requests for rows given up end, and a command is chosen. -/
def execBlockCaSlot (b : Nat) (s : State) : Host.Outcome State Fault Refusal :=
  if b < 36 then whenLive s (fun s => caSlot (placeInternal (endBadRows s b) b) b) else .next s

/-! ## Idle rows and refresh (R234, R236 to R238) -/

/-- The idle timer of a bank expires with no queued hit: the row is closed (R234). -/
def idleClose (s : State) (pb bank : Nat) : State :=
  let x := bankOf (blk s pb) bank
  if x.row.isSome && x.idleAt + s.cfg.idleTimer.toNat ≤ s.now && preOk (blk s pb) pb bank s.now && slotFree s pb &&
      !(x.row.any (rowWanted s pb bank)) then
    issuePre s pb bank
  else s

def execBankIdleTimeout (b bank : Nat) (s : State) : Host.Outcome State Fault Refusal :=
  if b < 36 ∧ bank < 68 then whenLive s (fun s => idleClose s b bank) else .next s

/-- A bank's due time: set, or its stagger offset from the opening of placement (R237). -/
def dueTime (k : Block) (pb bank : Nat) : Nat :=
  let x := bankOf k bank
  if x.due = 0 then k.t0 + bank * (bdieOf k (dieOfBank pb bank)).refi / 68 else x.due

/-- A refresh comes due: the debt grows, and at debt 8 the refresh is forced (R237, R238). -/
def refreshComesDue (s : State) (pb bank : Nat) : State :=
  let k := blk s pb
  let due := dueTime k pb bank
  if s.now < due || isRetiredBank s pb bank || k.st == .selfRefresh || k.st == .bist || k.st == .retired then s
  else
    let x := bankOf k bank
    let x := { x with due := due + (bdieOf k (dieOfBank pb bank)).refi }
    if x.debt < 8 then putBlk s pb (putBank k bank { x with debt := x.debt + 1 })
    else occ (putBlk s pb (putBank { k with forced := satAdd 32 k.forced 1 } bank { x with forced := true }))
           0x023 (pb / 9) (pb % 9) 1

def execRefreshDue (b bank : Nat) (s : State) : Host.Outcome State Fault Refusal :=
  if b < 36 ∧ bank < 68 then whenLive s (fun s => refreshComesDue s b bank) else .next s

/-! ## Leaving and returning (R241, R242) -/

/-- Writes still without their data in a block are abandoned with RETRY (R170, R241); those of Trowel steps are reissued (08
R267). -/
def abandonIn (s : State) (pb : Nat) : State :=
  (((blk s pb).wq.filter (fun e => e.st == .waitData)).filterMap WEnt.ctx).eraseDups.foldl (fun s i =>
    match ctxGet s i with
    | some c => if c.phase == .working && !c.dataOk then endCtx s c stRetry else s
    | none => s) (reissueIn s pb (fun c i l => l.wr && (blk s pb).wq.any (fun e => e.ctx = some c.idx && e.li = i && e.st == .waitData)))

/-- The dirty lines of a block's rows in the Undercoat are written to DRAM; the rows stay, clean (06 R212). -/
def ucWriteBack (s : State) (lb : Nat) : State :=
  (s.uc.tags.filter (fun p => p.1 / 65536 = lb % 4 && p.2.dirty ≠ 0 && p.2.rowId.toNat % 8 = localBlock lb)).foldl (fun s p =>
    frameWriteBack s (lb % 4) (p.1 / 16 % 4096) (p.1 % 16)) s

/-- Every row closed, and MODE self-refresh entry to every die, unless the block is powered down for BIST (R226, R241). -/
def selfRefreshAll (s : State) (pb : Nat) (st : BState) : State :=
  let pres := (List.range 16).map (fun d => caWord 4 d 0 0 true)
  let s := driveWords s pb (if st == .bist then pres else pres ++ (List.range 16).map (fun d => caWord 7 d 0 0 false))
  modBlk s pb (fun k =>
    let k := { k with st := st, banks := k.banks.map (fun p => (p.1, { p.2 with row := none, preAt := s.now, echoOk := false })) }
    (List.range 16).foldl (fun k d => putBdie k d { bdieOf k d with selfRef := st != .bist }) k)

/-- A block BIST waits for this block. -/
def bistWaits (s : State) (pb : Nat) : Bool :=
  s.test.runs.any (fun t => t.kind = 1 && t.pblock = pb && t.phase == .waitUnit)

/-- Nothing is left to perform or complete in a block. -/
def drained (k : Block) : Bool := k.rq.isEmpty && k.wq.isEmpty && k.wrEcho.isEmpty && k.rowOps.isEmpty

/-- A forced restore of a subarray is still to be made in a block (18 R495). -/
def restoreOwed (s : State) (pb : Nat) : Bool :=
  s.test.runs.any (fun t => runOpen t && t.pblock = pb && t.forced && t.endWith.isSome)

/-- A leaving block with nothing left writes its Undercoat rows back and enters self-refresh, or BIST (R241). -/
def drainComplete (s : State) (pb : Nat) : State :=
  if (blk s pb).st == .leaving && drained (blk s pb) && !restoreOwed s pb then
    let s := match logicalOf s pb with
      | some lb => ucWriteBack s lb
      | none => s
    selfRefreshAll s pb (if bistWaits s pb then .bist else .selfRefresh)
  else s

def execBlockDrainComplete (b : Nat) (s : State) : Host.Outcome State Fault Refusal :=
  if b < 36 then whenLive s (fun s => drainComplete s b) else .next s

/-- Contexts of the old block epoch with a line still to do are answered RETRY, lines of Trowel steps reissued (01 R19, R242;
08 R267). -/
def retryOldEpoch (s : State) (pb : Nat) : State :=
  let s := reissueIn s pb (fun c _ _ => c.blkEpochs.any (fun p => p.1 = pb && p.2 ≠ blkEpoch s pb))
  (s.tx.ctxs.filter (fun c => c.kind == .request && c.phase == .working && c.ing < 5 &&
      c.blkEpochs.any (fun p => p.1 = pb && p.2 ≠ blkEpoch s pb) &&
      c.lines.any (fun l => !l.done && physBlock s l.lblock = pb))).foldl (fun s c => endCtx s c stRetry) s

/-- Contexts of the old region epoch with a line of the region still to do are answered RETRY (01 R19). -/
def retryOldRegion (s : State) (r : Nat) : State :=
  (s.tx.ctxs.filter (fun c => c.kind == .request && c.phase == .working && c.ing < 5 &&
      c.regEpochs.any (fun p => p.1 = r && p.2 ≠ regEpoch s r) &&
      c.lines.any (fun l => !l.done && l.region = r))).foldl (fun s c => endCtx s c stRetry) s

/-- A block returns (t0 of R242): its epoch advances, its dies leave self-refresh, calibration is
reapplied, every bank owes eight refreshes; a wire a walk holds is given back (15 R426). -/
def startReturn (s : State) (pb : Nat) : State :=
  let s := retryOldEpoch (bumpBlock s pb) pb
  let s := putWalk s pb { walkOf s pb with wire := none, loops := [], pend := [] }
  let asleep := (List.range 16).filter (fun d => (bdieOf (blk s pb) d).selfRef)
  let s := driveWords s pb (asleep.map (fun d => caWord 7 d 0 1 false) ++ calWords s pb ++
    (List.range 16).map (fun d => caWord 4 d 0 0 true))
  modBlk s pb (fun k =>
    let k := { k with st := .returning, t0 := s.now }
    let k := (List.range 16).foldl (fun k d =>
      let x := bdieOf k d
      putBdie k d { x with modeTill := if x.selfRef then s.now + tXS else s.now, selfRef := false }) k
    (List.range 68).foldl (fun k b =>
      modBank k b (fun x => { x with
        row := none, echoOk := false, preAt := s.now,
        debt := if isRetiredBank s pb b then x.debt else 8, forced := false })) k)

/-- Placement opens once the catch-up burst is done, by t0 + 5.8 µs; due times restart with their stagger (R242). -/
def openPlacement (s : State) (pb : Nat) : State :=
  let k := blk s pb
  let caught := k.banks.all (fun p => p.2.debt = 0 || isRetiredBank s pb p.1)
  if k.st == .returning && ((caught && waited s k.t0 (us 1)) || waited s k.t0 5800) then
    settle (modBlk s pb (fun k => { k with
      st := .serving, t0 := s.now, banks := k.banks.map (fun p => (p.1, { p.2 with due := 0 })) }))
  else s

def execBlockPlacementOpen (b : Nat) (s : State) : Host.Outcome State Fault Refusal :=
  if b < 36 then whenLive s (fun s => openPlacement s b) else .next s

end Sys2Proof.Machine
end

