-- ==== Sys2Proof/Machine/Integrity.lean ====
section
/-! DEFINITION. Repairs, migrations and scrubs (09 R281 to R295), and starved internal work (21 R529). -/

namespace Sys2Proof.Machine

/-! ## Error history -/

/-- Entries expire 24 hours after their first failure (R281). -/
def expireHist (s : State) (pb : Nat) : State :=
  let x := srBlk s pb
  putSr s pb { x with hist := x.hist.filter (histLive s) }

def execErrorHistoryExpire (b : Nat) (s : State) : Host.Outcome State Fault Refusal :=
  if b < 36 then whenLive s (fun s => expireHist s b) else .next s

/-! ## TSV substitution (R285) -/

/-- Ticks until a die's open rows are precharged: tRAS, and what its last column command needs (07 R230). -/
def preReady (k : Block) (bank now : Nat) : Nat :=
  let x := bankOf k bank
  max (max now (x.actAt + tRAS)) (max (if x.lastCol = 1 then x.colAt + tRTP else 0) (if x.wrEnd = 0 then 0 else x.wrEnd + tWR))

/-- A repair word to the dies of a list: MODE, with its operand in the NOP word that follows, after an ACT of the row that a
row or column repair names (09 R286).  It closes the open rows of these dies, and keeps them busy for tMODE (07 R230, R235). -/
def modeDies (s : State) (pb : Nat) (ds : List Nat) (act : List (BitVec 16)) (sub dbank operand : Nat) : State :=
  let s := driveWords s pb (act ++ ds.flatMap (fun d => [caWord 7 d dbank sub false, BitVec.ofNat 16 (operand * 8)]))
  modBlk s pb (fun k => ds.foldl (fun k d =>
    let bs := openOn k pb d
    let t := bs.foldl (fun t b => max t (preReady k b s.now + tRP)) s.now
    let k := bs.foldl (fun k b => closeRow k b (preReady k b s.now)) k
    putBdie k d { bdieOf k d with modeTill := max (bdieOf k d).modeTill t + tMODE }) k)

/-- A walk that holds the spare yields it by WALK_GIVE; its wire is walked again later (15 R426). -/
def walkYield (s : State) (pb spare : Nat) : State :=
  let w := walkOf s pb
  if w.wire.isSome && w.spare = spare then
    let s := modeDies (loadPend s pb) pb (List.range 16) [] subGive 0 (giveOperand spare)
    putWalk s pb { walkOf s pb with wire := none, loops := [], pend := [] }
  else s

/-- SUBST: a spare carries a TSV from now on; with the eighth, the block's retirement begins (R283). -/
def putSubst (s : State) (pb tsv k : Nat) : State :=
  let x := srBlk s pb
  let x := { x with
    tsvDue := x.tsvDue.filter (fun p => p.1 ≠ tsv), tsvUsed := setBit x.tsvUsed k true,
    tsvTarget := setField x.tsvTarget (8 * k) 8 tsv }
  let s := blockFault (storeChanged (putSr (modeDies s pb (List.range 16) [] 0x18 0 (tsv + k * 256)) pb x)) .c1 pb 0x0906 tsv
  if (freeTsvs s pb).isEmpty then chargeBlock s pb else s

/-- The lowest free spare takes the charged TSV's place. -/
def substituteTsv (s : State) (pb : Nat) : State :=
  match tsvReady s pb, (if columnsDone (blk s pb) then (freeTsvs s pb).head? else none) with
  | some p, some k => putSubst (walkYield s pb k) pb p.1 k
  | _, _ => s

def execTsvSubstitution (b : Nat) (s : State) : Host.Outcome State Fault Refusal :=
  if b < 36 then whenLive s (fun s => substituteTsv s b) else .next s

/-! ## Row and column repair (R286) -/

/-- The logical key of a physical place, where a logical bank lies. -/
def placeKey (s : State) (pb bank row n : Nat) : Option Nat :=
  ((List.range 64).find? (fun b => physBank s pb b = bank)).map (fun b => lineKey b row n)

/-- A stored line as a repair reads it: corrected, or poisoned zeros with C2 0x0904 where it cannot be read (R280). -/
def repairCw (s : State) (pb bank row n : Nat) : State × Codeword :=
  match decodeLine (cellRead s pb bank row n) with
  | .good d p h _ _ => (s, encodeLine d p h)
  | .bad =>
    let s := match placeKey s pb bank row n with
      | some key => cellFault (ptabMark s pb key true) .c2 pb bank 0x0904 (keyDpa s pb key)
      | none => cellFault s .c2 pb bank 0x0904 0
    (occ s 0x029 (pb / 9) (pb % 9) 1, valCw poisonZeros)

/-- Lines read into the base die's buffer: row and line of each. -/
def repairBuf (s : State) (pb bank : Nat) (ls : List (Nat × Nat)) : State × List ((Nat × Nat) × Codeword) :=
  ls.foldl (fun a p => let (s, c) := repairCw a.1 pb bank p.1 p.2; (s, a.2 ++ [(p, c)])) (s, [])

def repairBack (s : State) (pb bank : Nat) (buf : List ((Nat × Nat) × Codeword)) : State :=
  buf.foldl (fun s p => cellWrite s pb bank p.1.1 p.1.2 p.2) s

/-- ACT of a row, which the repair word that follows acts on. -/
def actWords (pb bank row : Nat) : List (BitVec 16) := [caWord 1 (dieOfBank pb bank) (dbankOf bank) 0 false, BitVec.ofNat 16 row]

/-- A charged row moves to a spare row of its subarray: its 32 lines are read into the base die's buffer, ROW_REPAIR maps the
row, and the lines are written back. -/
def repairRow (s : State) (pb : Nat) : State :=
  match (srBlk s pb).rowDue with
  | [] => s
  | (bank, row) :: rest =>
    let (s, buf) := repairBuf s pb bank ((List.range 32).map (fun n => (row, n)))
    let x := srBlk s pb
    let k := (rowSpare s pb bank row).getD 0
    let x := { x with
      rowDue := rest, rowRep := x.rowRep.filter (fun p => !(p.1 = bank && p.2.1 = row)) ++ [(bank, row, k)],
      rowRepairs := BitVec.ofNat 16 (satAdd 16 x.rowRepairs.toNat 1) }
    let s := putSr (modeDies s pb [dieOfBank pb bank] (actWords pb bank row) 0x19 (dbankOf bank) k) pb x
    cellFault (storeChanged (repairBack s pb bank buf)) .c1 pb bank 0x0907 0

def execRowRepair (b : Nat) (s : State) : Host.Outcome State Fault Refusal :=
  if b < 36 then whenLive s (fun s => repairRow s b) else .next s

/-- A charged column's subarray passes through a shadow unit, one being free, and its line position moves to a spare
column; without a unit free the repair waits. -/
def repairColumn (s : State) (pb : Nat) : State :=
  match (srBlk s pb).colDue with
  | [] => s
  | (bank, sa, line) :: rest =>
    let u := ucReg s (pb / 9)
    let served : Bool := match testOn s pb bank (sa * 1024) with
      | some t => t.phase == .march || t.phase == .restore
      | none => false
    if !served && (!ucUsable s (pb / 9) || u.units ≤ unitsUsed u) then s
    else
      let (s, buf) := repairBuf s pb bank ((List.range 1024).map (fun q => (sa * 1024 + q, line)))
      let k := (colSpare s pb bank sa).getD 0
      let x := srBlk s pb
      let x := { x with
        colDue := rest,
        colRep := x.colRep.filter (fun p => !(p.1 = bank && p.2.1 = sa && p.2.2.1 = line)) ++ [(bank, sa, line, k)],
        colRepairs := BitVec.ofNat 8 (satAdd 8 x.colRepairs.toNat 1) }
      let s := putSr (modeDies s pb [dieOfBank pb bank] (actWords pb bank (sa * 1024)) 0x1A (dbankOf bank) (line + k * 32)) pb x
      cellFault (storeChanged (repairBack s pb bank buf)) .c1 pb bank 0x0907 1

def execColumnRepair (b : Nat) (s : State) : Host.Outcome State Fault Refusal :=
  if b < 36 then whenLive s (fun s => repairColumn s b) else .next s

/-! ## Migration (R288 to R291) -/

/-- A run of the self-test on the unit ends with a forced restore before the migration's first copy (18 R495). -/
def endRunsOn (s : State) (u : RetUnit) : State :=
  incompleteRuns s (fun t => t.kind = 2 && t.pblock = unitBlock u && (match u with
    | .bank _ b => t.bank = b
    | .block _ => true)) true

/-- A run whose own charge led to the retirement is still before its hand-out (18 R491). -/
def chargedRun (s : State) (u : RetUnit) : Bool :=
  s.test.runs.any (fun t => runOpen t && t.kind = 2 && t.charged && t.unit.isSome && t.pblock = unitBlock u)

/-- A migration starts: its target is reserved, a staging ring asked for, and writes of the unit are mirrored. -/
def startMigr (s : State) (r : Nat) : State :=
  let m := migr s r
  if m.st != .idle || regionStopped s r || !inService s then s
  else match m.queue.head? with
    | none => s
    | some u =>
      if chargedRun s u then s
      else
      let begin_ (s : State) (target : Nat) : State :=
        let s := if ucOn s r then yieldTests (ucRegPut s r (askRing (ucReg s r) .migration)) r else s
        let s := putMigr (storeChanged (endRunsOn s u)) r
          { m with st := .copy, target := target, row := 0, bank := 0, ring := false, copyAt := s.now }
        settle s
      match u with
      | .bank pb _ =>
        (match spareFor s pb with
         | some k =>
           let s := incompleteRuns s (fun t => t.kind = 2 && t.pblock = pb && t.bank = k) true
           let x := srBlk s pb
           begin_ (putSr s pb { x with banksUsed := setBit x.banksUsed (k - 64) true }) k
         | none => chargeBlock (putMigr s r { m with queue := m.queue.drop 1 }) pb)
      | .block _ =>
        (match freeBlock s r with
         | some b => begin_ (putSr s b { srBlk s b with st := .migrating }) b
         | none => migrNoSpare s r)

def execMigrationStart (region : Nat) (s : State) : Host.Outcome State Fault Refusal :=
  if region < 4 then whenLive s (fun s => startMigr s region) else .next s

/-- Source and target of the row at the copy pointer: block, physical bank. -/
def copyPlace (s : State) (m : Migr) : Option ((Nat × Nat) × (Nat × Nat)) :=
  match m.queue.head? with
  | some (.bank pb k) => some ((pb, k), (pb, m.target))
  | some (.block pb) => some ((pb, physBank s pb m.bank), (m.target, physBank s m.target m.bank))
  | none => none

/-- DPA of a line at a physical place (12 R343); 0 where no logical bank lies there. -/
def placeDpa (s : State) (pb bank row n : Nat) : Nat :=
  match placeKey s pb bank row n with
  | some key => keyDpa s pb key
  | none => 0

/-- A corrected line of the unit is written back and verified like every line read (R279). -/
def copyFixed (s : State) (src : Nat × Nat) (row n : Nat) (v : LVal) (fixed : List (Nat × BitVec 8)) : State :=
  if fixed.isEmpty then s
  else match placeKey s src.1 src.2 row n with
    | some key => writeBack (countCorrected s src.1 key) src.1 key s.tx.nextOrd v fixed true
    | none => s

/-- One line of a copied row: its metadata as read, or poisoned zeros with C2 0x0905 for one that stays uncorrectable, a
permanent error (R282, R289). -/
def copyLine (s : State) (src dst : Nat × Nat) (row n : Nat) (errs : List (Nat × Nat × BitVec 8)) : State :=
  let e := (errs.filter (fun x => x.1 = n)).map (fun x => x.2)
  let mark (s : State) (p : Bool) : State :=
    if src.1 = dst.1 then s
    else match placeKey s src.1 src.2 row n with
      | some key => ptabMark s dst.1 key p
      | none => s
  let gone : Bool := (bankOf (blk s src.1) src.2).badRows.contains row
  match (if gone then .bad else decodeLine (withErrs (cellRead s src.1 src.2 row n) e)) with
  | .good d p h _ fixed =>
    copyFixed (mark (cellWrite s dst.1 dst.2 row n (encodeLine d p h)) p) src row n { d := d, p := p, h := h } fixed
  | .bad =>
    let s := occ s 0x029 (src.1 / 9) (src.1 % 9) 1
    let s := cellFault (mark (cellWrite s dst.1 dst.2 row n (valCw poisonZeros)) true) .c2 src.1 src.2 0x0905
      (placeDpa s src.1 src.2 row n)
    if gone then s else judge s src.1 src.2 row n e e true

/-- The copy pointer advances; after the last row, placement is held for the switch. -/
def advanceCopy (s : State) (r : Nat) : State :=
  let m := migr s r
  let isBlock : Bool := match m.queue.head? with
    | some (.block _) => true
    | _ => false
  putMigr s r (if m.row < 65535 then { m with row := m.row + 1, copyAt := s.now }
    else if isBlock && m.bank < 63 then { m with row := 0, bank := m.bank + 1, copyAt := s.now }
    else { m with st := .switch })

/-- A write accepted before mirroring began waits in the row that is copied next (R290). -/
def oldWrites (s : State) (src : Nat × Nat) (row : Nat) : Bool :=
  (blk s src.1).wq.any (fun e => keyRow e.key = row && physBank s src.1 (keyBank e.key) = src.2 && !e.after &&
    !(s.blocks.any (fun p => p.2.mirrors.any (fun m => m.1 = src.1 && m.2.1 = e.ord && m.2.2 = e.key))))

/-- The next row is copied through the staging ring, or the Undercoat disabled through the base-die buffer (06 R206): 32 lines
read and 32 written at rank 8, when the blocks admit them. -/
def copyRow (s : State) (r : Nat) (errs : List (Nat × Nat × BitVec 8)) : State :=
  let m := migr s r
  if !copyWaits s r then s
  else match copyPlace s m, m.queue.head? with
    | some (src, dst), some u =>
      let bs := migrBlocks m
      let n := 64 / bs.length
      if runsOn s u || oldWrites s src m.row || !bs.all (fun b => mayRun s b 8 n m.copyAt) then s
      else
        let s := bs.foldl (fun s b => runLines s b n) s
        advanceCopy ((List.range 32).foldl (fun s n => copyLine s src dst m.row n errs) s) r
    | _, _ => s

def execMigrationRowCopy (region : Nat) (errs : List (Nat × Nat × BitVec 8)) (s : State) :
    Host.Outcome State Fault Refusal :=
  if region < 4 then whenLive s (fun s => copyRow s region errs) else .next s

/-- Queued work of the unit in a block. -/
def unitBusy (s : State) (u : RetUnit) : Bool :=
  let pb := unitBlock u
  let k := blk s pb
  let mine (key : Nat) : Bool := match u with
    | .bank _ b => physBank s pb (keyBank key) = b
    | .block _ => true
  k.rq.any (fun e => mine e.key) || k.wq.any (fun e => mine e.key && !e.after) || k.wrEcho.any (fun p => mine p.2.1) ||
    k.rowOps.any (fun r => match u with
      | .bank _ b => r.bank = b || r.dstBank = b
      | .block _ => true)

/-- Writes accepted during the switch are placed where the unit's data lies now (R291). -/
def placeAfter (s : State) (src dst : Nat) : State :=
  let go (e : WEnt) : WEnt := { e with after := false }
  let es := (blk s src).wq.filter (fun e => e.after)
  if src = dst then modBlk s src (fun k => { k with wq := k.wq.map go })
  else modBlk (modBlk s src (fun k => { k with wq := k.wq.filter (fun e => !e.after) })) dst (fun k => { k with wq := k.wq ++ es.map go })

/-- The migration is over: ring released, queue advanced. -/
def migrDone (s : State) (r : Nat) : State :=
  let s := ucRegPut s r (dropRing (ucReg s r) .migration)
  putMigr s r { queue := (migr s r).queue.drop 1 }

/-- The switch (R291): the remap entry is replaced between two placements; no epoch advances. -/
def switchMigr (s : State) (r : Nat) : State :=
  let m := migr s r
  if m.st != .switch then s
  else match m.queue.head? with
    | none => s
    | some u =>
      if unitBusy s u then s
      else match u with
        | .bank pb old =>
          (match (List.range 64).find? (fun b => physBank s pb b = old) with
           | some b =>
             let s := { s with remap := { s.remap with bank := smSet 0 s.remap.bank (pb * 64 + b) (m.target + 1) } }
             let x := srBlk s pb
             let x := { x with retired := setBit x.retired old true,
                               banksUsed := if 64 ≤ old then setBit x.banksUsed (old - 64) false else x.banksUsed }
             let s := placeAfter s pb pb
             settle (cellFault (migrDone (storeChanged (putSr s pb x)) r) .c1 pb old 0x0908 0)
           | none => migrDone s r)
        | .block pb =>
          (match logicalOf s pb with
           | some lb =>
             let s := placeAfter { s with remap := { s.remap with block := smSet 0 s.remap.block lb (m.target + 1) } } pb m.target
             let s := putSr (putSr s pb { srBlk s pb with st := .retired }) m.target
               { srBlk s m.target with st := .inService }
             -- the retired block enters block BIST for the record (R291)
             let s := openRun (modBlk s pb (fun k => { k with st := .retired })) 1 pb 0 0 0
             settle (regionFault (migrDone (storeChanged s) r) .c1 r 0x0909 0)
           | none => migrDone s r)

def execMigrationSwitch (region : Nat) (s : State) : Host.Outcome State Fault Refusal :=
  if region < 4 then whenLive s (fun s => switchMigr s region) else .next s

/-! ## Scrub (R293 to R295) -/

/-- Lines of one bank. -/
def bankLines : Nat := 65536 * 32

/-- Physical blocks that hold a line of the scrub range. -/
def scrubBlocks (s : State) (sc : Scrub) : List Nat :=
  (List.range 36).filter (fun pb => match logicalOf s pb with
    | some lb => (List.range (min sc.count 512)).any (fun k =>
        (decodeDpa (nRegions s) (sc.start + 64 * (if sc.count ≤ 512 then k else k * 4))).lblock = lb)
    | none => false)

/-- The banks scrubbed after the range with SPARES: spare banks of each block touched, then the free spare block of each
region touched. -/
def spareBanks (s : State) (sc : Scrub) : List (Nat × Nat) :=
  let bs := scrubBlocks s sc
  let free := ((bs.map (fun b => b / 9)).eraseDups).filterMap (freeBlock s)
  if !sc.spares then []
  else (bs.flatMap (fun b => (List.range 4).map (fun k => (b, 64 + k))) ++
    free.flatMap (fun b => (List.range 68).map (fun k => (b, k)))).filter (fun p => !(srBlk s p.1).retired.getLsbD p.2)

/-- The next line may be read under RATE: 64 bytes at RATE GB/s each. -/
def scrubDue (s : State) (sc : Scrub) : Bool :=
  waited s sc.t0 ((64 * (sc.linesRead + 1) + sc.rate - 1) / max 1 sc.rate)

def putScrub (s : State) (sc : Scrub) : State := { s with store := { s.store with scrub := sc } }

/-- First and last DPA of a logical block. -/
def blockFirst (s : State) (lb : Nat) : Nat := encodeDpa (nRegions s) { region := lb % 4, lblock := lb, bank := 0, row := 0, line := 0 }
def blockLast (s : State) (lb : Nat) : Nat :=
  encodeDpa (nRegions s) { region := lb % 4, lblock := lb, bank := 0, row := 65535, line := 31 }

/-- A pass that covered every line of a block rebuilds its poison table, which clears OVERFLOW (07 R225). -/
def rebuildTables (s : State) (sc : Scrub) : State :=
  (List.range 32).foldl (fun s lb =>
    let pb := physBlock s lb
    if lb % 4 < nRegions s && !sc.skipped.getLsbD (lb % 4) && sc.start ≤ blockFirst s lb &&
        blockLast s lb < sc.start + 64 * sc.count then
      modBlk s pb (fun k =>
        -- a line that is poisoned and dirty in its frame has not been written clean: its key stays
        let keys := ((smGet [] sc.seen pb) ++ k.ptab).eraseDups.filter (fun key => (storedVal s lb key).any LVal.p)
        { k with ptab := keys.take 1024, povf := 1024 < keys.length })
    else s) s

/-- The pass ends, with notice 0x1181 (17 R478). -/
def scrubEnd (s : State) (complete : Bool) : State :=
  let sc := s.store.scrub
  if !sc.running then s
  else
    let s := if complete then rebuildTables s sc else s
    -- COMPLETE says that every line of the request was read: none of a stopped region was skipped
    let complete := complete && sc.skipped = 0
    let s := putScrub s { sc with running := false, complete := complete, elapsed := (s.now - sc.t0) / 1000 }
    notice s 0x1181 (min sc.uncorr (2 ^ 32 - 1) + b2n complete * 2 ^ 32)

/-- Corrected symbols counted. -/
def countCorr (sc : Scrub) (n : Nat) : Scrub :=
  if n = 1 then { sc with corr1 := sc.corr1 + 1 }
  else if n = 2 then { sc with corr2 := sc.corr2 + 1 }
  else if n = 3 then { sc with corr3 := sc.corr3 + 1 } else sc

/-- The frame line of a scrubbed line is read through the code too. -/
def scrubFrame (s : State) (lb key : Nat) : State :=
  match frameOf s lb key with
  | none => s
  | some (set, w) => (frameCheck s lb key set w).1

/-- Whether a line's frame line is VALID and DIRTY. -/
def frameDirty (s : State) (lb key : Nat) : Bool :=
  match frameOf s lb key with
  | some (set, w) => (tagGet s (lb % 4) set w).dirty.getLsbD (keyLine key)
  | none => false

def bumpScrub (s : State) (f : Scrub → Scrub) : State := putScrub s (f s.store.scrub)

/-- The range line is behind the pass. -/
def scrubNext (sc : Scrub) (now : Nat) : Scrub := { sc with pos := sc.pos + 1, linesRead := sc.linesRead + 1, lastAt := now }

/-- An uncorrectable line of the range after its retry. -/
def scrubLost (s : State) (pb lb key dpa : Nat) (errs : List (Nat × BitVec 8)) : State :=
  let bank := physBank s pb (keyBank key)
  let s := bumpScrub s (fun sc => { sc with
    uncorr := sc.uncorr + 1, uncorrAddr := if sc.uncorrAddr.length < 64 then sc.uncorrAddr ++ [dpa] else sc.uncorrAddr })
  if frameDirty s lb key then addHist s pb bank (keyRow key) (keyLine key) errs false
  else
    let s := ptabMark (keyWrite s pb key (valCw poisonZeros)) pb key true
    askReadBack (cellFault (occ s 0x029 (pb / 9) (pb % 9) 1) .c2 pb bank 0x0904 dpa) pb key

/-- One line of the range is read from DRAM (R294). -/
def scrubLine (s : State) (errs : List (Nat × BitVec 8)) : State :=
  let sc := s.store.scrub
  let dpa := sc.start + 64 * sc.pos
  let loc := decodeDpa (nRegions s) dpa
  let lb := loc.lblock
  let pb := physBlock s lb
  let key := loc.key
  let next (s : State) : State := bumpScrub s (fun sc => scrubNext sc s.now)
  if regionStopped s loc.region then
    bumpScrub s (fun sc => { sc with pos := sc.pos + 1, skipped := setBit sc.skipped loc.region true })
  else if (blk s pb).st != .serving || (blk s pb).wq.any (fun e => e.key = key) || !mayRun s pb 11 1 sc.lastAt then s
  else
    let s := runLines s pb 1
    let bank := physBank s pb (keyBank key)
    let first := retryOf s pb key .scrub
    match decodeLine (withErrs (keyRead s pb key) errs) with
    | .good d p h odd fixed =>
      let s := oddPoison s pb key odd
      let s := match first with
        | some f => judge (dropVerify s pb f) pb f.bank f.row f.line f.syms fixed false
        | none => s
      let s := if fixed.isEmpty then s
        else writeBack (countCorrected s pb key) pb key s.tx.nextOrd { d := d, p := p, h := h } fixed true
      let s := bumpScrub s (fun sc => countCorr { sc with
        seen := if p then smMod [] sc.seen pb (fun l => key :: l) else sc.seen } fixed.length)
      next (scrubFrame s lb key)
    | .bad =>
      (match first with
       | some f => next (scrubFrame (scrubLost (dropVerify s pb f) pb lb key dpa errs) lb key)
       | none =>
         let x := srBlk s pb
         putSr s pb { x with verify := x.verify ++
           [{ bank := bank, row := keyRow key, line := keyLine key, syms := errs, key := key, retry := true,
              owner := some .scrub }] })

/-- One line of a spare bank: read again, after its rewriting when it was corrected, before the error is judged (R279 to
R282). -/
def scrubSpare (s : State) (p : Nat × Nat) (n : Nat) (errs : List (Nat × BitVec 8)) : State :=
  let row := n / 32
  let line := n % 32
  let key := lineKey p.2 row line
  let done (s : State) : State :=
    bumpScrub s (fun sc => { sc with sparePos := sc.sparePos + 1, linesRead := sc.linesRead + 1, lastAt := s.now })
  let again (s : State) (syms : List (Nat × BitVec 8)) : State :=
    let x := srBlk s p.1
    putSr s p.1 { x with verify := x.verify ++
      [{ bank := p.2, row := row, line := line, syms := syms, key := key, retry := true, owner := some .scrub }] }
  if !mayRun s p.1 11 1 s.store.scrub.lastAt then s
  else
    let s := runLines s p.1 1
    match decodeLine (withErrs (cellRead s p.1 p.2 row line) errs), retryOf s p.1 key .scrub with
    | .good d q h _ fixed, some f =>
      let s := if fixed.isEmpty then s else cellWrite s p.1 p.2 row line (encodeLine d q h)
      done (judge (dropVerify s p.1 f) p.1 f.bank f.row f.line f.syms fixed false)
    | .good d q h _ fixed, none =>
      if fixed.isEmpty then done s
      else again (bumpScrub (cellWrite s p.1 p.2 row line (encodeLine d q h)) (fun sc => countCorr sc fixed.length)) fixed
    | .bad, some f =>
      let s := cellWrite (dropVerify s p.1 f) p.1 p.2 row line (valCw poisonZeros)
      let s := cellFault (occ s 0x029 (p.1 / 9) (p.1 % 9) 1) .c2 p.1 p.2 0x0904 0
      done (bumpScrub (judge s p.1 p.2 row line errs errs true)
        (fun sc => { sc with spareErrs := satAdd 32 sc.spareErrs 1 }))
    | .bad, none => again s errs

/-- The pass reads its next line, no faster than RATE, or ends. -/
def scrubStep (s : State) (errs : List (Nat × BitVec 8)) : State :=
  let sc := s.store.scrub
  if !sc.running || !inService s || !scrubDue s sc then s
  else
    let spares := spareBanks s sc
    let s := if sc.pos < sc.count then scrubLine s errs
      else match spares[sc.sparePos / bankLines]? with
        | some p => if regionStopped s (p.1 / 9) then
            bumpScrub s (fun sc => { sc with sparePos := sc.sparePos + 1, skipped := setBit sc.skipped (p.1 / 9) true })
          else scrubSpare s p (sc.sparePos % bankLines) errs
        | none => s
    let sc := s.store.scrub
    settle (if sc.count ≤ sc.pos && spares.length * bankLines ≤ sc.sparePos then scrubEnd s true else s)

def execScrubRead (errs : List (Nat × BitVec 8)) (s : State) : Host.Outcome State Fault Refusal :=
  whenLive s (fun s => scrubStep s errs)

/-- A pass starts. -/
def scrubBegin (s : State) (start count rate : Nat) (spares : Bool) : State :=
  putScrub s { start := start, count := count, rate := rate, spares := spares, running := true, t0 := s.now,
               lastAt := s.now, lastAuto := s.store.scrub.lastAuto }

/-- Larder firmware starts one full pass every SCRUB_PERIOD hours at SCRUB_RATE (R295). -/
def scrubAuto (s : State) : State :=
  let p := s.store.scrubPeriod.toNat
  if p ≠ 0 && s.boot.larder == .running && inService s && !s.store.scrub.running &&
      waited s s.store.scrub.lastAuto (p * 3600 * ms 1000) then
    let s := scrubBegin s 0 (capacity s / 64) s.store.scrubRate.toNat false
    bumpScrub s (fun sc => { sc with lastAuto := s.now })
  else s

def execScrubAutoStart (s : State) : Host.Outcome State Fault Refusal := whenLive s scrubAuto

/-! ## Starved work (21 R529) -/

/-- Ranks 8, 10 and 11 that have waited 100 ms in a block. -/
def starved (s : State) (pb : Nat) : List Nat :=
  [8, 10, 11].filter (fun r => (lowWork s pb).any (fun p => p.1 = r && waited s p.2 (ms 100)))

/-- C0 0x1501 for the highest starved rank, at most once per block per second. -/
def starvation (s : State) (pb : Nat) : State :=
  match starved s pb with
  | [] => s
  | r :: _ => raiseC0 s .block (pb / 9) pb 0x1501 r (ms 1000)

def execProgressStarvation (b : Nat) (s : State) : Host.Outcome State Fault Refusal :=
  if b < 36 then whenLive s (fun s => starvation s b) else .next s

end Sys2Proof.Machine
end

