-- ==== Sys2Proof/Machine/Pace.lean ====
section
/-! DEFINITION. The pace monitor and its registers (01 R28 to R30). -/

namespace Sys2Proof.Machine

/-- DETAIL of the events of R29 (17 R477). -/
def paceDetail (p : Pace) : Nat := p.now.toNat + p.minSource.toNat * 2 ^ 16

/-- OUT_OF_RANGE set with its C1 fault, once (R29). -/
def outOfRange (s : State) : State :=
  if s.pace.outOfRange then s
  else chipFault { s with pace := { s.pace with outOfRange := true } } .c1 7 0x0102 (paceDetail s.pace)

/-- The base die's junction rises above 105 °C, or falls back (R29). -/
def paceHot (s : State) (hot : Bool) : State :=
  let s := { s with pace := { s.pace with hot := hot } }
  if hot then outOfRange s else s

/-- The lowest of the readings with its place, the first among equals. -/
def lowestReading (rs : List (BitVec 16)) : Nat × Nat :=
  match argMin (fun p : BitVec 16 × Nat => p.1.toNat) rs.zipIdx with
  | some p => (p.1.toNat, p.2)
  | none => (0, 0)

/-- The registers after a sample (R30). -/
def paceRecord (p : Pace) (v src : Nat) : Pace :=
  { p with
    now := BitVec.ofNat 16 v,
    min := BitVec.ofNat 16 (Nat.min p.min.toNat v),
    minSource := BitVec.ofNat 3 src,
    lowSamples := if v < 0x1000 then BitVec.ofNat 16 (satAdd 16 p.lowSamples.toNat 1) else p.lowSamples,
    lowRun := if v < 0x1000 then p.lowRun + 1 else 0,
    okRun := if v < 0x1000 then 0 else p.okRun + 1 }

/-- A sample's reactions (R29). -/
def paceReact (s : State) (v : Nat) : State :=
  let s := if v ≤ s.pace.warn.toNat then
      (if s.pace.armed then
        c0 { s with pace := { s.pace with armed := false } } 7 0x0101 (paceDetail s.pace) 0
       else s)
    else { s with pace := { s.pace with armed := true } }
  let s := if v < 0x1000 then occ s 0x10C 7 0xF 1 else s
  if 3 ≤ s.pace.lowRun then outOfRange s else s

/-- A sample of the pace monitor is due: the first, or 10 µs after the latest (R28). -/
def paceDue (s : State) : Bool :=
  match s.pace.sampledAt with
  | none => true
  | some t => waited s t (us 10)

/-- Every 10 µs the eight replica loops are read; the reported pace is the lowest (R28). -/
def execPaceSample (readings : List (BitVec 16)) (s : State) : Host.Outcome State Fault Refusal :=
  if readings.length = 8 then
    whenLive s (fun s =>
      if paceDue s then
        let r := lowestReading readings
        checkConds (paceReact { s with pace := { paceRecord s.pace r.1 r.2 with sampledAt := some s.now } } r.1)
      else s)
  else .next s

/-- VDD_CORE measured outside 0.66 V to 0.80 V since a tick, or back (R29). -/
def execVddCoreOutOfRange (since : Nat) (out : Bool) (s : State) : Host.Outcome State Fault Refusal :=
  whenLive s (fun s =>
    let s' := { s with pace := { s.pace with vddOut := out } }
    if out ∧ since + us 100 < s.now then outOfRange s' else s')

/-- The range condition of R29 lasts. -/
def rangeCondition (p : Pace) : Bool := p.vddOut || p.hot || p.okRun < 100

/-- OUT_OF_RANGE written 1: cleared unless the condition lasts (R29, R30). -/
def clearOutOfRange (p : Pace) : Pace := if rangeCondition p then p else { p with outOfRange := false }

def execOutOfRangeClear (s : State) : Host.Outcome State Fault Refusal :=
  whenLive s (fun s => { s with pace := clearOutOfRange s.pace })

/-- MIN_CLEAR (R30). -/
def execMinClear (s : State) : Host.Outcome State Fault Refusal :=
  whenLive s (fun s => { s with pace := { s.pace with min := 0xFFFF } })

/-- A write of any value sets LOW_SAMPLES to 0 (R30). -/
def execLowSamplesReset (s : State) : Host.Outcome State Fault Refusal :=
  whenLive s (fun s => { s with pace := { s.pace with lowSamples := 0 } })

/-- PACE_WARN: a value outside 0x1000 to 0x1800 is ignored (R30). -/
def writePaceWarn (p : Pace) (v : BitVec 16) : Pace :=
  if 0x1000 ≤ v.toNat ∧ v.toNat ≤ 0x1800 then { p with warn := v } else p

def execPaceWarnWrite (v : BitVec 16) (s : State) : Host.Outcome State Fault Refusal :=
  whenLive s (fun s => { s with pace := writePaceWarn s.pace v })

/-- CW_PACE_STATUS as read (R30). -/
def paceStatus (p : Pace) : Nat :=
  p.now.toNat + p.min.toNat * 2 ^ 16 + p.minSource.toNat * 2 ^ 32 + b2n p.outOfRange * 2 ^ 35
    + p.lowSamples.toNat * 2 ^ 48

/-- A write of CW_PACE_STATUS: LOW_SAMPLES becomes 0 whatever is written (00 R10, R30). -/
def writePaceStatus (p : Pace) (v : Nat) : Pace :=
  let p := { p with lowSamples := 0 }
  let p := if bit v 36 then { p with min := 0xFFFF } else p
  if bit v 35 then clearOutOfRange p else p

end Sys2Proof.Machine
end

