-- ==== Sys2Proof/Machine/Primer.lean ====
section
/-! DEFINITION. Progress of the Primer pass: rows in ascending order in each bank at 1,250 clones per microsecond stack-wide,
suspended by a thermal stop and resumed at the first row not yet zeroed (08 R269, R270). -/

namespace Sys2Proof.Machine

/-- Rows below a number hold zeros in every bank not retired, wherever in-die repair has placed them. -/
def zeroRows (s : State) (n : Nat) : State :=
  let kept (k : Nat) : Bool :=
    let row := k / (128 * 34) % 65792
    let b := k / (128 * 34 * 65792)
    let user := if row < 65536 then row
      else match (srBlk s (b / 68)).rowRep.find? (fun p => p.1 = b % 68 && 65536 + p.2.1 / 1024 * 4 + p.2.2 = row) with
        | some p => p.2.1
        | none => 0
    (srBlk s (b / 68)).retired.getLsbD (b % 68) || n ≤ user
  { s with dram := s.dram.filter (fun p => kept p.1) }

/-- For how long the pass has zeroed rows, over its suspensions. -/
def primerRan (s : State) : Nat := s.primer.ran + (s.now - s.primer.since)

/-- Rows zeroed so far in each of the 2,448 banks. -/
def primerRow (s : State) : Nat := min 65536 (primerRan s * 5 / 4 / 2448)

/-- A pass that runs is suspended, what it has zeroed stays. -/
def suspendPrimer (s : State) : State :=
  if s.primer.st == .clones || s.primer.st == .check then
    let s := zeroRows s (primerRow s)
    { s with primer := { s.primer with st := .suspended, ran := primerRan s, since := s.now } }
  else s

/-- A suspended pass goes on. -/
def resumePrimer (s : State) : State :=
  if s.primer.st == .suspended then
    { s with primer := { s.primer with st := if s.primer.cloned then .check else .clones, since := s.now } }
  else s

end Sys2Proof.Machine
end

