-- ==== Sys2Proof/Machine/Heat.lean ====
section
/-! DEFINITION. Thermal samples and stops (13 R365 to R381): the sample, throttle steps, orderly and immediate stops,
the base-die stop, and the resume. -/

namespace Sys2Proof.Machine

/-! ## Ending work at a stop or reset (08 R267, R270; 09 R288, R294; 18 R495) -/

/-- A waiting or held memory request answered RETRY: a released charge is refunded, a held one's credits return. -/
def retryWaiting (s : State) : State :=
  let hs := s.tx.held.filter (fun w => w.step.isNone)
  let ws := s.tx.waiting.filter (fun w => w.step.isNone)
  let s := { s with tx := { s.tx with
    held := s.tx.held.filter (fun w => w.step.isSome), waiting := s.tx.waiting.filter (fun w => w.step.isSome) } }
  let s := hs.foldl (fun s w => answerNoCtx (retMsg s w) w.ing w.msg stRetry (hAddr w.msg.h0)) s
  ws.foldl (fun s w => answerNoCtx (refund s w) w.ing w.msg stRetry (hAddr w.msg.h0)) s

/-- What a thermal stop ends at t0 besides requests. -/
def endWork (s : State) (forced : Bool) : State :=
  let s := suspendPrimer (incompleteRuns (scrubEnd (endOps s) false) (fun _ => true) forced)
  (List.range 4).foldl abortLaneTests s

/-! ## Stops (R376 to R379) -/

/-- Blocks in service, leaving or returning. -/
def activeBlock (k : Block) : Bool := k.st == .serving || k.st == .leaving || k.st == .returning

/-- A block in service, or of a stopped region, goes into self-refresh with its queues as they stand. -/
def sleepBlock (s : State) (b : Nat) : State :=
  if activeBlock (blk s b) || (blk s b).st == .stopped then selfRefreshAll s b .selfRefresh else s

/-- Contexts an immediate stop answers with RETRY. -/
def stopsNow (c : Ctx) : Bool :=
  c.kind == .request && c.phase == .working && c.op ≠ opBulk && c.ing < 5 && c.lines.any (fun l => !l.done)

/-- An immediate stop: open contexts answered, operations' steps withdrawn, every block straight into self-refresh. -/
def stopNow (s : State) : State :=
  let s := (s.tx.ctxs.filter stopsNow).foldl (fun s c => endCtx s c stRetry) s
  let s := (s.trowel.ops.map BulkOp.id).foldl abortSteps s
  settle ((List.range 36).foldl sleepBlock s)

/-- An orderly stop abandons writes without their data; accepted work completes. -/
def stopOrderly (s : State) : State := settle ((List.range 36).foldl abandonIn s)

/-- A base-die stop: every fabric port DOWN with its transmitters off, the Wide Port Idle-clocked both ways (R379), which
it leaves only while it has an answer to send (02 R68). -/
def stopBase (s : State) : State :=
  let s := (List.range 4).foldl (fun s p => fpDown s p false) s
  { s with wp := { s.wp with idleIn := true, idleOut := true } }

/-- A thermal stop at its decision. -/
def beginStop (s : State) (orderly base : Bool) (pos : Nat) : State :=
  let s := chipFault s .c1 11 0x0D05 (posDetail s pos)
  let s := { s with heat := { s.heat with
    stop := if orderly then .orderly else .stoppedImm, baseStop := base, stopAt := s.now, coolSince := none } }
  let s := endWork (retryWaiting s) orderly
  let s := if orderly then stopOrderly s else stopNow s
  if base then stopBase s else s

/-- Positions that decide a stop: at the stop limit, or at the throttle limit with a predicted time below 1 ms. -/
def decides (s : State) (i : Nat) : Bool :=
  let v := tval s i
  stopAtT i ≤ v || (throttleAt s i ≤ v && 0 < rateOf s i && stopAtT i - v < rateOf s i)

/-- Orderly: no stop limit reached and every predicted time 200 µs or more. -/
def orderlyStop (s : State) : Bool :=
  (List.range 88).all (fun i =>
    let v := tval s i
    v < stopAtT i && (v < throttleAt s i || rateOf s i ≤ 0 || rateOf s i ≤ 5 * (stopAtT i - v)))

/-- The decision of R376, and the position DETAIL names. -/
def stopCheck (s : State) : State :=
  if !(s.heat.stop == .running || s.heat.stop == .resuming) then s
  else
    let ds := (List.range 88).filter (decides s)
    let base := ds.filter (fun i => 72 ≤ i)
    match argMin (fun i => (stopAtT i - tval s i + 40000).toNat) (if base.isEmpty then ds else base) with
    | some i => beginStop s (orderlyStop s) (!base.isEmpty) i
    | none => s

/-! ## The sample (R364 to R376) -/

/-- The shortest sampling interval that applies to a die (R365). -/
def sampleInterval (s : State) (d : Nat) : Nat :=
  if (List.range 4).any (fun r => (zone s r).pre) then us 20
  else if (diePos d).any (fun i =>
      [warnAt s i, throttleAt s i, stopAtT i].any (fun l => l - 80 ≤ tval s i && tval s i < l)) then us 100
  else ms 1

/-- A die's sample is due: none yet, or its interval over. -/
def sampleDue (s : State) (d : Nat) : Bool :=
  let t := smGet 0 s.heat.lastSample d
  t = 0 || waited s (t - 1) (sampleInterval s d)

/-- The readings of a die's positions taken together. -/
def takeSample (s : State) (d : Nat) (vals : List (Option (BitVec 16))) (spare : Option (BitVec 16)) (power : List Nat) :
    State :=
  let s := (List.range 4).foldl (fun s r => putZone s r { zone s r with power := (power[r]?).getD 0 }) s
  let s := { s with heat := { s.heat with lastSample := smSet 0 s.heat.lastSample d (s.now + 1) } }
  -- a conversion scale outside 5 % of nominal makes every sensor of the die implausible (15 R428)
  let bad : Bool := !inRange (scaleV s d).toNat 31130 34406
  let (s, sp) := spareReading s d (if bad then none else spare)
  let s := ((diePos d).zip (if bad then vals.map (fun _ => none) else vals)).foldl (fun s p => takeReading s power p.1 p.2 sp) s
  (diePos d).foldl suspectCheck s

/-- A sample with all that follows from it. -/
def thermalSample (s : State) (d : Nat) (vals : List (Option (BitVec 16))) (spare : Option (BitVec 16)) (power : List Nat) :
    State :=
  if !sampleDue s d then s
  else
    let s := takeSample s d vals spare power
    let s := if d < 16 then (List.range 4).foldl (fun s r => setRefi s d r) s else s
    let s := if d = 17 then paceHot s ((diePos 17).any (fun i => 1680 < tval s i)) else s
    let s := (diePos d).foldl warnCheck s
    let s := (List.range 4).foldl throttleSample s
    let s := (List.range 4).foldl (fun s r => (dieIfaces d).foldl (fun s k => wearStep s r k) s) s
    checkConds (heatStatus (stopCheck s))

def execThermalSample (die : Nat) (vals : List (Option (BitVec 16))) (spare : Option (BitVec 16)) (power : List Nat)
    (s : State) : Host.Outcome State Fault Refusal :=
  if die < 18 ∧ vals.length = (diePos die).length ∧ power.length = 4 then
    whenWired s (fun s => thermalSample s die vals spare power)
  else .next s

/-! ## Throttle steps (R373) -/

def levelStepDown (s : State) (r : Nat) : State :=
  match (zone s r).lastDown with
  | some t => if zoneHot s r && waited s t (us 100) then levelDown s r else s
  | none => s

def execThrottleStepDown (region : Nat) (s : State) : Host.Outcome State Fault Refusal :=
  if region < 4 then whenLive s (fun s => levelStepDown s region) else .next s

/-- One step up each ms below the hold band, to 16, or to 12 in pre-throttle. -/
def stepUpLevel (s : State) (r : Nat) : State :=
  let z := zone s r
  match z.belowSince with
  | some t =>
    if z.t < (if z.pre then 12 else 16) && waited s (max t z.lastUp) (ms 1) then
      setLevel (putZone s r { z with lastUp := s.now }) r (z.t + 1)
    else s
  | none => s

def execThrottleStepUp (region : Nat) (s : State) : Host.Outcome State Fault Refusal :=
  if region < 4 then whenLive s (fun s => stepUpLevel s region) else .next s

/-! ## The end of an orderly stop (R377) -/

/-- Bond-wear counts are written at each orderly stop, within their range (R383). -/
def saveWear (s : State) : State :=
  if s.heat.storeOk && !twBusyFor s .wear then
    askRecord { s with heat := { s.heat with wearSaved := s.now } } 3 (wearRecord s)
  else s

/-- 20 µs after t0 the blocks leave service: a drained one writes its Undercoat lines back and enters self-refresh, any
other as soon as it has drained.  The blocks of a stopped region keep their entries (07 R241). -/
def orderlyEnd (s : State) : State :=
  if s.heat.stop != .orderly || !waited s s.heat.stopAt (us 20) then s
  else
    let s := (List.range 36).foldl (fun s b =>
      if (blk s b).st == .stopped then sleepBlock s b
      else drainComplete (modBlk s b (fun k => if activeBlock k then { k with st := .leaving } else k)) b) s
    if (List.range 36).all (fun b => !activeBlock (blk s b)) then
      saveWear { s with heat := { s.heat with stop := .stopped } }
    else s

def execOrderlyStopWriteback (s : State) : Host.Outcome State Fault Refusal := whenLive s orderlyEnd

/-! ## The resume (R381) -/

/-- A block of a stopped region waits for the region reset (21 R526). -/
def waitsReset (s : State) (b : Nat) : Bool := regionStopped s (b / 9) && !resetting s (b / 9)

/-- t0: every block that left service returns; a stopped region's wait for its region reset (21 R526). -/
def resumeStart (s : State) : State :=
  let s := { s with heat := { s.heat with stop := .resuming, resumeAt := s.now } }
  (List.range 36).foldl (fun s b =>
    if (blk s b).st == .selfRefresh && !waitsReset s b then startReturn s b else s) s

/-- Kept entries are performed and every test's subarray restored. -/
def resumeReady (s : State) : Bool :=
  (List.range 36).all (fun b => (blk s b).st != .returning && ((blk s b).st != .serving || drained (blk s b))) &&
    !s.test.runs.any (fun t => runOpen t && t.endWith.isSome) && waited s s.heat.resumeAt 5800

/-- A commit whose recall runs scans again from its start (21 R535). -/
def restartScans (s : State) : State :=
  let s := { s with trowel := { s.trowel with scans := s.trowel.scans.filter isOpScan } }
  let s := if s.fab.committing then startRouteScans s else s
  let s := match s.acc.commit with
    | some c => startAccessScans s c.narrowed
    | none => s
  startUnitScans s .regionReset (s.acc.owed.filter (fun p => resetting s p.1))

/-- Admissions open with T(r) = 8; kept Undercoat lines are written back first; what was suspended goes on. -/
def resumeEnd (s : State) : State :=
  let s := (List.range 32).foldl ucWriteBack s
  let base := s.heat.baseStop
  let s := { s with heat := { s.heat with stop := .running, baseStop := false } }
  let s := (List.range 4).foldl (fun s r => setLevel (putZone s r { zone s r with lastUp := s.now, lastDown := none }) r 8) s
  let s := resumePrimer s
  let s := restartScans s
  settle (if base then (List.range 4).foldl startBring s else s)

/-- The resume starts once every position has been cool for 10 ms, and ends when its steps are done. -/
def resume (s : State) : State :=
  match s.heat.stop, s.heat.coolSince with
  | .stopped, some t => if waited s t (ms 10) then resumeStart s else s
  | .stoppedImm, some t => if waited s t (ms 10) then resumeStart s else s
  | .resuming, _ => if resumeReady s then resumeEnd s else s
  | _, _ => s

def execThermalResume (s : State) : Host.Outcome State Fault Refusal := whenLive s resume

/-! ## Diagnostic commands (17 R468) -/

def execThermStatus (h : Nat) (s : State) : Host.Outcome State Fault Refusal :=
  hatchRun h 0x0401 0x0401 s (fun s => ansOk s h (thermRecord s))

def execWearRead (h : Nat) (s : State) : Host.Outcome State Fault Refusal :=
  hatchRun h 0x0402 0x0402 s (fun s => ansOk s h (wearRecord s))

/-- POWER_STATUS: VOUT, VDD_CORE, region powers in 0.1 W, DF (17 R469). -/
def powerStatus (s : State) : List (BitVec 8) :=
  leBytes s.mg.vout.toNat 2 ++ leBytes s.mg.vdd.toNat 2 ++
    (List.range 4).flatMap (fun r => leBytes (min ((zone s r).power / 100) 65535) 2) ++ leBytes (dfNow s) 2

def execPowerStatus (h : Nat) (s : State) : Host.Outcome State Fault Refusal :=
  hatchRun h 0x0403 0x0403 s (fun s => ansOk s h (powerStatus s))

end Sys2Proof.Machine
end

