-- ==== Sys2Proof/Machine/Perf.lean ====
section
/-! DEFINITION. Counting and sampling (19 R498 to R510): counters and their selections, overflow, the sampling commands
and the trace buffer. -/

namespace Sys2Proof.Machine

/-! ## Counting (R500, R501) -/

/-- Qualifier of a selection that takes an occurrence's: 0xF takes every one. -/
def qualTakes (sel qual : Nat) : Bool := sel = 15 || sel = qual

/-- Occurrences of a counter's event among a tick's: the event, its group, its qualifier.  Region and chip groups carry
the group itself. -/
def countFor (l : List (Nat × Nat × Nat × Nat)) (g ev q : Nat) : Nat :=
  l.foldl (fun n o => if o.1 = ev && o.2.1 = g && qualTakes q o.2.2.1 then n + o.2.2.2 else n) 0

def perfCnt (s : State) (k : Nat) : Nat := (smGet 0 s.perf.cnt k).toNat

/-- Setting an overflow bit. -/
def setOvf (s : State) (k : Nat) : State :=
  if k < 64 then { s with perf := { s.perf with ovf0 := setBit s.perf.ovf0 k true } }
  else { s with perf := { s.perf with ovf1 := setBit s.perf.ovf1 (k - 64) true } }

/-- A counter adds n, wraps and sets its bit; answers how often it wrapped. -/
def addCnt (s : State) (k n : Nat) : State × Nat :=
  let v := perfCnt s k + n
  let s := { s with perf := { s.perf with cnt := smSet 0 s.perf.cnt k (BitVec.ofNat 48 v) } }
  if v < 2 ^ 48 then (s, 0) else (setOvf s k, v / 2 ^ 48)

/-- Whether an odd counter counts its partner's wraps. -/
def chained (s : State) (k : Nat) : Bool := k % 2 = 1 && (perfSel s (k - 1)).getLsbD 14

def groupRuns (s : State) (k : Nat) : Bool := s.perf.run.getLsbD (k / 16)

/-- A pair of counters takes a list of occurrences. -/
def countPair (l : List (Nat × Nat × Nat × Nat)) (s : State) (m : Nat) : State :=
  let k := 2 * m
  if !groupRuns s k then s
  else
    let own (k : Nat) : Nat := countFor l (k / 16) (field (perfSel s k).toNat 0 10) (field (perfSel s k).toNat 10 4)
    let r := addCnt s k (own k)
    (addCnt r.1 (k + 1) (if chained s (k + 1) then r.2 else own (k + 1))).1

/-- The occurrences so far of this tick are counted under the selections of this tick. -/
def perfFlush (s : State) : State :=
  if s.faults.halted then s
  else (List.range 64).foldl (countPair s.perf.occ) { s with perf := { s.perf with occ := [] } }

/-- Changes take effect at the tick boundary (R500, R504). -/
def perfChanges (s : State) : State :=
  let s := if s.perf.clearNext then { s with perf := { s.perf with cnt := [], ovf0 := 0, ovf1 := 0, clearNext := false } } else s
  let s := s.perf.selNext.foldl (fun s x => putSel s x.1 x.2) s
  { s with perf := { s.perf with
      cnt := s.perf.cntNext.foldl (fun c x => smSet 0 c x.1 x.2) s.perf.cnt, selNext := [], cntNext := [] } }

/-- A counter's occurrences of this tick make it pass 2^48 - 1. -/
def wrapsNow (s : State) (k : Nat) : Bool :=
  let v := (perfFlush s).perf
  !s.faults.halted && groupRuns s k && (smGet 0 v.cnt k).toNat < perfCnt s k

def execPerfCounterWrap (k : Nat) (s : State) : Host.Outcome State Fault Refusal :=
  if k < 128 then whenLive s (fun s => if wrapsNow s k then perfFlush s else s) else .next s

/-! ## Register writes (R499, R500, R504) -/

def writeSel (s : State) (k v : Nat) : State :=
  { s with perf := { s.perf with selNext := s.perf.selNext ++ [(k, selOf k v)] } }

def execPerfSelWrite (k : Nat) (v : BitVec 64) (s : State) : Host.Outcome State Fault Refusal :=
  if k < 128 then whenLive s (fun s => writeSel s k v.toNat) else .next s

def writeCnt (s : State) (k v : Nat) : State :=
  { s with perf := { s.perf with cntNext := s.perf.cntNext ++ [(k, BitVec.ofNat 48 v)] } }

def execPerfCntWrite (k : Nat) (v : BitVec 64) (s : State) : Host.Outcome State Fault Refusal :=
  if k < 128 then whenLive s (fun s => writeCnt s k v.toNat) else .next s

def clearCounters (s : State) : State := { s with perf := { s.perf with clearNext := true } }

def execPerfClearAll (s : State) : Host.Outcome State Fault Refusal := whenLive s clearCounters

def clearOvf (s : State) (hi : Bool) (v : BitVec 64) : State :=
  if hi then { s with perf := { s.perf with ovf1 := s.perf.ovf1 &&& ~~~v } }
  else { s with perf := { s.perf with ovf0 := s.perf.ovf0 &&& ~~~v } }

def execPerfOvfClear (hi : Bool) (v : BitVec 64) (s : State) : Host.Outcome State Fault Refusal :=
  whenLive s (fun s => clearOvf s hi v)

/-- CW_PERF_CTL. -/
def writePerfCtl (s : State) (v : Nat) : State :=
  let s := { s with perf := { s.perf with run := BitVec.ofNat 8 v, stopFull := bit v 8 } }
  if bit v 9 then clearCounters s else s

/-! ## Register reads -/

def perfTraceReg (s : State) : Nat :=
  s.perf.next.toNat + s.perf.valid.toNat * 2 ^ 13 + b2n (sampEn s && !traceStopped s) * 2 ^ 26 + s.perf.lost.toNat * 2 ^ 32

/-- A word of 0x1000 to 0x18F8. -/
def perfRead (s : State) (off : Nat) : Nat :=
  if off < 0x1400 then perfCnt s ((off - 0x1000) / 8)
  else if off < 0x1800 then (perfSel s ((off - 0x1400) / 8)).toNat
  else if off = 0x1800 then s.perf.run.toNat + b2n s.perf.stopFull * 2 ^ 8
  else if off = 0x1808 then s.perf.ovf0.toNat
  else if off = 0x1810 then s.perf.ovf1.toNat
  else if off = 0x1818 then perfTraceReg s
  else 0

def perfWrite (s : State) (off v : Nat) : State :=
  if off < 0x1400 then writeCnt s ((off - 0x1000) / 8) v
  else if off < 0x1800 then writeSel s ((off - 0x1400) / 8) v
  else if off = 0x1800 then writePerfCtl s v
  else if off = 0x1808 then clearOvf s false (BitVec.ofNat 64 v)
  else if off = 0x1810 then clearOvf s true (BitVec.ofNat 64 v)
  else s

/-- Bytes of the trace buffer. -/
def traceRead (s : State) (off n : Nat) : List (BitVec 8) :=
  (List.range n).map (fun j =>
    match smGet none s.perf.trace ((off + j) / 32) with
    | some r => byteAt (traceBytes r) ((off + j) % 32)
    | none => 0)

/-! ## Sampling (R505, R508; 17 R469) -/

/-- The countdown has reached 0 on a transaction. -/
def execSampleTrigger (s : State) : Host.Outcome State Fault Refusal := whenLive s sampTake

def sampleSet (s : State) (h : Nat) : State :=
  let n := pl s h 0 4
  let c := pl s h 4 1
  withFields s h [(0, 4), (4, 1)] [(0, n = 0), (4, bit c 4)] (fun s =>
    let seed := BitVec.ofNat 32 s.now
    ansOk (sampReload { s with perf := { s.perf with
      n := BitVec.ofNat 32 n, ctl := BitVec.ofNat 8 c, lfsr := if seed = 0 then 1 else seed } }) h [])

def execSampleSet (h : Nat) (s : State) : Host.Outcome State Fault Refusal :=
  hatchRun h 0x0701 0x0701 s (fun s => sampleSet s h)

def execSampleStatus (h : Nat) (s : State) : Host.Outcome State Fault Refusal :=
  hatchRun h 0x0702 0x0702 s (fun s => ansOk s h
    (leBytes s.perf.next.toNat 2 ++ leBytes s.perf.valid.toNat 2 ++ leBytes s.perf.sampled.toNat 8))

/-- TRACE_CLEAR: the records of transactions sampled before it are not written. -/
def traceClear (s : State) : State :=
  { s with perf := { s.perf with next := 0, valid := 0, sampled := 0, lost := 0, open_ := [], due := [] } }

def execTraceClear (h : Nat) (s : State) : Host.Outcome State Fault Refusal :=
  hatchRun h 0x0703 0x0703 s (fun s => ansOk (traceClear s) h [])

/-- te of a retaining reset: counts and sampling cleared, selections and settings back to the image's (R509). -/
def perfReset (s : State) : State :=
  { s with perf := { s.perf with
      cnt := [], ovf0 := 0, ovf1 := 0, selNext := [], cntNext := [], clearNext := false, occ := [], next := 0, valid := 0,
      lost := 0, sampled := 0, due := [], open_ := [], trace := [], sel := s.perf.selImg, run := s.perf.runImg,
      stopFull := s.perf.stopImg, n := s.perf.nImg, ctl := s.perf.ctlImg, countdown := s.perf.nImg.toNat, lfsr := 1 } }

end Sys2Proof.Machine
end

