-- ==== Sys2Proof/Machine/Calib.lean ====
section
/-! DEFINITION. Calibration (15): the tick and its reference, delay selections, TSV walks, die trims, sensor scales and
the cold-start calibration. -/

namespace Sys2Proof.Machine

/-- Measurements may run: the reference locked and the TDC sound (R418, R419). -/
def calRuns (s : State) : Bool := s.cal.timing == .locked

/-! ## The timing unit (R418, R419) -/

/-- One tick measured in taps: TDC_LSB, or the TDC failed with C1 0x0F02. -/
def setLsb (s : State) (taps : Nat) : State :=
  let s := { s with cal := { s.cal with tdcAt := some s.now } }
  if 700 ≤ taps && taps ≤ 1400 then { s with cal := { s.cal with tdcLsb := BitVec.ofNat 16 (1024000 / taps) } }
  else chipFault { s with cal := { s.cal with timing := .tdcFailed } } .c1 12 0x0F02 0

/-- The measurement of every 1 ms. -/
def tdcMeasure (s : State) (taps : Nat) : State :=
  let due := match s.cal.tdcAt with
    | some t => waited s t (ms 1)
    | none => true
  if calRuns s && due then setLsb s taps else s

def execTdcMeasure (taps : Nat) (s : State) : Host.Outcome State Fault Refusal :=
  if taps ≤ 2048 then whenLive s (fun s => tdcMeasure s taps) else .next s

/-- HOLDOVER begins, with C1 0x0F01. -/
def referenceLost (s : State) : State :=
  if s.cal.holdover then s
  else chipFault { s with cal := { s.cal with
      timing := if s.cal.timing == .locked then .holdover else s.cal.timing, holdover := true,
      spans := s.cal.spans ++ [(s.now, none)], holdovers := BitVec.ofNat 32 (satAdd 32 s.cal.holdovers.toNat 1) } }
    .c1 12 0x0F01 0

def execReferenceLost (s : State) : Host.Outcome State Fault Refusal := whenLive s referenceLost

/-- LOCKED again; scaling ends at the next tick boundary. -/
def referenceRelock (s : State) : State :=
  if !s.cal.holdover then s
  else { s with cal := { s.cal with
      timing := if s.cal.timing == .holdover then .locked else s.cal.timing, holdover := false,
      spans := s.cal.spans.map (fun p => if p.2.isNone then (p.1, some (s.now + 1)) else p) } }

def execReferenceRelock (s : State) : Host.Outcome State Fault Refusal := whenLive s referenceRelock

/-- The conversion scales, every 10 s (R422, R428). -/
def putScales (s : State) (scales : List (BitVec 16)) : State :=
  { s with cal := { s.cal with
      scaleAt := s.now,
      scale := (scales.zipIdx).filterMap (fun p => if p.1 = 0x8000 then none else some (p.2, p.1)) } }

def execSensorScaleMeasure (scales : List (BitVec 16)) (s : State) : Host.Outcome State Fault Refusal :=
  if scales.length = 18 then
    whenLive s (fun s =>
      if s.cal.timing != .tdcFailed && waited s s.cal.scaleAt (ms 10000) then putScales s scales else s)
  else .next s

/-! ## Walks (R424 to R427) -/

/-- A die's value for a block: its region's sensor (07 R236). -/
def dieValue (s : State) (b d : Nat) : BitVec 16 := (tpos s (4 * d + b / 9)).value

/-- Some die of the block has moved by WALK_TEMP since its last full walk began. -/
def walkMoved (s : State) (b : Nat) : Bool :=
  (List.range 16).any (fun d =>
    16 * s.cal.walkTemp.toNat ≤ (s16 (dieValue s b d) - s16 (smGet 0 (walkOf s b).temps d)).natAbs)

/-- A full walk starts: its period over and the last one done, or, after the step in progress, a die moved. -/
def walkStart (s : State) (b : Nat) : State :=
  let w := walkOf s b
  if s.cal.walkEn && calRuns s && s.cal.done && (blk s b).st == .serving && w.wire.isNone &&
      !(freeTsvs s b).isEmpty && ((w.next.isNone && waited s w.lastFull (ms s.cal.walkPeriod.toNat)) || walkMoved s b) then
    putWalk s b { w with
      next := some 0, lastFull := s.now, lateRaised := false,
      temps := (List.range 16).foldl (fun m d => smSet 0 m d (dieValue s b d)) [] }
  else s

def execWalkStart (b : Nat) (s : State) : Host.Outcome State Fault Refusal :=
  if b < 36 then whenLive s (fun s => walkStart s b) else .next s

/-- Measured delays of one wire: die, direction, and taps where an edge came back. -/
abbrev WireTaps := List (Nat × Nat × Option Nat)

/-- A wire of which a die returns no edge, or that needs more than its line's range (R426). -/
def wireFails (s : State) (b w : Nat) (l : WireTaps) : Bool :=
  l.any (fun p => match p.2.2 with
    | none => true
    | some v => lineRange (lineElems s (selKeyOf b w p.1 p.2.1)) < lineTarget (selKeyOf b w p.1 p.2.1) (tapDelay s v))

/-- The delays of a wire by its lines. -/
def wireMeas (s : State) (b w : Nat) (l : WireTaps) : List (Nat × Nat) :=
  l.filterMap (fun p => p.2.2.map (fun v => (selKeyOf b w p.1 p.2.1, tapDelay s v)))

/-- A free spare is measured in place, before it is used and after each give-back (R424). -/
def measureSpare (s : State) (b k : Nat) (l : WireTaps) : State :=
  (wireMeas s b (152 + k) l).foldl (fun s p => putLine s p.1 p.2) s

/-- The wire a walk takes next: those of a CA requalification ahead of the normal order (R426). -/
def nextWire (w : Walk) : Option Nat := w.requal.head?.or w.next

/-- How far measured delays move from the last ones of their lines. -/
def movement (s : State) (b n : Nat) (l : WireTaps) : Nat :=
  maxNat (l.map (fun p => match p.2.2, smGet none s.cal.meas (selKeyOf b n p.1 p.2.1) with
    | some v, some old => ((tapDelay s v : Int) - old).natAbs
    | some _, none => 0
    | none, _ => 2 ^ 30))

/-- The wire whose delay failed or moved most in a requalification. -/
def noteMoved (n moved : Nat) (w : Walk) : Walk :=
  if w.requal.isEmpty || (w.requalWorst.any (fun x => moved ≤ x.2)) then w else { w with requalWorst := some (n, moved) }

/-- A walked wire is behind: one of the requalification, or the next of the full walk. -/
def pastWire (now n : Nat) (w : Walk) : Walk :=
  if w.requal.isEmpty then
    { w with wire := none, next := if n + 1 < 152 then some (n + 1) else none, lastDone := if n + 1 < 152 then w.lastDone else now }
  else { w with wire := none, requal := w.requal.drop 1, requalEnd := if w.requal.length = 1 then some now else w.requalEnd }

/-- A spare takes the next wire, which is measured by LOOPBACK; a wire that fails stays with the spare, substituted at once
(R425, R426). -/
def walkTake (s : State) (b : Nat) (l spare : WireTaps) : State :=
  let w := walkOf s b
  match nextWire w, (freeTsvs s b).head? with
  | some n, some k =>
    if s.cal.walkEn && calRuns s && w.wire.isNone && (blk s b).st == .serving && blockIdle s b 500 then
      let s := measureSpare s b k spare
      let w := noteMoved n (movement s b n l) w
      let s := modeDies s b (List.range 16) [] subTake 0 (takeOperand n k)
      if wireFails s b n l then putSubst (putWalk s b (pastWire s.now n w)) b n k
      else putWalk s b { w with
        wire := some n, spare := k, takenAt := s.now, pend := wireMeas s b n l,
        loops := (List.range 16).flatMap (fun d => [(d, true), (d, false)]) }
    else s
  | _, _ => s

/-- Taps of one wire name dies and directions, and fit the converter (R418). -/
def tapsOk (l : WireTaps) : Bool := l.all (fun p => p.1 < 16 && p.2.1 < 2 && (p.2.2.getD 0) ≤ 2048)

def execWalkTake (b : Nat) (delays spare : List (Nat × Nat × Option Nat)) (s : State) : Host.Outcome State Fault Refusal :=
  if b < 36 ∧ tapsOk delays ∧ tapsOk spare then whenLive s (fun s => walkTake s b delays spare) else .next s

/-- A STROBE trim waits for its refresh slot: the whole 2 ps steps that bring a die's mean offset back within 2 ps of 0
(R427). -/
def askStrobe (s : State) (b d : Nat) (o : Int) : State :=
  let old := field (trimV s b d).toNat 10 6
  let new := (max 0 (min 63 ((old : Int) - o.tdiv 2048))).toNat
  modBlk s b (fun k => putBdie k d { bdieOf k d with
    modes := (bdieOf k d).modes.filter (fun m => m.1 ≠ 0x07) ++ (if new = old then [] else [(0x07, new)]) })

/-- A die's offset at the end of a full walk: STROBE follows the read direction's when it moved more than 8 ps (R422), the
record a difference of 4 ps or more (R431). -/
def dieDone (b : Nat) (s : State) (d x : Nat) : State :=
  match dieOffset s b d x with
  | none => s
  | some o =>
    let old := dieV s b d x
    let move := (o - 1024 * old.toInt).natAbs
    let s := if x = 1 && old ≠ 0x80 && 8192 < move then askStrobe s b d o else s
    if old = 0x80 || 4096 ≤ move then putDieV s b d x o else s

def walkDone (s : State) (b : Nat) : State :=
  (List.range 16).foldl (fun s d => dieDone b (dieDone b s d 0) d 1) s

/-- The wire carries itself again, at an idle period, or at the boundary where the walk must give it back. -/
def walkGive (s : State) (b : Nat) (spare : WireTaps) : State :=
  let w := walkOf s b
  match w.wire with
  | some n =>
    if blockIdle s b 500 && (waited s w.takenAt 1500 || !calRuns s || (blk s b).st != .serving) then
      let v := { pastWire s.now n w with loops := [], pend := [] }
      let s := modeDies (loadPend s b) b (List.range 16) [] subGive 0 (giveOperand w.spare)
      let s := measureSpare (putWalk s b v) b w.spare spare
      let s := if v.requal.isEmpty then modBlk s b (fun k => { k with requal := false }) else s
      let s := { s with cal := { s.cal with walkSteps := BitVec.ofNat 64 (satAdd 64 s.cal.walkSteps.toNat 1) } }
      if w.requal.isEmpty && v.next.isNone then walkDone s b else s
    else s
  | none => s

def execWalkGive (b : Nat) (spare : List (Nat × Nat × Option Nat)) (s : State) : Host.Outcome State Fault Refusal :=
  if b < 36 ∧ tapsOk spare then whenLive s (fun s => walkGive s b spare) else .next s

/-- No full walk within four periods: C0 0x0F03, once per walk. -/
def walkLate (s : State) (b : Nat) : State :=
  let w := walkOf s b
  if s.cal.walkEn && s.cal.done && !w.lateRaised && expired s w.lastDone (4 * ms s.cal.walkPeriod.toNat) &&
      (w.next.isSome || !(freeTsvs s b).isEmpty) then
    raiseC0 { (putWalk s b { w with lateRaised := true }) with
        cal := { (putWalk s b { w with lateRaised := true }).cal with
          walkLate := BitVec.ofNat 32 (satAdd 32 s.cal.walkLate.toNat 1) } } .block (b / 9) b 0x0F03 0 0
  else s

def execWalkLate (b : Nat) (s : State) : Host.Outcome State Fault Refusal :=
  if b < 36 then whenLive s (fun s => walkLate s b) else .next s

/-! ## Cold start (R429; 18 R483) -/

/-- A slice that fails the Undercoat array test is retired before any line is cached; a second one in a region leaves
it without cache, directory and shadow; C1 0x1205 (18 R483, R497). -/
def slicetestFails (s : State) (slice : Nat) : State :=
  let r := slice / 16
  let u := ucReg s r
  let s := match u.sliceLost with
    | none =>
      let s := (List.range (cSets s)).foldl (fun s set => loseFrame s r (slice % 16) set true) s
      loseDirSlice s r (slice % 16) true
    | some _ => ucRegPut s r { u with disabled := true }
  sliceFault s .c1 slice 0x1205 0

/-- The full path runs without a valid record, or with CAL_FULL. -/
def fullPath (s : State) : Bool := !s.img.calRec.valid || s.cal.calFull

/-- A measured line: its place, the taps of its 21 elements, and those of its wire where it was measured. -/
abbrev LineTaps := Nat × List Nat × Option Nat

/-- What the record predicts for a line: its wire's mean and its die's offset (R429). -/
def predicted (s : State) (key : Nat) : Option Nat :=
  let x := key % 2
  let d := key / 2 % 16
  let w := wireV s (key / 5120) (key / 32 % 160) x
  let o := dieV s (key / 5120) d x
  if w = 0xFF || o = 0x80 then none else some (1024 * ((w.toNat : Int) + o.toInt)).toNat

/-- A wire of the fast path that takes its stored values: within 3 ps of its prediction at D0 and at D15. -/
def takesStored (s : State) (lines : List LineTaps) (key : Nat) : Bool :=
  [0, 15].all (fun d =>
    let k := key - 2 * (key / 2 % 16) + 2 * d
    match lines.find? (fun p => p.1 = k), predicted s k with
    | some (_, _, some v), some e => ((tapDelay s v : Int) - e).natAbs ≤ 3 * 1024
    | _, _ => false)

/-- A line's elements as measured, and its wire's delay: stored or measured, with the selection it gives (R421, R429). -/
def coldLine (full : Bool) (lines : List LineTaps) (s : State) (p : LineTaps) : State :=
  let s := { s with cal := { s.cal with elems := smSet nominalElems s.cal.elems p.1 (p.2.1.map (tapDelay s)) } }
  match (if !full && takesStored s lines p.1 then predicted s p.1 else p.2.2.map (tapDelay s)) with
  | some v => putLine s p.1 v
  | none => s

/-- Wires of a block, and dies, in a direction, that the lines name: WIRE and DIE of the record follow them (R430). -/
def coldBytes (s : State) (full : Bool) (lines : List LineTaps) : State :=
  let ks := (lines.filter (fun p => full || !takesStored s lines p.1)).map (fun p => p.1)
  let wires := (ks.map (fun k => (k / 5120, k / 32 % 160, k % 2))).eraseDups
  let dies := (ks.map (fun k => (k / 5120, k / 2 % 16, k % 2))).eraseDups
  let s := wires.foldl (fun s p => putWireV s p.1 p.2.1 p.2.2) s
  dies.foldl (fun s p => match dieOffset s p.1 p.2.1 p.2.2 with
    | some o => putDieV s p.1 p.2.1 p.2.2 o
    | none => s) s

/-- Calibration in the dies: trims and substitutions, then the repairs of their rows and columns, one REPAIR_LOAD each
(R429; 09 R286). -/
def loadDies (s : State) : State :=
  (List.range 36).foldl (fun s pb =>
    let x := srBlk s pb
    let banks := x.rowRep.map (fun p => p.1) ++ x.colRep.map (fun p => p.1)
    driveWords s pb (calWords s pb ++ (banks.zipIdx).flatMap (fun p =>
      [caWord 7 (dieOfBank pb p.1) (dbankOf p.1) 0x1B false, BitVec.ofNat 16 (8 * p.2)]))) s

/-- Results of the cold start put in force. -/
def coldResults (s : State) (lines : List LineTaps) : State :=
  let full := fullPath s
  let s := { s with cal := { s.cal with region10 := if fnOk s 10 then fnContent s 10 else 0 } }
  let s := loadDies s
  let t := coldBytes (lines.foldl (coldLine full lines) s) full lines
  { t with cal := { t.cal with
      fullPath := full, done := true, coldUs := BitVec.ofNat 32 ((s.now - s.cal.t0) / 1000), moved := true, lastWrite := 0,
      walks := (List.range 36).foldl (fun m b => smSet {} m b { lastFull := s.now, lastDone := s.now }) [] } }

/-- Calibration complete: blocks that failed their row check twice are charged, and the Primer pass starts (08 R269). -/
def coldComplete (s : State) (failed badSlices : List Nat) : State :=
  let s := badSlices.foldl slicetestFails s
  let s := failed.foldl (fun s b => chargeBlock (blockFault s .c1 b 0x0F05 0) b) s
  let s := (List.range 36).foldl (fun s b => modBlk s b (fun k => { k with t0 := s.now })) s
  { s with boot := { s.boot with phase := .primer }, primer := { s.primer with st := .clones, t0 := s.now, since := s.now, ran := 0, cloned := false } }

/-- TDC_LSB and the scales are measured first; a TDC that fails stops every measurement, this one with it (R418, R429). -/
def coldCal (s : State) (taps : Nat) (lines : List LineTaps) (scales : List (BitVec 16)) (failed badSlices : List Nat) : State :=
  if s.boot.phase == .calibration && calRuns s then
    let s := setLsb s taps
    if calRuns s then coldComplete (coldResults (putScales s scales) lines) failed badSlices else s
  else s

def execColdCalibrationComplete (taps : Nat) (lines : List (Nat × List Nat × Option Nat)) (scales : List (BitVec 16))
    (failed badSlices : List Nat) (s : State) : Host.Outcome State Fault Refusal :=
  if taps ≤ 2048 ∧ lines.all (fun p => p.1 < 184320 && p.2.1.length = 21) ∧ scales.length = 18 ∧
      failed.all (fun b => b < 36) ∧ badSlices.all (fun c => c < 64) then
    whenLive s (fun s => coldCal s taps lines scales failed badSlices)
  else .next s

/-! ## Status (R433) -/

def calStatus (s : State) : List (BitVec 8) :=
  let t := match s.cal.timing with
    | .locked => 0
    | .holdover => 1
    | .tdcFailed => 2
  leBytes (t + 4 * b2n s.cal.refSel + 8 * b2n s.cal.fullPath) 2 ++ leBytes s.cal.tdcLsb.toNat 2 ++
    leBytes s.cal.coldUs.toNat 4 ++ leBytes s.cal.holdovers.toNat 4 ++ leBytes s.cal.walkLate.toNat 4 ++
    leBytes s.cal.walkSteps.toNat 8 ++ (List.range 36).flatMap (fun b =>
      let w := walkOf s b
      leBytes (w.wire.getD 0xFF) 1 ++ leBytes (freeTsvs s b).length 1 ++
        leBytes (min 0xFFFF ((s.now - w.lastFull) / 1000000)) 2)

def execCalStatus (h : Nat) (s : State) : Host.Outcome State Fault Refusal :=
  hatchRun h 0x0607 0x0607 s (fun s => ansOk s h (calStatus s))

end Sys2Proof.Machine
end

