-- ==== Sys2Proof/Machine/Vault.lean ====
section
/-! DEFINITION. Meanings of the Vault's and the image session's commands (14 R403, R412; layouts 17 R469). -/

namespace Sys2Proof.Machine

/-! ## Fuse jobs (R403; 21 R536, R537) -/

/-- The job ends with a status; DONE counts the words of the command completed. -/
def fuseEnd (s : State) (status : Nat) (payload : List (BitVec 8)) : State :=
  match s.img.job with
  | some j => hatchResult { s with img := { s.img with job := none } } j.hatch status payload j.burned 0xFFFFFFFF
  | none => s

/-- Why no further word is begun: a thermal stop, or the fuse range closed. -/
def fuseStop (s : State) : Option Nat :=
  if s.heat.stop != .running then some 10 else if s.heat.fuseOk then none else some 6

/-- What a job does once its last word is burned. -/
def fuseFinish (s : State) (j : FuseJob) : State :=
  let s := { s with img := { s.img with job := some j } }
  if j.opcode = 0x0502 then fuseEnd (putVState s j.region (if vState s j.region == .blank then .openR else vState s j.region)) 0 []
  else if j.opcode = 0x0503 then fuseEnd (putVState s j.region (regionState s j.region)) 0 []
  else if j.opcode = 0x0504 then
    let v := s.vault
    let s := { s with vault := { v with
      prog := if (lockFuses s 0).getLsbD j.region then setBit v.prog j.region true else v.prog,
      read := if (lockFuses s 1).getLsbD j.region then setBit v.read j.region true else v.read } }
    fuseEnd s 0 []
  else
    let sp := 15 + mapEntry s j.region
    fuseEnd (storeChanged (chipFault (putVState s sp .openR) .c1 10 0x0E07 1)) 0 [BitVec.ofNat 8 sp]

/-- Words that already hold their bits are skipped and count as done. -/
def skipWords (s : State) : List (Nat × BitVec 32 × Bool) → Nat → List (Nat × BitVec 32 × Bool) × Nat
  | [], n => ([], n)
  | (w, v, e) :: l, n => if fuseT s w = v then skipWords s l (n + b2n e) else ((w, v, e) :: l, n)

/-- The next word begins, or the job ends. -/
def fuseGo (s : State) (j : FuseJob) : State :=
  let (ws, n) := skipWords s j.words j.burned
  let j := { j with words := ws, burned := n }
  if ws.isEmpty then fuseFinish s j
  else
    let s := { s with img := { s.img with job := some j } }
    match fuseStop s with
    | some st => fuseEnd s st []
    | none => s

/-- A fuse command starts: its Hatch waits. -/
def fuseStart (s : State) (h op region : Nat) (words : List (Nat × BitVec 32 × Bool)) : State :=
  fuseGo (hatchWait s h) { hatch := h, opcode := op, region := region, words := words, burned := 0 }

/-- A word is burned and verified. -/
def fuseBurned (s : State) (word : BitVec 32) : State :=
  match s.img.job with
  | some j =>
    (match j.words with
     | (w, v, e) :: l =>
       let s := fuseBurn s w v word
       -- the word counts as done, whatever it reads: it is not burned again by this command
       fuseGo s { j with words := l, burned := j.burned + b2n e }
     | [] => s)
  | none => s

/-- At a chip halt or a full stack reset the word being burned completes; its command is never answered. -/
def fuseCut (s : State) : State :=
  let s := match s.img.job with
    | some j => (match j.words with
        | (w, v, _) :: _ => fuseBurn s w v v
        | [] => s)
    | none => s
  { s with img := { s.img with job := none } }

def execFuseWordBurned (word : BitVec 32) (s : State) : Host.Outcome State Fault Refusal :=
  if s.faults.halted then .next (fuseCut s) else whenLive s (fun s => fuseBurned s word)

/-- A thermal stop begins: the word in progress completes and the command is answered ABORTED by `fuseGo`; at a retaining
reset the command is answered at t0 with the word in progress counted, and that word completes. -/
def fuseAbort (s : State) : State :=
  match s.img.job with
  | some j =>
    (match j.words with
     | (w, v, e) :: _ =>
       let s := fuseBurn s w v v
       fuseEnd { s with img := { s.img with job := some { j with burned := j.burned + b2n e } } } 10 []
     | [] => fuseEnd s 10 [])
  | none => s

/-! ## Conditions the commands share -/

/-- DENIED for a region that is not of the field functions while FUSE_ALL = 1; BUSY while a job runs. -/
def fuseGate (s : State) (h n : Nat) (f : State → State) : State :=
  if s.vault.fuseAll && !fieldRegion s n then ans s h 3
  else if s.img.job.isSome then ans s h 1 else f s

/-- VAULT_STATUS. -/
def execVaultStatus (h : Nat) (s : State) : Host.Outcome State Fault Refusal :=
  hatchRun h 0x0501 0x0501 s (fun s => ansOk s h (vaultRecord s))

/-! ## FUSE_PROGRAM -/

/-- The fuse words of payload word i of a region in a mode: the word, and in Twin mode its copy. -/
def programWords (n mode d : Nat) (v : BitVec 32) : List (Nat × BitVec 32 × Bool) :=
  if mode = 1 then [(192 * n + 2 + 2 * d, v, false), (192 * n + 3 + 2 * d, v, true)] else [(192 * n + 2 + d, v, true)]

/-- A requested 0 meets a burned 1. -/
def clashes (s : State) (l : List (Nat × BitVec 32 × Bool)) : Bool := l.any (fun p => fuseT s p.1 &&& ~~~p.2.1 ≠ 0)

/-- A region that holds its commit word is not programmed again, a DEFECTIVE one answered LOCKED like a COMMITTED one (DESIGN
CHOICE, log 195: R403 names no answer for it). -/
def fuseProgram (s : State) (h : Nat) : State :=
  let n := pl s h 0 1
  let hasH := pl s h 1 1 % 2
  let first := pl s h 2 2
  let count := pl s h 4 2
  let hdr := if hasH = 1 then fuseWord (pl s h 8 4) else fuseHeader s n
  let word (i : Nat) : BitVec 32 := fuseWord (pl s h (8 + 4 * (hasH + i)) 4)
  withFields s h [(0, 6), (8, 4 * (hasH + count))]
    [(0, 20 ≤ n), (1, 2 ≤ pl s h 1 1), (4, 124 < count || (count = 0 && hasH = 0))] (fun s =>
    fuseGate s h n (fun s =>
      if s.vault.prog.getLsbD n || vState s n == .committed || vState s n == .defective then ans s h 7
      else if hasH = 1 && !hdrLegal hdr then ansBad s h 8
      else if !hdrLegal hdr || hdrLen hdr < first + count then ansBad s h 2
      else
        let hw := if hasH = 1 then [(192 * n, hdr, false), (192 * n + 1, hdr, true)] else []
        let l := hw ++ (List.range count).flatMap (fun i => programWords n (hdrMode hdr) (first + i) (word i))
        if clashes s l then ansBad s h 8
        else fuseStart s h 0x0502 n l))

def execFuseProgram (h : Nat) (s : State) : Host.Outcome State Fault Refusal :=
  hatchRun h 0x0502 0x0502 s (fun s => fuseProgram s h)

/-! ## FUSE_COMMIT, FUSE_LOCK, FUSE_REMAP, FUSE_READ -/

/-- Every data word in LENGTH reads good at the tight margin, each copy of a pair included. -/
def fuseVerified (s : State) (n : Nat) : Bool :=
  let h := fuseHeader s n
  hdrLegal h && (List.range (hdrLen h)).all (fun d => (dataWords s n (hdrMode h) d).all (fun w => fuseEven (fuseT s w)))

def fuseCommit (s : State) (h : Nat) : State :=
  let n := pl s h 0 1
  withFields s h [(0, 1)] [(0, 20 ≤ n)] (fun s =>
    fuseGate s h n (fun s =>
      if s.vault.prog.getLsbD n || vState s n == .committed then ans s h 7
      else match fuseStop s with
        | some st => ans s h st
        | none =>
          if !fuseVerified s n then ans s h 8
          else fuseStart s h 0x0503 n [(192 * n + 190, commitWord, false), (192 * n + 191, commitWord, true)]))

def execFuseCommit (h : Nat) (s : State) : Host.Outcome State Fault Refusal :=
  hatchRun h 0x0503 0x0503 s (fun s => fuseCommit s h)

def fuseLock (s : State) (h : Nat) : State :=
  let n := pl s h 0 1
  let k := pl s h 1 1
  withFields s h [(0, 2)] [(0, 20 ≤ n || !fieldRegion s n), (1, k = 0 || 4 ≤ k)] (fun s =>
    fuseGate s h n (fun s =>
      let v (i : Nat) : List (Nat × BitVec 32 × Bool) :=
        [(3852 + i, fuseT s (3852 + i) ||| BitVec.ofNat 32 (2 ^ n), false), (3854 + i, fuseT s (3854 + i) ||| BitVec.ofNat 32 (2 ^ n), true)]
      fuseStart s h 0x0504 n ((if bit k 0 then v 0 else []) ++ (if bit k 1 then v 1 else []))))

def execFuseLock (h : Nat) (s : State) : Host.Outcome State Fault Refusal :=
  hatchRun h 0x0504 0x0504 s (fun s => fuseLock s h)

def fuseRemap (s : State) (h : Nat) : State :=
  let f := pl s h 0 1
  withFields s h [(0, 1)] [(0, 16 ≤ f)] (fun s =>
    fuseGate s h f (fun s =>
      if mapEntry s f ≠ 0 then ans (chipFault s .c1 10 0x0E08 0) h 9
      else if vState s f != .lockedIncomplete && vState s f != .defective then ansBad s h 0
      else match freeSpareRegion s with
        | none => ans (chipFault s .c1 10 0x0E08 0) h 9
        | some k =>
          let v := BitVec.ofNat 32 ((k + 1) * 2 ^ (3 * f % 30))
          let w := 3856 + f / 10
          fuseStart s h 0x0505 f [(w, fuseT s w ||| v, false), (w + 2, fuseT s (w + 2) ||| v, true)]))

def execFuseRemap (h : Nat) (s : State) : Host.Outcome State Fault Refusal :=
  hatchRun h 0x0505 0x0505 s (fun s => fuseRemap s h)

def fuseRead (s : State) (h : Nat) : State :=
  let n := pl s h 0 1
  withFields s h [(0, 1)] [(0, 20 ≤ n)] (fun s =>
    if s.vault.fuseAll && !fieldRegion s n then ans s h 3
    else if s.vault.read.getLsbD n then ans s h 7
    else
      let hd := fuseHeader s n
      let len := if hdrLegal hd then hdrLen hd else 0
      ansOk s h (leBytes hd.toNat 4 ++ leBytes (stateCode s n) 4 ++
        (List.range len).flatMap (fun d => leBytes (dataWord s n d).toNat 4)))

def execFuseRead (h : Nat) (s : State) : Host.Outcome State Fault Refusal :=
  hatchRun h 0x0506 0x0506 s (fun s => fuseRead s h)

/-! ## Image commands (R412) -/

/-- An image command takes the bus: BUSY while another command of the session holds it. -/
def imgStart (s : State) (h op done total : Nat) (ks : List TwKind) : State :=
  if s.img.eeJob.isSome then ans s h 1
  else
    let s := { (hatchWait s h) with img := { s.img with eeJob := some { hatch := h, opcode := op, done := done, total := total } } }
    let s := ks.foldl (fun s k => twAsk s 4 k (.hatch h)) s
    if ks.isEmpty then imgFinish s h true else s

/-- A page write may begin now: TEMP_RANGE outside the range, ABORTED under a thermal stop. -/
def imgGate (s : State) (h : Nat) (f : State → State) : State :=
  if s.heat.stop != .running then ans s h 10 else if s.heat.storeOk then f s else ans s h 6

def imageBegin (s : State) (h : Nat) : State :=
  if s.img.session.isSome || s.img.eeJob.isSome then ans s h 1
  else imgGate s h (fun s =>
    let s := { s with img := { s.img with session := some { hatch := h, written := 0 } } }
    imgStart s h 0x0510 0 4 [.eeWrite (slotBase s (standby s) + 60) (leBytes 0xFFFFFFFF 4)])

def execImageBegin (h : Nat) (s : State) : Host.Outcome State Fault Refusal :=
  hatchRun h 0x0510 0x0510 s (fun s => imageBegin s h)

/-- A session open for this Hatch (R412). -/
def sessionOf (s : State) (h : Nat) : Bool :=
  match s.img.session with
  | some x => x.hatch = h
  | none => false

/-- The writes of a range of the slot, its COMMIT bytes left out. -/
def imgPieces (base off : Nat) (d : List (BitVec 8)) : List TwKind :=
  let a := d.take (60 - off)
  let b := d.drop (64 - off)
  (if off < 60 ∧ a ≠ [] then [.eeWrite (base + off) a] else []) ++
    (if b ≠ [] then [.eeWrite (base + max off 64) b] else [])

def imageWrite (s : State) (h : Nat) : State :=
  let off := pl s h 0 4
  let n := pl s h 4 4
  withFields s h [(0, 8), (8, n)] [(0, off % 4 ≠ 0 || slotSize s < off + n), (4, n < 4 || 4032 < n || n % 4 ≠ 0)] (fun s =>
    if !sessionOf s h then ansBad s h 0
    else imgGate s h (fun s => imgStart s h 0x0511 0 n (imgPieces (slotBase s (standby s)) off (plBytes s h 8 n))))

def execImageWrite (h : Nat) (s : State) : Host.Outcome State Fault Refusal :=
  hatchRun h 0x0511 0x0511 s (fun s => imageWrite s h)

def imageCommit (s : State) (h : Nat) : State :=
  if !sessionOf s h then ansBad s h 0
  else imgGate s h (fun s =>
    let b := slotBase s (standby s)
    imgStart s h 0x0512 0 64 [.eeRead b (min (slotSize s) (64 + hdrLength s b))])

def execImageCommit (h : Nat) (s : State) : Host.Outcome State Fault Refusal :=
  hatchRun h 0x0512 0x0512 s (fun s => imageCommit s h)

def execImageStatus (h : Nat) (s : State) : Host.Outcome State Fault Refusal :=
  hatchRun h 0x0513 0x0513 s (fun s =>
    imgStart s h 0x0513 0 128 [.eeRead (slotBase s 0) 64, .eeRead (slotBase s 1) 64])

def imageRead (s : State) (h : Nat) : State :=
  let slot := pl s h 0 1
  let off := pl s h 4 4
  let n := pl s h 8 4
  withFields s h [(0, 1), (4, 8)]
    [(0, 2 ≤ slot), (4, off % 4 ≠ 0 || slotSize s < off + n), (8, n < 4 || 4032 < n || n % 4 ≠ 0)] (fun s =>
    let a := slotBase s slot + off
    imgStart s h 0x0514 a n [.eeRead a n])

def execImageRead (h : Nat) (s : State) : Host.Outcome State Fault Refusal :=
  hatchRun h 0x0514 0x0514 s (fun s => imageRead s h)

end Sys2Proof.Machine
end

