-- ==== Sys2Proof/Machine/Power.lean ====
section
/-! DEFINITION. Power, pins and the test port (16 R442, R443, R449, R453; 22 R547, R548, R553, R558, R559): power removed
and restored, the full stack reset, boot halt, rails, and scan. -/

namespace Sys2Proof.Machine

/-! ## What a loss of power or a full stack reset leaves (R449; 22 R547) -/

/-- The state with everything discarded but the Vault, the EEPROM, and the levels of the pins. -/
def emptied (s : State) : State :=
  { State.reset with
    pending := s.pending, now := s.now, free := s.free,
    vault := { tight := s.vault.tight, loose := s.vault.loose },
    img := { eeprom := s.img.eeprom },
    pins := { ir := s.pins.ir, chain := s.pins.chain, dieIr := s.pins.dieIr, railOut := s.pins.railOut },
    boot := { pwrGood := s.boot.pwrGood, stackRstN := s.boot.stackRstN, retRstN := s.boot.retRstN },
    cal := { refSel := s.cal.refSel } }

/-- The fuse word that power leaves: some of its bits read 1 at the tight margin, more of them at the loose one
(14 R401, R403). -/
def fuseTorn (s : State) : State :=
  match s.img.job with
  | some j =>
    (match j.words with
     | (w, v, _) :: _ =>
       let a := v &&& freeBits 32 s.free
       let b := v &&& freeBits 32 (s.free + 1)
       let s := { s with free := s.free + 2 }
       { s with vault := { s.vault with
           tight := smSet 0 s.vault.tight w (fuseT s w ||| a), loose := smSet 0 s.vault.loose w (fuseL s w ||| a ||| b) } }
     | [] => s)
  | none => s

/-- EEPROM pages in progress are cut off, in their device too (22 R547; 14 R414). -/
def pagesTorn (s : State) : State :=
  let s := s.tw.polls.foldl (fun s p => twCut s p.1) s
  match s.tw.cur with
  | some t => if s.tw.idleSince.isNone then twCut s t else s
  | none => s

/-- PWR_GOOD low. -/
def powerOff (s : State) : State :=
  let s := emptied (pagesTorn (fuseTorn s))
  { s with boot := { s.boot with pwrGood := false }, cal := {} }

def execPowerRemoved (s : State) : Host.Outcome State Fault Refusal := .next (powerOff s)

/-! ## The start (R442, R443) -/

/-- t0: REF_SEL sampled, the PLL starts; STACK_FATAL_N and THERM_N high. -/
def startUp (s : State) (last : Nat) : State :=
  { s with
    boot := { s.boot with phase := .pll, t0 := s.now, lastReset := BitVec.ofNat 3 last },
    pins := { s.pins with released := false } }

/-- PWR_GOOD rises; with STACK_RST_N low the start waits for its rising edge. The 1838 chain holds the base die. -/
def powerOn (s : State) (refSel : Bool) : State :=
  if s.boot.pwrGood then s
  else
    let s := { s with
      now := 0,
      boot := { s.boot with pwrGood := true }, cal := { s.cal with refSel := refSel },
      pins := { s.pins with chain := 0, ir := 1, dieIr := [] } }
    if s.boot.stackRstN then startUp s 0 else s

def execPowerOn (refSel : Bool) (s : State) : Host.Outcome State Fault Refusal := .next (powerOn s refSel)

/-- The PLL locks: Strongroom's boot ROM runs, with every key register zero, and BIST of the base die starts. -/
def pllLock (s : State) : State :=
  if s.boot.phase == .pll && !expired s s.boot.t0 (ms 100) then { s with boot := { s.boot with phase := .bist } } else s

def execPllLock (s : State) : Host.Outcome State Fault Refusal := whenLive s pllLock

/-- Boot halt: STACK_FATAL_N low until power is removed; no port is trained. -/
def haltBoot (s : State) : State :=
  let s := emptied s
  { s with boot := { s.boot with phase := .halt }, faults := { s.faults with fatalLow := true },
           pins := { s.pins with released := false } }

/-- A start fails: the PLL has not locked by t0 + 100 ms, BIST or the ROM check fails; once the Wide Port is Active a
failure is a C4 fault. -/
def bootFails (s : State) (cause : Nat) : State :=
  if s.boot.phase == .pll then (if cause = 0 && expired s s.boot.t0 (ms 100) then haltBoot s else s)
  else if s.boot.phase == .released || s.boot.phase == .retaining || s.boot.phase == .retHeld || cause = 0 then s
  else if s.wp.st == .active then chipFault s .c4 13 0x1006 0
  else haltBoot s

def execBootHalt (cause : Nat) (s : State) : Host.Outcome State Fault Refusal :=
  if cause < 3 then whenLive s (fun s => bootFails s cause) else .next s

/-! ## The full stack reset (R449) -/

/-- NODE_DOWN on every port that is up, for 1 us; its transmitter is off from then on. -/
def sayDown (s0 s : State) : State :=
  let s := { s with faults := { s.faults with haltAt := s.now } }
  let s := if s0.wp.st == .off || s0.wp.st == .failed then s
           else { s with wp := { s.wp with st := .halted, link := { epoch := s0.wp.link.epoch } } }
  (List.range 4).foldl (fun s p =>
    if (port s0 p).st == .down then s
    else modPort s p (fun x => { x with
      st := .halted, link := { epoch := (port s0 p).link.epoch }, laneMap := (port s0 p).laneMap,
      txMap := (port s0 p).txMap })) s

/-- STACK_RST_N low: ignored in C4 and in boot halt; a fuse word in progress completes, the two-wire lines are released,
everything but the Vault and the EEPROM is discarded. -/
def stackReset (s : State) : State :=
  let s := { s with boot := { s.boot with stackRstN := false, stackLowAt := if s.boot.pwrGood then max s.now 1 else 0 } }
  if s.faults.halted || s.boot.phase == .halt || s.boot.phase == .off then s
  else
    let s1 := emptied (twRelease (fuseCut s))
    sayDown s { s1 with boot := { s1.boot with phase := .off, stackLowAt := max s.now 1 } }

def execFullStackReset (s : State) : Host.Outcome State Fault Refusal := .next (stackReset s)

/-- STACK_RST_N rises: t0 of the power-on sequence, after a full stack reset or after power came with the pin low. -/
def stackRise (s : State) : State :=
  let b := s.boot
  if b.stackRstN then s
  else
    let s := { s with boot := { b with stackRstN := true } }
    if b.pwrGood && b.phase == .off then startUp (emptied s) (if b.stackLowAt = 0 then 0 else 1) else s

def execStackRstNRising (s : State) : Host.Outcome State Fault Refusal := .next (stackRise s)

/-! ## Rails (22 R548) -/

/-- A rail has stayed outside its range for 10 us: 0 VDD_ARRAY, 1 VPP, 2 VDDQ_W, 3 VDDA_F, 4 VDDH_F. -/
def railLost (s : State) (rail : Nat) : State :=
  let s := { s with pins := { s.pins with railOut := smSet false s.pins.railOut rail true } }
  if rail < 2 then chipFault s .c4 13 0x1601 rail
  else if rail = 2 then
    let s := chipFault s .c1 0 0x1602 0
    if s.wp.st == .off || s.wp.st == .failed || s.wp.dead then s else wpOut s
  else
    let s := chipFault s .c1 1 0x1603 (rail - 3)
    (List.range 4).foldl (fun s p => fpDown s p false) s

def execRailOutOfRange (rail : Nat) (s : State) : Host.Outcome State Fault Refusal :=
  if rail < 5 then whenWired s (fun s => if smGet false s.pins.railOut rail then s else railLost s rail)
  else .next s

/-- A rail is in range again: with both fabric rails in range for 1 ms, fabric bring-up restarts. -/
def railBack (s : State) (rail : Nat) : State :=
  if !smGet false s.pins.railOut rail then s
  else
    let s := { s with pins := { s.pins with railOut := smSet false s.pins.railOut rail false } }
    if 3 ≤ rail && !railDown s then (List.range 4).foldl startBring s else s

def execRailRestored (rail : Nat) (s : State) : Host.Outcome State Fault Refusal :=
  if rail < 5 then whenWired s (fun s => railBack s rail) else .next s

/-! ## The test port (R453; 22 R558, R559) -/

/-- Instructions the base die knows that enter scan; every unlisted code of the base die acts as BYPASS. -/
def entersScan (die : Nat) (ir : BitVec 8) : Bool :=
  if die = 0 then ir == 3 || ir == 4 || ir == 5 else !(ir == 0xFF || ir == 1 || ir == 2)

def loadIr (s : State) (die : Nat) (ir : BitVec 8) : State :=
  if die = 0 then { s with pins := { s.pins with ir := ir } }
  else { s with pins := { s.pins with dieIr := smSet 1 s.pins.dieIr die ir } }

/-- Scan entry: keys zeroised, NODE_DOWN for 1 us, pipelines closed; DRAM and Undercoat contents are never served again.
A chip halt and a boot halt stay in force beneath it until power is removed. -/
def enterScan (s : State) : State :=
  let s := { s with boot := { s.boot with keysZero := true, identMod := 0, identReady := false } }
  if s.faults.halted || s.boot.phase == .halt || s.boot.phase == .off || s.boot.phase == .scan then s
  else
    let s1 := { s with
      boot := { s.boot with phase := .scan, larder := .stopped },
      tx := { s.tx with held := [], waiting := [], snoops := [], chain := [], ctxs := [], resWait := [] } }
    haltBlocks (sayDown s s1)

def execScanEntry (die : Nat) (ir : BitVec 8) (s : State) : Host.Outcome State Fault Refusal :=
  if die < 18 ∧ entersScan die ir then
    .next (if s.boot.pwrGood then enterScan (loadIr s die ir) else s)
  else .next s

def execTestPortInstruction (die : Nat) (ir : BitVec 8) (s : State) : Host.Outcome State Fault Refusal :=
  if die < 18 ∧ !entersScan die ir then .next (if s.boot.pwrGood then loadIr s die ir else s)
  else .next s

/-- TRST_N low: the test port resets and the chain holds only the base die; scan stays in force. -/
def execTrstNAsserted (s : State) : Host.Outcome State Fault Refusal :=
  .next { s with pins := { s.pins with ir := 1, chain := 0, dieIr := [] } }

end Sys2Proof.Machine
end

