-- ==== Sys2Proof/Machine/Larder.lean ====
section
/-! DEFINITION. Larder firmware (16 R437 to R441; 10 R310): images and their checks, loads through Hatch 0, the fallback,
activation, restarts and the watchdog. -/

namespace Sys2Proof.Machine

/-! ## Halves of Larder's SRAM -/

def fwHalf (s : State) (one : Bool) : FwHalf := if one then s.boot.half1 else s.boot.half0
def fwPut (s : State) (one : Bool) (x : FwHalf) : State :=
  if one then { s with boot := { s.boot with half1 := x } } else { s with boot := { s.boot with half0 := x } }
/-- The staging half is the one that does not run. -/
def fwStage (s : State) : FwHalf := fwHalf s (!s.boot.runHalf)
def fwNat (x : FwHalf) (off n : Nat) : Nat := leNat (bmRead x.bytes off n)
def fwZero (x : FwHalf) (off n : Nat) : Bool := fwNat x off n == 0
def fwSvn (x : FwHalf) : Nat := fwNat x 6 1
def fwAdvance (x : FwHalf) : Bool := bit (fwNat x 7 1) 0
def fwCosigned (x : FwHalf) : Bool := bit (fwNat x 7 1) 1

/-! ## Checks of an image (R437, R438) -/

/-- MAGIC, FORMAT, SVN, LENGTH, ENTRY and every reserved field are legal, and the header and LENGTH bytes are the whole. -/
def fwLegal (x : FwHalf) : Bool :=
  let len := fwNat x 8 4
  fwNat x 0 4 == 0x4C524446 && fwNat x 4 2 == 1 && fwSvn x ≤ 64 && fwNat x 7 1 < 4 && len % 64 == 0 && 4096 ≤ len &&
    len ≤ 2093056 && x.len == 4096 + len && fwNat x 12 4 % 4 == 0 && fwNat x 12 4 < len && fwZero x 80 48 &&
    fwNat x 640 4 == 65537 && fwZero x 1160 376 && fwZero x 2560 1536 &&
    (if fwCosigned x then fwNat x 1156 4 == 65537 else fwZero x 644 516 && fwZero x 2048 512)

/-- A key is the one a Vault region's hash names, and its signature over the first 1,536 bytes verifies. -/
def fwSigned (s : State) (x : FwHalf) (region modAt sigAt : Nat) : Bool :=
  sha512 (bmRead x.bytes modAt 516) == BitVec.ofNat 512 (fnContent s region) &&
    rsaPssVerify (bmRead x.bytes modAt 512) (bmRead x.bytes 0 1536) (bmRead x.bytes sigAt 512)

/-- The body hashes to BODY_DIGEST. -/
def fwDigestOk (x : FwHalf) : Bool :=
  sha512 (bmRead x.bytes 4096 (fwNat x 8 4)) == BitVec.ofNat 512 (fwNat x 16 64)

/-- Keys, signatures, SVN and digest. -/
def fwTrusted (s : State) (x : FwHalf) : Bool :=
  rollbackCount s ≤ fwSvn x && (fnOk s 3 || fnOk s 4) && (!fnOk s 3 || fwSigned s x 3 128 1536) &&
    (!fnOk s 4 || (fwCosigned x && fwSigned s x 4 644 2048)) && fwDigestOk x

/-! ## Larder runs and stops (R441; 10 R310) -/

/-- While Larder does not run, and until it writes, the Deliverable Floor is the stack's own. -/
def floorOwn (s : State) : State :=
  regRescale { s with reg := { s.reg with df := BitVec.ofNat 16 (500 * blocksServing s), dfWritten := false } }

/-- Larder starts at ENTRY from the running half. -/
def larderStart (s : State) : State :=
  floorOwn { s with boot := { s.boot with
    larder := .running, svn := BitVec.ofNat 7 (fwSvn (fwHalf s s.boot.runHalf)), signalAt := s.now } }

/-- Commands in progress at Larder are answered ABORTED; a route commit ends without its switch, lane tests end
(21 R536). -/
def larderAbort (s : State) : State :=
  let s := (List.range 4).foldl abortLaneTests s
  let s := match s.mg.routeCommit with
    | some h =>
      abortHatch { s with
        mg := { s.mg with routeCommit := none }, fab := { s.fab with committing := false },
        trowel := { s.trowel with scans := s.trowel.scans.filter (fun c => c.owner != ScanFor.routeCommit) } } h 0
    | none => s
  (List.range 16).foldl (fun s h => if !(hatch s h).exec then abortHatch s h 0 else s) s

def larderHalt (s : State) (st : LarderSt) : State :=
  floorOwn { (larderAbort s) with boot := { (larderAbort s).boot with larder := st } }

/-! ## Start-up decision (R439, R440, R442) -/

/-- The image in the running half is accepted during start-up: its anti-rollback steps are burned, ROLLBACK is set, Larder
starts. -/
def fwAccept (s : State) (fallback : Bool) : State :=
  let x := fwHalf s s.boot.runHalf
  let s := if fwAdvance x then burnSteps s (fwSvn x) else s
  larderStart { s with
    vault := { s.vault with rollback := true }, boot := { s.boot with fwDecided := true, fwPathFallback := fallback } }

/-- FW_FALLBACK copied into the half that is to run, which no load stages into. -/
def fwLoadFallback (s : State) : Option State :=
  match s.boot.fallback with
  | some (len, pos) =>
    some (fwPut s s.boot.runHalf
      { bytes := bmWrite [] 0 ((List.range len).map (fun i => BitVec.ofNat 8 (eeBits s 0 (pos + 8 * i) 8))), len := len })
  | none => none

/-- No path gives an image: Larder stays stopped, C1 0x1003. -/
def fwNone (s : State) : State :=
  chipFault (larderHalt { s with
    vault := { s.vault with rollback := true }, boot := { s.boot with fwDecided := true } } .stopped) .c1 13 0x1003 0

/-- FW_WAIT ends with no image accepted; a load still open stays open. -/
def fwExpiry (s : State) (readOk : Bool) : State :=
  if s.boot.fwDecided || !portsOn s || !waited s s.boot.fwFrom (ms s.boot.fwWait.toNat) then s
  else
    let s := if readOk || s.boot.fallback.isNone then s else c0 s 15 0x1402 1 0
    match (if readOk then fwLoadFallback s else none) with
    | some s' =>
      let x := fwHalf s' s'.boot.runHalf
      if fwLegal x && fwTrusted s' x then fwAccept s' true else fwNone s'
    | none => fwNone s

def execFwWaitExpiry (fallbackReadOk : Bool) (s : State) : Host.Outcome State Fault Refusal :=
  whenLive s (fun s => fwExpiry s fallbackReadOk)

/-! ## Loads (R440) -/

/-- Bytes received: pieces as disjoint rising intervals. -/
def addPiece (a n : Nat) : List (Nat × Nat) → List (Nat × Nat)
  | [] => [(a, n)]
  | (b, m) :: l =>
    if a + n < b then (a, n) :: (b, m) :: l
    else if b + m < a then (b, m) :: addPiece a n l
    else addPiece (min a b) (max (a + n) (b + m) - min a b) l

def fwReceived (s : State) : Nat := s.boot.got.foldl (fun t p => t + p.2) 0

def fwBegin (s : State) (h : Nat) : State :=
  let total := pl s h 0 4
  withFields s h [(0, 4)] [(0, !inRange total 8192 2097152)] (fun s =>
    if s.boot.staged == .open_ then ans s h 1
    else
      let s := fwPut s (!s.boot.runHalf) { bytes := [], len := total }
      ansOk { s with boot := { s.boot with staged := .open_, total := total, got := [], lastData := s.now } } h [])

def execFwBegin (h : Nat) (s : State) : Host.Outcome State Fault Refusal :=
  hatchRun h 0x0801 0x0801 s (fun s => fwBegin s h)

/-- Data past the total, or with no load open, is MALFORMED. -/
def fwData (s : State) (h : Nat) : State :=
  let off := pl s h 0 4
  let n := pl s h 4 4
  withFields s h [(0, 8 + n)] [(0, off % 4 ≠ 0 || s.boot.staged != .open_ || s.boot.total < off + n),
      (4, n % 4 ≠ 0 || !inRange n 4 4032)] (fun s =>
    let x := fwStage s
    let s := fwPut s (!s.boot.runHalf) { x with bytes := bmWrite x.bytes off (plBytes s h 8 n) }
    ansOk { s with boot := { s.boot with got := addPiece off n s.boot.got, lastData := s.now } } h [])

def execFwData (h : Nat) (s : State) : Host.Outcome State Fault Refusal :=
  hatchRun h 0x0802 0x0802 s (fun s => fwData s h)

/-- The load closes and its image is checked; during start-up an accepted one starts Larder at once. -/
def fwClose (s : State) (h : Nat) : State :=
  let put (st : Staged) : State := { s with boot := { s.boot with staged := st } }
  if s.boot.staged != .open_ then ans s h 8
  else if fwReceived s ≠ s.boot.total then ans (put .rejected) h 8
  else if !fwLegal (fwStage s) then ans (put .rejected) h 2
  else if !fwTrusted s (fwStage s) then ans (put .rejected) h 3
  else if s.boot.fwDecided then ansOk (put .accepted) h []
  else ansOk (fwAccept { s with boot := { s.boot with runHalf := !s.boot.runHalf, staged := .none } } false) h []

def execFwEnd (h : Nat) (s : State) : Host.Outcome State Fault Refusal :=
  hatchRun h 0x0803 0x0803 s (fun s => withFields s h [] [] (fun s => fwClose s h))

/-- The halves exchange roles and Larder starts anew. -/
def fwActivate (s : State) (h : Nat) : State :=
  if s.boot.staged != .accepted then ans s h 8
  else
    let s := larderHalt s .restarting
    ansOk (larderStart { s with boot := { s.boot with runHalf := !s.boot.runHalf, staged := .none, fwPathFallback := false } })
      h []

def execFwActivate (h : Nat) (s : State) : Host.Outcome State Fault Refusal :=
  hatchRun h 0x0804 0x0804 s (fun s => withFields s h [] [] (fun s => fwActivate s h))

def stagedCode : Staged → Nat
  | .none => 0
  | .open_ => 1
  | .accepted => 2
  | .rejected => 3

def fwStatus (s : State) : List (BitVec 8) :=
  leBytes s.boot.svn.toNat 1 ++ leBytes (rollbackCount s) 1 ++ leBytes (stagedCode s.boot.staged) 2 ++
    leBytes (fwReceived s) 4 ++ bmRead (fwHalf s s.boot.runHalf).bytes 16 64

def execFwStatus (h : Nat) (s : State) : Host.Outcome State Fault Refusal :=
  hatchRun h 0x0805 0x0805 s (fun s => withFields s h [] [] (fun s => ansOk s h (fwStatus s)))

/-- A load open 1 s without FW_DATA closes as if FW_END had failed with INCOMPLETE. -/
def fwTimeout (s : State) : State :=
  if s.boot.staged == .open_ && expired s s.boot.lastData (ms 1000) then
    { s with boot := { s.boot with staged := .rejected } }
  else s

def execFwLoadTimeout (s : State) : Host.Outcome State Fault Refusal := whenLive s fwTimeout

/-! ## The watchdog (R441) -/

/-- Step 2 of a restart: the running half is checked again; a mismatch waits for an image as at start-up. -/
def larderRestart (s : State) : State :=
  if fwDigestOk (fwHalf s s.boot.runHalf) then larderStart s
  else { s with boot := { s.boot with larder := .restarting, svn := 0, fwDecided := false, fwFrom := s.now } }

/-- Larder silent for 100 ms: C1 0x1004, and a restart; the third within 10 minutes leaves it stopped. -/
def watchdog (s : State) : State :=
  if s.boot.larder != .running || !expired s s.boot.signalAt (ms 100) then s
  else
    let l := s.now :: s.boot.restarts.filter (fun t => s.now < t + ms 600000)
    let s := { s with boot := { s.boot with restarts := l, wdog := BitVec.ofNat 16 (satAdd 16 s.boot.wdog.toNat 1) } }
    let s := chipFault s .c1 13 0x1004 0
    if 3 ≤ l.length then larderHalt { s with boot := { s.boot with svn := 0 } } .stopped
    else larderRestart (larderHalt s .restarting)

def execLarderWatchdog (s : State) : Host.Outcome State Fault Refusal := whenLive s watchdog

/-- Larder firmware signals the watchdog. -/
def execLarderWatchdogSignal (s : State) : Host.Outcome State Fault Refusal :=
  whenLive s (fun s => if s.boot.larder == .running then { s with boot := { s.boot with signalAt := s.now } } else s)

end Sys2Proof.Machine
end

