-- ==== Sys2Proof/Machine/Start.lean ====
section
/-! DEFINITION. The power-on sequence from BIST to release (16 R442 to R445; 14 R401 to R416; 08 R268 to R270; 18 R482):
the Vault read, the finish image put in force, the records, the identity key, and the Primer pass. -/

namespace Sys2Proof.Machine

/-! ## Start-up BIST and the Vault (18 R482; 14 R397 to R402) -/

/-- Run record of TEST_ID 0. -/
def startRecord (s : State) : TestRun :=
  { id := 0, kind := 0, pblock := 0, bank := 0, firstSa := 0, countSa := 0, result := .pass, phase := .ended,
    coverage := 1, startAt := s.boot.t0, durUs := 10000, sigM := golden 1048576, steps := 1048576, expected := 1048576,
    ckM := 0, ckSteps := 0, unit := none, saStep := 0, endWith := none, forced := false, deferSince := none,
    deferTotal := 0, mism := [], stepAt := 0, charged := false }

def bistComplete (s : State) (ok : Bool) (reads : List (Nat × BitVec 32)) : State :=
  if s.boot.phase != .bist then s
  else if !ok then haltBoot s
  else
    let s := { s with boot := { s.boot with phase := .vault }, test := { s.test with startup := some (startRecord s) } }
    let s := readVault s reads
    -- region 10 not COMMITTED: nominal trims (14 R398)
    let s := if !fnOk s 10 && (vState s 10 == .blank || vState s 10 == .openR) then chipFault s .c1 10 0x0E07 0 else s
    { s with boot := { s.boot with phase := .image } }

def execStartupBistComplete (ok : Bool) (reads : List (Nat × BitVec 32)) (s : State) : Host.Outcome State Fault Refusal :=
  if reads.all (fun p => p.1 < 4096) then whenLive s (fun s => bistComplete s ok reads)
  else .next s

/-! ## The slot (14 R408, R409, R416) -/

/-- Slots in the order they are tried: the higher SEQ first, slot A at equal SEQ; an unreadable slot has no SEQ. -/
def slotOrder (s : State) (okA okB : Bool) : List Nat :=
  if okA && okB then (if hdrSeq s (slotBase s 0) < hdrSeq s (slotBase s 1) then [1, 0] else [0, 1])
  else if okA then [0] else if okB then [1] else []

def slotEvents (s : State) (okA okB : Bool) (win : Option Nat) : State :=
  let order := slotOrder s okA okB
  let good (k : Nat) : Bool := fnOk s 0 && qualifies s k
  match win with
  | some w =>
    if (okA && okB && order.head? ≠ some w) ||
        (order.all good && order.length = 2 && hdrSeq s (slotBase s 0) = hdrSeq s (slotBase s 1)) then
      c0 s 10 0x0E01 (b2n (order.head? == some w)) 0
    else s
  | none =>
    if okA && okB && order.all (fun k => !hdrCommitted s (slotBase s k)) then c0 s 10 0x0E02 0 0
    else chipFault s .c1 10 0x0E03 0

/-- The start-up reads of the two-wire bus (20 R512, R518): slot A's header is read at 1,000, 400 and 100 kHz until one speed
succeeds, which every other start-up read uses, slot B's at 100 kHz where none does; each failed read raises a C0. -/
def startReads (s : State) (slowA : Nat) (okA okB : Bool) (bad : List Nat) : State :=
  let n := slowA + b2n (slowA < 3 && !okA) + b2n (!okB) + bad.length
  (List.range n).foldl (fun s _ => c0 s 15 0x1402 1 0) { s with tw := { s.tw with bootSpeed := BitVec.ofNat 2 (2 - slowA) } }

/-- The winning slot and its sections. -/
def chooseSlot (s : State) (okA okB : Bool) : State × List (Nat × Nat × Nat) :=
  let win := (slotOrder s okA okB).find? (fun k => fnOk s 0 && qualifies s k)
  let s := slotEvents s okA okB win
  match win with
  | some k =>
    ({ s with vault := { s.vault with
        imgSlot := BitVec.ofNat 8 k, imgSeq := BitVec.ofNat 32 (hdrSeq s (slotBase s k)) } },
     (slotSections s (slotBase s k)).getD [])
  | none => ({ s with vault := { s.vault with imgSlot := 2, imgSeq := 0 } }, [])

/-! ## Repairs and records (14 R398, R413, R414; 09 R287) -/

/-- Factory repairs of regions 7 to 9. -/
def factoryRepairs (s : State) : State :=
  let rows := [7, 8].flatMap (fun f => if fnOk s f then factoryRows f (fnContent s f) else [])
  let cols := [7, 8].flatMap (fun f => if fnOk s f then factoryCols f (fnContent s f) else [])
  let s := rows.foldl (fun s r => if r.1 < 36 then
    putSr s r.1 { srBlk s r.1 with rowRep := (srBlk s r.1).rowRep ++ [(r.2.1, r.2.2.1, r.2.2.2)] } else s) s
  let s := cols.foldl (fun s c => if c.1 < 36 then
    putSr s c.1 { srBlk s c.1 with colRep := (srBlk s c.1).colRep ++ [(c.2.1, c.2.2.1, c.2.2.2.1, c.2.2.2.2)] } else s) s
  if fnOk s 9 then
    let s := (factoryTsvs (fnContent s 9)).foldl (fun s t => if t.1 < 36 && t.2.2 < 8 then
      let x := srBlk s t.1
      putSr s t.1 { x with tsvUsed := setBit x.tsvUsed t.2.2 true,
                           tsvTarget := setField x.tsvTarget (8 * t.2.2) 8 t.2.1 } else s) s
    (factoryWays (fnContent s 9)).foldl (fun s w => if w.1 < 4 && w.2.1 < 4096 && w.2.2 < 16 then
      let s := tagPut s w.1 w.2.1 w.2.2 { tagGet s w.1 w.2.1 w.2.2 with wstate := .retired }
      (match (List.range 16).find? (fun x => (tagGet s w.1 w.2.1 x).wstate == .spare) with
       | some x => tagPut s w.1 w.2.1 x { tagGet s w.1 w.2.1 x with wstate := .active }
       | none => s) else s) s
  else s

/-- Banks of a block whose data lies elsewhere: retired banks in rising order take the used spares in rising order. -/
def remapBanks (s : State) (pb : Nat) : State :=
  let x := srBlk s pb
  let gone := (List.range 64).filter (fun b => x.retired.getLsbD b)
  let spares := (List.range 4).filter (fun k => x.banksUsed.getLsbD k && !x.retired.getLsbD (64 + k))
  { s with remap := { s.remap with
      bank := (gone.zip spares).foldl (fun m p => smSet 0 m (pb * 64 + p.1) (64 + p.2 + 1)) s.remap.bank } }

/-- The remap tables that the store room's states give. -/
def remapAll (s : State) : State :=
  let s := (List.range 36).foldl (fun s b =>
    let x := srBlk s b
    if x.st == .migrating then putSr s b { x with st := .freeSpare } else s) s
  let s := (List.range 36).foldl remapBanks s
  (List.range 32).foldl (fun s lb =>
    let pb := shippedBlock lb
    let sp := 9 * (pb / 9) + 8
    if (srBlk s pb).st == .retired && (srBlk s sp).st == .inService &&
        !(List.range lb).any (fun k => physBlock s k = sp) then
      { s with remap := { s.remap with block := smSet 0 s.remap.block lb (sp + 1) } }
    else s) s

/-- One record loaded, with the events of its copies. -/
def loadRecord (s : State) (bad : List Nat) (typ code : Nat) (f : State → List (BitVec 8) → State) : State :=
  match recLoad s bad typ with
  | some (copy, seq, body) =>
    let s := if recBadCopies s bad typ = 0 then s else c0 s 10 0x0E0A 0 0
    f (recPut s typ { seq := BitVec.ofNat 32 seq, copy := copy, valid := true }) body
  | none => chipFault (recPut s typ {}) .c1 10 code 0

def loadRecords (s : State) (bad : List Nat) : State :=
  let s := loadRecord (factoryRepairs s) bad 1 0x090B loadStore
  remapAll (loadRecord (loadRecord s bad 2 0x0E0B loadCal) bad 3 0x0E0B loadWear)

/-! ## The image put in force (t1 of R442) -/

/-- Every shadow is a copy of the tables in force (17 R466). -/
def shadowsInForce (s : State) : State :=
  { s with
    fab := { s.fab with routesSh := s.fab.routes, windowsSh := s.fab.windows, committing := false },
    reg := { s.reg with mastersSh := s.reg.masters, wclassSh := s.reg.wclass, bulkSh := s.reg.bulk },
    acc := { s.acc with rulesSh := s.acc.rules, groupsSh := s.acc.groups, commit := none } }

/-- The chain's bytes, kept with the winning body. -/
def loadChain (s : State) : State :=
  match s.boot.chain with
  | some (len, pos) =>
    { s with boot := { s.boot with
        chainBytes := bmWrite [] 0 ((List.range len).map (fun i => BitVec.ofNat 8 (eeBits s 0 (pos + 8 * i) 8))) } }
  | none => s

/-- FM_HATCH and its binding copied and locked (11 R329). -/
def lockFm (s : State) : State :=
  { s with acc := { s.acc with fmHatch := BitVec.ofNat 4 s.fab.fmHatch.toNat, fmNode := hatchNode s s.fab.fmHatch.toNat } }

/-- Ports released: the Wide Port into training, fabric ports into bring-up. -/
def releasePorts (s : State) : State :=
  let s := { s with wp := { s.wp with
    st := if s.fab.wpEnable && !smGet false s.pins.railOut 2 then .training else .failed, phase := .clockLock, t0 := s.now,
    phaseAt := s.now,
    requalFails := 0, hostClockSeen := false } }
  (List.range 4).foldl startBring s

def imageLoad (s : State) (slowA : Nat) (okA okB : Bool) (bad : List Nat) : State :=
  if s.boot.phase != .image then s
  else
    let (s, secs) := chooseSlot (startReads s slowA okA okB bad) (okA && slowA < 3) okB
    let s := applySections (withBaseTables s) secs
    let s := lockFm (loadChain s)
    let s := regFill (regRescale (shadowsInForce s))
    let s := { s with
      boot := { s.boot with phase := .calibration, fwFrom := s.now }, cal := { s.cal with t0 := s.now },
      reg := { s.reg with upTo := s.now, winStart := s.now } }
    let s := loadRecords s bad
    let s := if s.tw.regEn then twAsk s 1 .voutMode .stack else s
    releasePorts s

def execImageLoadComplete (slowA : Nat) (readOkA readOkB : Bool) (badCopies : List Nat) (s : State) :
    Host.Outcome State Fault Refusal :=
  if slowA ≤ 3 ∧ badCopies.all (fun c => c < 6) then whenLive s (fun s => imageLoad s slowA readOkA readOkB badCopies)
  else .next s

/-! ## Identity (R444, R445) -/

/-- Bytes of CERT_CHAIN. -/
def chainLen (s : State) : Nat := match s.boot.chain with
  | some (len, _) => len
  | none => 0
def chainData (s : State) : List (BitVec 8) := bmRead s.boot.chainBytes 0 (chainLen s)

/-- The key is ready; slot 0 is provisioned when the chain passes both checks, else C1 0x1005. -/
def keyReady (s : State) : State :=
  if s.boot.identReady || !portsOn s || !identOk s then s
  else
    let m := identModulus (BitVec.ofNat 512 (fnContent s 1))
    let s := { s with boot := { s.boot with identMod := m, identReady := true, keysZero := false } }
    if chainLen s = 0 then s
    else if sha512 (chainData s) == BitVec.ofNat 512 (fnContent s 2) && leafMatches (chainData s) m then
      { s with boot := { s.boot with slot0Ok := true } }
    else chipFault s .c1 13 0x1005 0

def execIdentityKeyReady (s : State) : Host.Outcome State Fault Refusal := whenLive s keyReady

/-! ## The Primer pass (08 R268 to R270) -/

/-- Rows zeroed line by line are counted, C0 0x0804 each. -/
def rowByLine (n : Nat) (s : State) (r : Nat × Nat × Nat) : State :=
  raiseC0 { s with primer := { s.primer with rowsByLine := s.primer.rowsByLine + n } } .block (r.1 / 9) r.1 0x0804
    0 0

def clonesDone (s : State) (failed : List (Nat × Nat × Nat)) : State :=
  if s.primer.st != .clones || primerRan s < 128400000 then s
  else
    let s := failed.foldl (rowByLine 1) (zeroRows s 65536)
    { s with primer := { s.primer with st := .check, cloned := true } }

/-- (block, bank, row) of a list lie in the stack. -/
def rowsIn (l : List (Nat × Nat × Nat)) : Bool := l.all (fun r => r.1 < 36 && r.2.1 < 68 && r.2.2 < 65536)

def execPrimerClonesComplete (failedRows : List (Nat × Nat × Nat)) (s : State) : Host.Outcome State Fault Refusal :=
  if rowsIn failedRows then whenLive s (fun s => clonesDone s failedRows)
  else .next s

/-- A row that still fails is handed to repair, C1 0x0805. -/
def rowToRepair (s : State) (r : Nat × Nat × Nat) : State :=
  let s := { s with primer := { s.primer with rowsFailed := s.primer.rowsFailed + 1 } }
  chargeRow (blockFault s .c1 r.1 0x0805 0) r.1 r.2.1 r.2.2

/-- The pass is complete: tables empty, pipelines open, the stack released. -/
def primerDone (s : State) (subs still : List (Nat × Nat × Nat)) : State :=
  if s.primer.st != .check || primerRan s < 130000000 then s
  else
    let s := still.foldl rowToRepair (subs.foldl (rowByLine 1024) s)
    let s := { s with
      primer := { s.primer with st := .done, duration := (s.now - s.primer.t0) / 1000 },
      blocks := s.blocks.map (fun p => (p.1, { p.2 with ptab := [], povf := false })),
      uc := { s.uc with dir := [], frames := [] },
      boot := { s.boot with phase := .released } }
    settle s

def execPrimerComplete (failedSubs stillFailing : List (Nat × Nat × Nat)) (s : State) : Host.Outcome State Fault Refusal :=
  if rowsIn failedSubs ∧ rowsIn stillFailing then whenLive s (fun s => primerDone s failedSubs stillFailing)
  else .next s

end Sys2Proof.Machine
end

