-- ==== Sys2Proof/Machine/Spdm.lean ====
section
/-! DEFINITION. Measurement and attestation (16 R446 to R448): the SPDM buffer, its requests, and the ID commands of the
Hatches (17 R469). -/

namespace Sys2Proof.Machine

/-! ## Measurements (R448) -/

/-- The winning slot's header and body, or the base-coat copies in use. -/
def imageBytes (s : State) : List (BitVec 8) :=
  if s.vault.imgSlot.toNat < 2 then
    let b := slotBase s s.vault.imgSlot.toNat
    bmRead s.img.eeprom b (64 + hdrLength s b)
  else [5, 6].flatMap (fun f => if fnOk s f then leBytes (fnContent s f) 768 else romCoat f)

/-- The access tables in force with their generation. -/
def accBytes (s : State) : List (BitVec 8) :=
  leBytes (b2n s.acc.baseCoat) 1 ++ s.acc.groups.flatMap (fun p => leBytes p.1 2 ++ leBytes p.2.toNat 1) ++
    s.acc.rules.flatMap (fun p => leBytes p.1 2 ++ leBytes p.2.toNat 16) ++ leBytes s.acc.gen.toNat 4

/-- Index 4: the anti-rollback count, VAULT_LOCK and the region states. -/
def rawMeasure (s : State) : List (BitVec 8) :=
  leBytes (rollbackCount s) 1 ++ leBytes (vaultLock s) 8 ++ (List.range 20).map (fun n => BitVec.ofNat 8 (stateCode s n))

def digestBytes (l : List (BitVec 8)) : List (BitVec 8) := leBytes (sha512 l).toNat 64

/-- A measurement block, 1 to 5. -/
def measure (s : State) (i : Nat) : List (BitVec 8) :=
  if i = 1 then digestBytes romCode
  else if i = 2 then digestBytes (bmRead (if s.boot.runHalf then s.boot.half1 else s.boot.half0).bytes 0 1536)
  else if i = 3 then digestBytes (imageBytes s)
  else if i = 4 then rawMeasure s
  else digestBytes (accBytes s)

/-! ## The buffer (R446) -/

/-- An access by the owner keeps the buffer. -/
def spdmTouch (s : State) (node : Node) : State :=
  if node == s.spdm.owner then { s with spdm := { s.spdm with lastAccess := s.now } } else s

def spdmErr (s : State) (code : Nat) : List (BitVec 8) × State := (spdmEncode 0 [code] [], s)

/-- The response takes the buffer to DONE. -/
def spdmAnswer (r : List (BitVec 8) × State) : State :=
  let b := r.1.take 4096
  { r.2 with spdm := { r.2.spdm with
      st := .done, rsp := bmWrite [] 0 b, rspLen := BitVec.ofNat 13 b.length, lastAccess := r.2.now } }

/-- Bytes of the request. -/
def spdmReq (s : State) : List (BitVec 8) := bmRead s.spdm.req 0 s.spdm.reqLen.toNat

/-- Request: 1 GET_VERSION to 7 GET_MEASUREMENTS in the order of R447; anything else is not supported. -/
def spdmKind (s : State) : Nat := spdmField 0 (spdmReq s)

/-- ERROR codes: 1 Busy, 2 UnexpectedRequest, 3 UnsupportedRequest, 4 InvalidRequest.  The first request of a connection
is GET_VERSION. -/
def spdmUnexpected (s : State) : Bool := !s.spdm.begun && spdmKind s ≠ 1

/-- GO. -/
def spdmGo (s : State) (node : Node) (len : Nat) : State :=
  let x := s.spdm
  let mine : Bool := x.st == .idle || ((x.st == .done || x.st == .rejected) && node == x.owner)
  if mine then
    let fresh : Bool := x.st == .idle
    let s := { s with spdm := { x with
      reqLen := BitVec.ofNat 13 len, owner := node, begun := x.begun && !fresh, lastAccess := s.now,
      st := if 4 ≤ len && len ≤ 4096 then .busy else .rejected } }
    if s.spdm.st == .busy then
      (if spdmUnexpected s then spdmAnswer (spdmErr s 2)
       else if 1 ≤ spdmKind s && spdmKind s ≤ 7 then s
       else spdmAnswer (spdmErr s 3))
    else s
  else if node == x.owner then s
  else { s with spdm := { x with refused := BitVec.ofNat 16 (satAdd 16 x.refused.toNat 1) } }

def execSpdmGo (node : Node) (reqLen : BitVec 13) (s : State) : Host.Outcome State Fault Refusal :=
  whenLive s (fun s => spdmGo s node reqLen.toNat)

def spdmRelease (s : State) (node : Node) : State :=
  if s.spdm.st != .idle && node == s.spdm.owner then { s with spdm := { s.spdm with st := .idle } } else s

def execSpdmRelease (node : Node) (s : State) : Host.Outcome State Fault Refusal :=
  whenLive s (fun s => spdmRelease s node)

def spdmIdle (s : State) : State :=
  if (s.spdm.st == .done || s.spdm.st == .rejected) && expired s s.spdm.lastAccess (ms 100) then
    { s with spdm := { s.spdm with st := .idle } }
  else s

def execSpdmIdleTimeout (s : State) : Host.Outcome State Fault Refusal := whenLive s spdmIdle

/-- A write to the request area. -/
def spdmWrite (s : State) (node : Node) (off : Nat) (bs : List (BitVec 8)) : State :=
  if s.spdm.st == .busy || (s.spdm.st != .idle && node != s.spdm.owner) then s
  else { s with spdm := { s.spdm with req := bmWrite s.spdm.req off bs } }

/-- CW_ID_SPDM_CTL. -/
def spdmCtl (s : State) : Nat :=
  let x := s.spdm
  let st := match x.st with
    | .idle => 0
    | .busy => 1
    | .done => 2
    | .rejected => 3
  x.reqLen.toNat + st * 2 ^ 16 + x.owner.toNat * 2 ^ 18 + x.rspLen.toNat * 2 ^ 32 + x.refused.toNat * 2 ^ 48

def spdmCtlWrite (s : State) (node : Node) (v : Nat) : State :=
  let s := if bit v 13 then spdmGo s node (v % 2 ^ 13)
           else { s with spdm := { s.spdm with reqLen := BitVec.ofNat 13 v } }
  if bit v 14 then spdmRelease s node else s

/-! ## Requests (R447) -/

/-- A request being processed is answered. -/
def spdmRun (s : State) (kind : Nat) (f : State → List (BitVec 8) × State) : Host.Outcome State Fault Refusal :=
  whenLive s (fun s => if s.spdm.st == .busy && spdmKind s = kind then spdmAnswer (f s) else s)

/-- Certificates and signatures are offered: slot 0 provisioned, identity complete. -/
def signedOk (s : State) : Bool := s.boot.slot0Ok && identOk s

/-- The key is not ready, though identity is complete. -/
def keyAwaited (s : State) : Bool := identOk s && !s.boot.identReady

/-- A request that needs the key: Busy before it is ready, UnsupportedRequest without a provisioned slot 0. -/
def withKey (s : State) (f : State → List (BitVec 8) × State) : List (BitVec 8) × State :=
  if keyAwaited s then spdmErr s 1 else if !signedOk s then spdmErr s 3 else f s

/-- A response signed by the identity key. -/
def signed (s : State) (body : List (BitVec 8)) : List (BitVec 8) × State :=
  let (n, s) := takeFree s
  (body ++ identSign s.boot.identMod n (spdmReq s ++ body), s)

def execGetVersion (s : State) : Host.Outcome State Fault Refusal :=
  spdmRun s 1 (fun s => (spdmEncode 1 [0x12] [], { s with spdm := { s.spdm with begun := true } }))

/-- CERT_CAP, CHAL_CAP, MEAS_CAP with signature; CTExponent 20. -/
def execGetCapabilities (s : State) : Host.Outcome State Fault Refusal :=
  spdmRun s 2 (fun s => (spdmEncode 2 [b2n (signedOk s), b2n (signedOk s), if signedOk s then 2 else 1, 20] [], s))

/-- The offer holds RSAPSS-4096, SHA-512 and the DMTF measurement specification with SHA-512. -/
def offerOk (s : State) : Bool :=
  spdmField 1 (spdmReq s) ≠ 0 && spdmField 2 (spdmReq s) ≠ 0 && spdmField 3 (spdmReq s) ≠ 0

def execNegotiateAlgorithms (s : State) : Host.Outcome State Fault Refusal :=
  spdmRun s 3 (fun s => if offerOk s then (spdmEncode 3 [] [], s) else spdmErr s 4)

def execGetDigests (s : State) : Host.Outcome State Fault Refusal :=
  spdmRun s 4 (fun s => withKey s (fun s => (spdmEncode 4 [1] (digestBytes (chainData s)), s)))

/-- A portion of slot 0's chain, at most 4,088 bytes, with the remainder count. -/
def certPortion (s : State) : List (BitVec 8) × State :=
  let off := spdmField 4 (spdmReq s)
  let n := min (min (spdmField 5 (spdmReq s)) 4088) (chainLen s - off)
  if spdmField 7 (spdmReq s) ≠ 0 || chainLen s ≤ off then spdmErr s 4
  else (spdmEncode 5 [n, chainLen s - off - n] (((chainData s).drop off).take n), s)

def execGetCertificate (s : State) : Host.Outcome State Fault Refusal := spdmRun s 5 (fun s => withKey s certPortion)

/-- The measurement summary: none, TCB (1 to 3), all (1 to 5). -/
def summary (s : State) (t : Nat) : List (BitVec 8) :=
  if t = 0 then [] else digestBytes ((if t = 1 then [1, 2, 3] else [1, 2, 3, 4, 5]).flatMap (measure s))

def challenge (s : State) : List (BitVec 8) × State :=
  let t := spdmField 6 (spdmReq s)
  if 2 < t || spdmField 7 (spdmReq s) ≠ 0 then spdmErr s 4
  else
    let (n, s) := takeFree s
    signed s (spdmEncode 6 [t, (freeBits 256 n).toNat] (summary s t))

def execChallenge (s : State) : Host.Outcome State Fault Refusal := spdmRun s 6 (fun s => withKey s challenge)

/-- Blocks of an index: 0 the count, 0xFF every one. -/
def blocksOf (i : Nat) : Option (List Nat) :=
  if i = 0 then some [] else if i = 0xFF then some [1, 2, 3, 4, 5] else if i ≤ 5 then some [i] else none

def measurements (s : State) : List (BitVec 8) × State :=
  let i := spdmField 8 (spdmReq s)
  match blocksOf i with
  | none => spdmErr s 4
  | some bs =>
    let body (n : Nat) : List (BitVec 8) := spdmEncode 7 [if i = 0 then 5 else bs.length, n] (bs.flatMap (fun b => measure s b))
    if spdmField 9 (spdmReq s) = 0 then (body 0, s)
    else withKey s (fun s =>
      let (n, s) := takeFree s
      signed s (body (freeBits 256 n).toNat))

def execGetMeasurements (s : State) : Host.Outcome State Fault Refusal := spdmRun s 7 measurements

/-! ## Identity commands (17 R469) -/

/-- OK, or INCOMPLETE under R399, with the payload filled. -/
def ansIdent (s : State) (h : Nat) (p : List (BitVec 8)) : State :=
  hatchResult s h (if identOk s then 0 else 8) p 0 0xFFFFFFFF

def execIdGet (h : Nat) (s : State) : Host.Outcome State Fault Refusal :=
  hatchRun h 0x0101 0x0101 s (fun s => ansIdent s h
    (leBytes s.mg.part.toNat 4 ++ leBytes s.mg.serial.toNat 8 ++ leBytes s.mg.lot.toNat 4 ++
      leBytes (b2n (identOk s) + 2 * b2n s.boot.identReady + 4 * b2n s.boot.slot0Ok) 4))

def idPubkey (s : State) (h : Nat) : State :=
  if !identOk s then ans s h 8
  else if !s.boot.identReady then ans s h 1
  else ansOk s h ((leBytes s.boot.identMod.toNat 512).reverse ++ leBytes 65537 4)

def execIdPubkey (h : Nat) (s : State) : Host.Outcome State Fault Refusal :=
  hatchRun h 0x0102 0x0102 s (fun s => idPubkey s h)

def idCert (s : State) (h : Nat) : State :=
  let off := pl s h 0 4
  let n := pl s h 4 4
  withFields s h [(0, 8)] [(0, chainLen s < off), (4, n = 0 || 4056 < n || chainLen s < off + n)] (fun s =>
    if !s.boot.slot0Ok then ans s h 8
    else ansOk s h (leBytes (chainLen s - off - n) 4 ++ ((chainData s).drop off).take n))

def execIdCert (h : Nat) (s : State) : Host.Outcome State Fault Refusal :=
  hatchRun h 0x0103 0x0103 s (fun s => idCert s h)

def idMeasure (s : State) (h : Nat) : State :=
  let i := pl s h 0 1
  withFields s h [(0, 1)] [(0, i = 0 || 5 < i)] (fun s =>
    ansIdent s h (leBytes i 1 ++ leBytes (b2n (i = 4)) 1 ++ leBytes (if i = 4 then 29 else 64) 2 ++ measure s i))

def execIdMeasure (h : Nat) (s : State) : Host.Outcome State Fault Refusal :=
  hatchRun h 0x0104 0x0104 s (fun s => idMeasure s h)

end Sys2Proof.Machine
end

