-- ==== Sys2Proof/Machine/Cw.lean ====
section
/-! DEFINITION. The Control Window and the management space as read and written (17 R457, R471 to R476; 16 R455), the
event pointers and the sending of event records. -/

namespace Sys2Proof.Machine

/-! ## Identity and boot registers (17 R472; 16 R455) -/

def idPart (s : State) : Nat := s.mg.part.toNat + 3 * 2 ^ 32 + 1 * 2 ^ 40 + 2 * 2 ^ 44

def idNode (s : State) : Nat :=
  s.fab.stackNode.toNat + s.cfg.regions.toNat * 2 ^ 12 + b2n (compact s) * 2 ^ 14 + b2n (!identOk s) * 2 ^ 15 +
    (List.range 4).foldl (fun a p => a + b2n (port s p).enable * 2 ^ (16 + p)) 0 + b2n s.cfg.ucEnable * 2 ^ 20 +
    b2n s.trowel.enable * 2 ^ 21 + b2n s.fab.wpEnable * 2 ^ 22

def phaseCode : BootPhase → Nat
  | .off => 0
  | .pll => 0
  | .bist => 0
  | .vault => 1
  | .image => 2
  | .calibration => 3
  | .primer => 4
  | .released => 5
  | .retaining => 6
  | .retHeld => 6
  | .scan => 7
  | .halt => 0

def larderCode : LarderSt → Nat
  | .notStarted => 0
  | .running => 1
  | .restarting => 2
  | .stopped => 3

/-- CW_ID_BOOT. -/
def idBoot (s : State) : Nat :=
  let b := s.boot
  phaseCode b.phase + larderCode b.larder * 2 ^ 3 + b2n b.fwPathFallback * 2 ^ 5 + b2n b.identReady * 2 ^ 6 +
    b2n b.slot0Ok * 2 ^ 7 + b.svn.toNat * 2 ^ 8 + b.lastReset.toNat * 2 ^ 16 + b.retCount.toNat * 2 ^ 32 +
    b.wdog.toNat * 2 ^ 48

/-- Its RWS fields take what is written (00 R10). -/
def writeIdBoot (s : State) (v : Nat) : State :=
  { s with boot := { s.boot with
      lastReset := BitVec.ofNat 3 (v >>> 16), retCount := BitVec.ofNat 16 (v >>> 32), wdog := BitVec.ofNat 16 (v >>> 48) } }

/-! ## Event registers (17 R473 to R476) -/

/-- CW_EVT_CFG_t written: bits 23..20 are reserved. -/
def writeEvtCfg (s : State) (t v : Nat) : State :=
  putEvt s t { evtT s t with cfg := setField (BitVec.ofNat 46 v) 20 4 0 }

def evtPtr (s : State) (t : Nat) : Nat :=
  let x := evtT s t
  x.head.toNat + x.tail.toNat * 2 ^ 16 + x.dropped.toNat * 2 ^ 32

/-- TAIL written: ignored before the old TAIL or beyond HEAD. -/
def writeTail (s : State) (t : Nat) (v : BitVec 16) : State :=
  let x := evtT s t
  if (v - x.tail).toNat ≤ (x.head - x.tail).toNat then putEvt s t { x with tail := v } else s

def dropClear (s : State) (t : Nat) : State := putEvt s t { evtT s t with dropped := 0 }

def writeEvtPtr (s : State) (t v : Nat) : State :=
  let s := writeTail s t (BitVec.ofNat 16 (v >>> 16))
  if bit v 48 then dropClear s t else s

/-- A record as 32 bytes. -/
def evtBytes (r : EvtRec) : List (BitVec 8) :=
  leBytes r.eseq.toNat 4 ++ leBytes (r.cls.toNat + 8 * r.kind.toNat) 1 ++ leBytes (r.level.toNat + 4 * r.region.toNat) 1 ++
    leBytes r.element.toNat 2 ++ leBytes r.code.toNat 2 ++ leBytes r.count.toNat 2 ++ leBytes r.fid.toNat 4 ++
    leBytes r.time.toNat 8 ++ leBytes r.detail.toNat 8

/-- Bytes of an event queue. -/
def evtRead (s : State) (t off n : Nat) : List (BitVec 8) :=
  (List.range n).map (fun j =>
    match smGet none (evtT s t).ring ((off + j) / 32) with
    | some r => byteAt (evtBytes r) ((off + j) % 32)
    | none => 0)

def execEvtTailWrite (t : Nat) (v : BitVec 16) (s : State) : Host.Outcome State Fault Refusal :=
  if t < 8 then whenLive s (fun s => writeTail s t v) else .next s

def execEvtDropClear (t : Nat) (s : State) : Host.Outcome State Fault Refusal :=
  if t < 8 then whenLive s (fun s => dropClear s t) else .next s

/-! ## Records sent as EVT (17 R475) -/

/-- EVT of a record for a target: TARGET in bits 66..64, the record in its data line (05 R148, R150). -/
def evtMsg (s : State) (t : Nat) (node : Node) (r : EvtRec) : OutMsg :=
  outMsg (mkH0 opEvt s.fab.hopLimit.toNat s.fab.stackNode node 0 0 t) 0 [lineOf (evtBytes r)] none false false

/-- The egress of a node holds a MGMT header credit and a line credit beyond what already waits there, or the node is
unreachable. -/
def evtMaySend (s : State) (node : Node) : Bool :=
  if hasEgress s node then
    let l := linkOf s (routeOf s node)
    let w := l.outQ.filter (fun m => opClass (hOp m.h0) = 5)
    let lines (n : Nat) (m : OutMsg) : Nat := n + m.need
    w.length < l.held.mg && w.foldl lines 0 + (l.txData.filter (fun d => opClass (hOp d.m.h0) = 5)).length < l.held.mgL
  else true

/-- The waiting record of a target is sent. -/
def evtPush (s : State) (t : Nat) : State :=
  let x := evtT s t
  let node : Node := x.cfg.extractLsb' 8 12
  match x.push with
  | some r => if evtMaySend s node then (sendTo (putEvt s t { x with push := none }) node (evtMsg s t node r)).1 else s
  | none => s

def execEvtPush (t : Nat) (s : State) : Host.Outcome State Fault Refusal :=
  if t < 8 then whenLive s (fun s => evtPush s t) else .next s

/-- te of a retaining reset: every queue emptied, pointers zero, configurations back to the image's, ESEQ from 1. -/
def evtReset (s : State) : State :=
  let s := (List.range 8).foldl (fun s t => putEvt s t
    { evtInit t with cfg := (evtT s t).cfgImg, cfgImg := (evtT s t).cfgImg }) s
  { s with mg := { s.mg with eseq := 1, occ := [] } }

/-! ## The register file (17 R471) -/

/-- A word of the Control Window; a reserved offset reads 0. -/
def cwRead (s : State) (off : Nat) : Nat :=
  if off = 0 then idPart s
  else if off = 8 then s.mg.serial.toNat
  else if off = 0x10 then idNode s
  else if off = 0x18 then idBoot s
  else if off = 0x20 then spdmCtl s
  else if inRange off 0x100 0x17F then hatchReg s ((off - 0x100) / 8)
  else if inRange off 0x200 0x23F then (evtT s ((off - 0x200) / 8)).cfg.toNat
  else if inRange off 0x240 0x27F then evtPtr s ((off - 0x240) / 8)
  else if off = 0x300 then faultSummary s
  else if inRange off 0x310 0x32F then faultLast s ((off - 0x310) / 8)
  else if off = 0x400 then paceStatus s.pace
  else if off = 0x408 then s.pace.warn.toNat
  else if off = 0x500 then thermStatus s
  else if off = 0x508 then thermZone s
  else if inRange off 0x1000 0x18FF then perfRead s off
  else 0

/-- A write of a word from a node. -/
def cwWrite (s : State) (node : Node) (off v : Nat) : State :=
  if off = 0x18 then writeIdBoot s v
  else if off = 0x20 then spdmCtlWrite s node v
  else if inRange off 0x100 0x17F then (if bit v 0 then ringHatch s ((off - 0x100) / 8) node else s)
  else if inRange off 0x200 0x23F then writeEvtCfg s ((off - 0x200) / 8) v
  else if inRange off 0x240 0x27F then writeEvtPtr s ((off - 0x240) / 8) v
  else if off = 0x300 then writeFaultSummary s v
  else if off = 0x308 then writeFaultAck s v
  else if off = 0x400 then { s with pace := writePaceStatus s.pace v }
  else if off = 0x408 then { s with pace := writePaceWarn s.pace (BitVec.ofNat 16 v) }
  else if inRange off 0x1000 0x18FF then perfWrite s off v
  else s

/-- A write of an RW, RW1C, RWS, RWL or WO register that has no behaviour of its own. -/
def execRegisterWrite (node : Node) (off : Nat) (v : BitVec 64) (s : State) : Host.Outcome State Fault Refusal :=
  if off % 8 = 0 ∧ off < 0x10000 then whenLive s (fun s => cwWrite s node off v.toNat)
  else .next s

/-! ## The management space (17 R457) -/

/-- An offset inside a listed area. -/
def moffListed (a : Nat) : Bool :=
  a < 0x12000 || inRange a 0x20000 0x3FFFF || inRange a 0x40000 0x4FFFF || inRange a 0x80000 0x9FFFF

/-- The access-table target of an offset (11 R319). -/
def moffTarget (a : Nat) : Nat :=
  if inRange a 0x100 0x17F then tgtHatch ((a - 0x100) / 8)
  else if inRange a 0x20000 0x3FFFF then tgtHatch ((a - 0x20000) / 0x2000)
  else tgtCw

/-- Accesses that are neither counted nor sampled (19 R503). -/
def moffQuiet (a : Nat) : Bool := inRange a 0x1000 0x18F8 || inRange a 0x80000 0x9FFFF

/-- n words from an offset; they lie in one 64-byte line. -/
def moffRead (s : State) (a n : Nat) : List (BitVec 8) :=
  if a < 0x10000 then (List.range n).flatMap (fun i => leBytes (cwRead s (a + 8 * i)) 8)
  else if a < 0x11000 then bmRead s.spdm.req (a - 0x10000) (8 * n)
  else if a < 0x12000 then bmRead s.spdm.rsp (a - 0x11000) (8 * n)
  else if a < 0x40000 then
    let o := (a - 0x20000) % 0x2000
    hatchBuf s ((a - 0x20000) / 0x2000) (decide (0x1000 ≤ o)) (o % 0x1000) (8 * n)
  else if a < 0x80000 then evtRead s ((a - 0x40000) / 0x2000) ((a - 0x40000) % 0x2000) (8 * n)
  else traceRead s (a - 0x80000) (8 * n)

/-- Bytes written at an offset; a read-only area ignores them. -/
def moffWrite (s : State) (node : Node) (a : Nat) (bs : List (BitVec 8)) : State :=
  if a < 0x10000 then
    (List.range (bs.length / 8)).foldl (fun s i => cwWrite s node (a + 8 * i) (leAt bs (8 * i) 8)) s
  else if a < 0x11000 then spdmWrite s node (a - 0x10000) bs
  else if inRange a 0x20000 0x3FFFF && (a - 0x20000) % 0x2000 < 0x1000 then
    hatchWrite s ((a - 0x20000) / 0x2000) node ((a - 0x20000) % 0x2000) bs
  else s

/-- SPDM accesses by its owner keep the buffer (16 R446). -/
def moffTouch (s : State) (node : Node) (a : Nat) : State := if inRange a 0x10000 0x11FFF then spdmTouch s node else s

end Sys2Proof.Machine
end

