-- ==== Sys2Proof/Machine/FlitCore.lean ====
section
/-! DEFINITION. Flits (02 R38 to R58; 04 R114 to R130): their bits on the Wide Port and on the fabric, how an outbound flit
is filled, and what sequence numbers, acknowledgements and credits do. -/

namespace Sys2Proof.Machine

/-! ## Limits of a link; port 4 is the Wide Port -/

def lSlots (p : Nat) : Nat := if p = 4 then 16 else 24
def lMod (p : Nat) : Nat := if p = 4 then 4096 else 512
/-- Flits of the replay buffer (02 R55, 04 R128). -/
def lReplay (p : Nat) : Nat := if p = 4 then 512 else 256
/-- Flits after which a NAK is repeated (02 R56, 04 R128). -/
def lNak (p : Nat) : Nat := if p = 4 then 128 else 64
/-- Flits after which a waiting class gets a slot (02 R47, 04 R123). -/
def lStarve (p : Nat) : Nat := if p = 4 then 256 else 8

/-- Credits the stack advertises (02 R53, 04 R130). -/
def lAdvert (p : Nat) : Credits :=
  if p = 4 then { req := 1024, snp := 256, rsp := 1024, dat := 512, blk := 64, mg := 32, datL := 2048, mgL := 128 }
  else { req := 512, snp := 256, rsp := 512, dat := 256, blk := 32, mg := 16, datL := 1024, mgL := 64 }

/-- The far end's minima (02 R53, 04 R130). -/
def minimaMet (c : Credits) : Bool :=
  16 ≤ c.req && 32 ≤ c.snp && 64 ≤ c.rsp && 64 ≤ c.dat && 4 ≤ c.blk && 4 ≤ c.mg && 64 ≤ c.datL && 64 ≤ c.mgL

/-! ## Control flit types (02 R43, 04 R120) -/

def wpIdle : Nat := 2
def wpWake : Nat := 3
def wpParkReq : Nat := 4
def wpParkAck : Nat := 5
def wpParkNak : Nat := 6
def wpSubstReq : Nat := 7
def wpSubstAck : Nat := 8
def wpInitDone : Nat := 9
def wpReinitFt : Nat := 10
def wpNodeDown : Nat := 11
def fpInit : Nat := 2
def fpReinitFt : Nat := 3
def fpSubstReq : Nat := 4
def fpNodeDown : Nat := 5

/-- Types that are sequenced whatever the flit carries: those the table of 02 R43 marks, SUBST_REQ of 04 R122. -/
def ftSequenced (p ft : Nat) : Bool := if p = 4 then ft == 0 || (4 ≤ ft && ft ≤ 9) else ft == 4
def ftReserved (p ft : Nat) : Bool := if p = 4 then 13 ≤ ft else 6 ≤ ft
def ftReinit (p : Nat) : Nat := if p = 4 then 10 else 3
def ftNodeDown (p : Nat) : Nat := if p = 4 then 11 else 5

/-! ## A flit with its acknowledgement -/

/-- A flit as it crosses the wires: what the link layer composed, the acknowledgement it carries, its port epoch (Wide
Port), and whether its fields break a rule of the link. -/
structure AFlit where
  f : LFlit
  ackV : Bool
  ackSeq : Nat
  nak : Bool
  epoch : Nat
  err : Bool
  deriving DecidableEq, Repr, Inhabited

/-- A credit return whose fields are legal (02 R52, 04 R120). -/
def retLegal (c : CreditRet) : Bool :=
  if c.count = 0 then c.cls = 0 && !c.line else c.cls ≤ 5 && (!c.line || c.cls = 3 || c.cls = 5)

/-- Slots of a number, 128 bits each. -/
def slotsOf (v n : Nat) : List Slot := (List.range n).map (fun k => BitVec.ofNat 128 (v >>> (128 * k)))
def slotsNat (l : List Slot) : Nat := l.foldr (fun a acc => a.toNat + 2 ^ 128 * acc) 0

/-- Whether the carried type, slots and credit returns agree with SEQD, and a NULL or control flit maps no slot. -/
def flitErr (p : Nat) (f : LFlit) : Bool :=
  let slots := f.slots.any (fun x => x.1 ≠ 0)
  let rets := f.credits.any (fun c => c.count ≠ 0)
  ftReserved p f.ftype || f.credits.any (fun c => !retLegal c) || (f.ftype ≠ 0 && slots)
    || (f.seqd != (slots || rets || ftSequenced p f.ftype))

/-! ## The W-flit (R38 to R42) -/

/-- A 12-bit credit return. -/
def ret12 (c : CreditRet) : Nat := c.cls + 8 * b2n c.line + 16 * c.count
def ret12Of (v : Nat) : CreditRet := { cls := v % 8, line := bit v 3, count := field v 4 8 }

/-- Control bits of the halves, CRCs left 0. -/
def wpCtl (x : AFlit) : Nat × Nat :=
  let code (k : Nat) : Nat := ((x.f.slots[k]?).map (fun a => a.1)).getD 0
  let smap (a : Nat) : Nat := (List.range 8).foldl (fun v k => v + code (a + k) * 4 ^ k) 0
  let cr (i : Nat) : Nat := ((x.f.credits[i]?).map ret12).getD 0
  (x.f.fseq % 4096 * 2 ^ 16 + x.f.ftype * 2 ^ 28 + smap 0 * 2 ^ 32 + x.ackSeq % 4096 * 2 ^ 48 + b2n x.ackV * 2 ^ 60
      + b2n x.nak * 2 ^ 61 + b2n x.f.seqd * 2 ^ 62,
   smap 8 * 2 ^ 16 + cr 0 * 2 ^ 32 + cr 1 * 2 ^ 44 + x.epoch % 256 * 2 ^ 56)

/-- The flit on the wires. -/
def wpFormat (x : AFlit) : WFlit :=
  let sl := x.f.slots.map (fun a => a.2)
  let d0 := BitVec.ofNat 1024 (slotsNat (sl.take 8))
  let d1 := BitVec.ofNat 1024 (slotsNat (sl.drop 8))
  let c := wpCtl x
  { d0 := d0, c0 := BitVec.ofNat 64 (c.1 + crc16Half d0 (BitVec.ofNat 64 c.1)),
    d1 := d1, c1 := BitVec.ofNat 64 (c.2 + crc16Half d1 (BitVec.ofNat 64 c.2)) }

def halfGood (d : BitVec 1024) (c : BitVec 64) : Bool := c.toNat % 65536 = crc16Half d c

/-- A good W-flit's fields; none where a half fails its CRC. -/
def wpParse (w : WFlit) : Option AFlit :=
  if halfGood w.d0 w.c0 && halfGood w.d1 w.c1 then
    let a := w.c0.toNat
    let b := w.c1.toNat
    let slots := (slotsOf w.d0.toNat 8 ++ slotsOf w.d1.toNat 8).zipIdx.map (fun x =>
      (if x.2 < 8 then field a (32 + 2 * x.2) 2 else field b (16 + 2 * (x.2 - 8)) 2, x.1))
    let f : LFlit := { ftype := field a 28 4, seqd := bit a 62, fseq := field a 16 12, slots := slots,
                       credits := [ret12Of (field b 32 12), ret12Of (field b 44 12)] }
    some { f := f, ackV := bit a 60, ackSeq := field a 48 12, nak := bit a 61, epoch := field b 56 8, err := flitErr 4 f }
  else none

/-! ## The fabric flit (04 R119 to R121) -/

def fabCode (x : AFlit) (k : Nat) : Nat := ((x.f.slots[k]?).map (fun a => a.1)).getD 0

/-- The link-control word. -/
def fabCtl (x : AFlit) : Nat :=
  let hmap := (List.range 24).foldl (fun v k => v + b2n (fabCode x k = 1 || fabCode x k = 2) * 2 ^ k) 0
  let ds := ((List.range 24).filter (fun k => fabCode x k = 3)).length
  let c := (x.f.credits.head?).getD { cls := 0, line := false, count := 0 }
  x.f.ftype + b2n x.f.seqd * 2 ^ 4 + x.f.fseq % 512 * 2 ^ 5 + x.ackSeq % 512 * 2 ^ 14 + b2n x.ackV * 2 ^ 23 + b2n x.nak * 2 ^ 24
    + hmap * 2 ^ 25 + ds * 2 ^ 49 + c.cls * 2 ^ 54 + b2n c.line * 2 ^ 57 + c.count * 2 ^ 58

def fabFormat (x : AFlit) : BitVec 3200 :=
  let v := slotsNat (x.f.slots.map (fun a => a.2)) + fabCtl x * 2 ^ 3072
  BitVec.ofNat 3200 (v + crc64 (leBytes v 392) * 2 ^ 3136)

/-- Slot codes of HMAP and DSLOTS, lengths of headers taken from their opcodes; none where they break R120. -/
def fabCodes (hmap : Nat) : List (Nat × Slot) → Nat → Bool → Option (List Nat)
  | [], ds, second => if ds = 0 && !second then some [] else none
  | (k, sl) :: l, ds, second =>
    if second then (if bit hmap k then (fabCodes hmap l ds false).map (fun r => 2 :: r) else none)
    else if bit hmap k then
      (if opKnown (hOp sl) then (fabCodes hmap l ds (opTwoSlots (hOp sl))).map (fun r => 1 :: r) else none)
    else if ds ≠ 0 then (fabCodes hmap l (ds - 1) false).map (fun r => 3 :: r)
    else (fabCodes hmap l 0 false).map (fun r => 0 :: r)

/-- A fabric flit's fields; none where its CRC-64 fails. -/
def fabParse (v : BitVec 3200) : Option AFlit :=
  let n := v.toNat
  if n >>> 3136 = crc64 (leBytes (n % 2 ^ 3136) 392) then
    let c := field n 3072 64
    let raw := slotsOf n 24
    let codes := fabCodes (field c 25 24) (raw.zipIdx.map (fun x => (x.2, x.1))) (field c 49 5) false
    let f : LFlit := { ftype := field c 0 4, seqd := bit c 4, fseq := field c 5 9,
                       slots := (codes.getD (List.replicate 24 0)).zip raw,
                       credits := [{ cls := field c 54 3, line := bit c 57, count := field c 58 6 }] }
    some { f := f, ackV := bit c 23, ackSeq := field c 14 9, nak := bit c 24, epoch := 0,
           err := codes.isNone || flitErr 0 f }
  else none

/-! ## Filling an outbound flit (02 R44, R45, R47; 04 R123) -/

/-- A flit as it is filled: slots so far, messages whose header was placed, messages of which a line's last data slot was
placed, messages placed whole. -/
structure Fill where
  l : Link
  used : List (Nat × Slot) := []
  heads : List OutMsg := []
  lines : List OutMsg := []
  whole : List OutMsg := []
  deriving DecidableEq, Repr, Inhabited

def msgClass (m : OutMsg) : Nat := opClass (hOp m.h0)

/-- A header of a class in the next slot; `keep` marks messages that wait whatever their credits. -/
def fillHdr (p : Nat) (keep : OutMsg → Bool) (x : Fill) (c : Nat) : Option Fill :=
  let k := x.used.length
  match x.l.outQ.find? (fun m => msgClass m = c && !keep m) with
  | none => none
  | some m =>
    let two := opTwoSlots (hOp m.h0)
    let fits := !two || (k + 1 < lSlots p && (p ≠ 4 || k % 8 ≠ 7))
    if x.l.held.hdr c ≠ 0 && fits && (m.need = 0 || x.l.txData.length < 64) then
      let l := { x.l with
        outQ := x.l.outQ.erase m, held := x.l.held.setHdr c (x.l.held.hdr c - 1), waits := x.l.waits.setHdr c 0,
        txData := if m.need = 0 then x.l.txData else
          x.l.txData ++ [{ m := m, slots := m.lines.flatMap lineSlots ++ m.part, left := 4 * m.need }] }
      some { x with
        l := l, used := x.used ++ [(1, m.h0)] ++ (if two then [(2, m.h1)] else []), heads := x.heads ++ [m],
        whole := if m.need = 0 then x.whole ++ [m] else x.whole }
    else none

/-- The next data slot of the oldest message whose data is not complete. -/
def fillData (x : Fill) : Option Fill :=
  match x.l.txData with
  | [] => none
  | d :: rest =>
    match d.slots with
    | [] => none
    | sl :: more =>
      let c := msgClass d.m
      let first : Bool := d.left % 4 = 0
      if first && x.l.held.line c = 0 then none
      else
        let l := { x.l with
          held := if first then x.l.held.setLine c (x.l.held.line c - 1) else x.l.held,
          waits := x.l.waits.setHdr 3 0,
          txData := if d.left = 1 then rest else { d with slots := more, left := d.left - 1 } :: rest }
        some { x with
          l := l, used := x.used ++ [(3, sl)], lines := if d.left % 4 = 1 then x.lines ++ [d.m] else x.lines,
          whole := if d.left = 1 then x.whole ++ [d.m] else x.whole }

/-- One class's turn; DATA is its data stream first. -/
def fillClass (p : Nat) (keep : OutMsg → Bool) (x : Fill) (c : Nat) : Option Fill :=
  if c = 3 then (match fillData x with
    | some y => some y
    | none => fillHdr p keep x 3)
  else fillHdr p keep x c

/-- Filling slot by slot: starving classes not yet served first, then the class order. -/
def fillSlots (p : Nat) (keep : OutMsg → Bool) : Nat → List Nat → Fill → Fill
  | 0, _, x => x
  | n + 1, starve, x =>
    if lSlots p ≤ x.used.length then x
    else
      match starve.findSome? (fun c => (fillClass p keep x c).map (fun y => (c, y))) with
      | some (c, y) => fillSlots p keep n (starve.filter (fun d => d ≠ c)) y
      | none =>
        match [2, 1, 3, 0, 4, 5].findSome? (fillClass p keep x) with
        | some y => fillSlots p keep n starve y
        | none => fillSlots p keep n starve { x with used := x.used ++ [(0, 0)] }

/-- A class has a message waiting; DATA also while a data stream is not complete (02 R47, 04 R123). -/
def classWaits (l : Link) (c : Nat) : Bool := l.outQ.any (fun m => msgClass m = c) || (c = 3 && !l.txData.isEmpty)

/-- Classes with a message waiting for as many flits as R47 or R123 states. -/
def starving (p : Nat) (l : Link) : List Nat := [2, 1, 3, 0, 4, 5].filter (fun c => lStarve p ≤ l.waits.hdr c && classWaits l c)

/-- One flit more that a class with a message waiting was not placed in, of whatever kind the flit is. -/
def countWaits (l : Link) (placed : List Nat) : Link :=
  { l with waits := (List.range 6).foldl (fun w c =>
      w.setHdr c (if classWaits l c && !placed.contains c then w.hdr c + 1 else 0)) l.waits }

/-- Classes a filled flit has placed. -/
def placedClasses (x : Fill) : List Nat := x.heads.map msgClass ++ (if x.used.any (fun a => a.1 = 3) then [3] else [])

/-- Credit returns for one flit: up to two of 255 on the Wide Port, one of 63 on the fabric. -/
def takeRets (p : Nat) (l : Link) : List CreditRet × Link :=
  let cap := if p = 4 then 255 else 63
  let all : List CreditRet :=
    ((List.range 6).map (fun c => ({ cls := c, line := false, count := min cap (l.owed.hdr c) } : CreditRet)) ++
      [3, 5].map (fun c => ({ cls := c, line := true, count := min cap (l.owed.line c) } : CreditRet))).filter
        (fun c => c.count ≠ 0)
  let rs := all.take (if p = 4 then 2 else 1)
  (rs, { l with owed := rs.foldl (fun o c =>
    if c.line then o.setLine c.cls (o.line c.cls - c.count) else o.setHdr c.cls (o.hdr c.cls - c.count)) l.owed })

/-! ## Sequencing -/

/-- Number of the last sequenced flit sent. -/
def lastSeq (p : Nat) (l : Link) : Nat := (l.txSeq + lMod p - 1) % lMod p

/-- A sequenced flit takes its number and enters the replay buffer. -/
def seqFlit (p : Nat) (l : Link) (ft : Nat) (slots : List (Nat × Slot)) (rets : List CreditRet) : LFlit × Link :=
  let f : LFlit := { ftype := ft, seqd := true, fseq := l.txSeq, slots := slots, credits := rets }
  (f, { l with txSeq := (l.txSeq + 1) % lMod p, unacked := l.unacked ++ [f] })

def plainFlit (p : Nat) (l : Link) (ft : Nat) (slots : List (Nat × Slot)) : LFlit :=
  { ftype := ft, seqd := false, fseq := lastSeq p l, slots := slots, credits := [] }

/-- Sending a flit with the acknowledgement it carries: what goes on the wires, and the link after it. -/
def withAck (p : Nat) (l : Link) (f : LFlit) : AFlit × Link :=
  let pad := f.slots ++ List.replicate (lSlots p - f.slots.length) (0, 0)
  ({ f := { f with slots := pad }, ackV := l.rxLast.isSome || l.nakDue, ackSeq := l.rxLast.getD (lMod p - 1), nak := l.nakDue,
     epoch := l.epoch.toNat, err := false },
   { l with
     ackDue := false, nakDue := false, lastSent := some f,
     nakCount := if l.nakDue then l.nakCount + 1 else l.nakCount, nakFlits := if l.nakDue then 0 else l.nakFlits })

/-- Sequence number a is b or later, of two numbers less than half the range apart. -/
def seqGe (p a b : Nat) : Bool := (a + lMod p - b % lMod p) % lMod p < lMod p / 2

/-- The acknowledgement of a good flit: flits up to ACKSEQ leave the replay buffer; NAK replays the rest (R55, R56).  A NAK
without ACKV is ignored with its ACKSEQ: the tables say that it requires ACKV, and name no reaction (DESIGN CHOICE,
log 172). -/
def takeAck (l : Link) (x : AFlit) : Link :=
  if !x.ackV then l
  else
    let keep := match l.unacked.findIdx? (fun f => f.fseq = x.ackSeq) with
      | some i => l.unacked.drop (i + 1)
      | none => l.unacked
    let again := l.resend.filter (fun f => keep.any (fun g => g.fseq = f.fseq))
    { l with unacked := keep, resend := if x.nak then keep else again }

/-- What a good flit's sequence number says of it. -/
inductive Turn where
  | take | drop | nak
  deriving DecidableEq, Repr, Inhabited

/-- Number expected next. -/
def nextSeq (p : Nat) (l : Link) : Nat := match l.rxLast with
  | some n => (n + 1) % lMod p
  | none => 0

def seqTurn (p : Nat) (l : Link) (f : LFlit) : Turn :=
  if !f.seqd then (if l.awaiting then .drop else .take)
  else if f.fseq = nextSeq p l then .take
  else if l.awaiting then .drop
  else .nak

/-- A NAK is owed and everything up to the replay is discarded. -/
def startNak (l : Link) : Link :=
  if l.awaiting then { l with nakFlits := l.nakFlits + 1 }
  else { l with nakDue := true, awaiting := true, nakFlits := 0 }

/-- A sequenced flit taken in order. -/
def tookSeq (l : Link) (f : LFlit) : Link :=
  if f.seqd then { l with rxLast := some f.fseq, awaiting := false, nakDue := false, nakCount := 0, nakFlits := 0, ackDue := true }
  else l

/-- Credits received: none where they exceed what was advertised; during initialisation they are the advertisement
(R52, R54). -/
def takeCredits (opening : Bool) (l : Link) : List CreditRet → Option Link
  | [] => some l
  | c :: rest =>
    let have_ := if c.line then l.held.line c.cls else l.held.hdr c.cls
    let max := if c.line then l.adv.line c.cls else l.adv.hdr c.cls
    let add (x : Credits) : Credits := if c.line then x.addLine c.cls c.count else x.addHdr c.cls c.count
    if opening then takeCredits opening { l with held := add l.held, adv := add l.adv } rest
    else if max < have_ + c.count then none
    else takeCredits opening { l with held := add l.held } rest

/-! ## Inbound slots (02 R44 to R46; 05 R146) -/

/-- Data slots each message being received still awaits, oldest first. -/
def rxLeft (rx : List RxMsg) : List Nat := rx.map (fun m => 4 * m.lines - m.slots.length)

/-- Whether a flit's slot codes break R44 to R46: data slots awaited by each data-bearing message outstanding, oldest
first, and whether the next slot must be a second one. -/
def slotsBad (p : Nat) : List (Nat × (Nat × Slot)) → List Nat → Bool → Bool
  | [], _, second => second
  | (k, (code, sl)) :: l, left, second =>
    if second then (if code = 2 then slotsBad p l left false else true)
    else if code = 2 then true
    else if code = 1 then
      let two := opTwoSlots (hOp sl)
      if !opKnown (hOp sl) || (two && p = 4 && k % 8 = 7) then true
      else if dataLines sl = 0 then slotsBad p l left two
      else if 64 ≤ left.length then true
      else slotsBad p l (left ++ [4 * dataLines sl]) two
    else if code = 3 then
      (match left with
       | [] => true
       | n :: rest => slotsBad p l (if n ≤ 1 then rest else (n - 1) :: rest) false)
    else slotsBad p l left false

def flitSlotsBad (p : Nat) (l : Link) (f : LFlit) : Bool :=
  slotsBad p (f.slots.zipIdx.map (fun x => (x.2, x.1))) (rxLeft l.rx) false

end Sys2Proof.Machine
end

