-- ==== Sys2Proof/Machine/Arrive.lean ====
section
/-! DEFINITION. Messages that arrive at a port (02 R49, R50; 04 R138, R139, R141; 05 R151 to R161): agents, the decode at
the Wide Port, forwarding, the management space, and each message's own row. -/

namespace Sys2Proof.Machine

/-! ## At the port -/

/-- The Wide Port's source agent becomes its node and HOPS the limit; none for an agent that is not enabled (R49, R50). -/
def mapAgent (s : State) (ing : Nat) (m : Msg) : Option Msg :=
  if ing ≠ 4 then some m
  else
    let a := (hSrc m.h0).toNat
    if a < 16 && agentOn s a then
      some { m with h0 := withHops (withSrc m.h0 (agentNode s a)) s.fab.hopLimit.toNat }
    else none

/-- An inbound header of no agent: discarded, counted, C0 0x0202 (R50). -/
def agentDiscard (s : State) (n : Node) : State :=
  c0 { s with wp := { s.wp with discards := satAdd 32 s.wp.discards 1 } } 0 0x0202 n.toNat 0

/-- Requests with a Fabric Address (R141). -/
def hasFa (op : Nat) : Bool := opIsRequest op && op ≠ opMgRd && op ≠ opMgWr

/-- The decode of a Wide Port request replaces its destination; none where it is unmapped. -/
def decodeIng (s : State) (ing : Nat) (m : Msg) : Option Msg :=
  if ing = 4 && hasFa (hOp m.h0) then
    (mapFa s.fab.windows (hAddr m.h0 * 64)).map (fun x => { m with h0 := withDst m.h0 x.node })
  else some m

/-- Answering a request at its ingress: a BULK header credit returns when the answer is placed. -/
def answerIng (s : State) (ing : Nat) (m : Msg) (status : Nat) : State :=
  if hOp m.h0 = opBulk then
    let r := sendTo (sampReady s (hSrc m.h0) (hTag m.h0) false) (hSrc m.h0)
      { outMsg (statusMsg s opBulk (hSrc m.h0) (hTag m.h0) m.h0 status (hAddr m.h0)) 0 [] none true false with ing := some ing }
    if r.2 then r.1 else retHdr r.1 ing 4 1
  else answerNoCtx (retHdr s ing (opClass (hOp m.h0)) 1) ing m status (hAddr m.h0)

/-- UNMAPPED at the Wide Port: MALFORMED where its fields are so, which is checked first (11 R325), else ADDR_ERR with a C0
count (R141). -/
def addrErrIng (s : State) (ing : Nat) (m : Msg) : State :=
  if !fieldsOk m then answerIng { s with tx := { s.tx with refused := s.tx.refused + 1 } } ing m stMalformed
  else
    let s := { s with
      tx := { s.tx with refused := s.tx.refused + 1 }, fab := { s.fab with addrErrs := s.fab.addrErrs + 1 } }
    answerIng (c0 s (pElem ing) 0x0409 0 0) ing m stAddrErr

/-- The reset responder records a request header (16 R450). -/
def recordReq (s : State) (m : Msg) : State :=
  if opIsRequest (hOp m.h0) then
    { s with boot := { s.boot with responder := s.boot.responder ++
        [{ src := hSrc m.h0, tag := hTag m.h0, op := hOp m.h0 }] } }
  else s

/-! ## Forwarding (04 R138, R139) -/

/-- Forwarding ends with a base-die stop (13 R379). -/
def forwards (s : State) : Bool := !(s.heat.baseStop && s.heat.stop != .running)

/-- A header that must leave again, with the data it has so far; the number by which its data follows it. -/
def forward (s : State) (ing : Nat) (m : Msg) (need : Nat) : State × Option Nat :=
  let n := hDst m.h0
  let p := routeOf s n
  if p < 4 && hHops m.h0 = 0 then (hopDiscard s ing m.h0, none)
  else if p = 4 && egressUsable s 4 && (agentOf s n).isNone then (wpDiscard s n, none)
  else if forwards s && hasEgress s n then
    let i := s.tx.nextArr
    let o : OutMsg :=
      { h0 := egressHeader s p m.h0 n, h1 := m.h1, lines := m.data, need := need, ctx := none, final := false, allot := false,
        ing := some ing, since := s.now, late := false, arr := i }
    (enqueue { s with tx := { s.tx with nextArr := i + 1 } } p o, some i)
  else
    let s := unreachable s ing n (opIsRequest (hOp m.h0))
    (if opIsRequest (hOp m.h0) then answerNoCtx s ing m stUnreach (hAddr m.h0) else s, none)

/-- A data slot of a forwarded message follows it. -/
def forwardSlot (s : State) (i : Nat) (sl : Slot) : State :=
  (List.range 5).foldl (fun s p =>
    let l := linkOf s p
    if l.outQ.any (fun m => m.arr = i && m.ing.isSome && m.need ≠ 0) || l.txData.any (fun d => d.m.arr = i && d.m.ing.isSome) then
      putLink s p { l with
        outQ := l.outQ.map (fun m => if m.arr = i && m.ing.isSome && m.need ≠ 0 then { m with part := m.part ++ [sl] } else m),
        txData := l.txData.map (fun d => if d.m.arr = i && d.m.ing.isSome then { d with slots := d.slots ++ [sl] } else d) }
    else s) s

/-! ## The management space (05 R161; 17 R457) -/

/-- The first target of the words that refuses a node. -/
def mgmtDenied (s : State) (ing : Nat) (n : Node) (a words need : Nat) : Option (Nat × ACheck) :=
  (List.range words).findSome? (fun i =>
    let c := accCheck s n ing (moffTarget (a + 8 * i)) none need
    if c.ok then none else some (moffTarget (a + 8 * i), c))

/-- MG_DATA and MG_RSP echo MOFF and SIZE. -/
def mgmtHdr (s : State) (m : Msg) (op : Nat) : Slot :=
  mkH0 op s.fab.hopLimit.toNat s.fab.stackNode (hSrc m.h0) (hTag m.h0) stOk 0 |||
    BitVec.ofNat 128 (hMoff m.h0 * 2 ^ 64 + hSize m.h0 * 2 ^ 88)

/-- The context of a management request, answered at once (05 R155). -/
def mgmtCtx (s : State) (ing : Nat) (m : Msg) : Ctx :=
  { idx := freeIdx s, ing := ing, kind := .request, src := hSrc m.h0, tag := hTag m.h0, op := hOp m.h0, h0 := m.h0,
    h1 := m.h1, cls := .tracked, rel := .guaranteed, lead := 0, portEpoch := if ing < 5 then (linkOf s ing).epoch else 0,
    blkEpochs := [], lines := [], wdata := [], dataOk := true, acceptedAt := s.now, reserved := false, grant := 0,
    status := stOk, phase := .answered, quarantine := none }

/-- MG_DATA or MG_RSP, which holds a context until it is placed (05 R155). -/
def mgmtAnswer (s : State) (ing : Nat) (m : Msg) (op : Nat) (data : List Line) : State :=
  let c := mgmtCtx s ing m
  let s := { s with tx := { s.tx with ctxs := s.tx.ctxs ++ [c], nextIdx := c.idx + 1 } }
  let r := sendTo (sampReady s c.src c.tag false) c.src (outMsg (mgmtHdr s m op) 0 data (some c.idx) true false)
  if r.2 then r.1 else ctxPlaced (sampEnd r.1 c.src c.tag false 15) c.idx

/-- An admitted access and its answer. -/
def mgmtServe (s : State) (ing : Nat) (m : Msg) : State :=
  let n := hSrc m.h0
  let a := hMoff m.h0
  let words := hSize m.h0 + 1
  let s := moffTouch s n a
  if hOp m.h0 = opMgRd then mgmtAnswer s ing m opMgData [lineOf (moffRead s a words)]
  else mgmtAnswer (moffWrite s n a ((lineBytes ((m.data.head?).getD 0)).take (8 * words))) ing m opMgRsp []

/-- A management request refused at acceptance (R183). -/
def mgmtRefuse (s : State) (ing : Nat) (m : Msg) (status : Nat) : State :=
  answerNoCtx { s with tx := { s.tx with refused := s.tx.refused + 1 } } ing m status 0

/-- A management request leaves its ingress: fields, an area, the access tables, the access. -/
def mgmtAccept (s : State) (ing : Nat) (m : Msg) : State :=
  let a := hMoff m.h0
  let s := leaveIngress s ing m
  if !fieldsOk m then mgmtRefuse s ing m stMalformed
  else if !moffListed a then mgmtRefuse s ing m stAddrErr
  else match mgmtDenied s ing (hSrc m.h0) a (hSize m.h0 + 1) (opRights (hOp m.h0)) with
    | some (t, .fail rule nm nr) => mgmtRefuse (violation s (hSrc m.h0) (hOp m.h0) t rule nm nr ing a) ing m stDenied
    | _ => mgmtServe s ing m

/-- A request that waits at its ingress for a context with this (SRC, TAG). -/
def ingressHas (l : List (Nat × Msg)) (m : Msg) : Bool :=
  l.any (fun w => hSrc w.2.h0 == hSrc m.h0 && hTag w.2.h0 == hTag m.h0)

/-- MG_RD and MG_WR of this stack: a duplicate is discarded; without a free context in its pool it waits (R154, R155). -/
def takeMgmt (s : State) (ing : Nat) (m : Msg) : State :=
  if (openCtx s (hSrc m.h0) (hTag m.h0)).isSome || ingressHas s.tx.mgWait m then dupDiscard s ing m
  else
    let s := if moffQuiet (hMoff m.h0) then s else occ (passIngress s ing m) 0x104 7 0xF 1
    if poolFree s ing && !s.tx.mgWait.any (fun w => w.1 = ing) then mgmtAccept s ing m
    else { s with tx := { s.tx with mgWait := s.tx.mgWait ++ [(ing, m)] } }

/-- The first waiting management request whose ingress has a context leaves it. -/
def admitMgmt (s : State) : State :=
  match s.tx.mgWait.find? (fun w => poolFree s w.1) with
  | some w => mgmtAccept { s with tx := { s.tx with mgWait := s.tx.mgWait.erase w } } w.1 w.2
  | none => s

/-- Requests that wait at an ingress for a context take those that have become free (R155). -/
def admitIngress (s : State) : State :=
  let s := s.tx.mgWait.foldl (fun s _ => admitMgmt s) s
  s.trowel.extWait.foldl (fun s _ => admitExt s) s

/-! ## Messages for this stack -/

def isMgmt (op : Nat) : Bool := op = opMgRd || op = opMgWr

/-- Requests that are answered RETRY as they arrive: every one from t0 of a retaining reset, memory requests in a thermal
stop (16 R450; 13 R377). -/
def retriesNow (s : State) (op : Nat) : Bool :=
  opIsRequest op && (s.boot.phase == .retaining || (s.heat.stop != .running && !isMgmt op))

/-- RETRY at arrival. -/
def retryNow (s : State) (ing : Nat) (m : Msg) : State :=
  if (openCtx s (hSrc m.h0) (hTag m.h0)).isSome then dupDiscard s ing m
  else answerIng (retLine (passIngress s ing m) ing (opClass (hOp m.h0)) m.data.length) ing m stRetry

/-- A whole message for this stack. -/
def serve (s : State) (ing : Nat) (m : Msg) : State :=
  let op := hOp m.h0
  if retriesNow s op then retryNow s ing m
  else if isMgmt op then takeMgmt s ing m
  else if op = opBulk then takeBulk s ing m
  else if opIsRequest op then takeRequest s ing m
  else if op = opSnpRsp ∨ op = opSnpRspd then snoopAnswer s ing m
  else if op = opGack then takeGack s ing m
  else dropResponse (leaveIngress s ing m) ing (hSrc m.h0) (!rspFieldsOk m)

/-- A whole message at its port. -/
def arriveWhole (s : State) (ing : Nat) (m0 : Msg) : State :=
  match mapAgent s ing m0 with
  | none => if s.boot.phase == .retHeld then s else agentDiscard (leaveIngress s ing m0) (hSrc m0.h0)
  | some m =>
    if s.boot.phase == .retHeld then recordReq s m
    else if s.faults.halted then haltServe s ing m
    else
      match decodeIng s ing m with
      | none => addrErrIng (retLine s ing (opClass (hOp m.h0)) m.data.length) ing m
      | some m =>
        if hDst m.h0 == s.fab.stackNode then serve s ing m
        else (forward (leaveIngress s ing m) ing m m.data.length).1

/-- A header whose data follows: the number of a forwarded message, or that the message is dropped. -/
def arriveHeader (s : State) (ing : Nat) (m0 : Msg) : State × Msg × Option Nat × Bool :=
  match mapAgent s ing m0 with
  | none => (if s.boot.phase == .retHeld then s else agentDiscard (leaveIngress s ing m0) (hSrc m0.h0), m0, none, true)
  | some m =>
    if s.boot.phase == .retHeld then (recordReq s m, m, none, true)
    else if s.faults.halted then (s, m, none, false)
    else
      match decodeIng s ing m with
      | none => (addrErrIng s ing m, m, none, true)
      | some m =>
        let op := hOp m.h0
        if hDst m.h0 != s.fab.stackNode then
          let r := forward (leaveIngress s ing m) ing m (dataLines m.h0)
          (r.1, m, r.2, r.2.isNone)
        else if retriesNow s op then (retryNow s ing m, m, none, true)
        else if isWriteOp op then
          (takeRequest s ing m, m, none, (openCtx s (hSrc m.h0) (hTag m.h0)).isSome)
        else (s, m, none, false)

/-- A write's data for which nothing waits any more: its lines leave the ingress. -/
def dataAwaited (s : State) (ing : Nat) (m : Msg) : Bool :=
  s.tx.ctxs.any (fun c => c.kind == .request && c.ing = ing && c.src == hSrc m.h0 && c.tag == hTag m.h0 &&
      c.phase == .working && isWriteOp c.op && !c.dataOk) ||
    (s.tx.held ++ s.tx.waiting).any (fun w => w.ing = ing && w.step.isNone && !w.dataOk && hSrc w.msg.h0 == hSrc m.h0 &&
      hTag w.msg.h0 == hTag m.h0)

/-- A message's data is complete. -/
def arriveData (s : State) (ing : Nat) (m : Msg) : State :=
  if s.faults.halted then haltServe s ing m
  else if isWriteOp (hOp m.h0) then
    (if dataAwaited s ing m then writeData s ing (hSrc m.h0) (hTag m.h0) m.data
     else retLine s ing (opClass (hOp m.h0)) m.data.length)
  else serve s ing m

/-- The port takes messages: active, the halt responder once it serves, or the reset responder. -/
def ingressOpen (s : State) (ing : Nat) : Bool :=
  if s.boot.phase == .retHeld then true
  else if ing = 4 then
    s.wp.st == .active || (s.wp.st == .halted && !s.wp.dead && s.faults.halted && s.faults.haltAt + us 1 ≤ s.now)
  else (port s ing).st == .active

/-! ## The rows -/

/-- A message of an opcode with its data arrives at an ingress. -/
def arrive (op ing : Nat) (m : Msg) (s : State) : Host.Outcome State Fault Refusal :=
  if ing < 5 ∧ hOp m.h0 = op ∧ m.data.length = dataLines m.h0 then
    whenWired s (fun s => if ingressOpen s ing then arriveWhole s ing m else s)
  else .next s

def execRdShared (ing : Nat) (m : Msg) (s : State) : Host.Outcome State Fault Refusal := arrive opRdShared ing m s
def execRdOwn (ing : Nat) (m : Msg) (s : State) : Host.Outcome State Fault Refusal := arrive opRdOwn ing m s
def execClaim (ing : Nat) (m : Msg) (s : State) : Host.Outcome State Fault Refusal := arrive opClaim ing m s
def execRdCur (ing : Nat) (m : Msg) (s : State) : Host.Outcome State Fault Refusal := arrive opRdCur ing m s
def execRdLong (ing : Nat) (m : Msg) (s : State) : Host.Outcome State Fault Refusal := arrive opRdLong ing m s
def execEvictClean (ing : Nat) (m : Msg) (s : State) : Host.Outcome State Fault Refusal := arrive opEvictClean ing m s
def execWr (ing : Nat) (m : Msg) (s : State) : Host.Outcome State Fault Refusal := arrive opWr ing m s
def execWrLong (ing : Nat) (m : Msg) (s : State) : Host.Outcome State Fault Refusal := arrive opWrLong ing m s
def execWrback (ing : Nat) (m : Msg) (s : State) : Host.Outcome State Fault Refusal := arrive opWrback ing m s
def execAtomic (ing : Nat) (m : Msg) (s : State) : Host.Outcome State Fault Refusal := arrive opAtomic ing m s
def execBulkOp (ing : Nat) (m : Msg) (s : State) : Host.Outcome State Fault Refusal := arrive opBulk ing m s
def execSnpRsp (ing : Nat) (m : Msg) (s : State) : Host.Outcome State Fault Refusal := arrive opSnpRsp ing m s
def execSnpRspd (ing : Nat) (m : Msg) (s : State) : Host.Outcome State Fault Refusal := arrive opSnpRspd ing m s
def execGack (ing : Nat) (m : Msg) (s : State) : Host.Outcome State Fault Refusal := arrive opGack ing m s
def execMgRd (ing : Nat) (m : Msg) (s : State) : Host.Outcome State Fault Refusal := arrive opMgRd ing m s
def execMgWr (ing : Nat) (m : Msg) (s : State) : Host.Outcome State Fault Refusal := arrive opMgWr ing m s

/-! ## Forwarded messages that wait (04 R139) -/

/-- A forwarded message held more than 1 ms and not reported yet. -/
def heldSince (s : State) (m : OutMsg) : Bool :=
  m.ing.isSome && hSrc m.h0 != s.fab.stackNode && !m.late && m.since + ms 1 < s.now

/-- A header that waits for a header credit. -/
def heldLate (s : State) (l : Link) (m : OutMsg) : Bool := heldSince s m && l.held.hdr (msgClass m) = 0

/-- The data stream waits for a line credit. -/
def dataLate (s : State) (l : Link) (d : TxData) : Bool :=
  heldSince s d.m && !d.slots.isEmpty && d.left % 4 = 0 && l.held.line (msgClass d.m) = 0

/-- C0 0x0408 for the first message held so. -/
def holdLate (s : State) (p : Nat) : State :=
  let l := linkOf s p
  match l.txData with
  | d :: rest =>
    if dataLate s l d then
      c0 (putLink s p { l with txData := { d with m := { d.m with late := true } } :: rest }) (portElem p) 0x0408 0 0
    else holdHeader s p l
  | [] => holdHeader s p l
where
  holdHeader (s : State) (p : Nat) (l : Link) : State :=
    match l.outQ.find? (heldLate s l) with
    | some m =>
      c0 (putLink s p { l with outQ := l.outQ.map (fun x => if x = m then { x with late := true } else x) })
        (portElem p) 0x0408 0 0
    | none => s

def execForwardHoldTimeout (egress : Nat) (s : State) : Host.Outcome State Fault Refusal :=
  if egress < 5 then whenLive s (fun s => holdLate s egress) else .next s

/-- PRIMARY has been ACTIVE for 1 ms. -/
def primaryBack (s : State) (p : Nat) : Bool :=
  if p < 4 then (port s p).st == .active && waited s (port s p).activeSince (ms 1)
  else p = 4 && s.wp.st == .active && waited s s.wp.activeSince (ms 1)

/-- Messages for a node not yet placed at an egress. -/
def heldFor (s : State) (p : Nat) (n : Node) : Bool := (linkOf s p).outQ.any (fun m => msgNode s p m == n)

/-- The entry of a node returns to PRIMARY (R137). -/
def routeBack (s : State) (n : Node) : State :=
  let e := routeGet s n
  if smGet false s.fab.altUse n.toNat && rRevert e && primaryBack s (rPrimary e) && !heldFor s (rAlternate e) n then
    { s with fab := { s.fab with altUse := smSet false s.fab.altUse n.toNat false } }
  else s

def execRouteRevert (node : Node) (s : State) : Host.Outcome State Fault Refusal := whenLive s (fun s => routeBack s node)

end Sys2Proof.Machine
end

