-- ==== Sys2Proof/Machine/LinkSend.lean ====
section
/-! DEFINITION. What both kinds of link share when a flit is sent and when a good flit is taken (02 R43 to R58; 04 R118 to
R130): composing, effects of the messages placed, credits, slots. -/

namespace Sys2Proof.Machine

/-! ## Effects of messages placed in a flit -/

/-- A grant's GACK is awaited from the tick its response is placed (05 R176). -/
def markGack (s : State) (i : Nat) : State :=
  { s with tx := { s.tx with chain := s.tx.chain.map (fun it =>
      if it.ctx = i && it.phase == .gack none then { it with phase := .gack (some s.now) } else it) } }

/-- A message placed whole: a final response ends its context and its sample; a BULK_CMP returns its BULK credit. -/
def wholePlaced (s : State) (p : Nat) (m : OutMsg) : State :=
  let s := bulkBack s m
  if !m.final then s
  else
    let s := sampEnd s (msgNode s p m) (hTag m.h0) false (hStatus m.h0)
    match m.ctx with
    | some i => ctxPlaced (markGack s i) i
    | none => s

/-- A snoop's header is placed: its egress is known, and a snoop sent again starts its SNOOP_TIMEOUT (02 R69). -/
def snoopPlaced (s : State) (p : Nat) (m : OutMsg) : State :=
  if hOp m.h0 = opSnpInv || hOp m.h0 = opSnpShare then
    let s := sampSent s (msgNode s p m) (m.ctx.getD 65536)
    { s with tx := { s.tx with snoops := s.tx.snoops.map (fun n =>
        if m.ctx = some n.ctx && hAddr m.h0 = sectorFa s n.region n.sector && n.node == msgNode s p m && !n.answered then
          { n with via := some p, again := false, sent := if n.again then some s.now else n.sent }
        else n) } }
  else s

/-- The message whose data stream goes on has not been held. -/
def streamMoved (s : State) (p : Nat) : State :=
  modLink s p (fun l => match l.txData with
    | d :: rest => { l with txData := { d with m := { d.m with since := s.now } } :: rest }
    | [] => l)

/-- What filling a flit did besides the link: forwarded headers counted, snoops placed, response lines returned to the
allotment they were reserved in, messages placed, contexts free again. -/
def afterFill (s : State) (p : Nat) (x : Fill) : State :=
  let fwd := (x.heads.filter (fun m => m.ing.isSome && hSrc m.h0 != s.fab.stackNode)).length
  let s := if p < 4 then occ s 0x085 5 p fwd else s
  let s := if x.used.any (fun a => a.1 = 3) then streamMoved s p else s
  let s := x.heads.foldl (fun s m => snoopPlaced s p m) s
  let s := x.lines.foldl (fun s m => if m.allot then freeLines s m.home 1 else s) s
  admitIngress (x.whole.foldl (fun s m => wholePlaced s p m) s)

/-! ## Composing -/

/-- A sequenced flit may be sent. -/
def seqRoom (p : Nat) (l : Link) : Bool := l.unacked.length < lReplay p

/-- BULK_CMPs of this stack wait for the release of a retaining reset (16 R451, R452). -/
def keptBack (s : State) (m : OutMsg) : Bool :=
  (s.boot.phase == .retaining || s.boot.phase == .retHeld) && hOp m.h0 = opBulkCmp && hSrc m.h0 == s.fab.stackNode

/-- A flit of messages and credit returns, or a NULL. -/
def composeMsg (s : State) (p : Nat) : State × LFlit :=
  let l := linkOf s p
  if seqRoom p l then
    let x := fillSlots p (keptBack s) (2 * lSlots p) (starving p l) { l := l }
    let r := takeRets p (countWaits x.l (placedClasses x))
    let slots := x.used.any (fun a => a.1 ≠ 0)
    if slots || !r.1.isEmpty then
      let q := seqFlit p r.2 (if slots then 0 else 1) (if slots then x.used else []) r.1
      (afterFill (putLink s p q.2) p x, q.1)
    else (putLink s p r.2, plainFlit p r.2 1 [])
  else (putLink s p (countWaits l []), plainFlit p l 1 [])

/-- The first control flit that waits; SUBST_ACK names S, 16 beyond its own number (02 R65). -/
def ctlFlit (p : Nat) (l : Link) : Option (LFlit × Link) :=
  match l.ctl with
  | [] => none
  | (ft, sl) :: rest =>
    let sl := if p = 4 ∧ ft = wpSubstAck then sl.map (fun x => setField x 32 16 ((l.txSeq + 16) % 4096)) else sl
    let l := { l with ctl := rest }
    if ftSequenced p ft then
      (if seqRoom p l then some (seqFlit p l ft (sl.map (fun x => (0, x))) []) else none)
    else some (plainFlit p l ft (sl.map (fun x => (0, x))), l)

/-- An outbound flit replayed. -/
def replayed (s : State) (p : Nat) : State :=
  if p = 4 then occ { s with wp := { s.wp with replays := satAdd 64 s.wp.replays 1 } } 0x04D 4 0xF 1
  else occ s 0x083 5 p 1

/-- The next flit of an open link: a replay, a control flit, messages; each counts toward the waits of 02 R47 and 04
R123. -/
def composeOpen (s : State) (p : Nat) : State × LFlit :=
  let l := linkOf s p
  match l.resend with
  | f :: rest => (replayed (putLink s p (countWaits { l with resend := rest } [])) p, f)
  | [] =>
    match ctlFlit p l with
    | some (f, l) => (putLink s p (countWaits l []), f)
    | none => composeMsg s p

/-- A flit goes out with its acknowledgement. -/
def transmit (s : State) (p : Nat) (f : LFlit) (replay : Bool) : State × AFlit :=
  let r := withAck p (linkOf s p) f
  let s := putLink s p r.2
  let s := if replay then s else if p < 4 then occ s 0x081 5 p 1 else if f.seqd then occ s 0x049 4 0xF 1 else s
  (s, r.1)

/-- There was something to send: a slot, a credit, an acknowledgement or a control flit. -/
def somethingSent (l : Link) (f : LFlit) : Bool := f.seqd || l.ackDue || l.nakDue || f.ftype ≠ 1

/-! ## Good flits -/

/-- One data slot of the oldest message that awaits data. -/
def dataSlot (s : State) (p : Nat) (sl : Slot) : State :=
  match (linkOf s p).rx with
  | [] => s
  | m :: rest =>
    let cls := opClass (hOp m.msg.h0)
    let slots := m.slots ++ [sl]
    let done : Bool := slots.length = 4 * m.lines
    let s := modLink s p (fun l => { l with rx := if done then rest else { m with slots := slots } :: rest })
    let s := match m.fwd with
      | some i => forwardSlot s i sl
      | none => s
    if m.fwd.isSome || m.drop then (if slots.length % 4 = 0 then retLine s p cls 1 else s)
    else if done then
      arriveData s p { m.msg with
        data := (List.range m.lines).map (fun i => slotsLine ((slots.drop (4 * i)).take 4)) }
    else s

/-- One header. -/
def headSlot (s : State) (p : Nat) (h0 h1 : Slot) : State :=
  let m : Msg := { h0 := h0, h1 := h1, data := [] }
  if dataLines h0 = 0 then arriveWhole s p m
  else
    let (s, m, fwd, drop) := arriveHeader s p m
    modLink s p (fun l => { l with rx := l.rx ++ [{ msg := m, lines := dataLines h0, slots := [], fwd := fwd, drop := drop }] })

/-- The slots of a flit in order. -/
def takeSlots (p : Nat) : State → List (Nat × Slot) → State
  | s, [] => s
  | s, (c, sl) :: l =>
    takeSlots p
      (if c = 1 then headSlot s p sl (match l with
         | (2, h1) :: _ => h1
         | _ => 0)
       else if c = 3 then dataSlot s p sl
       else s) l

/-- The reset responder takes a good flit: its request headers are recorded, nothing is acknowledged (16 R450). -/
def recordSlots (p : Nat) (s : State) (slots : List (Nat × Slot)) : State :=
  slots.foldl (fun s x => if x.1 = 1 && opKnown (hOp x.2) then (arriveHeader s p { h0 := x.2, h1 := 0, data := [] }).1 else s) s

/-- Slots in use of a flit. -/
def usedSlots (f : LFlit) : Nat := (f.slots.filter (fun x => x.1 ≠ 0)).length

/-- Slot 0 of a control flit, and slot 1. -/
def slotAt (f : LFlit) (k : Nat) : Slot := ((f.slots[k]?).map (fun x => x.2)).getD 0

/-- Credit returns and slots of a flit taken in order; none where they break a rule of the link. -/
def takeContents (s : State) (p : Nat) (opening : Bool) (f : LFlit) : Option State :=
  let l := linkOf s p
  if flitSlotsBad p l f then none
  else (takeCredits opening l (f.credits.filter (fun c => c.count ≠ 0))).map (fun l => takeSlots p (putLink s p l) f.slots)

end Sys2Proof.Machine
end

