-- ==== Sys2Proof/Machine/WidePort.lean ====
section
/-! DEFINITION. The Wide Port (02 R38 to R71): training, the link state machine, flits sent and received, charged wires and
their substitution, Idle-clocked and Parked, re-initialisation. -/

namespace Sys2Proof.Machine

def modWp (s : State) (f : WidePort → WidePort) : State := { s with wp := f s.wp }

/-! ## Wires and spares (R57, R63, R65) -/

/-- Group and target of a data or control wire position, and the position of a target (R63). -/
def wireTarget (w : Nat) : Nat × Nat := if w < 1024 then (w / 128, w % 128) else ((w - 1024) / 8, 128 + (w - 1024) % 8)
def targetWire (g t : Nat) : Nat := if t < 128 then 128 * g + t else 1024 + 8 * g + (t - 128)

/-- The store room records a substitution, with C1 0x0204. -/
def substDone (s : State) (g t : Nat) : State := chipFault (storeChanged s) .c1 0 0x0204 (targetWire g t)

/-- A map with a target on a spare. -/
def mapPut (m : List (Nat × Nat × Nat)) (g t sp : Nat) : List (Nat × Nat × Nat) :=
  m.filter (fun x => !(x.1 = g && x.2.1 = t)) ++ [(g, t, sp)]

/-- Bit 4g + s. -/
def spareBit (g sp : Nat) : Nat := 4 * g + sp

/-- The lowest-numbered free spare of a group that qualified. -/
def freeSpare (s : State) (g : Nat) : Option Nat :=
  (List.range 4).find? (fun k => !s.wp.badSpares.getLsbD (spareBit g k) && !s.wp.sparesIn.getLsbD (spareBit g k) &&
    !s.wp.subst.any (fun x => x.group = g && x.spare = k))

/-! ## Down and over again (R64, R66, R68, R69) -/

/-- The port enters FAILED with its C1 fault. -/
def wpFail (s : State) : State :=
  if s.wp.st == .off || s.wp.st == .failed || s.wp.dead then s
  else
    wpOut (chipFault s .c1 0 0x0206 0)

/-- A fresh link with every credit to advertise.  `n` REINIT flits come first, in the epoch they end; the next epoch follows
them (R69). -/
def wideInit (s : State) (n : Nat) : WidePort :=
  let w := s.wp
  let asks := w.subst.map (fun x => (wpSubstReq, [BitVec.ofNat 128 (x.group + x.target * 256 + x.spare * 65536)]))
  let l := freshLink s w.link
  { w with
    link := { l with owed := lAdvert 4, reinitLeft := n, epochDue := n ≠ 0, epoch := if n = 0 then l.epoch else w.link.epoch,
                     ctl := asks },
    subst := w.subst.map (fun x => { x with atSeq := none }), substOut := [], badKept := [], rxPos := 4095, idleIn := false,
    idleOut := false, wakeAt := none, parkAsked := false, parkLeft := 0 }

/-- Flits go both ways on a link in service; in a chip halt once the NODE_DOWN flits have been sent (R68). -/
def wpServes (s : State) : Bool :=
  s.wp.st == .init || s.wp.st == .active ||
    (s.wp.st == .halted && !s.wp.dead && s.faults.halted && s.faults.haltAt + us 1 ≤ s.now)

/-- Re-initialisation: 64 REINIT flits, a fresh link of the next epoch, C1 0x0205, contexts of the old epoch resolved. -/
def wpReinit (s : State) : State :=
  if wpServes s || s.wp.st == .parked then
    let s := requeueCut (chipFault s .c1 0 0x0205 0) 4
    resendSnoops (resolveEpoch (modWp s (fun _ => { wideInit s 64 with st := .init })) 4) 4
  else s

/-- Messages may flow: INIT_DONE both ways and the credits of R53. -/
def linkReady (l : Link) : Bool := l.initSent && l.initRcvd && minimaMet l.adv

def wpTryActive (s : State) : State :=
  if s.wp.st == .init && linkReady s.wp.link then
    modWp s (fun w => { w with st := .active, activeSince := s.now, lastTx := s.now, lastTraffic := s.now })
  else s

/-! ## Sending (R43, R54, R67, R68) -/

/-- During link initialisation: REINIT flits, replays, the advertisement, INIT_DONE, then NULLs. -/
def composeInit (s : State) : State × LFlit :=
  let l := s.wp.link
  match l.resend with
  | f :: rest => (replayed (putLink s 4 { l with resend := rest }) 4, f)
  | [] =>
    if l.owed != {} && seqRoom 4 l then
      let r := takeRets 4 l
      let q := seqFlit 4 r.2 1 [] r.1
      (putLink s 4 q.2, q.1)
    else if !l.initSent && seqRoom 4 l then
      let q := seqFlit 4 { l with initSent := true } wpInitDone [] []
      (putLink s 4 q.2, q.1)
    else if l.initSent then
      match ctlFlit 4 l with
      | some (f, l) => (putLink s 4 l, f)
      | none => (s, plainFlit 4 l 1 [])
    else (s, plainFlit 4 l 1 [])

/-- What a link in service sends next, and whether it is the last REINIT flit. -/
def composeWide (s : State) : State × LFlit × Bool :=
  let l := s.wp.link
  let plain (r : State × LFlit) : State × LFlit × Bool := (r.1, r.2, false)
  if l.reinitLeft ≠ 0 then
    let last : Bool := l.reinitLeft = 1
    (putLink s 4 { l with reinitLeft := l.reinitLeft - 1 }, plainFlit 4 l wpReinitFt [], last)
  else if s.wp.st == .parked then
    plain (match l.resend, ctlFlit 4 l with
     | f :: rest, _ => (replayed (putLink s 4 { l with resend := rest }) 4, f)
     | [], some (f, l) => (putLink s 4 l, f)
     | [], none => (s, plainFlit 4 l 1 []))
  else if s.wp.st == .init || !linkReady l then plain (composeInit s)
  else plain (composeOpen s 4)

/-- A SUBST_ACK's S is kept as the flit from which the spare is driven. -/
def noteSubstAck (s : State) (f : LFlit) : State :=
  if f.ftype = wpSubstAck then
    let v := (slotAt f 0).toNat
    modWp s (fun w => { w with substOut := w.substOut.map (fun x =>
      if x.group = field v 0 8 && x.target = field v 8 8 && x.spare = field v 16 8 && x.atSeq.isNone then
        { x with atSeq := some (field v 32 12) } else x) })
  else s

/-- Bits of both halves on the spare wires: a spare carries its target's bits (R35, R63, R65). -/
def spareWires (m : List (Nat × Nat × Nat)) (f : WFlit) : BitVec 64 :=
  m.foldl (fun v x =>
    let w := targetWire x.1 x.2.1
    let pick (d : BitVec 1024) (c : BitVec 64) : Bool := if w < 1024 then d.getLsbD w else c.getLsbD (w - 1024)
    setBit (setBit v (spareBit x.1 x.2.2) (pick f.d0 f.c0)) (32 + spareBit x.1 x.2.2) (pick f.d1 f.c1)) 0

/-- A flit on the wires of W_OUT, W_OUTC and W_OUTS. -/
def onWires (w : WidePort) (f : WFlit) : WidePort := { w with wire := some f, wireS := spareWires w.mapOut f }

/-- The composed flit on the wires. -/
def drive (s : State) (f : LFlit) (replay : Bool) : State :=
  let busy := somethingSent s.wp.link f
  let used := usedSlots f
  let r := transmit (noteSubstAck s f) 4 f replay
  let s := occ r.1 0x04B 4 0xF used
  wpTryActive (modWp s (fun w => { onWires w (wpFormat r.2) with
    lastTx := if busy then s.now else w.lastTx,
    lastTraffic := if used ≠ 0 then s.now else w.lastTraffic }))

/-- A control flit without parameters, at once. -/
def driveCtl (s : State) (ft : Nat) : State := drive s (plainFlit 4 s.wp.link ft []) false

def driveNext (s : State) : State :=
  let again := !s.wp.link.resend.isEmpty && s.wp.link.reinitLeft = 0
  let r := composeWide s
  let s := drive r.1 r.2.1 again
  if r.2.2 then modLink s 4 (fun l => { l with epoch := l.epoch + 1, epochDue := false }) else s

/-- Failure record of a group: count, first four targets found, CRC (R63). -/
def trainRecord (w : WidePort) (g : Nat) : Slot :=
  let ts := (w.inFailed.filter (fun x => x.1 = g)).map (fun x => x.2)
  let body := leBytes (min ts.length 5) 1 ++ (List.range 4).map (fun k => BitVec.ofNat 8 ((ts[k]?).getD 0xFF))
  BitVec.ofNat 128 (leNat (body ++ leBytes (crc16Bytes body) 2))

/-- TRAIN flit n: slot k carries the record of group (k + n) mod 8; every control wire carries 1, then 0 (R62). -/
def trainFlit (w : WidePort) (n : Nat) : WFlit :=
  let half (a : Nat) : BitVec 1024 := BitVec.ofNat 1024 (slotsNat ((List.range 8).map (fun k => trainRecord w ((a + k + n) % 8))))
  { d0 := half 0, c0 := BitVec.ofNat 64 (2 ^ 64 - 1), d1 := half 8, c1 := 0 }

/-- The PRBS-31 of the wires as sweep and qualification begin: position p seeded with p + 1 (R62). -/
def prbsSeeds : List (BitVec 31) := (List.range 1120).map (fun p => seedStart 31 (BitVec.ofNat 31 (p + 1)))

/-- x^31 + x^28 + 1, two unit intervals on: each bit is the sum of those 31 and 28 before it. -/
def prbsNext2 (r : BitVec 31) : BitVec 31 :=
  let next (r : BitVec 31) : BitVec 31 := setBit (r >>> 1) 30 (r.getLsbD 0 ^^ r.getLsbD 3)
  next (next r)

/-- Bit k of the wires from position a, n of them, as a number. -/
def prbsBits (l : List (BitVec 31)) (a n k : Nat) : Nat :=
  (((l.drop a).take n).foldr (fun r v => b2n (r.getLsbD k) + 2 * v) 0)

/-- Two unit intervals of the PRBS on every data, control and spare wire; a substitution map in force puts a target's bits
on its spare (R62). -/
def prbsFlit (w : WidePort) : WidePort :=
  let p := w.prbs
  let f : WFlit :=
    { d0 := BitVec.ofNat 1024 (prbsBits p 0 1024 0), c0 := BitVec.ofNat 64 (prbsBits p 1024 64 0),
      d1 := BitVec.ofNat 1024 (prbsBits p 0 1024 1), c1 := BitVec.ofNat 64 (prbsBits p 1024 64 1) }
  let own : BitVec 64 := BitVec.ofNat 64 (prbsBits p 1088 32 0 + prbsBits p 1088 32 1 * 2 ^ 32)
  let used := w.mapOut.foldl (fun v x => setBit (setBit v (spareBit x.1 x.2.2) true) (32 + spareBit x.1 x.2.2) true) (0 : BitVec 64)
  { w with wire := some f, wireS := (own &&& ~~~ used) ||| spareWires w.mapOut f, prbs := p.map prbsNext2 }

/-- What a port in training sends (R62).  The pattern of qualification is not stated: the PRBS goes on through it (log 177). -/
def sendTraining (w : WidePort) : WidePort :=
  match w.phase with
  | .prbs | .qualify | .requalify => prbsFlit w
  | .train => { onWires w (trainFlit w w.link.txSeq) with link := { w.link with txSeq := (w.link.txSeq + 1) % 8 } }
  | _ => w

/-- A waking transmitter: nothing for its restart, WAKE for 4 ns, then the link. -/
def sendWaking (s : State) (t : Nat) : State :=
  if s.now < t then s
  else if s.now < t + 4 then driveCtl s wpWake
  else driveNext (modWp s (fun w => { w with wakeAt := none, idleOut := false }))

/-- NODE_DOWN flits for 1 us; then the halt responder, or drivers off. -/
def sendHalted (s : State) : State :=
  if s.now < s.faults.haltAt + us 1 then driveCtl s wpNodeDown
  else if s.faults.halted then driveNext s
  else modWp s (fun w => { w with st := .off, wire := none })

/-- The next flit of W_OUT. -/
def wpSend (s : State) : State :=
  match s.wp.st with
  | .off => s
  | .failed => s
  | .training => modWp s sendTraining
  | .halted => if s.wp.dead then s else sendHalted s
  | .parked =>
    if s.wp.parkLeft = 0 then s
    else driveNext (modWp s (fun w => { w with parkLeft := w.parkLeft - 1 }))
  | _ =>
    if s.boot.phase == .retHeld then s
    else match s.wp.wakeAt with
      | some t => sendWaking s t
      | none => if s.wp.idleOut then s else driveNext s

def execWpFlitSend (s : State) : Host.Outcome State Fault Refusal := .next (wpSend s)

/-! ## Idle-clocked and Parked (R67, R68) -/

/-- A base-die stop holds both directions in Idle-clocked (13 R379): a direction leaves it only for what it has to send,
since MGMT is served throughout and requests are answered RETRY (13 R377), and returns at once (DEDUCED, log 194). -/
def heldIdle (s : State) : Bool := s.heat.baseStop && s.heat.stop != .running

def wpIdleEnter (s : State) : State :=
  let w := s.wp
  if w.st == .active && !w.idleOut && !linkBusy w.link &&
      (heldIdle s || (s.fab.idleEn && waited s w.lastTx s.fab.idleTimer.toNat)) then
    modWp (driveCtl s wpIdle) (fun w => { w with idleOut := true })
  else s

def execWpIdleEnter (s : State) : Host.Outcome State Fault Refusal := whenWired s wpIdleEnter

def wpIdleWake (s : State) : State :=
  if s.wp.st == .active && s.wp.idleOut && s.wp.wakeAt.isNone && linkBusy s.wp.link then
    modWp s (fun w => { w with wakeAt := some (s.now + 36) })
  else s

def execWpIdleWake (s : State) : Host.Outcome State Fault Refusal := whenWired s wpIdleWake

/-- No context, queued traffic, unacknowledged flit or event is held for the port. -/
def wpDrained (s : State) : Bool :=
  let l := s.wp.link
  l.outQ.isEmpty && l.txData.isEmpty && l.unacked.isEmpty && l.rx.isEmpty &&
    !s.tx.ctxs.any (fun c => c.ing = 4) &&
    !s.tx.snoops.any (fun n => (!n.answered || n.wbp ≠ 0) && routeOf s n.node = 4) && !(s.tx.held ++ s.tx.waiting).any (fun w => w.ing = 4) &&
    !s.trowel.extWait.any (fun w => w.1 = 4) && !s.tx.mgWait.any (fun w => w.1 = 4) &&
    !(List.range 8).any (fun t => (evtT s t).push.isSome && routeOf s ((evtT s t).cfg.extractLsb' 8 12) = 4)

def pushCtl (s : State) (ft : Nat) (slots : List Slot) : State :=
  modWp s (fun w => { w with link := { w.link with ctl := w.link.ctl ++ [(ft, slots)] } })

/-- PARKED: 64 flits more, then the clock stops. -/
def enterParked (s : State) (n : Nat) : State := modWp s (fun w => { w with st := .parked, parkLeft := n, parkAsked := false })

def parkReq (s : State) : State :=
  if s.wp.st != .active then s
  else if s.fab.parkPolicy != 2 && wpDrained s then enterParked (pushCtl s wpParkAck []) 65
  else pushCtl s wpParkNak []

def execWpParkReqReceived (s : State) : Host.Outcome State Fault Refusal := whenWired s parkReq

def parkAck (s : State) : State := if s.wp.st == .active && s.wp.parkAsked then enterParked s 64 else s

def execWpParkAckReceived (s : State) : Host.Outcome State Fault Refusal := whenWired s parkAck

def parkNak (s : State) : State :=
  if s.wp.parkAsked then modWp s (fun w => { w with parkAsked := false, lastTraffic := s.now }) else s

def execWpParkNakReceived (s : State) : Host.Outcome State Fault Refusal := whenWired s parkNak

/-- Under policy 1 the stack asks after PARK_TIMER without traffic. -/
def parkTimer (s : State) : State :=
  if s.wp.st == .active && s.fab.parkPolicy == 1 && !s.wp.parkAsked && wpDrained s &&
      waited s s.wp.lastTraffic (us s.fab.parkTimer.toNat) then
    modWp (pushCtl s wpParkReq []) (fun w => { w with parkAsked := true })
  else s

def execWpParkTimer (s : State) : Host.Outcome State Fault Refusal := whenLive s parkTimer

/-- A wake from Parked: own clock, relock, WAKE flits, the next epoch, credits advertised afresh. -/
def parkWake (s : State) : State :=
  if s.wp.st == .parked then
    modWp s (fun _ => { wideInit s 0 with st := .init, wakeAt := some (s.now + 1200) })
  else s

def execWpParkWake (s : State) : Host.Outcome State Fault Refusal := whenWired s parkWake

/-! ## Spare wires in service (R57, R65, R66) -/

/-- A wire failed: the lowest free spare is asked for, or the port fails (R65, R66). -/
def wireFailed (s : State) (g t : Nat) : State :=
  if s.wp.subst.any (fun x => x.group = g && x.target = t) then s
  else match freeSpare s g with
    | none => wpFail s
    | some k =>
      pushCtl (modWp s (fun w => { w with
          subst := w.subst ++ [{ group := g, target := t, spare := k, atSeq := none }],
          charges := w.charges.filter (fun c => c.1 ≠ targetWire g t) }))
        wpSubstReq [BitVec.ofNat 128 (g + t * 256 + k * 65536)]

/-- Charged in three separate replays within 1 ms. -/
def wireCharged (s : State) (wire : Nat) : Bool :=
  3 ≤ ((s.wp.charges.filter (fun c => c.1 = wire && s.now ≤ c.2.1 + ms 1)).map (fun c => c.2.2)).eraseDups.length

def execWpWireFailed (wire : Nat) (s : State) : Host.Outcome State Fault Refusal :=
  if wire < 1088 then
    whenWired s (fun s =>
      if wpServes s && wireCharged s wire then wireFailed s (wireTarget wire).1 (wireTarget wire).2 else s)
  else .next s

/-- The far receiver asks for a spare: SUBST_ACK. -/
def substReq (s : State) (g t k : Nat) : State :=
  if wpServes s then
    pushCtl (modWp s (fun w => { w with
        substOut := w.substOut.filter (fun x => !(x.group = g && x.target = t)) ++
          [{ group := g, target := t, spare := k, atSeq := none }] }))
      wpSubstAck [BitVec.ofNat 128 (g + t * 256 + k * 65536)]
  else s

def execWpSubstReqReceived (group target spare : Nat) (s : State) : Host.Outcome State Fault Refusal :=
  if group < 8 ∧ target < 136 ∧ spare < 4 then whenWired s (fun s => substReq s group target spare)
  else .next s

/-- S for a substitution asked for. -/
def substAck (s : State) (g t k seq : Nat) : State :=
  modWp s (fun w => { w with subst := w.subst.map (fun x =>
    if x.group = g && x.target = t && x.spare = k then { x with atSeq := some seq } else x) })

def execWpSubstAckReceived (group target spare seq : Nat) (s : State) : Host.Outcome State Fault Refusal :=
  if group < 8 ∧ target < 136 ∧ spare < 4 ∧ seq < 4096 then whenWired s (fun s => substAck s group target spare seq)
  else .next s

/-- The substitution names this wire and spare, and S has come. -/
def substDue (x : Subst) (g t k next : Nat) : Bool :=
  x.group = g && x.target = t && x.spare = k && (match x.atSeq with
    | some q => seqGe 4 next q
    | none => false)

/-- From flit S onward the spare carries the wire: inbound at the receiver, outbound at the transmitter. -/
def spareTakeover (s : State) (g t k : Nat) : State :=
  let w := s.wp
  let s :=
    if w.subst.any (fun x => substDue x g t k (nextSeq 4 w.link)) then
      substDone (modWp s (fun w => { w with
        subst := w.subst.filter (fun x => !(x.group = g && x.target = t)), mapIn := mapPut w.mapIn g t k,
        sparesIn := setBit w.sparesIn (spareBit g k) true })) g t
    else s
  if w.substOut.any (fun x => substDue x g t k w.link.txSeq) then
    substDone (modWp s (fun w => { w with
      substOut := w.substOut.filter (fun x => !(x.group = g && x.target = t)), mapOut := mapPut w.mapOut g t k,
      sparesOut := setBit w.sparesOut (spareBit g k) true })) g t
  else s

def execWpSpareTakeover (group target spare : Nat) (s : State) : Host.Outcome State Fault Refusal :=
  if group < 8 ∧ target < 136 ∧ spare < 4 then whenWired s (fun s => spareTakeover s group target spare)
  else .next s

/-- A group clock is lost, or back. -/
def clockLoss (s : State) (g : Nat) (lost : Bool) : State :=
  let rest := s.wp.clockLost.filter (fun c => c.1 ≠ g)
  let there := s.wp.clockLost.filter (fun c => c.1 = g)
  modWp s (fun w => { w with
    clockLost := if lost then rest ++ (if there.isEmpty then [(g, s.now)] else there) else rest })

/-- A Parked port's clocks stand still; a training port's host may not drive its clock yet. -/
def execWpClockLoss (g : Nat) (lost : Bool) (s : State) : Host.Outcome State Fault Refusal :=
  if g < 8 then
    whenWired s (fun s => if s.wp.st == .parked || s.wp.st == .training then s else clockLoss s g lost)
  else .next s

def clockDead (s : State) (g : Nat) : State :=
  if s.wp.clockLost.any (fun c => c.1 = g && expired s c.2 (us 100)) then wpFail s else s

def execWpClockLossTimeout (g : Nat) (s : State) : Host.Outcome State Fault Refusal :=
  if g < 8 then whenWired s (fun s => clockDead s g) else .next s

/-- A group clock absent for 32 ns makes every flit bad. -/
def clockBad (s : State) : Bool := s.wp.clockLost.any (fun c => c.2 + 32 ≤ s.now)

/-! ## Receiving (R45, R52, R55 to R58, R69) -/

/-- Differing bits of two copies of a half: data wires, control wires. -/
def diffWires (d d' : BitVec 1024) (c c' : BitVec 64) : List Nat :=
  bitsSet (d ^^^ d') ++ (bitsSet (c ^^^ c')).map (fun k => 1024 + k)

/-- Wires on which a kept bad flit differs from its good copy: those of its bad halves. -/
def badWires (k good : WFlit) : List Nat :=
  (if halfGood k.d0 k.c0 then [] else diffWires k.d0 good.d0 k.c0 good.c0) ++
    (if halfGood k.d1 k.c1 then [] else diffWires k.d1 good.d1 k.c1 good.c1)

/-- The replayed copy of a sequence number has come good: every bad copy kept of it is compared with it, and each wire
that differs is charged, once a replay. -/
def chargeWires (s : State) (good : WFlit) (seq : Nat) : State :=
  let ws := ((s.wp.badKept.filter (fun k => k.1 = seq)).flatMap (fun k => badWires k.2 good)).eraseDups
  modWp s (fun w => { w with
    badKept := w.badKept.filter (fun k => !seqGe 4 seq k.1),
    charges := w.charges.filter (fun c => s.now ≤ c.2.1 + ms 1) ++ ws.map (fun x => (x, s.now, w.replayNo)) })

/-- The sequence number a bad flit is taken to have: its own where its half 0 is good (none where it is unsequenced), else
the one after the last seen in the stream. -/
def badSeq (w : WidePort) (f : WFlit) : Option Nat :=
  if halfGood f.d0 f.c0 then (if bit f.c0.toNat 62 then some (field f.c0.toNat 16 12) else none)
  else some ((w.rxPos + 1) % 4096)

/-- A NAK is owed; a new one asks for a new replay. -/
def wideNak (w : WidePort) : WidePort :=
  { w with link := startNak w.link, replayNo := if w.link.awaiting then w.replayNo else w.replayNo + 1 }

/-- A bad flit: counted, kept, NAK. -/
def badFlit (s : State) (f : WFlit) : State :=
  let s := occ s 0x04C 4 0xF 1
  modWp s (fun w =>
    let n := badSeq w f
    wideNak { w with
      crcErr := satAdd 64 w.crcErr 1, rxPos := n.getD w.rxPos,
      badKept := w.badKept ++ (match n with
        | some k => [(k, f)]
        | none => []) })

/-- INIT_DONE from the host. -/
def initDone (s : State) : State :=
  if s.wp.st == .init || s.wp.st == .halted then
    wpTryActive (modWp s (fun w => { w with link := { w.link with initRcvd := true, initRcvdAt := s.now } }))
  else s

def execWpInitDoneReceived (s : State) : Host.Outcome State Fault Refusal := whenWired s initDone

/-- The host's credits stay below a minimum 100 us after its INIT_DONE: C0 0x0203. -/
def creditShort (s : State) : State :=
  let l := s.wp.link
  if s.wp.st == .init && l.initRcvd && !minimaMet l.adv && !l.shortRaised && expired s l.initRcvdAt (us 100) then
    c0 (modWp s (fun w => { w with link := { w.link with shortRaised := true } })) 0 0x0203 0 0
  else s

def execWpCreditShortfallTimeout (s : State) : Host.Outcome State Fault Refusal := whenLive s creditShort

/-- REINIT received: answered with this side's own unless it is sending them. -/
def reinitRcvd (s : State) : State := if s.wp.link.reinitLeft ≠ 0 then s else wpReinit s

def execWpReinitReceived (s : State) : Host.Outcome State Fault Refusal := whenWired s reinitRcvd

/-- A control flit's effect, or that of messages and credits.  A SUBST_REQ whose group, target or spare is out of range is
ignored: R65 says nothing of one (DESIGN CHOICE, log 170). -/
def takeFtype (s : State) (f : LFlit) : State :=
  let v := (slotAt f 0).toNat
  if f.ftype = wpParkReq then parkReq s
  else if f.ftype = wpParkAck then parkAck s
  else if f.ftype = wpParkNak then parkNak s
  else if f.ftype = wpSubstReq then
    (if field v 0 8 < 8 && field v 8 8 < 136 && field v 16 8 < 4 then substReq s (field v 0 8) (field v 8 8) (field v 16 8) else s)
  else if f.ftype = wpSubstAck then substAck s (field v 0 8) (field v 8 8) (field v 16 8) (field v 32 12)
  else if f.ftype = wpInitDone then initDone s
  else s

/-- A flit in order: its contents, or a protocol error.  R54 lets a port carry messages only once INIT_DONE has gone both
ways, and names no reaction to a slot before: it is a protocol error here (DESIGN CHOICE, log 169). -/
def takeFlit (s : State) (w : WFlit) (f : LFlit) : State :=
  let s := if f.seqd then chargeWires s w f.fseq else s
  let s := modWp s (fun w => { w with
    link := tookSeq w.link f, lastTraffic := if usedSlots f ≠ 0 then s.now else w.lastTraffic })
  let s := occ s 0x04A 4 0xF (usedSlots f)
  let early : Bool := usedSlots f ≠ 0 && !(s.wp.link.initSent && s.wp.link.initRcvd)
  if early then wpReinit s
  else match takeContents s 4 (s.wp.st == .init || !s.wp.link.initRcvd) f with
    | some s => wpTryActive (takeFtype s f)
    | none => wpReinit s

/-- A good flit of the present epoch. -/
def goodFlit (s : State) (w : WFlit) (x : AFlit) : State :=
  if x.epoch ≠ (liveEpoch s.wp.link).toNat then s
  else
    let s := modWp s (fun w => { w with idleIn := x.f.ftype = wpIdle, rxPos := x.f.fseq })
    let s := if x.f.seqd then occ s 0x048 4 0xF 1 else s
    if x.f.ftype = wpReinitFt then reinitRcvd s
    else if x.err then wpReinit s
    else
      let s := modWp s (fun w => { w with link := takeAck w.link x })
      match seqTurn 4 s.wp.link x.f with
      | .take => takeFlit s w x.f
      | _ => modWp s wideNak

/-- A failure record with a good CRC. -/
def recordGood (r : Slot) : Bool :=
  let b := leBytes r.toNat 16
  leNat ((b.drop 5).take 2) = leNat (leBytes (crc16Bytes (b.take 5)) 2)

/-- A TRAIN flit: slot k of the n-th received carries the record of group (k + n) mod 8; the first good copy of each is
kept (R63).  R63 does not say how a receiver knows n: it counts the flits of the phase from the first (log 178). -/
def trainReceived (f : WFlit) (w : WidePort) : WidePort :=
  let recs := (slotsOf f.d0.toNat 8 ++ slotsOf f.d1.toNat 8).zipIdx.map (fun x => ((x.2 + w.trainRx) % 8, x.1))
  { w with
    trainRx := w.trainRx + 1,
    trainRec := recs.foldl (fun m r =>
      if recordGood r.2 && smGet 0 m r.1 == 0 then smSet 0 m r.1 r.2 else m) w.trainRec }

/-- 2,176 bits on W_IN and W_INC. -/
def wpReceive (s : State) (f : WFlit) : State :=
  if s.boot.phase == .retHeld then
    (match wpParse f with
     | some x => if x.epoch = s.wp.link.epoch.toNat then recordSlots 4 s x.f.slots else s
     | none => s)
  else if s.wp.st == .training then (if s.wp.phase == .train then modWp s (trainReceived f) else s)
  else if wpServes s || (s.wp.st == .parked && s.wp.parkLeft ≠ 0) then
    match (if clockBad s then none else wpParse f) with
    | some x => goodFlit s f x
    | none => badFlit s f
  else s

def execWpFlitReceive (f : WFlit) (s : State) : Host.Outcome State Fault Refusal := whenWired s (fun s => wpReceive s f)

/-- The NAK is repeated: the replay has not begun 128 flits later. -/
def repeatNak (s : State) (p : Nat) : State :=
  let l := linkOf s p
  if l.awaiting && !l.nakDue && lNak p ≤ l.nakFlits then
    let s := putLink s p { l with nakDue := true, nakFlits := 0 }
    if p = 4 then modWp s (fun w => { w with replayNo := w.replayNo + 1 }) else s
  else s

def execWpNakRepeat (s : State) : Host.Outcome State Fault Refusal := whenWired s (fun s => repeatNak s 4)

/-- 64 consecutive NAKs for one ACKSEQ. -/
def execWpNakLimit (s : State) : Host.Outcome State Fault Refusal :=
  whenWired s (fun s => if 64 ≤ s.wp.link.nakCount then wpReinit s else s)

/-! ## Training (R62 to R64) -/

/-- Duration of a phase, in ticks. -/
def phaseTime : WpPhase → Nat
  | .clockLock => us 100
  | .prbs => us 1900
  | .qualify => us 1100
  | .train => us 200
  | .requalify => us 1100
  | .linkInit => us 100

def wpPhase (s : State) (ph : WpPhase) : State := modWp s (fun w => { w with phase := ph, phaseAt := s.now })

/-- A report that fails training: more failed data and control wires of a group than spares that qualified, which is
more than four failures in the group. -/
def reportFails (l : List (Nat × Nat)) : Bool :=
  (List.range 8).any (fun g =>
    let mine := l.filter (fun x => x.1 = g)
    4 < mine.length)

/-- The failed wires of each group on its qualified spares, in order. -/
def assignSpares (l : List (Nat × Nat)) : List (Nat × Nat × Nat) :=
  (List.range 8).flatMap (fun g =>
    let mine := l.filter (fun x => x.1 = g)
    let ok := (List.range 4).filter (fun k => !mine.any (fun x => x.2 = 136 + k))
    ((mine.filter (fun x => x.2 < 136)).zip ok).map (fun x => (g, x.1.2, x.2)))

def spareBits (m : List (Nat × Nat × Nat)) : BitVec 32 := m.foldl (fun v x => setBit v (spareBit x.1 x.2.2) true) 0

def badBits (l : List (Nat × Nat)) : BitVec 32 :=
  (l.filter (fun x => 136 ≤ x.2)).foldl (fun v x => setBit v (spareBit x.1 (x.2 - 136)) true) 0

/-- What this receiver found at qualification, for its TRAIN flits (R63). -/
def qualified (s : State) (l : List (Nat × Nat)) : State :=
  wpPhase (modWp s (fun w => { w with inFailed := l, badSpares := badBits l, trainRx := 0, trainRec := [] })) .train

/-- Failed wires of a group's record: its count and its first target bytes.  A group of which no good record came has no
failure (log 178). -/
def recordFailed (w : WidePort) (g : Nat) : Nat × List (Nat × Nat) :=
  let b := leBytes (smGet 0 w.trainRec g).toNat 5
  let n := (byteAt b 0).toNat
  (n, (((b.drop 1).take (min n 4)).map BitVec.toNat).filterMap (fun t => if t < 140 then some (g, t) else none))

/-- The TRAIN flits are over: training fails where either side counts more than four failures in a group; else both
substitution maps are applied, the outbound one from the host's report (R62 to R64). -/
def reported (s : State) : State :=
  let recs := (List.range 8).map (recordFailed s.wp)
  let l := recs.flatMap (fun r => r.2)
  if reportFails s.wp.inFailed || recs.any (fun r => 5 ≤ r.1) then wpFail s
  else
    let mi := assignSpares s.wp.inFailed
    let mo := assignSpares l
    let s := modWp s (fun w => { w with
      mapIn := mi, sparesIn := spareBits mi, mapOut := mo, sparesOut := spareBits mo, prbs := prbsSeeds })
    (mi ++ mo).foldl (fun s x => substDone s x.1 x.2.1) (wpPhase s .requalify)

/-- Link initialisation at port epoch 0 (R62). -/
def beginLink (s : State) : State :=
  wpPhase (modWp s (fun w => { w with
    st := .init, link := { initAt := s.now, owed := lAdvert 4, outQ := w.link.outQ }, lastTx := s.now })) .linkInit

def phaseEnd (s : State) (inFailed : List (Nat × Nat)) (ok : Bool) : State :=
  if s.wp.st != .training || !waited s s.wp.phaseAt (phaseTime s.wp.phase) then s
  else
    match s.wp.phase with
    | .clockLock => if ok then wpPhase (modWp s (fun w => { w with hostClockSeen := true, prbs := prbsSeeds })) .prbs else wpFail s
    | .prbs => wpPhase s .qualify
    | .qualify => qualified s inFailed
    | .train => reported s
    | .requalify =>
      if ok then beginLink s
      else if s.wp.requalFails ≠ 0 then wpFail s
      else wpPhase (modWp s (fun w => { w with requalFails := 1 })) .requalify
    | .linkInit => s

def legalReport (l : List (Nat × Nat)) : Bool := l.all (fun x => x.1 < 8 && x.2 < 140) && l.eraseDups.length == l.length

def execWpTrainingPhaseEnd (inFailed : List (Nat × Nat)) (ok : Bool) (s : State) : Host.Outcome State Fault Refusal :=
  if legalReport inFailed then whenLive s (fun s => phaseEnd s inFailed ok)
  else .next s

/-- The host clock is not seen by t0 + 100 ms. -/
def hostClockLate (s : State) : State :=
  if s.wp.st == .training && !s.wp.hostClockSeen && expired s s.wp.t0 (ms 100) then wpFail s else s

def execWpHostClockTimeout (s : State) : Host.Outcome State Fault Refusal := whenLive s hostClockLate

end Sys2Proof.Machine
end

