-- ==== Sys2Proof/Machine/FabricLink.lean ====
section
/-! DEFINITION. The link layer of the fabric ports (04 R114 to R134): INIT, flits sent and received, re-initialisation, the
spare lane. -/

namespace Sys2Proof.Machine

/-! ## INIT (R124) -/

/-- Slots 0 and 1 of an INIT flit: epoch, node, SEEN; credits. -/
def initSlots (s : State) (p : Nat) : List Slot :=
  let x := port s p
  let c := lAdvert p
  let cr : List Nat := [c.req, c.snp, c.rsp, c.dat, c.blk, c.mg, c.datL, c.mgL]
  [BitVec.ofNat 128 (x.link.epoch.toNat + s.fab.stackNode.toNat * 256 + b2n x.seen * 2 ^ 24),
   BitVec.ofNat 128 (cr.foldr (fun v acc => v + 65536 * acc) 0)]

/-- Credits an INIT flit advertises. -/
def initCredits (slot1 : Slot) : Credits :=
  let w (k : Nat) : Nat := field slot1.toNat (16 * k) 16
  { req := w 0, snp := w 1, rsp := w 2, dat := w 3, blk := w 4, mg := w 5, datL := w 6, mgL := w 7 }

/-- Own INIT sent with SEEN, the partner's with SEEN received, credits at least the minima: ACTIVE. -/
def fpTryActive (s : State) (p : Nat) : State :=
  let x := port s p
  if x.st == .init && x.sentSeen && x.partnerSeen && minimaMet x.link.adv then
    askAwaiting (putPort s p { x with
      st := .active, activeSince := s.now, lastTx := s.now, txPower := .active, rxPower := .active, txChange := none,
      link := { x.link with initSent := true, held := x.link.adv } }) p
  else s

/-- A good INIT: the partner's node, SEEN, and its credits; below a minimum, C0 0x0401. -/
def initReceived (s : State) (p : Nat) (slot0 slot1 : Slot) : State :=
  let x := port s p
  if x.st != .init then s
  else
    let c := initCredits slot1
    let s := putPort s p { x with
      seen := true, partnerSeen := slot0.getLsbD 24, partnerNode := slot0.extractLsb' 8 12,
      link := { x.link with adv := c, initRcvd := true, initRcvdAt := s.now, shortRaised := x.link.shortRaised || !minimaMet c } }
    let s := if !minimaMet c && !x.link.shortRaised then c0 s (p + 1) 0x0401 0 0 else s
    fpTryActive s p

def execFpInitReceived (p : Nat) (slot0 slot1 : Slot) (s : State) : Host.Outcome State Fault Refusal :=
  if p < 4 then whenWired s (fun s => initReceived s p slot0 slot1) else .next s

/-- No good INIT, or none with the minima, within 100 us: DOWN, without a fault. -/
def initTimeout (s : State) (p : Nat) : State :=
  let x := port s p
  if x.st == .init && (!x.seen || !minimaMet x.link.adv) && expired s x.link.initAt (us 100) then fpDown s p true else s

def execFpInitTimeout (p : Nat) (s : State) : Host.Outcome State Fault Refusal :=
  if p < 4 then whenWired s (fun s => initTimeout s p) else .next s

/-! ## Sending -/

/-- The next flit of a port, and whether it is a replay. -/
def composeFabric (s : State) (p : Nat) : State × LFlit × Bool :=
  let x := port s p
  let l := x.link
  if l.reinitLeft ≠ 0 then (putLink s p { l with reinitLeft := l.reinitLeft - 1 }, plainFlit p l fpReinitFt [], false)
  else if x.st == .init then
    (modPort s p (fun x => { x with sentSeen := x.seen }), plainFlit p l fpInit ((initSlots s p).map (fun v => (0, v))), false)
  else
    let r := composeOpen s p
    (r.1, r.2, !l.resend.isEmpty)

/-- Once its four markers have been sent, the spare carries the logical lane from the next codeword boundary (R134). -/
def spareCarries (x : FabPort) : FabPort :=
  match x.txSubst, x.stream.marks with
  | some u, some (_, 0) =>
    { x with txMap := x.txMap.set u.logical u.spare, txSpare := none, txSubst := none, stream := { x.stream with marks := none } }
  | _, _ => x

/-- A flit's codeword on the lanes, after four WAKE markers where they are due; REINIT flits come before those (R116,
R125). -/
def driveFabric (s : State) (p : Nat) (f : LFlit) (replay : Bool) : State :=
  let busy := somethingSent (port s p).link f
  let r := transmit s p f replay
  let cw := fcwEncode (fabFormat r.2)
  modPort r.1 p (fun x0 =>
    let x := spareCarries x0
    let wake : Bool := x.stream.wakeDue && f.ftype ≠ fpReinitFt
    { x with
      wire := some cw, lastTx := if busy then s.now else x.lastTx,
      stream := sendCodeword x.txProf s.now wake ((List.range 4).map (laneBits cw)) x.stream })

/-- The direction may carry data symbols: Active, and past its exit from Quiet or Dark. -/
def txOpen (s : State) (x : FabPort) : Bool :=
  x.txPower == .active && (match x.txChange with
    | some (d, t) => t + d ≤ s.now
    | none => true)

/-- NODE_DOWN for 1 us; then DOWN, for a partner that brings the port up again to reach the halt responder. -/
def sendDown (s : State) (p : Nat) : State :=
  if s.now < s.faults.haltAt + us 1 then driveFabric s p (plainFlit p (port s p).link fpNodeDown []) false
  else
    let s := modPort s p (fun x => { x with
      st := .down, bring := .off, linkUp := false, wire := none, link := { epoch := x.link.epoch }, subst := none, txSubst := none })
    if s.faults.halted then startBring s p else s

def fpSend (s : State) (p : Nat) : State :=
  match (port s p).st with
  | .down => s
  | .halted => sendDown s p
  | _ =>
    if s.boot.phase == .retHeld || !txOpen s (port s p) then s
    else
      let (s, f, replay) := composeFabric s p
      fpTryActive (driveFabric s p f replay) p

def execFpFlitSend (p : Nat) (s : State) : Host.Outcome State Fault Refusal :=
  if p < 4 then .next (fpSend s p) else .next s

/-! ## The spare lane (R134) -/

/-- X's side: any lane test on the spare ends, markers are owed. -/
def fpSubstReqRcvd (s : State) (p logical failed spare : Nat) : State :=
  if (port s p).st != .active then s
  else
    let s := endLaneTest s p spare
    modPort s p (fun x => { x with txSubst := some { logical := logical, failed := failed, spare := spare, since := s.now } })

def execFpSubstReqReceived (p logical failed spare : Nat) (s : State) : Host.Outcome State Fault Refusal :=
  if p < 4 ∧ logical < 4 ∧ failed < 5 ∧ spare < 5 then whenWired s (fun s => fpSubstReqRcvd s p logical failed spare)
  else .next s

/-- Four WAKE markers on the spare: they take the place of its next four data symbols; a direction that carries none sends
them with the pilots (R134). -/
def substMarkers (s : State) (p : Nat) : State :=
  let x := port s p
  match x.txSubst with
  | some u =>
    if x.stream.marks.isSome then s
    else if txOpen s x then putPort s p { x with stream := { x.stream with marks := some (u.spare, 4) } }
    else
      let t := passPilots s.now x.stream
      let m (k : Nat) : TxSym :=
        { t := (t.sym + k) % 1025, n := none, pos := t.pos, bits := [], mark := some u.spare, lag := t.lag }
      putPort s p (spareCarries { x with
        stream := { t with sym := (t.sym + 4) % 1025, marks := some (u.spare, 0), out := (List.range 4).map m } })
  | none => s

def execFpSubstMarkersSend (p : Nat) (s : State) : Host.Outcome State Fault Refusal :=
  if p < 4 then whenWired s (fun s => substMarkers s p) else .next s

/-- No marker on the spare within 10 us: DOWN. -/
def substTimeout (s : State) (p : Nat) : State :=
  match (port s p).subst with
  | some u => if expired s u.since (us 10) then fpFail s p else s
  | none => s

def execFpSubstTimeout (p : Nat) (s : State) : Host.Outcome State Fault Refusal :=
  if p < 4 then whenWired s (fun s => substTimeout s p) else .next s

/-! ## Receiving (R118, R120, R124, R125, R128) -/

/-- REINIT received while not sending it. -/
def fpReinitRcvd (s : State) (p : Nat) : State := if (port s p).link.reinitLeft ≠ 0 then s else fpReinit s p

def execFpReinitReceived (p : Nat) (s : State) : Host.Outcome State Fault Refusal :=
  if p < 4 then whenWired s (fun s => fpReinitRcvd s p) else .next s

def execFpNodeDownReceived (p : Nat) (s : State) : Host.Outcome State Fault Refusal :=
  if p < 4 then whenWired s (fun s => fpFail s p) else .next s

/-- Each corrected symbol is charged to the physical lane that carried it. -/
def chargeLanes (s : State) (p : Nat) (at_ : List Nat) : State :=
  occ (modPort s p (fun x => at_.foldl (fun x m =>
    let l := (x.laneMap[m % 4]?).getD 0
    putLane x l { lane x l with corrected := (lane x l).corrected + 1 }) x)) 0x084 5 p at_.length

def fpBadFlit (s : State) (p : Nat) : State :=
  let s := occ s 0x082 5 p 1
  modPort s p (fun x =>
    let l := { x.link with badRun := x.link.badRun + 1 }
    { x with crcBad := x.crcBad + 1, link := if x.st == .active then startNak l else l })

/-- A flit in order: its contents, or a protocol error.  A SUBST_REQ that names no lane is ignored: R134 says nothing of
one (DESIGN CHOICE, log 174). -/
def fpTakeFlit (s : State) (p : Nat) (f : LFlit) : State :=
  let s := modLink s p (fun l => tookSeq l f)
  match takeContents s p false f with
  | none => fpReinit s p
  | some s =>
    if f.ftype = fpSubstReq then
      let v := (slotAt f 0).toNat
      if field v 0 8 < 4 && field v 8 8 < 5 && field v 16 8 < 5 then
        fpSubstReqRcvd s p (field v 0 8) (field v 8 8) (field v 16 8)
      else s
    else s

/-- A good flit.  One whose fields break R120 re-initialises the link at once, also while a replay is awaited (DESIGN
CHOICE, log 173). -/
def fpGoodFlit (s : State) (p : Nat) (x : AFlit) : State :=
  let s := occ (modLink s p (fun l => { l with badRun := 0 })) 0x080 5 p 1
  if x.f.ftype = fpNodeDown then fpFail s p
  else if x.f.ftype = fpReinitFt then fpReinitRcvd s p
  else if (port s p).st == .init then
    (if x.f.ftype = fpInit then initReceived s p (slotAt x.f 0) (slotAt x.f 1) else s)
  else if x.err then fpReinit s p
  else if x.f.ftype = fpInit then s
  else
    let s := modLink s p (fun l => takeAck l x)
    match seqTurn p (port s p).link x.f with
    | .take => fpTakeFlit s p x.f
    | _ => modLink s p startNak

/-- A codeword of a port. -/
def fpReceive (s : State) (p : Nat) (cw : BitVec 3400) : State :=
  let x := port s p
  if s.boot.phase == .retHeld then
    (match (fcwDecode cw).bind (fun r => fabParse r.1) with
     | some f => recordSlots p s f.f.slots
     | none => s)
  else if (x.st == .init || x.st == .active) && x.rxPower == .active then
    match fcwDecode cw with
    | none => fpBadFlit s p
    | some (v, at_) =>
      let s := chargeLanes s p at_
      match fabParse v with
      | some f => fpGoodFlit s p f
      | none => fpBadFlit s p
  else s

def execFpFlitReceive (p : Nat) (cw : BitVec 3400) (s : State) : Host.Outcome State Fault Refusal :=
  if p < 4 then whenWired s (fun s => fpReceive s p cw) else .next s

/-- 16 consecutive bad flits. -/
def execFpBadFlitLimit (p : Nat) (s : State) : Host.Outcome State Fault Refusal :=
  if p < 4 then whenWired s (fun s => if 16 ≤ (port s p).link.badRun then fpFail s p else s)
  else .next s

def execFpNakRepeat (p : Nat) (s : State) : Host.Outcome State Fault Refusal :=
  if p < 4 then whenWired s (fun s => if (port s p).st == .active then repeatNak s p else s)
  else .next s

/-- 64 consecutive NAKs for one ACKSEQ. -/
def execFpNakLimit (p : Nat) (s : State) : Host.Outcome State Fault Refusal :=
  if p < 4 then whenWired s (fun s => if 64 ≤ (port s p).link.nakCount then fpReinit s p else s)
  else .next s

end Sys2Proof.Machine
end

