-- ==== Sys2Proof/Machine/Regulator.lean ====
section
/-! DEFINITION. The regulator's commands and what it observes at each tick (10 R303, R305, R310, R316). -/

namespace Sys2Proof.Machine

/-- REQ and DATA header credits an ingress advertises (02 R53, 04 R130). -/
def ingReqCredits (ing : Nat) : Nat := if ing = 4 then 1024 else 512
def ingDataCredits (ing : Nat) : Nat := if ing = 4 then 512 else 256

/-- The held headers occupy all REQ or all DATA header credits of an ingress (10 R303). -/
def ingSaturated (s : State) (ing : Nat) : Bool :=
  let h := s.tx.held.filter (fun w => w.ing = ing)
  ing < 5 && (ingReqCredits ing ≤ (h.filter (fun w => opClass (hOp w.msg.h0) = 0)).length ||
    ingDataCredits ing ≤ (h.filter (fun w => opClass (hOp w.msg.h0) = 3)).length)

/-- Saturation followed from tick to tick: a period begins when it is first seen and ends when it is not. -/
def satObserve (s : State) (ing : Nat) : State :=
  if ingSaturated s ing then
    match smGet none s.reg.satSince ing with
    | some _ => s
    | none => { s with reg := { s.reg with satSince := smSet none s.reg.satSince ing (some s.now) } }
  else { s with reg := { s.reg with
          satSince := smSet none s.reg.satSince ing none,
          satCounted := smSet false s.reg.satCounted ing false } }

/-- A request is held or released and not yet accepted, and its windows are STANDARD, or BULK. -/
def pendingStd (s : State) (n : Nat) : Bool :=
  (s.tx.held ++ s.tx.waiting).any (fun w => (masterOf s w).toNat = n && (chargeOf s w).own ≠ 0 && (chargeOf s w).std)
def pendingBulk (s : State) : Bool := (s.tx.held ++ s.tx.waiting).any (fun w => (chargeOf s w).bulk ≠ 0)

/-- What R316 looks at in each tick: a master without a STANDARD request waiting is not backlogged. -/
def backlogObserve (s : State) : State :=
  let st := s.reg.masters.foldl (fun st p =>
    if 0 < minEff s p.1 ∧ !pendingStd s p.1 then smMod {} st p.1 (fun m => { m with backlog := false }) else st) s.reg.st
  let b := if 0 < bulkMinEff s ∧ !pendingBulk s then { s.reg.bulkSt with backlog := false } else s.reg.bulkSt
  { s with reg := { s.reg with st := st, bulkSt := b } }

/-- The regulator's part of a tick. -/
def regTick (s : State) : State := backlogObserve ((List.range 5).foldl satObserve s)

/-- Release of the head of a master's queue at an ingress (R305, R306). -/
def execRegulatorRelease (ing : Nat) (master : Node) (s : State) : Host.Outcome State Fault Refusal :=
  whenLive s (fun s => releaseHead s ing master)

/-- The master with the most held headers at an ingress, the first of the largest. -/
def mostHeld (s : State) (ing : Nat) : Node :=
  let h := s.tx.held.filter (fun w => w.ing = ing)
  let cnt (n : Node) := (h.filter (fun w => masterOf s w == n)).length
  match argMin (fun n => h.length - cnt n) ((h.map (masterOf s)).eraseDups) with
  | some n => n
  | none => 0

/-- A limiter of its own: no earlier event, or `lim` ticks since. -/
def limitOk (s : State) (last : Option Nat) (lim : Nat) : Bool :=
  match last with
  | none => true
  | some t => waited s t lim

/-- An occurrence of HOLD_SATURATED: counted once; the event at most once per ingress per 1 ms. -/
def holdOccurrence (s : State) (ing : Nat) : State :=
  let s := { s with reg := { s.reg with
    satCounted := smSet false s.reg.satCounted ing true,
    holdSat := BitVec.ofNat 32 (satAdd 32 s.reg.holdSat.toNat 1) } }
  if limitOk s (smGet none s.reg.satLast ing) (ms 1) then
    let s := { s with reg := { s.reg with satLast := smSet none s.reg.satLast ing (some s.now) } }
    c0 s 8 0x0A03 ((mostHeld s ing).toNat + ing * 2 ^ 12) 0
  else s

/-- The 10 µs of R303 have passed without a break, and the occurrence is not yet counted. -/
def holdDue (s : State) (ing : Nat) : Bool :=
  ing < 5 && ingSaturated s ing && !smGet false s.reg.satCounted ing &&
    (match smGet none s.reg.satSince ing with
     | none => false
     | some t => waited s t (us 10))

/-- HOLD_SATURATED (R303). -/
def execHoldSaturated (ing : Nat) (s : State) : Host.Outcome State Fault Refusal :=
  whenLive s (fun s => if holdDue s ing then holdOccurrence s ing else s)

/-- One master judged at the end of a window (R316). -/
def judgeMaster (s : State) (n : Nat) (e : RegEntry) : State :=
  let target := rMin e * s.reg.scale / 4096 * 2500
  let m := regSt s n
  if 0 < target ∧ m.backlog ∧ m.acc < target - 64 then
    let ok := limitOk s m.lastC0 (ms 1)
    let s := { s with reg := { s.reg with missed := BitVec.ofNat 32 (satAdd 32 s.reg.missed.toNat 1) } }
    let s := putRegSt s n { m with missed := satAdd 32 m.missed 1, lastC0 := if ok then some s.now else m.lastC0 }
    let s := occ s 0x10B 7 0xF 1
    if ok then raiseC0At s s.reg.winStart .chip 0 8 0x0A01 (n + m.acc / 64 * 2 ^ 16 + target / 64 * 2 ^ 40) 0 else s
  else s

def judgeBulk (s : State) : State :=
  let target := bulkMinEff s * 2500
  let m := s.reg.bulkSt
  if 0 < target ∧ m.backlog ∧ m.acc < target - 64 then
    let ok := limitOk s m.lastC0 (ms 1)
    let s := { s with reg := { s.reg with
      missed := BitVec.ofNat 32 (satAdd 32 s.reg.missed.toNat 1),
      bulkSt := { m with missed := satAdd 32 m.missed 1, lastC0 := if ok then some s.now else m.lastC0 } } }
    let s := occ s 0x10B 7 0xF 1
    if ok then raiseC0At s s.reg.winStart .chip 0 8 0x0A01 (2 ^ 12 + m.acc / 64 * 2 ^ 16 + target / 64 * 2 ^ 40) 0 else s
  else s

/-- The next window begins with no bytes counted and every master taken as backlogged until a tick shows otherwise. -/
def nextWindow (s : State) : State :=
  let turn (m : RegMaster) : RegMaster := { m with accLast := m.acc, acc := 0, backlog := true }
  { s with reg := { s.reg with
      st := s.reg.st.foldl (fun st p => smMod {} st p.1 turn) s.reg.st,
      bulkSt := turn s.reg.bulkSt, winStart := s.reg.winStart + 10000 } }

/-- A regulation window of 10,000 ticks ends (R316). -/
def execRegulationWindowEnd (s : State) : Host.Outcome State Fault Refusal :=
  whenLive s (fun s =>
    if s.reg.winStart + 10000 ≤ s.now then
      nextWindow (judgeBulk (s.reg.masters.foldl (fun s p => judgeMaster s p.1 p.2) s))
    else s)

/-- 32nds of its bandwidth that a block keeps beside its refresh: 32 at ×1, 31 with a die at ×2, 29 at ×4 (R309). -/
def refreshShare (s : State) (pb : Nat) : Nat :=
  let k := blk s pb
  let fast (n : Nat) : Bool := (List.range 16).any (fun d => (bdieOf k d).refi ≤ n)
  if fast 976 then 29 else if fast 1953 then 31 else 32

/-- The Deliverable Floor of present conditions, which Larder firmware computes and writes, in units of 0.25 GB/s (R309,
R310). -/
def deliverableFloor (s : State) : Nat :=
  let lbs := (List.range 32).filter (fun lb => lb % 4 < nRegions s && !regionStopped s (lb % 4))
  let sum := lbs.foldl (fun n lb => n + 500 * refreshShare s (physBlock s lb) * (zone s (lb % 4)).t) 0
  let p := if s.pace.now = 0 then 0x1000 else min 0x1000 s.pace.now.toNat
  p * sum / (0x1000 * 32 * 16)

/-- A written DF, clamped to 500 for each logical block in service (R310). -/
def writeDf (s : State) (v : BitVec 16) : State :=
  let s := regAdvance s
  let cap := 500 * blocksServing s
  regRescale { s with reg := { s.reg with df := BitVec.ofNat 16 (min v.toNat cap), dfWritten := true } }

/-- Larder firmware writes the Deliverable Floor (R310, R312). -/
def execDfWrite (v : BitVec 16) (s : State) : Host.Outcome State Fault Refusal :=
  whenLive s (fun s => if s.boot.larder == .running then writeDf s v else s)

end Sys2Proof.Machine
end

