-- ==== Sys2Proof/Machine/Reset.lean ====
section
/-! DEFINITION. The retaining reset (16 R450 to R452): t0, the write-back, te, and the release; the reset responder's
answers. -/

namespace Sys2Proof.Machine

/-! ## t0 (R450) -/

/-- Descriptors and management requests that wait for a context are answered RETRY. -/
def retryDescriptors (s : State) : State :=
  let ext := s.tx.mgWait ++ s.trowel.extWait
  ext.foldl (fun s w => answerIng s w.1 w.2 stRetry)
    { s with tx := { s.tx with mgWait := [] }, trowel := { s.trowel with extWait := [], intWait := [] } }

/-- Commits still running end with no effect; their scans are dropped. -/
def dropCommits (s : State) : State :=
  { s with
    fab := { s.fab with committing := false }, acc := { s.acc with commit := none },
    mg := { s.mg with routeCommit := none },
    trowel := { s.trowel with scans := s.trowel.scans.filter isOpScan } }

/-- Every Hatch command not complete is answered ABORTED; an image session and an open load close. -/
def abortCommands (s : State) : State :=
  let s := fuseAbort s
  let s := match s.img.eeJob with
    | some j => imgStop s j.hatch 10
    | none => s
  let s := { (dropCommits s) with
    img := { (dropCommits s).img with session := none },
    faults := { s.faults with resets := [] },
    boot := { s.boot with staged := if s.boot.staged == .open_ then .none else s.boot.staged } }
  (List.range 16).foldl (fun s h => abortHatch s h 0) s

/-- RET_RST_N falls on a released stack. -/
def retainT0 (s : State) : State :=
  let s := { s with boot := { s.boot with
    phase := .retaining, retRose := false, lastReset := 2, retCount := BitVec.ofNat 16 (satAdd 16 s.boot.retCount.toNat 1) } }
  let s := (List.range 4).foldl abortLaneTests s
  let s := endWork (abortCommands (retryDescriptors (retryWaiting s))) true
  settle (twResetT0 ((List.range 36).foldl abandonIn s))

/-- The pin falls; outside normal service only its level is kept. -/
def retainingReset (s : State) : State :=
  let s := { s with boot := { s.boot with retRstN := false, retLowAt := s.now } }
  if s.boot.phase == .released then retainT0 s else s

def execRetainingReset (s : State) : Host.Outcome State Fault Refusal := whenLive s retainingReset

/-! ## t0 + 20 µs -/

/-- Snoops are resolved without answer, awaited write-backs with them. -/
def resolveAllSnoops (s : State) : State :=
  let s := (s.tx.snoops.filter (fun n => !n.answered)).foldl resolveSnoop s
  (s.tx.snoops.filter (fun n => n.answered && n.wbp ≠ 0)).foldl (fun s n =>
    resolveLines (modSnoop s n (fun x => { x with wbp := 0 })) n (bitsSet n.wbp)) s

/-- Dirty Undercoat lines are written back as each block drains and enters self-refresh. -/
def retainWriteback (s : State) : State :=
  if s.boot.phase != .retaining || !waited s s.boot.retLowAt (us 20) then s
  else
    let s := settle (resolveAllSnoops s)
    (List.range 36).foldl (fun s b =>
      if (blk s b).st == .stopped then sleepBlock s b
      else drainComplete (modBlk s b (fun k => if activeBlock k then { k with st := .leaving } else k)) b) s

def execRetainingResetWriteback (s : State) : Host.Outcome State Fault Refusal := whenLive s retainWriteback

/-! ## The base die in reset (R450, R451) -/

/-- Nothing active is left: blocks out of service, poisoned writes of running regions performed, final responses placed
and acknowledged or 130 µs gone by. -/
def teReady (s : State) : Bool :=
  s.boot.phase == .retaining && (List.range 36).all (fun b => !activeBlock (blk s b) && (blk s b).st != .stopped) &&
    (List.range 4).all (fun r => regionStopped s r || (ucReg s r).poison.isEmpty) &&
    (waited s s.boot.retLowAt (us 130) ||
      (List.range 5).all (fun p => (linkOf s p).unacked.isEmpty && !(linkOf s p).outQ.any (fun m => m.final && !keptBack s m) &&
        (linkOf s p).txData.isEmpty))

/-- A link in reset: its epoch and the BULK_CMPs that wait. -/
def resetLink (s : State) (l : Link) : Link :=
  { epoch := l.epoch, outQ := (l.outQ.filter (keptBack s)).map (fun m => { m with ing := none }), reinits := l.reinits }

/-- Ports: the Wide Port as in Idle-clocked, fabric transmitters Dark; allotments whole. -/
def resetPorts (s : State) : State :=
  let s := { s with wp := { s.wp with
    link := resetLink s s.wp.link, idleIn := true, idleOut := true, wakeAt := none, parkAsked := false,
    allot := s.wp.allotNext.getD s.wp.allot, allotFree := s.wp.allotNext.getD s.wp.allot, allotNext := none, allotQ := [],
    subst := [], substOut := [], charges := [], badKept := [] } }
  (List.range 4).foldl (fun s p => modPort s p (fun x =>
    let y := { x with
      link := resetLink s x.link, allot := x.allotNext.getD x.allot, allotFree := x.allotNext.getD x.allot,
      allotNext := none, allotQ := [], subst := none, txSubst := none }
    if x.bring != .off && x.txPower != .dark then goDark s y else y)) s

/-- Queues of the blocks; a stopped block keeps the writes that wait for its region reset (07 R241). -/
def resetBlocks (s : State) : State :=
  (List.range 36).foldl (fun s b => modBlk s b (fun k =>
    { k with rq := [], wq := if waitsReset s b then k.wq else [], rowOps := [], wrEcho := [], wmode := false, drain := false })) s

/-- Cache tags cleared; directory and shadow kept; a sweep starts over (06 R212). -/
def resetUc (s : State) : State :=
  let s := { s with uc := { s.uc with
    reset := .none, frames := [],
    tags := s.uc.tags.foldl (fun m p =>
      smSet (tagInit (p.1 % 16)) m p.1 { p.2 with valid := 0, dirty := 0, busy := false, hdr := none }) s.uc.tags } }
  (List.range 4).foldl (fun s r =>
    let u := ucReg s r
    let m := migr s r
    -- operations of the Trowel end at the reset; a migration keeps its pointer, and asks for its ring anew
    putMigr (ucRegPut s r { u with
      rings := [], ringWait := if m.st == .copy && ucOn s r then [.migration] else [], testUnits := [], walk := 0, known := [],
      sweep := u.sweep.map (fun _ => 0) }) r { m with ring := false }) s

/-- Histories and levels of the thermal unit start over; replaced positions and bond wear stay. -/
def resetHeat (s : State) : State :=
  { s with heat := { s.heat with
      zones := [], lastSample := [], coolSince := none,
      pos := s.heat.pos.foldl (fun m p => smSet {} m p.1 { p.2 with
        suspectNow := false, suspectRun := 0, badRun := 0, hist := [], warned := false }) s.heat.pos } }

/-- Contexts of operations whose answer is kept. -/
def resetTx (s : State) : State :=
  { s with
    tx := { s.tx with
      ctxs := s.tx.ctxs.filter (fun c => s.trowel.ops.any (fun o => o.ctx = c.idx) ||
        (List.range 5).any (fun p => (linkOf s p).outQ.any (fun m => m.ctx = some c.idx))),
      held := [], waiting := [], chain := [], snoops := [], resWait := [], lateWb := [] },
    trowel := { s.trowel with steps := [], scans := [], credits := [] } }

/-- What restarts with the base die. -/
def resetDie (s : State) : State :=
  let s := resetHeat (resetUc (resetBlocks (resetTx (resetPorts s))))
  let s := twResetTe (perfReset (evtReset (hatchClear (shadowsInForce s))))
  { s with
    spdm := {}, store := { s.store with scrub := { lastAuto := s.store.scrub.lastAuto } },
    test := { s.test with condSince := none }, cal := { s.cal with walks := [] },
    pace := { s.pace with now := 0, min := 0xFFFF, minSource := 0, outOfRange := false, armed := true, lowRun := 0, okRun := 0 },
    boot := { s.boot with phase := .retHeld } }

/-- Larder stops with the base die; its halves stay. -/
def resetLarder (s : State) : State :=
  if s.boot.larder == .running then floorOwn { s with boot := { s.boot with larder := .restarting } } else s

/-! ## The release (R452) -/

/-- The reset responder's answers come before any other final response. -/
def answerRecorded (s : State) : State :=
  let rs := s.boot.responder
  let kept := (List.range 5).map (fun p => (p, (linkOf s p).outQ))
  let s := { s with boot := { s.boot with responder := [] } }
  let s := kept.foldl (fun s k => modLink s k.1 (fun l => { l with outQ := [] })) s
  let s := rs.foldl (fun s r => (sendTo s r.src (outMsg (statusMsg s r.op r.src r.tag 0 stRetry 0) 0 [] none true false)).1) s
  kept.foldl (fun s k => modLink s k.1 (fun l => { l with outQ := l.outQ ++ k.2 })) s

/-- Ports re-initialise: 64 REINIT flits and the next epoch, without a fault; a port that was down is brought up anew. -/
def releaseLinks (s : State) : State :=
  let s := if s.wp.st == .init || s.wp.st == .active || s.wp.st == .parked then
      modWp s (fun _ => { wideInit s 64 with st := .init, wakeAt := some s.now }) else s
  (List.range 4).foldl (fun s p =>
    let x := port s p
    if x.st == .init || x.st == .active then
      let y := { fromDark s { x with txChange := none } with
        st := FpState.init, seen := false, partnerSeen := false, sentSeen := false,
        link := { freshLink s x.link with reinitLeft := 64 } }
      putPort s p { y with stream := { y.stream with wakeDue := true } }
    else if x.st == .down then startBring s p else s) s

/-- Blocks return, unless a thermal stop holds them; every block's epoch advances. -/
def returnBlocks (s : State) : State :=
  (List.range 36).foldl (fun s b =>
    if (blk s b).st == .selfRefresh && s.heat.stop == .running && !waitsReset s b then startReturn s b else bumpBlock s b) s

/-- t1. -/
def retainRelease (s : State) : State :=
  let s := { s with boot := { s.boot with phase := .released, retRose := false } }
  let s := (List.range (nRegions s)).foldl (fun s r => retryOldRegion (bumpRegion s r) r) s
  let s := returnBlocks (answerRecorded (releaseLinks s))
  let s := if s.heat.stop == .running then resumePrimer s else s
  let s := regFill (regRescale { s with reg := { s.reg with st := [], upTo := s.now, winStart := s.now } })
  settle (if s.boot.larder == .restarting then larderRestart s else s)

/-- te; with the pin high already, the release follows at once. -/
def retainTe (s : State) : State :=
  if teReady s then
    let s := resetLarder (resetDie s)
    if s.boot.retRose then retainRelease s else s
  else s

def execRetainingResetTe (s : State) : Host.Outcome State Fault Refusal := whenLive s retainTe

/-- RET_RST_N rises. -/
def retainRise (s : State) : State :=
  let s := { s with boot := { s.boot with retRstN := true } }
  if s.boot.phase == .retHeld then retainRelease s
  else if s.boot.phase == .retaining then { s with boot := { s.boot with retRose := true } }
  else s

def execRetainingResetRelease (s : State) : Host.Outcome State Fault Refusal := whenLive s retainRise

end Sys2Proof.Machine
end

