-- ==== Sys2Proof/Machine/SelfTest.lean ====
section
/-! DEFINITION. Self-test runs: TEST_START and TEST_RESULT, shadow units, copy-in, march, restore, conditions and the
deferral limit (18 R484 to R497; 21 R532). -/

namespace Sys2Proof.Machine

/-! ## TEST_START, TEST_RESULT (R484, R485; 17 R469) -/

/-- The bank or block is the source or the target of its region's running migration. -/
def migrNames (s : State) (pb bank : Nat) : Bool :=
  let m := migr s (pb / 9)
  m.st != .idle && (match m.queue.head? with
    | some (.bank b k) => b = pb && (k = bank || m.target = bank)
    | some (.block b) => b = pb || m.target = pb
    | none => false)

/-- A run is open on the same block (KIND 1) or the same bank (KIND 2). -/
def sameObject (kind pb bank : Nat) (t : TestRun) : Bool :=
  runOpen t && t.kind = kind && t.pblock = pb && (kind = 1 || t.bank = bank)

def testUnsupported (s : State) (kind pb : Nat) : Bool := kind = 2 && !ucOn s (pb / 9)

def testDenied (s : State) (kind pb bank : Nat) : Bool :=
  if kind = 1 then (srBlk s pb).st != .retired
  else (srBlk s pb).st == .retired || isRetiredBank s pb bank || nRegions s ≤ pb / 9 || regionStopped s (pb / 9)

def testBusy (s : State) (kind pb bank : Nat) : Bool :=
  s.test.runs.any (sameObject kind pb bank) || (kind = 2 && migrNames s pb bank) || 16 ≤ (s.test.runs.filter runOpen).length

def testStart (s : State) (h : Nat) : State :=
  let kind := pl s h 0 1
  let pb := pl s h 1 1
  let bank := pl s h 2 1
  let first := pl s h 3 1
  let count := pl s h 4 1
  withFields s h [(0, 5)]
    [(0, kind ≠ 1 && kind ≠ 2), (1, 35 < pb), (2, if kind = 1 then bank ≠ 0 else 67 < bank),
     (3, if kind = 1 then first ≠ 0 else 63 < first),
     (4, if kind = 1 then count ≠ 0 else count = 0 || 64 < first + count)] (fun s =>
    if testUnsupported s kind pb then ans s h 4
    else if testDenied s kind pb bank then ans s h 3
    else if testBusy s kind pb bank then ans s h 1
    else ansOk (openRun s kind pb bank first count) h (leBytes s.test.nextId 4))

def execTestStart (h : Nat) (s : State) : Host.Outcome State Fault Refusal :=
  hatchRun h 0x0609 0x0609 s (fun s => testStart s h)

/-- The record TEST_RESULT returns; an open run reports its time and signature so far. -/
def runRecord (s : State) (t : TestRun) : List (BitVec 8) :=
  leBytes (resultCode t.result) 4 ++ leBytes t.coverage 4 ++
    leBytes (if runOpen t then (s.now - t.startAt) / 1000 else t.durUs) 8 ++ leBytes t.sigM.toNat 8 ++
    leBytes t.steps 8 ++ leBytes t.expected 8

/-- The record held under a TEST_ID; 0 is the start-up BIST. -/
def runHeld (s : State) (id : Nat) : Option TestRun := if id = 0 then s.test.startup else runGet s id

def testResult (s : State) (h : Nat) : State :=
  withFields s h [(0, 4)] [] (fun s =>
    match runHeld s (pl s h 0 4) with
    | some t => ansOk s h (runRecord s t)
    | none => ansBad s h 0)

def execTestResult (h : Nat) (s : State) : Host.Outcome State Fault Refusal :=
  hatchRun h 0x060A 0x060A s (fun s => testResult s h)

/-! ## Conditions (R494) -/

/-- The conditions have held for 10 ms: deferred runs start or resume. -/
def execTestConditionsHeld (s : State) : Host.Outcome State Fault Refusal :=
  whenLive s (fun s => if condsHeld s then resumeRuns s else s)

/-- A run deferred for longer than DEFER_LIMIT in total ends INCOMPLETE. -/
def deferLimit (s : State) (id : Nat) : State :=
  match runGet s id with
  | some t =>
    (match t.deferSince with
     | some d => if runOpen t && s.test.deferLimit.toNat * ms 1000 < t.deferTotal + (s.now - d) then endRun s id .incomplete
                 else s
     | none => s)
  | none => s

def execTestDeferLimit (id : Nat) (s : State) : Host.Outcome State Fault Refusal :=
  whenLive s (fun s => deferLimit s id)

/-! ## Units and copy-in (R489, R492; 06 R203) -/

/-- A spare bank that holds no data, or a bank of a block that holds none. -/
def holdsNoData (s : State) (pb bank : Nat) : Bool :=
  (logicalOf s pb).isNone || (64 ≤ bank && !(srBlk s pb).banksUsed.getLsbD (bank - 64))

def underTest (t : TestRun) : Bool := t.kind = 2 && (t.phase == .copyIn || t.phase == .march || t.phase == .restore)

/-- A unit of the region that no test holds. -/
def unitFor (s : State) (r : Nat) : Nat :=
  ((List.range 16).find? (fun i => !s.test.runs.any (fun t => runOpen t && t.pblock / 9 = r && t.unit = some i))).getD 0

/-- The subarray's steps begin: checkpoint of M and STEPS. -/
def beginSub (now : Nat) (phase : TPhase) (unit : Option Nat) (t : TestRun) : TestRun :=
  { t with phase := phase, unit := unit, saStep := 0, ckM := t.sigM, ckSteps := t.steps, stepAt := now }

/-- The run first in order of TEST_START takes a unit, staging first; a bank without data is marched directly. -/
def unitGrant (s : State) (r : Nat) : State :=
  let u := ucReg s r
  match s.test.runs.find? (fun t => t.kind = 2 && t.pblock / 9 = r && t.phase == .waitUnit && t.result == .running) with
  | none => s
  | some t =>
    if !inService s || regionStopped s r || (blk s t.pblock).st != .serving ||
        s.test.istMax.toNat ≤ (s.test.runs.filter (fun t => underTest t && t.pblock / 9 = r)).length then s
    else if holdsNoData s t.pblock t.bank then modRun s t.id (beginSub s.now .march none)
    else if ucUsable s r && u.ringWait.isEmpty && unitsUsed u < u.units then
      modRun (ucRegPut s r { u with testUnits := u.testUnits ++ [t.id] }) t.id (beginSub s.now .copyIn (some (unitFor s r)))
    else s

def execTestUnitGrant (region : Nat) (s : State) : Host.Outcome State Fault Refusal :=
  if region < 4 then whenLive s (fun s => unitGrant s region) else .next s

/-- One line of the subarray into its unit, corrected; an uncorrectable one is poisoned, C2 0x0904 (09 R280). -/
def copyInLine (t : TestRun) (unit row : Nat) (s : State) (n : Nat) : State :=
  match decodeLine (dramCw s t.pblock t.bank row n) with
  | .good d p h _ fixed =>
    copyFixed (shadowPut s (t.pblock / 9) unit (row % 1024) n (encodeLine d p h)) (t.pblock, t.bank) row n
      { d := d, p := p, h := h } fixed
  | .bad =>
    let s := dramPut s t.pblock t.bank row n (valCw poisonZeros)
    let s := match (List.range 64).find? (fun b => physBank s t.pblock b = t.bank) with
      | some b => ptabMark s t.pblock (lineKey b row n) true
      | none => s
    let s := cellFault (occ s 0x029 (t.pblock / 9) (t.pblock % 9) 1) .c2 t.pblock t.bank 0x0904
      (placeDpa s t.pblock t.bank row n)
    judge (shadowPut s (t.pblock / 9) unit (row % 1024) n (valCw poisonZeros)) t.pblock t.bank row n [] [] true

/-- Copy-in is complete and the hand-in redirects the subarray to its unit. -/
def copyIn (s : State) (id : Nat) : State :=
  match runGet s id with
  | some t =>
    (match t.phase, t.unit with
     | .copyIn, some u =>
       if !mayRun s t.pblock 10 32768 t.stepAt then s
       else
       let s := runLines s t.pblock 32768
       let s := (List.range 1024).foldl (fun s q =>
         (List.range 32).foldl (copyInLine t u (t.cur * 1024 + q)) s) s
       settle (modRun s id (fun t => { t with phase := .march, stepAt := s.now }))
     | _, _ => s)
  | none => s

def execTestCopyInComplete (id : Nat) (s : State) : Host.Outcome State Fault Refusal :=
  whenLive s (fun s => copyIn s id)

/-! ## The march (R486, R487, R491) -/

/-- Step n of a march over some rows: its row, whether it writes, and the background. -/
def marchStep (rows n : Nat) : Nat × Bool × Bool :=
  let up (b : Nat) : Nat := (n - b * rows) / 2
  let odd (b : Nat) : Bool := (n - b * rows) % 2 = 1
  if n < rows then (n, true, false)
  else if n < 3 * rows then (up 1, odd 1, odd 1)
  else if n < 5 * rows then (up 3, odd 3, !odd 3)
  else if n < 7 * rows then (rows - 1 - up 5, odd 5, odd 5)
  else if n < 9 * rows then (rows - 1 - up 7, odd 7, !odd 7)
  else (n - 9 * rows, false, false)

/-- A background's line: 0x55 in every byte where row and line sum to an even number, else 0xAA; the complement. -/
def backLine (bg : Bool) (row n : Nat) : Codeword :=
  let v := if decide ((row + n) % 2 = 0) == bg then 0xAA else 0x55
  encodeLine (BitVec.ofNat 512 (leNat (List.replicate 64 (BitVec.ofNat 8 v)))) false false

def writeRow (s : State) (pb bank row : Nat) (bg : Bool) : State :=
  (List.range 32).foldl (fun s n => dramPut s pb bank row n (backLine bg row n)) s

/-- The step word of a row step. -/
def stepWord (bad : List Nat) (failed : Bool) : Nat :=
  min bad.length 0xFFFF + (if bad.isEmpty then 0 else minNat 18431 bad) * 2 ^ 16 + b2n failed * 2 ^ 31

/-- The symbols of one line in a list of mismatching bits. -/
def badSyms (bad : List Nat) (n : Nat) : List (Nat × BitVec 8) :=
  (bad.filter (fun b => b / 576 = n)).foldl (fun l b => mergeSyms l [(b % 576 / 8, BitVec.ofNat 8 (2 ^ (b % 8)))]) []

/-- A location that mismatched once is recorded, with the C0 event of 09 R279. -/
def onceBad (s : State) (pb bank row n : Nat) (syms : List (Nat × BitVec 8)) : State :=
  let s := addHist s pb bank row n syms false
  let due : Bool := match (blk s pb).lastC0 with
    | none => true
    | some t => waited s t (ms 1000)
  if due then raiseC0 (modBlk s pb (fun k => { k with lastC0 := some s.now })) .cell (pb / 9) (68 * pb + bank) 0x0901
    (placeDpa s pb bank row n) 0
  else s

/-- A location that mismatched in two read steps is permanent and charged; a charge may retire its bank. -/
def twiceBad (s : State) (t : TestRun) (row n : Nat) (syms : List (Nat × BitVec 8)) : State :=
  let s := chargeError (addHist s t.pblock t.bank row n syms true) t.pblock t.bank row n syms
  if (srBlk s t.pblock).bankCharged.any (fun p => p.1 = t.bank) || isQueued s (.block t.pblock) then
    modRun s t.id (fun t => { t with charged := true })
  else s

/-- One location of a read step that mismatches; the run holds each location once per read step, up to two. -/
def noteBad (s : State) (t : TestRun) (row : Nat) (bad : List Nat) (n : Nat) : State :=
  let syms := badSyms bad n
  let seen := (t.mism.filter (fun p => p = (row, n))).length
  let s := if seen < 2 then modRun s t.id (fun t => { t with mism := t.mism ++ [(row, n)] }) else s
  if seen = 0 then onceBad s t.pblock t.bank row n syms
  else if seen = 1 then twiceBad s t row n syms
  else addHist s t.pblock t.bank row n syms true

/-- RESULT at the last step (R488). -/
def lastResult (t : TestRun) : TResult :=
  if t.steps = t.expected ∧ sigStep t.sigM t.steps = golden t.expected then .pass else .fail

/-- A subarray is done: COVERAGE rises, and the run goes on, or ends; FAIL after a charge that retires its bank. -/
def subDone (s : State) (id : Nat) : State :=
  let s := modRun s id (fun t => { t with coverage := t.coverage + 1, saStep := 0, phase := .waitUnit, unit := none })
  match runGet s id with
  | some t => if t.charged then endRun s id .fail else if t.coverage = t.countSa then endRun s id (lastResult t) else s
  | none => s

/-- One march step of a subarray: in the DRAM rows, whose accesses its unit serves. -/
def bankStep (s : State) (t : TestRun) (bad : List Nat) (failed : Bool) : State :=
  let m := marchStep 1024 t.saStep
  let row := t.cur * 1024 + m.1
  let s := if m.2.1 then writeRow s t.pblock t.bank row m.2.2
    else ((bad.map (fun b => b / 576)).eraseDups).foldl (fun s n => noteBad s t row bad n) s
  let s := modRun s t.id (fun t => { t with
    sigM := sigStep t.sigM (stepWord (if m.2.1 then [] else bad) failed), steps := t.steps + 1, saStep := t.saStep + 1,
    stepAt := s.now })
  if t.saStep + 1 < 10240 then s
  else if t.unit.isSome then modRun s t.id (fun t => { t with phase := .restore })
  else
    -- a bank without data is left holding zeros (R492)
    subDone ((List.range 1024).foldl (fun s q =>
      (List.range 32).foldl (fun s n => dramPut s t.pblock t.bank (t.cur * 1024 + q) n (encodeLine 0 false false)) s) s) t.id

/-- Logic-pattern and TSV-loop steps of a block BIST, before its march. -/
def logicSteps : Nat := 65536
def loopSteps : Nat := 5120

/-- One step of a block BIST (R493): a mismatch in the logic patterns ends it; the march takes the banks in turn. -/
def bistStep (s : State) (t : TestRun) (bad : List Nat) (failed : Bool) : State :=
  let n := t.steps
  let k := n - (logicSteps + loopSteps)
  let m := marchStep 65536 (k % 655360)
  let march := decide (logicSteps + loopSteps ≤ n)
  let s := if march && m.2.1 then writeRow s t.pblock (k / 655360) m.1 m.2.2
    else if march then
      ((bad.map (fun b => b / 576)).eraseDups).foldl (fun s n =>
        addHist s t.pblock (k / 655360) m.1 n (badSyms bad n) false) s
    else s
  let w := if march then stepWord (if m.2.1 then [] else bad) failed else min bad.length 0xFFFF
  let s := modRun s t.id (fun t => { t with sigM := sigStep t.sigM w, steps := n + 1, stepAt := s.now })
  if n < logicSteps && !bad.isEmpty then endRun s t.id .fail
  else if n + 1 < t.expected then s
  else match runGet s t.id with
    | some t' => endRun (modRun s t.id (fun t => { t with coverage := 1 })) t.id (lastResult t')
    | none => s

def testStep (s : State) (id : Nat) (bad : List Nat) (failed : Bool) : State :=
  match runGet s id with
  | some t =>
    if t.result != .running || t.endWith.isSome then s
    else if t.phase == .march then
      (if mayRun s t.pblock 10 32 t.stepAt then settle (bankStep (runLines s t.pblock 32) t bad failed) else s)
    else if t.phase == .bist then settle (bistStep s t bad failed)
    else s
  | none => s

def execTestMarchStep (id : Nat) (bad : List Nat) (cmdFailed : Bool) (s : State) : Host.Outcome State Fault Refusal :=
  if bad.all (fun b => b < 18432) then whenLive s (fun s => testStep s id bad.eraseDups cmdFailed)
  else .next s

/-! ## Restore and hand-out (R489, R494, R495) -/

/-- The subarray's rows written back from its unit. -/
def restoreRows (s : State) (t : TestRun) (u : Nat) : State :=
  (List.range 1024).foldl (fun s q =>
    (List.range 32).foldl (fun s n =>
      dramPut s t.pblock t.bank (t.cur * 1024 + q) n (shadowCw s (t.pblock / 9) u q n)) s) s

/-- Repairs the run charged in the present subarray are still to be made. -/
def repairsOwed (s : State) (t : TestRun) : Bool :=
  (srBlk s t.pblock).rowDue.any (fun p => p.1 = t.bank && p.2 / 1024 = t.cur) ||
    (srBlk s t.pblock).colDue.any (fun p => p.1 = t.bank && p.2.1 = t.cur)

/-- After the hand-out: the next subarray, or what an interruption asked for. -/
def handOut (s : State) (t : TestRun) : State :=
  let s := freeTestUnit s (t.pblock / 9) t.id
  match t.endWith with
  | none => subDone s t.id
  | some .deferred => modRun s t.id (deferRun s.now)
  | some r =>
    endRun (modRun s t.id (fun t => { t with coverage := if t.saStep = 10240 then t.coverage + 1 else t.coverage })) t.id r

/-- The restore completes; in a stopped region only within its reset. -/
def restoreDone (s : State) (id : Nat) : State :=
  match runGet s id with
  | some t =>
    (match t.unit with
     | some u =>
       -- a forced restore runs at rank 8, another at rank 10 (R495)
       if (t.phase == .march && t.endWith.isSome || t.phase == .restore) && (t.endWith.isSome || !repairsOwed s t) &&
           mayRun s t.pblock (if t.forced then 8 else 10) 32768 t.stepAt &&
           (!regionStopped s (t.pblock / 9) || resetting s (t.pblock / 9)) && (blk s t.pblock).st != .selfRefresh &&
           (blk s t.pblock).st != .stopped then
         settle (handOut (restoreRows (runLines s t.pblock 32768) t u) t)
       else s
     | none => s)
  | none => s

def execTestRestoreComplete (id : Nat) (s : State) : Host.Outcome State Fault Refusal :=
  whenLive s (fun s => restoreDone s id)

end Sys2Proof.Machine
end

