-- ==== Sys2Proof/Machine/Status.lean ====
section
/-! DEFINITION. Commands of groups 0x03 and 0x06: scrub, retirement, resets of a region and of the Undercoat, fault log,
and the status records (17 R468, R469; 02 R71; 06 R214; 07 R244; 08 R272, R273; 09 R287, R288, R293, R295; 10 R317;
12 R343, R355, R356). -/

namespace Sys2Proof.Machine

/-! ## Scrub (09 R293, R295) -/

def scrubStart (s : State) (h : Nat) : State :=
  let start := pl s h 0 8
  let count := pl s h 8 8
  let rate := pl s h 16 1
  let sp := pl s h 17 1
  withFields s h [(0, 18)]
    [(0, start % 64 ≠ 0 || 2 ^ 38 ≤ start), (8, count = 0 || 2 ^ 32 < count || capacity s < start + 64 * count),
     (16, rate = 0), (17, 1 < sp)] (fun s =>
    if s.store.scrub.running then ans s h 1 else ansOk (scrubBegin s start count rate (sp = 1)) h [])

def execScrubStart (h : Nat) (s : State) : Host.Outcome State Fault Refusal :=
  hatchRun h 0x0301 0x0301 s (fun s => scrubStart s h)

def allOnes : Nat := 2 ^ 64 - 1

/-- NEXT of the summary: a free value while the pass reads spare lines, which have no DPA. -/
def scrubNextDpa (s : State) : Nat × State :=
  let sc := s.store.scrub
  if !sc.running then (allOnes, s)
  else if sc.pos < sc.count then (sc.start + 64 * sc.pos, s)
  else
    let (n, s) := takeFree s
    ((freeBits 64 n).toNat, s)

def scrubRecord (s : State) (next : Nat) : List (BitVec 8) :=
  let sc := s.store.scrub
  let hold (n : Nat) : Nat := min n allOnes
  leBytes (hold sc.linesRead) 8 ++ leBytes (hold sc.corr1) 8 ++ leBytes (hold sc.corr2) 8 ++ leBytes (hold sc.corr3) 8 ++
    leBytes (hold sc.uncorr) 8 ++ leBytes (if sc.running then (s.now - sc.t0) / 1000 else sc.elapsed) 8 ++
    leBytes (b2n sc.complete + 2 * b2n sc.running) 4 ++ leBytes (min sc.spareErrs 0xFFFFFFFF) 4 ++ leBytes next 8 ++
    (List.range 64).flatMap (fun i => leBytes ((sc.uncorrAddr[i]?).getD allOnes) 8)

def scrubStatus (s : State) (h : Nat) : State :=
  let (n, s) := scrubNextDpa s
  ansOk s h (scrubRecord s n)

def execScrubStatus (h : Nat) (s : State) : Host.Outcome State Fault Refusal :=
  hatchRun h 0x0302 0x0302 s (fun s => scrubStatus s h)

/-! ## RETIRE, STOREROOM (09 R287, R288) -/

/-- Migrations ahead of an element in its region. -/
def queuePlace (s : State) (u : RetUnit) : Nat :=
  ((migr s (unitBlock u / 9)).queue.findIdx? (fun x => x = u)).getD 0

/-- A spare remains for the element. -/
def spareLeft (s : State) : RetUnit → Bool
  | .bank pb _ => !(freeBanks s pb).isEmpty
  | .block pb => (freeBlock s (pb / 9)).isSome

def retireUnit (s : State) (h : Nat) (u : RetUnit) : State :=
  if isQueued s u then ansOk s h (leBytes (queuePlace s u) 1)
  else if !spareLeft s u then ans s h 9
  else
    let s := enqueueUnit s u
    ansOk s h (leBytes (queuePlace s u) 1)

def retire (s : State) (h : Nat) : State :=
  let kind := pl s h 0 1
  let pb := pl s h 1 1
  let bank := pl s h 2 1
  withFields s h [(0, 3)]
    [(0, kind ≠ 1 && kind ≠ 2), (1, 35 < pb || (logicalOf s pb).isNone),
     (2, if kind = 1 then 63 < bank || isRetiredBank s pb bank else bank ≠ 0)]
    (fun s => retireUnit s h (if kind = 1 then .bank pb bank else .block pb))

def execRetire (h : Nat) (s : State) : Host.Outcome State Fault Refusal :=
  hatchRun h 0x0303 0x0303 s (fun s => retire s h)

def execStoreroom (h : Nat) (s : State) : Host.Outcome State Fault Refusal :=
  hatchRun h 0x0304 0x0304 s (fun s => ansOk s h (storeRecord s))

/-! ## Region reset (12 R355, R356; 07 R241; 21 R526, R535) -/

/-- No block serves a logical block: its physical block has been retired. -/
def noBlock (s : State) (lb : Nat) : Bool :=
  (srBlk s (physBlock s lb)).st == .retired || (blk s (physBlock s lb)).st == .retired

/-- One held write entry is performed, its base read first; an unreadable base is 07 R225's. -/
def settleEnt (pb : Nat) (s : State) (e : WEnt) : State :=
  let lb := (logicalOf s pb).getD 0
  match (blk s pb).wq.find? (fun x => sameEnt x e) with
  | none => s
  | some e =>
    if noBlock s lb then wqRemove (addLost s lb e.key) pb e
    else
      let s := if wholeLine e || e.st == .ready then s
        else if poisonAny s lb e.key || lostPending s lb e.key then applyBase s pb e (some poisonZeros)
        else match storedVal s lb e.key with
          | some v => applyBase s pb e (some v)
          | none => lineLost s pb e.key (.base e)
      match (blk s pb).wq.find? (fun x => sameEnt x e) with
      | some e => performEnt s pb e
      | none => s

/-- A block's entries at the region reset: those in WAIT_DATA are abandoned, the others performed in order. -/
def settleBlock (s : State) (pb : Nat) : State :=
  let s := abandonIn s pb
  let s := modBlk s pb (fun k => { k with wq := k.wq.filter (fun e => e.st != .waitData), wrEcho := [] })
  (sortOrd (blk s pb).wq).foldl (settleEnt pb) s

/-- The C3 record acknowledged, the region's collectors cleared; copies in the chip log stay. -/
def clearCollectors (s : State) (r : Nat) : State :=
  let s := ((s.faults.slots.filter (fun x => x.cls == .c3 && x.region.toNat = r)).map FaultRec.fid).foldl ackRec s
  { s with faults := { s.faults with slots := s.faults.slots.filter (fun x => x.region.toNat ≠ r) } }

/-- After a second slice loss the whole region is swept, its directory empty (06 R208). -/
def sweepWhole (s : State) (r : Nat) : State :=
  let u := ucReg s r
  if u.secondLoss then
    ucRegPut { s with uc := { s.uc with dir := s.uc.dir.filter (fun p => p.1 / 12 / 2 ^ 19 ≠ r) } } r
      { u with sweep := some 0, sweepAll := true, known := [], lostSets := [], lostNew := [], lostMod := [], lostModNew := [] }
  else s

/-- C2 0x0C03 with the number of listed lines; none for an empty list. -/
def lostFault (s : State) (r : Nat) : State :=
  let n := (smGet [] s.faults.lostWrites r).length
  if n = 0 then s else regionFault s .c2 r 0x0C03 (n % 65536)

/-- Snoop-returned lines that found no entry join the lost-write list. -/
def loseWaiting (s : State) (r : Nat) : State :=
  let l := s.tx.resWait.filter (fun w => w.region = r)
  l.foldl (fun s w => addLost s w.lblock w.key) { s with tx := { s.tx with resWait := s.tx.resWait.filter (fun w => w.region ≠ r) } }

/-- The region reset's steps up to the return of its blocks. -/
def regionResetStart (s : State) (r : Nat) : State :=
  let s := retryOldRegion (bumpRegion (clearCollectors s r) r) r
  let s := { s with faults := { s.faults with resets := smSet none s.faults.resets r (some s.now) } }
  let s := lostFault ((regionBlocks r).foldl settleBlock (loseWaiting s r)) r
  let s := (regionBlocks r).foldl (fun s b => if (blk s b).st == .stopped || (blk s b).st == .selfRefresh then startReturn s b else s)
    (sweepWhole s r)
  settle (startUnitScans s .regionReset (s.acc.owed.filter (fun p => p.1 = r)))

/-- REGION_RESET: DENIED for a region that is not stopped, or before the resume of a thermal stop; in a reset already in
progress the command waits with it. -/
def regionReset (s : State) (h : Nat) : State :=
  let r := pl s h 0 1
  withFields s h [(0, 1)] [(0, nRegions s ≤ r)] (fun s =>
    if !regionStopped s r || s.heat.stop != .running then ans s h 3
    else if resetting s r then hatchWait s h
    else regionResetStart (hatchWait s h) r)

def execRegionReset (h : Nat) (s : State) : Host.Outcome State Fault Refusal :=
  hatchRun h 0x0305 0x0305 s (fun s => regionReset s h)

/-- Everything that precedes admissions is done. -/
def resetReady (s : State) (r : Nat) : Bool :=
  resetting s r && inService s && (regionBlocks r).all (fun b => (blk s b).st != .stopped && (blk s b).st != .selfRefresh && (blk s b).st != .returning) &&
    !s.test.runs.any (fun t => runOpen t && t.endWith.isSome && t.pblock / 9 = r) &&
    !s.trowel.scans.any (fun c => c.owner == .regionReset && c.region = r) &&
    (!(ucReg s r).secondLoss || (ucReg s r).sweep.isNone)

/-- Listed lines whose block serves are written as poisoned zeros. -/
def writeLost (s : State) (r : Nat) : State :=
  let l := smGet [] s.faults.lostWrites r
  let s := (l.filter (fun p => !noBlock s p.1)).foldl (fun s p => writeThrough s p.1 p.2 poisonZeros) s
  { s with faults := { s.faults with lostWrites := smSet [] s.faults.lostWrites r (l.filter (fun p => noBlock s p.1)) } }

/-- Admissions open: Undercoat rows written back, STOPPED clear, the commands answered; a region that lost a second slice
goes on without its Undercoat. -/
def admitRegion (s : State) (r : Nat) : State :=
  if !resetReady s r then s
  else
    let s := ((List.range 32).filter (fun lb => lb % 4 = r)).foldl ucWriteBack (writeLost s r)
    let u := ucReg s r
    let s := if u.secondLoss then ucRegPut s r { u with
        disabled := true, secondLoss := false, units := 0, reloc := 0, rings := [], ringWait := [] } else s
    let s := { s with
      faults := { s.faults with stopped := setBit s.faults.stopped r false, resets := smSet none s.faults.resets r none },
      acc := { s.acc with owed := s.acc.owed.filter (fun p => p.1 ≠ r) } }
    let hs := (waitingFor s 0x0305).filter (fun h => pl s h 0 1 = r)
    settle (hs.foldl (fun s h => answerHatch (ansOk s h []) h) s)

def execRegionResetAdmissionsOpen (region : Nat) (s : State) : Host.Outcome State Fault Refusal :=
  if region < 4 then whenLive s (fun s => admitRegion s region)
  else .next s

/-! ## UC_RESET (06 R209) -/

/-- A commanded domain reset; the command is answered when the slices return, with that reset if one is in progress. -/
def ucReset (s : State) (h : Nat) : State :=
  if !s.cfg.ucEnable then ans s h 4 else startUcReset (hatchWait s h)

def execUcReset (h : Nat) (s : State) : Host.Outcome State Fault Refusal :=
  hatchRun h 0x0306 0x0306 s (fun s => ucReset s h)

/-! ## FAULT_LOG (12 R343) -/

/-- Records padded with empty slots. -/
def recsBytes (l : List FaultRec) (n : Nat) : List (BitVec 8) :=
  (l.take n).flatMap recBytes ++ List.replicate (32 * (n - l.length)) 0

/-- The collectors of a level: 2,448 banks and 64 slices, 36 blocks, 4 regions. -/
def collectors (level : Nat) : Nat := if level = 0 then 2512 else if level = 1 then 36 else 4
def levelOf (n : Nat) : FLevel := if n = 0 then .cell else if n = 1 then .block else .region

def faultLog (s : State) (h : Nat) : State :=
  let sel := pl s h 0 1
  let lv := pl s h 1 1
  let el := pl s h 2 2
  withFields s h [(0, 4)]
    [(0, 1 < sel), (1, sel = 1 && 2 < lv), (2, sel = 1 && collectors lv ≤ el)] (fun s =>
    ansOk s h (if sel = 0 then recsBytes (s.faults.log.map LogEnt.r) 64 else recsBytes (collRecs s (levelOf lv) el) 8))

def execFaultLog (h : Nat) (s : State) : Host.Outcome State Fault Refusal :=
  hatchRun h 0x0307 0x0307 s (fun s => faultLog s h)

/-! ## Status records -/

/-- STATE of 02 R71; a disabled port is FAILED (02 R70). -/
def wpCode (w : WidePort) : Nat :=
  match w.st with
  | .training => 0
  | .init => 1
  | .active => 2
  | .parked => 3
  | .failed => 4
  | .halted => 5
  | .off => 4

/-- The record of 02 R71, by its byte offsets: SPARES_IN is 32 bits wide in bytes 24 to 31, and the other four bytes are 0
(DEDUCED, log 10). -/
def wpRecord (s : State) : List (BitVec 8) :=
  let w := s.wp
  leBytes (wpCode w + 16 * b2n w.idleIn + 32 * b2n w.idleOut) 1 ++ leBytes w.link.epoch.toNat 1 ++ leBytes w.allot 2 ++
    leBytes w.allotFree 2 ++ leBytes s.fab.agentEn.toNat 2 ++ leBytes w.crcErr 8 ++ leBytes w.replays 8 ++
    leBytes w.sparesIn.toNat 8 ++ leBytes w.sparesOut.toNat 4 ++ leBytes w.discards 4

def execWpStatus (h : Nat) (s : State) : Host.Outcome State Fault Refusal :=
  hatchRun h 0x0601 0x0601 s (fun s => ansOk s h (wpRecord s))

def ucCode (s : State) (r : Nat) : Nat :=
  if !ucOn s r then 3 else if s.uc.reset != .none then 1 else if (ucReg s r).sweep.isSome then 2 else 0

/-- Frames of a region with some property, counted. -/
def framesWith (s : State) (r : Nat) (p : Tag6 → Bool) : Nat := (s.uc.tags.filter (fun t => t.1 / 65536 = r && p t.2)).length

def ucRecord (s : State) (r : Nat) : List (BitVec 8) :=
  let u := ucReg s r
  let dirty := (s.uc.tags.filter (fun t => t.1 / 65536 = r)).foldl (fun n t => n + (bitsSet t.2.dirty).length) 0
  leBytes (r + 4 * ucCode s r + 16 * b2n u.sliceLost.isSome) 1 ++ leBytes (u.sliceLost.getD 0) 1 ++
    leBytes s.cfg.dirSize.toNat 1 ++ leBytes u.units 1 ++ leBytes u.reloc 1 ++ leBytes (stageUnits u) 1 ++
    leBytes u.testUnits.length 1 ++ leBytes 0 1 ++ leBytes (cSets s) 2 ++ leBytes u.noSpare.length 2 ++
    leBytes (framesWith s r (fun t => t.wstate == .retired)) 4 ++ leBytes dirty 4 ++
    leBytes (s.uc.dir.filter (fun p => p.1 / 12 / 2 ^ 19 = r && p.2 != .free)).length 4 ++
    leBytes (u.sweep.getD 0xFFFFFFFF) 4 ++ leBytes (min u.broadcasts 0xFFFFFFFF) 4

def ucStatus (s : State) (h : Nat) : State :=
  let r := pl s h 0 1
  withFields s h [(0, 1)] [(0, nRegions s ≤ r)] (fun s => ansOk s h (ucRecord s r))

def execUcStatus (h : Nat) (s : State) : Host.Outcome State Fault Refusal :=
  hatchRun h 0x0604 0x0604 s (fun s => ucStatus s h)

/-- STATE of 07 R244. -/
def blockCode : BState → Nat
  | .serving => 0
  | .leaving => 1
  | .selfRefresh => 2
  | .returning => 3
  | .stopped => 4
  | .bist => 5
  | .retired => 6

/-- Highest refresh rate among a block's dies: 0 ×1, 1 ×2, 2 ×4 (07 R236). -/
def refRate (k : Block) : Nat :=
  (List.range 16).foldl (fun m d =>
    let i := (bdieOf k d).refi
    max m (if 1953 < i then 0 else if 976 < i then 1 else 2)) 0

def blockRecord (s : State) (pb : Nat) : List (BitVec 8) :=
  let k := blk s pb
  let lb := logicalOf s pb
  leBytes pb 1 ++ leBytes (lb.getD 0 + 32 * b2n lb.isSome) 1 ++ leBytes (blockCode k.st + 8 * b2n k.wmode + 16 * b2n k.povf) 1
    ++ leBytes (blkEpoch s pb).toNat 1 ++ leBytes k.rq.length 2 ++ leBytes (wqUsed s pb) 2 ++ leBytes k.ptab.length 2 ++
    leBytes (refRate k) 1 ++ leBytes (k.banks.foldl (fun m p => max m p.2.debt) 0) 1 ++ leBytes k.forced 4 ++
    leBytes k.rowHits 8 ++ leBytes k.rowMisses 8 ++ leBytes k.forwards 4 ++ leBytes k.rmw 4 ++ leBytes k.capAlerts 4 ++
    leBytes k.echoMiss 4

def blockStatus (s : State) (h : Nat) : State :=
  let pb := pl s h 0 1
  withFields s h [(0, 1)] [(0, 35 < pb)] (fun s => ansOk s h (blockRecord s pb))

def execBlockStatus (h : Nat) (s : State) : Host.Outcome State Fault Refusal :=
  hatchRun h 0x0605 0x0605 s (fun s => blockStatus s h)

/-- Queue entries of an ingress: an operation keeps its entry until its answer is placed (08 R249). -/
def queuedOf (s : State) (ing : Nat) : Nat := (s.trowel.ops.filter (fun o => o.ing = ing)).length

def trowelRecord (s : State) : List (BitVec 8) :=
  let t := s.trowel
  leBytes (executing s) 1 ++ leBytes t.steps.length 1 ++ leBytes (queuedOf s 4) 1 ++ leBytes (queuedOf s 5) 1 ++
    (List.range 4).flatMap (fun p => leBytes (queuedOf s p) 1) ++ leBytes t.opsDone 8 ++ leBytes t.rowOps 8 ++
    leBytes t.streamLines 8 ++ leBytes t.checkFallback 4 ++ leBytes t.recalls 4

def primerRecord (s : State) : List (BitVec 8) :=
  let p := s.primer
  leBytes (b2n (p.st == .done)) 4 ++ leBytes (if p.st == .done then min p.duration 0xFFFFFFFF else 0) 4 ++
    leBytes p.rowsByLine 4 ++ leBytes p.rowsFailed 4

def execTrowelStatus (h : Nat) (s : State) : Host.Outcome State Fault Refusal :=
  hatchRun h 0x0606 0x0606 s (fun s => ansOk s h (trowelRecord s ++ primerRecord s))

def regRecord (s : State) : List (BitVec 8) :=
  let g := s.reg
  leBytes (dfNow s) 2 ++ leBytes (regSum s) 2 ++ leBytes g.scale 2 ++ leBytes (b2n g.dfWritten) 2 ++
    leBytes g.missed.toNat 4 ++ leBytes g.holdSat.toNat 4 ++ leBytes g.commits.toNat 4 ++ leBytes g.refused.toNat 4 ++
    leBytes (bulkMinEff s) 2 ++ leBytes 0 6

def masterRecord (s : State) (n : Nat) : List (BitVec 8) :=
  let m := regSt s n
  leBytes n 2 ++ leBytes (minEff s n) 2 ++ leBytes ((s.tx.held.filter (fun w => (masterOf s w).toNat = n)).length) 2 ++
    leBytes 0 2 ++ leBytes (min m.accLast 0xFFFFFFFF) 4 ++ leBytes (min m.missed 0xFFFFFFFF) 4

def regStatus (s : State) (h : Nat) : State :=
  let v := pl s h 0 2
  withFields s h [(0, 2)] [(1, v / 4096 % 8 ≠ 0)] (fun s =>
    ansOk s h (if 2 ^ 15 ≤ v then regRecord s ++ masterRecord s (v % 4096) else regRecord s))

def execRegStatus (h : Nat) (s : State) : Host.Outcome State Fault Refusal :=
  hatchRun h 0x0608 0x0608 s (fun s => regStatus s h)

end Sys2Proof.Machine
end

