-- ==== Sys2Proof/Machine/TwoWire.lean ====
section
/-! DEFINITION. Meanings of the two-wire controller's commands (20), of record writes (09 R287, 13 R383, 15 R431) and of
Larder firmware's accesses (14 R413). -/

namespace Sys2Proof.Machine

/-! ## Order of service (R515) -/

/-- A waiting transaction may start: its device is not in a write cycle, a record write finds its range open, and
VOUT_COMMANDs keep 100 µs apart. -/
def twReady (s : State) (t : TwTrans) : Bool :=
  (match twDevice t.kind with
   | some d => !s.tw.polls.any (fun p => twDevice p.1.kind == some d)
   | none => true) &&
  (t.cls ≠ 3 || s.heat.storeOk) &&
  (match t.kind, s.tw.lastVoutCmd with
   | .voutCommand _, some u => waited s u (us 100)
   | _, _ => true)

def isVout (t : TwTrans) : Bool :=
  match t.kind with
  | .voutCommand _ => true
  | _ => false

/-- The transaction that starts next: the oldest of the highest class. -/
def twPick (s : State) : Option Nat :=
  (argMin (fun p : TwTrans × Nat => p.1.cls) (s.tw.waiting.zipIdx.filter (fun p => twReady s p.1))).map (fun p => p.2)

/-- Why a page of a command is not begun: its temperature range is closed, or a thermal stop is in force (14 R412). -/
def pageStop (s : State) (t : TwTrans) : Option Nat :=
  match t.kind, t.who with
  | .eeWrite _ _, .hatch _ => if s.heat.stop != .running then some 10 else if s.heat.storeOk then none else some 6
  | .eeWrite _ _, .larder => if s.heat.storeOk then none else some 6
  | _, _ => none

/-- The bus is free. -/
def twFree (s : State) : Bool := s.tw.cur.isNone && !s.tw.stuck

def twStart (s : State) : State :=
  match twPick s with
  | none => s
  | some i =>
    match s.tw.waiting[i]? with
    | none => s
    | some t =>
      let s := { s with tw := { s.tw with waiting := s.tw.waiting.eraseIdx i } }
      match pageStop s t, t.who with
      | some st, .hatch h => imgStop s h st
      | some _, _ => s
      | none, _ => { s with tw := { s.tw with
          cur := some t, stretch := none, lastVoutCmd := if isVout t then some s.now else s.tw.lastVoutCmd } }

/-- While the bus is stuck every waiting transaction fails (R516). -/
def twFailAll (s : State) : State :=
  let l := s.tw.waiting
  l.foldl twGiveUp { s with tw := { s.tw with waiting := [] } }

def execTwTransactionStart (s : State) : Host.Outcome State Fault Refusal :=
  whenLive s (fun s => if s.tw.stuck then twFailAll s else if twFree s then twStart s else s)

/-! ## Voltage (R519, R520) -/

/-- Linear mode with a fractional exponent: k of exponent −k. -/
def linearK (s : State) : Option Nat :=
  match s.tw.voutMode with
  | some m => if field m.toNat 5 3 = 0 ∧ 16 ≤ field m.toNat 0 5 then some (32 - field m.toNat 0 5) else none
  | none => none

/-- The mantissa round(mV × 2^k / 1,000), where it encodes 0.66 V to 0.80 V. -/
def mantissa (s : State) (mv : Nat) : Option Nat :=
  match linearK s with
  | some k =>
    let m := (2 * mv * 2 ^ k + 1000) / 2000
    if 66 * 2 ^ k ≤ 100 * m ∧ 100 * m ≤ 80 * 2 ^ k then some m else none
  | none => none

/-- Larder firmware requests VDD_CORE in millivolts: queued in place of one still waiting, or refused. -/
def execVoltageRequest (mv : Nat) (s : State) : Host.Outcome State Fault Refusal :=
  whenLive s (fun s =>
    if s.boot.larder != .running then s
    else if s.tw.regEn && (mantissa s mv).isSome then
      twAsk { s with tw := { s.tw with waiting := s.tw.waiting.filter (fun t => !isVout t) } } 1 (.voutCommand mv) .stack
    else c0 s 15 0x1403 0 0)

/-- Every 100 ms the regulator's READ_VOUT is read. -/
def execReadVoutPoll (s : State) : Host.Outcome State Fault Refusal :=
  whenLive s (fun s =>
    if s.tw.regEn && waited s s.tw.lastPoll (ms 100) then
      twAsk { s with tw := { s.tw with lastPoll := s.now } } 1 .readVout .stack
    else s)

/-- A READ_VOUT word in mV. -/
def voutMv (s : State) (w : Nat) : Option Nat := (linearK s).map (fun k => (2 * w * 1000 + 2 ^ k) / (2 * 2 ^ k))

/-! ## Completion (R514, R516, R519) -/

/-- What a completed transaction brings. -/
def twComplete (s : State) (t : TwTrans) (rd : List (BitVec 8)) : State :=
  match t.kind with
  | .voutMode => { s with tw := { s.tw with voutMode := some (byteAt rd 0) } }
  | .voutCommand mv =>
    let s := { s with mg := { s.mg with vout := BitVec.ofNat 16 mv } }
    twFront s { cls := 1, kind := .statusWord, who := .stack, addr := 0, attempts := 0 }
  | .statusWord => if leAt rd 0 2 ≠ 0 then chipFault s .c1 15 0x1404 1 else s
  | .readVout => (match voutMv s (leAt rd 0 2) with
    | some v => { s with mg := { s.mg with vdd := BitVec.ofNat 16 v } }
    | none => s)
  | .eeWrite _ _ => { s with tw := { s.tw with polls := s.tw.polls ++ [(t, none, s.now)] } }
  | .eeRead a n =>
    let b := bmRead s.img.eeprom a (twChunk s (.eeRead a n))
    twNext (if t.who == .larder then { s with tw := { s.tw with larderRead := b } } else s) t
  | .sensor _ _ n => { s with tw := { s.tw with larderRead := rd.take n } }

/-- A transaction completes: acknowledged with a good packet error code, or failed. -/
def execTwTransactionComplete (rd : List (BitVec 8)) (ok : Bool) (s : State) : Host.Outcome State Fault Refusal :=
  whenLive s (fun s =>
    match s.tw.cur with
    | some t =>
      if s.tw.idleSince.isSome then s
      else
        let s := { s with tw := { s.tw with cur := none } }
        if ok then twComplete s t rd else twFailed s t
    | none => s)

/-- A poll is due: the first at once, the next after 50 µs. -/
def pollDue (s : State) (p : TwTrans × Option Nat × Nat) : Bool :=
  match p.2.1 with
  | none => true
  | some _ => waited s p.2.2 (us 50)

/-- The EEPROM of the transaction on the bus does not acknowledge its address: a stop frees the bus, and polling begins. -/
def addressNak (s : State) : State :=
  match s.tw.cur with
  | some t =>
    if (twDevice t.kind).isNone || s.tw.idleSince.isSome then s
    else { s with tw := { s.tw with cur := none, polls := s.tw.polls ++ [({ t with unsent := true }, some s.now, s.now)] } }
  | none => s

/-- A poll is acknowledged: the page is written, or the transaction that waited for the device goes on. -/
def pollGood (s : State) (t : TwTrans) : State :=
  if t.unsent then { s with tw := { s.tw with cur := some { t with unsent := false }, stretch := none } }
  else twNext (pageDone (twCommit s t) t (twChunk s t.kind)) t

/-- A busy EEPROM is polled; an acknowledge ends its write cycle (R516).  During start-up reads the poll is that of
EEPROM 1 (R513); while a transaction is on the bus it is that transaction's own address byte. -/
def execTwAckPoll (ack : Bool) (s : State) : Host.Outcome State Fault Refusal :=
  whenLive s (fun s =>
    if s.tw.cur.isSome then (if ack then s else addressNak s)
    else if !twFree s then s
    else if s.boot.phase == .image then { s with img := { s.img with two := s.img.two || ack } }
    else match argMin (fun p : (TwTrans × Option Nat × Nat) × Nat => p.1.2.2) (s.tw.polls.zipIdx.filter (fun p => pollDue s p.1)) with
      | none => s
      | some (p, i) =>
        if ack then pollGood { s with tw := { s.tw with polls := s.tw.polls.eraseIdx i } } p.1
        else
          let since := match p.2.1 with
            | none => some s.now
            | x => x
          { s with tw := { s.tw with polls := s.tw.polls.set i (p.1, since, s.now) } })

/-- Polling of a device has lasted 10 ms from its first not-acknowledge (R516). -/
def pollOver (s : State) (p : TwTrans × Option Nat × Nat) : Bool :=
  match p.2.1 with
  | none => false
  | some t => expired s t (ms 10)

def execTwPollTimeout (s : State) : Host.Outcome State Fault Refusal :=
  whenLive s (fun s =>
    if s.boot.phase == .image then { s with img := { s.img with two := false } }
    else match s.tw.polls.zipIdx.find? (fun p => pollOver s p.1) with
      | some (p, i) =>
        let s := { s with tw := { s.tw with polls := s.tw.polls.eraseIdx i } }
        twFailed (twCut s p.1) { p.1 with unsent := false }
      | none => s)

/-! ## Stretching and stuck lines (R516) -/

/-- A stretch reaches 10 ms: TW_SDA is released and the transaction fails. -/
def execTwStretchTimeout (s : State) : Host.Outcome State Fault Refusal :=
  whenLive s (fun s =>
    match s.tw.cur with
    | some t =>
      let s := twCut s t
      twFailed { s with tw := { s.tw with cur := none, idleSince := none, stretch := some s.now } } t
    | none => s)

/-- TW_SCL low a further 10 ms: the bus is stuck. -/
def execTwBusStuck (s : State) : Host.Outcome State Fault Refusal :=
  whenLive s (fun s =>
    match s.tw.stretch with
    | some t =>
      if expired s t (ms 10) && !s.tw.stuck then
        twFailAll (chipFault { s with tw := { s.tw with stuck := true } } .c1 15 0x1405 0)
      else s
    | none => s)

/-- TW_SCL high for 100 µs. -/
def execTwBusUnstuck (s : State) : Host.Outcome State Fault Refusal :=
  whenLive s (fun s => { s with tw := { s.tw with stuck := false, stretch := none } })

/-! ## Bus conflicts (R517) -/

/-- A conflict, or a start seen during the idle wait. -/
def execTwBusConflict (s : State) : Host.Outcome State Fault Refusal :=
  whenLive s (fun s =>
    match s.tw.cur, s.tw.idleSince with
    | some _, some (_, t0) => { s with tw := { s.tw with idleSince := some (s.now, t0) } }
    | some t, none =>
      let s := twCut s t
      let s := { s with tw := { s.tw with cur := some { t with attempts := t.attempts + 1 }, idleSince := some (s.now, s.now) } }
      if t.attempts + 1 < 4 then c0 s 15 0x1401 0 (ms 1000) else s
    | none, _ => s)

/-- 100 µs idle: nine clocks, a stop, and the transaction is retried from its first byte, or has failed. -/
def execTwIdleWaitEnd (s : State) : Host.Outcome State Fault Refusal :=
  whenLive s (fun s =>
    match s.tw.cur, s.tw.idleSince with
    | some t, some (u, _) =>
      if waited s u (us 100) then
        (if t.attempts < 4 then { s with tw := { s.tw with idleSince := none } }
         else twGiveUp { s with tw := { s.tw with cur := none, idleSince := none } } t)
      else s
    | _, _ => s)

/-- No 100 µs idle within 10 ms: the transaction fails. -/
def execTwIdleWaitTimeout (s : State) : Host.Outcome State Fault Refusal :=
  whenLive s (fun s =>
    match s.tw.cur, s.tw.idleSince with
    | some t, some (_, t0) =>
      if expired s t0 (ms 10) then
        let s := { s with tw := { s.tw with cur := none, idleSince := none } }
        if t.attempts < 4 then twFront s t else twGiveUp s t
      else s
    | _, _ => s)

/-! ## Alert, sensors, Larder's area -/

/-- TW_ALERT_N low for 1 µs (R521). -/
def execTwAlert (s : State) : Host.Outcome State Fault Refusal :=
  whenLive s (fun s =>
    let ok := match s.tw.alertC0 with
      | none => true
      | some t => waited s t (ms 1000)
    if ok then c0 { s with tw := { s.tw with alertC0 := some s.now } } 15 0x1403 1 0 else s)

/-- A board-sensor transaction of Larder firmware (R514). -/
def execBoardSensorAccess (i : Nat) (wr : List (BitVec 8)) (rd : Nat) (s : State) : Host.Outcome State Fault Refusal :=
  if i < 4 ∧ wr.length + rd ≤ 16 then
    whenLive s (fun s =>
      if s.boot.larder == .running && s.tw.sensorEn.getLsbD i then twAsk s 5 (.sensor i wr rd) .larder else s)
  else .next s

/-- Larder firmware's area of the calibration store (14 R413): a write of `wr`, or a read of `rd` bytes. -/
def execLarderAreaAccess (addr : Nat) (wr : List (BitVec 8)) (rd : Nat) (s : State) : Host.Outcome State Fault Refusal :=
  if 0x10000 ≤ addr ∧ addr + wr.length ≤ 0x20000 ∧ addr + rd ≤ 0x20000 ∧ (wr = [] ∨ rd = 0) then
    whenLive s (fun s =>
      if s.boot.larder != .running then s
      else if wr ≠ [] then twAsk s 4 (.eeWrite addr wr) .larder
      else if rd ≠ 0 then twAsk s 4 (.eeRead addr rd) .larder else s)
  else .next s

/-! ## Records -/

/-- The store room is written within 1 s of a change, when the temperature permits (09 R287). -/
def execStoreroomSave (s : State) : Host.Outcome State Fault Refusal :=
  whenLive s (fun s =>
    if s.store.unsaved && s.store.saving.isNone && s.heat.storeOk && !twBusyFor s .storeRoom then
      askRecord { s with store := { s.store with saving := some s.store.seq } } 1 (storeBody s)
    else s)

/-- Bond-wear counts are written every hour (13 R383). -/
def execBondWearSave (s : State) : Host.Outcome State Fault Refusal :=
  whenLive s (fun s =>
    if s.heat.storeOk && waited s s.heat.wearSaved (ms 3600000) && !twBusyFor s .wear then
      askRecord { s with heat := { s.heat with wearSaved := s.now } } 3 (wearRecord s)
    else s)

/-- The calibration record is rewritten when measurements have moved, at most hourly (15 R431). -/
def execCalRecordWrite (s : State) : Host.Outcome State Fault Refusal :=
  whenLive s (fun s =>
    if s.cal.moved && s.heat.storeOk && (s.cal.lastWrite = 0 || waited s s.cal.lastWrite (ms 3600000)) && !twBusyFor s .calibration then
      let s := { s with cal := { s.cal with
        moved := false, lastWrite := s.now, calCount := BitVec.ofNat 32 (satAdd 32 s.cal.calCount.toNat 1) } }
      askRecord s 2 (calBody s)
    else s)

end Sys2Proof.Machine
end

