-- ==== Sys2Proof/Machine/Dispatch.lean ====
section
/-! DEFINITION. The meaning of each command: one arm per constructor, one direct call of its meaning. -/

namespace Sys2Proof.Machine

def exec (i : Instr) (s : State) : Host.Outcome State Fault Refusal :=
  match i with
  | .paceSample readings => Sys2Proof.Machine.execPaceSample readings s
  | .vddCoreOutOfRange since out => Sys2Proof.Machine.execVddCoreOutOfRange since out s
  | .paceWarnWrite v => Sys2Proof.Machine.execPaceWarnWrite v s
  | .wpFlitReceive f => Sys2Proof.Machine.execWpFlitReceive f s
  | .wpWireFailed wire => Sys2Proof.Machine.execWpWireFailed wire s
  | .wpSubstReqReceived group target spare => Sys2Proof.Machine.execWpSubstReqReceived group target spare s
  | .wpSubstAckReceived group target spare seq => Sys2Proof.Machine.execWpSubstAckReceived group target spare seq s
  | .wpSpareTakeover group target spare => Sys2Proof.Machine.execWpSpareTakeover group target spare s
  | .wpClockLoss g lost => Sys2Proof.Machine.execWpClockLoss g lost s
  | .wpClockLossTimeout g => Sys2Proof.Machine.execWpClockLossTimeout g s
  | .wpTrainingPhaseEnd inFailed ok => Sys2Proof.Machine.execWpTrainingPhaseEnd inFailed ok s
  | .laneSyncSymbolReceived p l prof evm freq timing wordOk snr taps => Sys2Proof.Machine.execLaneSyncSymbolReceived p l prof evm freq timing wordOk snr taps s
  | .laneStatusWordReceived p l w => Sys2Proof.Machine.execLaneStatusWordReceived p l w s
  | .laneMarkerReceived p l n wordOk => Sys2Proof.Machine.execLaneMarkerReceived p l n wordOk s
  | .laneQualificationLost p l cause freq => Sys2Proof.Machine.execLaneQualificationLost p l cause freq s
  | .laneRequalifyTimeout p l => Sys2Proof.Machine.execLaneRequalifyTimeout p l s
  | .laneDegraded p l => Sys2Proof.Machine.execLaneDegraded p l s
  | .bringupStepTimer p => Sys2Proof.Machine.execBringupStepTimer p s
  | .bringupRestoreTimer p => Sys2Proof.Machine.execBringupRestoreTimer p s
  | .bringupTimer p => Sys2Proof.Machine.execBringupTimer p s
  | .fpQuietEnter p => Sys2Proof.Machine.execFpQuietEnter p s
  | .fpDarkEnter p => Sys2Proof.Machine.execFpDarkEnter p s
  | .fpQuietExit p => Sys2Proof.Machine.execFpQuietExit p s
  | .fpDarkExit p => Sys2Proof.Machine.execFpDarkExit p s
  | .fpEnergyWake p => Sys2Proof.Machine.execFpEnergyWake p s
  | .fpWakeQualifyTimeout p => Sys2Proof.Machine.execFpWakeQualifyTimeout p s
  | .fpFlitReceive p cw => Sys2Proof.Machine.execFpFlitReceive p cw s
  | .fpBadFlitLimit p => Sys2Proof.Machine.execFpBadFlitLimit p s
  | .fpNakRepeat p => Sys2Proof.Machine.execFpNakRepeat p s
  | .fpNakLimit p => Sys2Proof.Machine.execFpNakLimit p s
  | .fpFlitSend p => Sys2Proof.Machine.execFpFlitSend p s
  | .fpInitReceived p slot0 slot1 => Sys2Proof.Machine.execFpInitReceived p slot0 slot1 s
  | .fpInitTimeout p => Sys2Proof.Machine.execFpInitTimeout p s
  | .fpReinitReceived p => Sys2Proof.Machine.execFpReinitReceived p s
  | .fpNodeDownReceived p => Sys2Proof.Machine.execFpNodeDownReceived p s
  | .fpSubstReqReceived p logical failed spare => Sys2Proof.Machine.execFpSubstReqReceived p logical failed spare s
  | .fpSubstMarkersSend p => Sys2Proof.Machine.execFpSubstMarkersSend p s
  | .fpSubstTimeout p => Sys2Proof.Machine.execFpSubstTimeout p s
  | .forwardHoldTimeout egress => Sys2Proof.Machine.execForwardHoldTimeout egress s
  | .routeRevert node => Sys2Proof.Machine.execRouteRevert node s
  | .rdShared ing m => Sys2Proof.Machine.execRdShared ing m s
  | .rdOwn ing m => Sys2Proof.Machine.execRdOwn ing m s
  | .claim ing m => Sys2Proof.Machine.execClaim ing m s
  | .rdCur ing m => Sys2Proof.Machine.execRdCur ing m s
  | .rdLong ing m => Sys2Proof.Machine.execRdLong ing m s
  | .evictClean ing m => Sys2Proof.Machine.execEvictClean ing m s
  | .wr ing m => Sys2Proof.Machine.execWr ing m s
  | .wrLong ing m => Sys2Proof.Machine.execWrLong ing m s
  | .wrback ing m => Sys2Proof.Machine.execWrback ing m s
  | .atomic ing m => Sys2Proof.Machine.execAtomic ing m s
  | .bulkOp ing m => Sys2Proof.Machine.execBulkOp ing m s
  | .snpRsp ing m => Sys2Proof.Machine.execSnpRsp ing m s
  | .snpRspd ing m => Sys2Proof.Machine.execSnpRspd ing m s
  | .gack ing m => Sys2Proof.Machine.execGack ing m s
  | .mgRd ing m => Sys2Proof.Machine.execMgRd ing m s
  | .mgWr ing m => Sys2Proof.Machine.execMgWr ing m s
  | .regulatorRelease ing master => Sys2Proof.Machine.execRegulatorRelease ing master s
  | .requestAccept region ing badSets => Sys2Proof.Machine.execRequestAccept region ing badSets s
  | .evictionQueueFree region => Sys2Proof.Machine.execEvictionQueueFree region s
  | .snoopSectorAdmit region => Sys2Proof.Machine.execSnoopSectorAdmit region s
  | .snoopTimeout ctx node => Sys2Proof.Machine.execSnoopTimeout ctx node s
  | .gackTimeout ctx => Sys2Proof.Machine.execGackTimeout ctx s
  | .wrbackWaitTimeout ctx node => Sys2Proof.Machine.execWrbackWaitTimeout ctx node s
  | .contextQuarantineEnd ctx => Sys2Proof.Machine.execContextQuarantineEnd ctx s
  | .writeDataComplete ing src tag data => Sys2Proof.Machine.execWriteDataComplete ing src tag data s
  | .dataTimeout ctx => Sys2Proof.Machine.execDataTimeout ctx s
  | .allotReserve port => Sys2Proof.Machine.execAllotReserve port s
  | .snoopReservePlace region => Sys2Proof.Machine.execSnoopReservePlace region s
  | .tagWalk region set way lost hdrLost faulty errs => Sys2Proof.Machine.execTagWalk region set way lost hdrLost faulty errs s
  | .hintSweepRead region => Sys2Proof.Machine.execHintSweepRead region s
  | .ucSliceTimeout slice readable => Sys2Proof.Machine.execUcSliceTimeout slice readable s
  | .blockCaSlot b => Sys2Proof.Machine.execBlockCaSlot b s
  | .dramReadData b key echo errs => Sys2Proof.Machine.execDramReadData b key echo errs s
  | .actEchoReceived b bank row dbank parity => Sys2Proof.Machine.execActEchoReceived b bank row dbank parity s
  | .bankIdleTimeout b bank => Sys2Proof.Machine.execBankIdleTimeout b bank s
  | .refreshDue b bank => Sys2Proof.Machine.execRefreshDue b bank s
  | .blockDrainComplete b => Sys2Proof.Machine.execBlockDrainComplete b s
  | .blockPlacementOpen b => Sys2Proof.Machine.execBlockPlacementOpen b s
  | .bulkAccessCheckComplete op => Sys2Proof.Machine.execBulkAccessCheckComplete op s
  | .rangeScanComplete region badSets => Sys2Proof.Machine.execRangeScanComplete region badSets s
  | .trowelStepAccept region => Sys2Proof.Machine.execTrowelStepAccept region s
  | .rowCheckReadComplete op lb errs => Sys2Proof.Machine.execRowCheckReadComplete op lb errs s
  | .rowOpComplete b => Sys2Proof.Machine.execRowOpComplete b s
  | .trowelOpComplete op => Sys2Proof.Machine.execTrowelOpComplete op s
  | .primerClonesComplete failedRows => Sys2Proof.Machine.execPrimerClonesComplete failedRows s
  | .primerComplete failedSubs stillFailing => Sys2Proof.Machine.execPrimerComplete failedSubs stillFailing s
  | .errorHistoryExpire b => Sys2Proof.Machine.execErrorHistoryExpire b s
  | .tsvSubstitution b => Sys2Proof.Machine.execTsvSubstitution b s
  | .rowRepair b => Sys2Proof.Machine.execRowRepair b s
  | .columnRepair b => Sys2Proof.Machine.execColumnRepair b s
  | .migrationStart region => Sys2Proof.Machine.execMigrationStart region s
  | .migrationRowCopy region errs => Sys2Proof.Machine.execMigrationRowCopy region errs s
  | .migrationSwitch region => Sys2Proof.Machine.execMigrationSwitch region s
  | .scrubRead errs => Sys2Proof.Machine.execScrubRead errs s
  | .holdSaturated ing => Sys2Proof.Machine.execHoldSaturated ing s
  | .dfWrite v => Sys2Proof.Machine.execDfWrite v s
  | .evtPush t => Sys2Proof.Machine.execEvtPush t s
  | .haltResponderRequest ing m => Sys2Proof.Machine.execHaltResponderRequest ing m s
  | .faultAck fid => Sys2Proof.Machine.execFaultAck fid s
  | .thermalSample die vals spare power => Sys2Proof.Machine.execThermalSample die vals spare power s
  | .throttleStepDown region => Sys2Proof.Machine.execThrottleStepDown region s
  | .throttleStepUp region => Sys2Proof.Machine.execThrottleStepUp region s
  | .tdcMeasure taps => Sys2Proof.Machine.execTdcMeasure taps s
  | .sensorScaleMeasure scales => Sys2Proof.Machine.execSensorScaleMeasure scales s
  | .walkStart b => Sys2Proof.Machine.execWalkStart b s
  | .walkTake b delays spare => Sys2Proof.Machine.execWalkTake b delays spare s
  | .walkGive b spare => Sys2Proof.Machine.execWalkGive b spare s
  | .walkLate b => Sys2Proof.Machine.execWalkLate b s
  | .powerOn refSel => Sys2Proof.Machine.execPowerOn refSel s
  | .bootHalt cause => Sys2Proof.Machine.execBootHalt cause s
  | .startupBistComplete ok reads => Sys2Proof.Machine.execStartupBistComplete ok reads s
  | .imageLoadComplete slowA readOkA readOkB badCopies => Sys2Proof.Machine.execImageLoadComplete slowA readOkA readOkB badCopies s
  | .coldCalibrationComplete taps lines scales failed badSlices => Sys2Proof.Machine.execColdCalibrationComplete taps lines scales failed badSlices s
  | .fwWaitExpiry fallbackReadOk => Sys2Proof.Machine.execFwWaitExpiry fallbackReadOk s
  | .scanEntry die ir => Sys2Proof.Machine.execScanEntry die ir s
  | .testPortInstruction die ir => Sys2Proof.Machine.execTestPortInstruction die ir s
  | .spdmGo node reqLen => Sys2Proof.Machine.execSpdmGo node reqLen s
  | .spdmRelease node => Sys2Proof.Machine.execSpdmRelease node s
  | .hatchBufferWrite h node off bytes => Sys2Proof.Machine.execHatchBufferWrite h node off bytes s
  | .hatchRing h node => Sys2Proof.Machine.execHatchRing h node s
  | .hatchAnswer h => Sys2Proof.Machine.execHatchAnswer h s
  | .idGet h => Sys2Proof.Machine.execIdGet h s
  | .idPubkey h => Sys2Proof.Machine.execIdPubkey h s
  | .idCert h => Sys2Proof.Machine.execIdCert h s
  | .idMeasure h => Sys2Proof.Machine.execIdMeasure h s
  | .cfgGet h => Sys2Proof.Machine.execCfgGet h s
  | .cfgSet h => Sys2Proof.Machine.execCfgSet h s
  | .tblWrite h => Sys2Proof.Machine.execTblWrite h s
  | .tblRead h => Sys2Proof.Machine.execTblRead h s
  | .routeCommit h => Sys2Proof.Machine.execRouteCommit h s
  | .regCommit h => Sys2Proof.Machine.execRegCommit h s
  | .accWrite h => Sys2Proof.Machine.execAccWrite h s
  | .accRead h => Sys2Proof.Machine.execAccRead h s
  | .accCommit h => Sys2Proof.Machine.execAccCommit h s
  | .accStatus h => Sys2Proof.Machine.execAccStatus h s
  | .accLog h => Sys2Proof.Machine.execAccLog h s
  | .accLogClear h => Sys2Proof.Machine.execAccLogClear h s
  | .scrubStart h => Sys2Proof.Machine.execScrubStart h s
  | .scrubStatus h => Sys2Proof.Machine.execScrubStatus h s
  | .retire h => Sys2Proof.Machine.execRetire h s
  | .storeroom h => Sys2Proof.Machine.execStoreroom h s
  | .regionReset h => Sys2Proof.Machine.execRegionReset h s
  | .regionResetAdmissionsOpen region => Sys2Proof.Machine.execRegionResetAdmissionsOpen region s
  | .ucReset h => Sys2Proof.Machine.execUcReset h s
  | .faultLog h => Sys2Proof.Machine.execFaultLog h s
  | .faultInjection h => Sys2Proof.Machine.execFaultInjection h s
  | .thermStatus h => Sys2Proof.Machine.execThermStatus h s
  | .wearRead h => Sys2Proof.Machine.execWearRead h s
  | .powerStatus h => Sys2Proof.Machine.execPowerStatus h s
  | .vaultStatus h => Sys2Proof.Machine.execVaultStatus h s
  | .fuseProgram h => Sys2Proof.Machine.execFuseProgram h s
  | .fuseWordBurned word => Sys2Proof.Machine.execFuseWordBurned word s
  | .fuseCommit h => Sys2Proof.Machine.execFuseCommit h s
  | .fuseLock h => Sys2Proof.Machine.execFuseLock h s
  | .fuseRemap h => Sys2Proof.Machine.execFuseRemap h s
  | .fuseRead h => Sys2Proof.Machine.execFuseRead h s
  | .imageBegin h => Sys2Proof.Machine.execImageBegin h s
  | .imageWrite h => Sys2Proof.Machine.execImageWrite h s
  | .imageCommit h => Sys2Proof.Machine.execImageCommit h s
  | .imageStatus h => Sys2Proof.Machine.execImageStatus h s
  | .imageRead h => Sys2Proof.Machine.execImageRead h s
  | .wpStatus h => Sys2Proof.Machine.execWpStatus h s
  | .fpLanes h => Sys2Proof.Machine.execFpLanes h s
  | .laneTest h => Sys2Proof.Machine.execLaneTest h s
  | .laneTestComplete p l n errs => Sys2Proof.Machine.execLaneTestComplete p l n errs s
  | .ucStatus h => Sys2Proof.Machine.execUcStatus h s
  | .blockStatus h => Sys2Proof.Machine.execBlockStatus h s
  | .trowelStatus h => Sys2Proof.Machine.execTrowelStatus h s
  | .calStatus h => Sys2Proof.Machine.execCalStatus h s
  | .regStatus h => Sys2Proof.Machine.execRegStatus h s
  | .testStart h => Sys2Proof.Machine.execTestStart h s
  | .testResult h => Sys2Proof.Machine.execTestResult h s
  | .testDeferLimit id => Sys2Proof.Machine.execTestDeferLimit id s
  | .testUnitGrant region => Sys2Proof.Machine.execTestUnitGrant region s
  | .testCopyInComplete id => Sys2Proof.Machine.execTestCopyInComplete id s
  | .testMarchStep id bad cmdFailed => Sys2Proof.Machine.execTestMarchStep id bad cmdFailed s
  | .testRestoreComplete id => Sys2Proof.Machine.execTestRestoreComplete id s
  | .perfSelWrite k v => Sys2Proof.Machine.execPerfSelWrite k v s
  | .perfCntWrite k v => Sys2Proof.Machine.execPerfCntWrite k v s
  | .perfOvfClear hi v => Sys2Proof.Machine.execPerfOvfClear hi v s
  | .perfCounterWrap k => Sys2Proof.Machine.execPerfCounterWrap k s
  | .sampleSet h => Sys2Proof.Machine.execSampleSet h s
  | .sampleStatus h => Sys2Proof.Machine.execSampleStatus h s
  | .traceClear h => Sys2Proof.Machine.execTraceClear h s
  | .evtTailWrite t v => Sys2Proof.Machine.execEvtTailWrite t v s
  | .evtDropClear t => Sys2Proof.Machine.execEvtDropClear t s
  | .registerWrite node off v => Sys2Proof.Machine.execRegisterWrite node off v s
  | .twTransactionComplete rd ok => Sys2Proof.Machine.execTwTransactionComplete rd ok s
  | .twAckPoll ack => Sys2Proof.Machine.execTwAckPoll ack s
  | .voltageRequest mv => Sys2Proof.Machine.execVoltageRequest mv s
  | .boardSensorAccess sensor wr rd => Sys2Proof.Machine.execBoardSensorAccess sensor wr rd s
  | .progressStarvation b => Sys2Proof.Machine.execProgressStarvation b s
  | .railOutOfRange rail => Sys2Proof.Machine.execRailOutOfRange rail s
  | .railRestored rail => Sys2Proof.Machine.execRailRestored rail s
  | .fwBegin h => Sys2Proof.Machine.execFwBegin h s
  | .fwData h => Sys2Proof.Machine.execFwData h s
  | .fwEnd h => Sys2Proof.Machine.execFwEnd h s
  | .fwActivate h => Sys2Proof.Machine.execFwActivate h s
  | .fwStatus h => Sys2Proof.Machine.execFwStatus h s
  | .wrColumnEcho b key echo => Sys2Proof.Machine.execWrColumnEcho b key echo s
  | .larderAreaAccess addr wr rd => Sys2Proof.Machine.execLarderAreaAccess addr wr rd s
  | .internalBulkOp h h0 h1 => Sys2Proof.Machine.execInternalBulkOp h h0 h1 s
  | .outOfRangeClear => Sys2Proof.Machine.execOutOfRangeClear s
  | .minClear => Sys2Proof.Machine.execMinClear s
  | .lowSamplesReset => Sys2Proof.Machine.execLowSamplesReset s
  | .wpNakRepeat => Sys2Proof.Machine.execWpNakRepeat s
  | .wpNakLimit => Sys2Proof.Machine.execWpNakLimit s
  | .wpFlitSend => Sys2Proof.Machine.execWpFlitSend s
  | .wpHostClockTimeout => Sys2Proof.Machine.execWpHostClockTimeout s
  | .wpInitDoneReceived => Sys2Proof.Machine.execWpInitDoneReceived s
  | .wpCreditShortfallTimeout => Sys2Proof.Machine.execWpCreditShortfallTimeout s
  | .wpIdleEnter => Sys2Proof.Machine.execWpIdleEnter s
  | .wpIdleWake => Sys2Proof.Machine.execWpIdleWake s
  | .wpParkReqReceived => Sys2Proof.Machine.execWpParkReqReceived s
  | .wpParkAckReceived => Sys2Proof.Machine.execWpParkAckReceived s
  | .wpParkNakReceived => Sys2Proof.Machine.execWpParkNakReceived s
  | .wpParkTimer => Sys2Proof.Machine.execWpParkTimer s
  | .wpParkWake => Sys2Proof.Machine.execWpParkWake s
  | .wpReinitReceived => Sys2Proof.Machine.execWpReinitReceived s
  | .mapSwitch => Sys2Proof.Machine.execMapSwitch s
  | .ucOscFault => Sys2Proof.Machine.execUcOscFault s
  | .ucResetHold => Sys2Proof.Machine.execUcResetHold s
  | .ucResetOscStable => Sys2Proof.Machine.execUcResetOscStable s
  | .ucResetSlicesReturn => Sys2Proof.Machine.execUcResetSlicesReturn s
  | .trowelOpStart => Sys2Proof.Machine.execTrowelOpStart s
  | .storeroomSave => Sys2Proof.Machine.execStoreroomSave s
  | .scrubAutoStart => Sys2Proof.Machine.execScrubAutoStart s
  | .regulationWindowEnd => Sys2Proof.Machine.execRegulationWindowEnd s
  | .accessSwitch => Sys2Proof.Machine.execAccessSwitch s
  | .faultAckC1All => Sys2Proof.Machine.execFaultAckC1All s
  | .faultAckC2All => Sys2Proof.Machine.execFaultAckC2All s
  | .logOverflowClear => Sys2Proof.Machine.execLogOverflowClear s
  | .lostReset => Sys2Proof.Machine.execLostReset s
  | .orderlyStopWriteback => Sys2Proof.Machine.execOrderlyStopWriteback s
  | .thermalResume => Sys2Proof.Machine.execThermalResume s
  | .bondWearSave => Sys2Proof.Machine.execBondWearSave s
  | .referenceLost => Sys2Proof.Machine.execReferenceLost s
  | .referenceRelock => Sys2Proof.Machine.execReferenceRelock s
  | .calRecordWrite => Sys2Proof.Machine.execCalRecordWrite s
  | .pllLock => Sys2Proof.Machine.execPllLock s
  | .identityKeyReady => Sys2Proof.Machine.execIdentityKeyReady s
  | .larderWatchdog => Sys2Proof.Machine.execLarderWatchdog s
  | .fwLoadTimeout => Sys2Proof.Machine.execFwLoadTimeout s
  | .fullStackReset => Sys2Proof.Machine.execFullStackReset s
  | .retainingReset => Sys2Proof.Machine.execRetainingReset s
  | .retainingResetTe => Sys2Proof.Machine.execRetainingResetTe s
  | .retainingResetRelease => Sys2Proof.Machine.execRetainingResetRelease s
  | .spdmIdleTimeout => Sys2Proof.Machine.execSpdmIdleTimeout s
  | .getVersion => Sys2Proof.Machine.execGetVersion s
  | .getCapabilities => Sys2Proof.Machine.execGetCapabilities s
  | .negotiateAlgorithms => Sys2Proof.Machine.execNegotiateAlgorithms s
  | .getDigests => Sys2Proof.Machine.execGetDigests s
  | .getCertificate => Sys2Proof.Machine.execGetCertificate s
  | .challenge => Sys2Proof.Machine.execChallenge s
  | .getMeasurements => Sys2Proof.Machine.execGetMeasurements s
  | .testConditionsHeld => Sys2Proof.Machine.execTestConditionsHeld s
  | .perfClearAll => Sys2Proof.Machine.execPerfClearAll s
  | .sampleTrigger => Sys2Proof.Machine.execSampleTrigger s
  | .twTransactionStart => Sys2Proof.Machine.execTwTransactionStart s
  | .twPollTimeout => Sys2Proof.Machine.execTwPollTimeout s
  | .twStretchTimeout => Sys2Proof.Machine.execTwStretchTimeout s
  | .twBusStuck => Sys2Proof.Machine.execTwBusStuck s
  | .twBusUnstuck => Sys2Proof.Machine.execTwBusUnstuck s
  | .twBusConflict => Sys2Proof.Machine.execTwBusConflict s
  | .twIdleWaitEnd => Sys2Proof.Machine.execTwIdleWaitEnd s
  | .readVoutPoll => Sys2Proof.Machine.execReadVoutPoll s
  | .twAlert => Sys2Proof.Machine.execTwAlert s
  | .powerRemoved => Sys2Proof.Machine.execPowerRemoved s
  | .stackRstNRising => Sys2Proof.Machine.execStackRstNRising s
  | .trstNAsserted => Sys2Proof.Machine.execTrstNAsserted s
  | .retainingResetWriteback => Sys2Proof.Machine.execRetainingResetWriteback s
  | .twIdleWaitTimeout => Sys2Proof.Machine.execTwIdleWaitTimeout s
  | .larderWatchdogSignal => Sys2Proof.Machine.execLarderWatchdogSignal s

end Sys2Proof.Machine
end

