-- ==== Sys2Proof/Machine/Tick.lean ====
section
/-! DEFINITION. One tick of the timing unit (01 R25): what passes when no command waits.  The regulator's observations
(10 R303, R316), the scale where no Larder firmware writes the floor (10 R310, R312), and the counters' tick (19 R500);
everything else that time brings is a command of its own. -/

namespace Sys2Proof.Machine

/-! ## Occupancies of a tick (19 R502): event, group, qualifier, count -/

def tickRegion (s : State) (r : Nat) : List (Nat × Nat × Nat × Nat) :=
  (if (zone s r).t < 16 then [(0x018, r, 0xF, 1)] else []) ++
    (List.range 9).flatMap (fun i => [(0x026, r, i, (blk s (9 * r + i)).rq.length), (0x027, r, i, wqUsed s (9 * r + i))]) ++
    [(0x0C9, 6, r, unitsUsed (ucReg s r))]

def tickWide (s : State) : List (Nat × Nat × Nat × Nat) :=
  (s.tx.held.filter (fun w => w.ing = 4)).map (fun w => (0x041, 4, ((agentOf s (hSrc w.msg.h0)).getD 15), 1)) ++
    (if s.wp.idleIn then [(0x04E, 4, 0xF, 1)] else []) ++ (if s.wp.idleOut then [(0x04F, 4, 0xF, 1)] else []) ++
    (if s.wp.allotQ.isEmpty then [] else [(0x050, 4, 0xF, 1)])

/-- Forwarded headers of a port that wait for egress credits. -/
def tickHeld (s : State) (p : Nat) : Nat :=
  let l := linkOf s p
  (l.outQ.filter (fun m => m.ing.isSome && hSrc m.h0 != s.fab.stackNode && l.held.hdr (opClass (hOp m.h0)) = 0)).length

def tickPort (s : State) (p : Nat) : List (Nat × Nat × Nat × Nat) :=
  let x := port s p
  (if x.txPower == .quiet then [(0x087, 5, p, 1)] else []) ++ (if x.txPower == .dark then [(0x088, 5, p, 1)] else []) ++
    [(0x089, 5, p, tickHeld s p)]

def tickCounts (s : State) : List (Nat × Nat × Nat × Nat) :=
  (List.range 8).map (fun g => (0x001, g, 0xF, 1)) ++ (List.range 4).flatMap (tickRegion s) ++ tickWide s ++
    (List.range 4).flatMap (tickPort s)

/-- The counters' tick: its occupancies and occurrences counted, then the changes for the next one. -/
def perfTick (s : State) : State :=
  perfChanges (perfFlush { s with perf := { s.perf with occ := s.perf.occ ++ tickCounts s } })

/-- What a tick brings to a stack in service: the regulator's observations, and the scale where no Larder firmware runs. -/
def unitsTick (s : State) : State :=
  let s := regTick s
  if s.boot.larder == .running then s else regRescale s

/-- One tick passes: requests that wait at their ingress take contexts that have become free (05 R155); a receiver whose far pilots stop then powers down (03 R102). -/
def tick (s : State) : State :=
  let s := if live s then admitIngress s else s
  let s := if live s && s.boot.phase == .released then unitsTick s else s
  let s := if live s then perfTick s else s
  let s := { s with now := s.now + 1 }
  if wired s then (List.range 4).foldl darkFall s else s

end Sys2Proof.Machine
end

