-- ==== Sys2Proof/Safety.lean ====
section
/-! DEFINITION. The terms in which claims about the block are stated: which commands a halted stack still hears, the boot
halt, and memories in canonical form. -/

namespace Sys2Proof.Machine

/-- The Wide Port and its control flits (02). -/
def hearsWide (c : Instr) : Bool :=
  match c with
  | .wpFlitReceive .. | .wpNakRepeat | .wpNakLimit | .wpWireFailed .. | .wpFlitSend | .wpSubstReqReceived ..
    | .wpSubstAckReceived .. | .wpSpareTakeover .. | .wpClockLoss .. | .wpClockLossTimeout .. | .wpInitDoneReceived
    | .wpIdleEnter | .wpIdleWake | .wpParkReqReceived | .wpParkAckReceived | .wpParkNakReceived | .wpParkWake
    | .wpReinitReceived => true
  | _ => false

/-- The fabric ports and their lanes (03, 04). -/
def hearsFabric (c : Instr) : Bool :=
  match c with
  | .laneSyncSymbolReceived .. | .laneStatusWordReceived .. | .laneMarkerReceived .. | .laneQualificationLost ..
    | .laneRequalifyTimeout .. | .laneDegraded .. | .laneTestComplete .. | .bringupStepTimer ..
    | .bringupRestoreTimer .. | .bringupTimer .. | .fpQuietEnter .. | .fpDarkEnter .. | .fpQuietExit ..
    | .fpDarkExit .. | .fpEnergyWake .. | .fpWakeQualifyTimeout .. | .fpFlitReceive .. | .fpBadFlitLimit ..
    | .fpNakRepeat .. | .fpNakLimit .. | .fpFlitSend .. | .fpInitReceived .. | .fpInitTimeout ..
    | .fpReinitReceived .. | .fpNodeDownReceived .. | .fpSubstReqReceived .. | .fpSubstMarkersSend ..
    | .fpSubstTimeout .. => true
  | _ => false

/-- The messages the ports bring (05), which the halt responder takes from there. -/
def hearsMessage (c : Instr) : Bool :=
  match c with
  | .rdShared .. | .rdOwn .. | .claim .. | .rdCur .. | .rdLong .. | .evictClean .. | .wr .. | .wrLong .. | .wrback ..
    | .atomic .. | .bulkOp .. | .snpRsp .. | .snpRspd .. | .gack .. | .mgRd .. | .mgWr .. | .haltResponderRequest ..
    => true
  | _ => false

/-- Sensors, rails, pins, power and the test port (13, 16, 22), and the end of a fuse word in progress (14 R403). -/
def hearsPins (c : Instr) : Bool :=
  match c with
  | .thermalSample .. | .fuseWordBurned .. | .powerOn .. | .powerRemoved | .railOutOfRange .. | .railRestored ..
    | .fullStackReset | .stackRstNRising | .scanEntry .. | .testPortInstruction .. | .trstNAsserted => true
  | _ => false

/-- What a stack in a chip halt still hears: its ports and lanes, the messages they bring, the sensors, the rails, the
test port, the pins and the power, and the end of a fuse word in progress (12 R357, R358; 14 R403). -/
def heardInHalt (c : Instr) : Bool := hearsWide c || hearsFabric c || hearsMessage c || hearsPins c

/-- The boot halt of 16 R443: STACK_FATAL_N low, power there, no port trained, nothing held in the DRAM. -/
def BootHalted (s : State) : Prop :=
  s.boot.phase = .halt ∧ s.faults.halted = false ∧ s.faults.fatalLow = true ∧ s.boot.pwrGood = true ∧ s.wp.st = .off ∧
  (∀ p, p < 4 → (port s p).st = .down) ∧ s.dram = []

/-- A byte memory in canonical form: addresses strictly rising, no entry equal to the 0 an unlisted address reads as. -/
abbrev Memory.wf (m : ByteMem) : Prop := smWf (0 : BitVec 8) m = true

/-- The stored memories of the block are in canonical form: the DRAM, and the EEPROMs of the two-wire bus. -/
def MemoriesWf (s : State) : Prop := Memory.wf s.dram ∧ Memory.wf s.img.eeprom

end Sys2Proof.Machine
end

