-- ==== Sys2Proof/WellFormed.lean ====
section
/-! DEFINITION. Commands whose operands have the shape their rows state: ports, lanes, blocks and regions that exist,
readings of every sensor, a message of the row's opcode with its data.  A command of another shape names no unit of the
block, and its meaning changes nothing. -/

namespace Sys2Proof

open Machine

/-- What the operands of a command must satisfy: the ranges of the units they name. -/
def Instr.checks : Instr → List Bool
  | .paceSample readings => [readings.length = 8]
  | .vddCoreOutOfRange _ _ => []
  | .outOfRangeClear => []
  | .minClear => []
  | .lowSamplesReset => []
  | .paceWarnWrite _ => []
  | .wpFlitReceive _ => []
  | .wpNakRepeat => []
  | .wpNakLimit => []
  | .wpWireFailed wire => [wire < 1088]
  | .wpFlitSend => []
  | .wpSubstReqReceived group target spare => [group < 8, target < 136, spare < 4]
  | .wpSubstAckReceived group target spare seq => [group < 8, target < 136, spare < 4, seq < 4096]
  | .wpSpareTakeover group target spare => [group < 8, target < 136, spare < 4]
  | .wpClockLoss g _ => [g < 8]
  | .wpClockLossTimeout g => [g < 8]
  | .wpTrainingPhaseEnd inFailed _ => [legalReport inFailed]
  | .wpHostClockTimeout => []
  | .wpInitDoneReceived => []
  | .wpCreditShortfallTimeout => []
  | .wpIdleEnter => []
  | .laneSyncSymbolReceived p l prof _ _ _ _ snr taps => [p < 4, l < 5, prof < 4, snr.length ≤ 128, taps.length ≤ 128]
  | .wpIdleWake => []
  | .wpParkReqReceived => []
  | .wpParkAckReceived => []
  | .wpParkNakReceived => []
  | .laneStatusWordReceived p l _ => [p < 4, l < 5]
  | .wpParkTimer => []
  | .wpParkWake => []
  | .wpReinitReceived => []
  | .laneMarkerReceived p l n _ => [p < 4, l < 5, 4 ≤ n, n ≤ 6]
  | .laneQualificationLost p l cause _ => [p < 4, l < 5, cause < 3]
  | .laneRequalifyTimeout p l => [p < 4, l < 5]
  | .laneDegraded p l => [p < 4, l < 5]
  | .bringupStepTimer p => [p < 4]
  | .bringupRestoreTimer p => [p < 4]
  | .bringupTimer p => [p < 4]
  | .fpQuietEnter p => [p < 4]
  | .fpFlitReceive p _ => [p < 4]
  | .fpDarkEnter p => [p < 4]
  | .fpQuietExit p => [p < 4]
  | .fpDarkExit p => [p < 4]
  | .fpEnergyWake p => [p < 4]
  | .fpInitReceived p _ _ => [p < 4]
  | .fpWakeQualifyTimeout p => [p < 4]
  | .fpBadFlitLimit p => [p < 4]
  | .fpNakRepeat p => [p < 4]
  | .fpNakLimit p => [p < 4]
  | .fpSubstReqReceived p logical failed spare => [p < 4, logical < 4, failed < 5, spare < 5]
  | .fpFlitSend p => [p < 4]
  | .fpInitTimeout p => [p < 4]
  | .fpReinitReceived p => [p < 4]
  | .fpNodeDownReceived p => [p < 4]
  | .routeRevert _ => []
  | .fpSubstMarkersSend p => [p < 4]
  | .fpSubstTimeout p => [p < 4]
  | .forwardHoldTimeout egress => [egress < 5]
  | .mapSwitch => []
  | .rdShared ing m => [ing < 5, hOp m.h0 = opRdShared, m.data.length = dataLines m.h0]
  | .rdOwn ing m => [ing < 5, hOp m.h0 = opRdOwn, m.data.length = dataLines m.h0]
  | .claim ing m => [ing < 5, hOp m.h0 = opClaim, m.data.length = dataLines m.h0]
  | .rdCur ing m => [ing < 5, hOp m.h0 = opRdCur, m.data.length = dataLines m.h0]
  | .regulatorRelease _ _ => []
  | .rdLong ing m => [ing < 5, hOp m.h0 = opRdLong, m.data.length = dataLines m.h0]
  | .evictClean ing m => [ing < 5, hOp m.h0 = opEvictClean, m.data.length = dataLines m.h0]
  | .wr ing m => [ing < 5, hOp m.h0 = opWr, m.data.length = dataLines m.h0]
  | .wrLong ing m => [ing < 5, hOp m.h0 = opWrLong, m.data.length = dataLines m.h0]
  | .requestAccept _ _ _ => []
  | .wrback ing m => [ing < 5, hOp m.h0 = opWrback, m.data.length = dataLines m.h0]
  | .atomic ing m => [ing < 5, hOp m.h0 = opAtomic, m.data.length = dataLines m.h0]
  | .bulkOp ing m => [ing < 5, hOp m.h0 = opBulk, m.data.length = dataLines m.h0]
  | .snpRsp ing m => [ing < 5, hOp m.h0 = opSnpRsp, m.data.length = dataLines m.h0]
  | .evictionQueueFree _ => []
  | .snpRspd ing m => [ing < 5, hOp m.h0 = opSnpRspd, m.data.length = dataLines m.h0]
  | .gack ing m => [ing < 5, hOp m.h0 = opGack, m.data.length = dataLines m.h0]
  | .mgRd ing m => [ing < 5, hOp m.h0 = opMgRd, m.data.length = dataLines m.h0]
  | .mgWr ing m => [ing < 5, hOp m.h0 = opMgWr, m.data.length = dataLines m.h0]
  | .snoopSectorAdmit _ => []
  | .snoopTimeout _ _ => []
  | .gackTimeout _ => []
  | .wrbackWaitTimeout _ _ => []
  | .contextQuarantineEnd _ => []
  | .writeDataComplete _ _ _ _ => []
  | .dataTimeout _ => []
  | .allotReserve port => [port < 5]
  | .snoopReservePlace _ => []
  | .tagWalk region _ way _ _ _ errs => [region < 4, way < 16, errs.all (fun e => e.1 < 32 && e.2.1 < 72)]
  | .hintSweepRead region => [region < 4]
  | .ucSliceTimeout slice _ => [slice < 64]
  | .ucOscFault => []
  | .ucResetHold => []
  | .ucResetOscStable => []
  | .ucResetSlicesReturn => []
  | .blockCaSlot b => [b < 36]
  | .dramReadData b _ _ errs => [b < 36, errs.all (fun p => p.1 < 72)]
  | .actEchoReceived b bank _ _ _ => [b < 36, bank < 68]
  | .bankIdleTimeout b bank => [b < 36, bank < 68]
  | .refreshDue b bank => [b < 36, bank < 68]
  | .blockDrainComplete b => [b < 36]
  | .blockPlacementOpen b => [b < 36]
  | .trowelOpStart => []
  | .bulkAccessCheckComplete _ => []
  | .rangeScanComplete _ _ => []
  | .trowelStepAccept _ => []
  | .rowCheckReadComplete _ lb _ => [lb < 32]
  | .rowOpComplete b => [b < 36]
  | .trowelOpComplete _ => []
  | .primerClonesComplete failedRows => [rowsIn failedRows]
  | .primerComplete failedSubs stillFailing => [rowsIn failedSubs, rowsIn stillFailing]
  | .errorHistoryExpire b => [b < 36]
  | .tsvSubstitution b => [b < 36]
  | .rowRepair b => [b < 36]
  | .columnRepair b => [b < 36]
  | .storeroomSave => []
  | .migrationStart region => [region < 4]
  | .migrationRowCopy region _ => [region < 4]
  | .migrationSwitch region => [region < 4]
  | .scrubRead _ => []
  | .scrubAutoStart => []
  | .holdSaturated _ => []
  | .regulationWindowEnd => []
  | .dfWrite _ => []
  | .accessSwitch => []
  | .evtPush t => [t < 8]
  | .haltResponderRequest _ _ => []
  | .faultAck _ => []
  | .faultAckC1All => []
  | .faultAckC2All => []
  | .logOverflowClear => []
  | .lostReset => []
  | .thermalSample die vals _ power => [die < 18, vals.length = (diePos die).length, power.length = 4]
  | .throttleStepDown region => [region < 4]
  | .throttleStepUp region => [region < 4]
  | .orderlyStopWriteback => []
  | .thermalResume => []
  | .bondWearSave => []
  | .tdcMeasure taps => [taps ≤ 2048]
  | .referenceLost => []
  | .referenceRelock => []
  | .sensorScaleMeasure scales => [scales.length = 18]
  | .walkStart b => [b < 36]
  | .walkTake b delays spare => [b < 36, tapsOk delays, tapsOk spare]
  | .walkGive b spare => [b < 36, tapsOk spare]
  | .walkLate b => [b < 36]
  | .calRecordWrite => []
  | .powerOn _ => []
  | .pllLock => []
  | .bootHalt cause => [cause < 3]
  | .startupBistComplete _ reads => [reads.all (fun p => p.1 < 4096)]
  | .imageLoadComplete slowA _ _ badCopies => [slowA ≤ 3, badCopies.all (fun c => c < 6)]
  | .coldCalibrationComplete taps lines scales failed badSlices =>
      [taps ≤ 2048, lines.all (fun p => p.1 < 184320 && p.2.1.length = 21), scales.length = 18, failed.all (fun b => b < 36), badSlices.all (fun c => c < 64)]
  | .identityKeyReady => []
  | .fwWaitExpiry _ => []
  | .larderWatchdog => []
  | .fwLoadTimeout => []
  | .fullStackReset => []
  | .retainingReset => []
  | .scanEntry die ir => [die < 18, entersScan die ir]
  | .retainingResetTe => []
  | .retainingResetRelease => []
  | .testPortInstruction die ir => [die < 18, !entersScan die ir]
  | .spdmGo _ _ => []
  | .spdmRelease _ => []
  | .spdmIdleTimeout => []
  | .getVersion => []
  | .getCapabilities => []
  | .negotiateAlgorithms => []
  | .hatchBufferWrite h _ off bytes => [h < 16, off + bytes.length ≤ 4096]
  | .getDigests => []
  | .getCertificate => []
  | .challenge => []
  | .getMeasurements => []
  | .hatchRing h _ => [h < 16]
  | .hatchAnswer h => [h < 16]
  | .idGet h => [h < 16]
  | .idPubkey h => [h < 16]
  | .idCert h => [h < 16]
  | .fuseWordBurned _ => []
  | .idMeasure h => [h < 16]
  | .cfgGet h => [h < 16]
  | .cfgSet h => [h < 16]
  | .tblWrite h => [h < 16]
  | .laneTestComplete p l n errs => [p < 4, l < 5, errsLegal n errs]
  | .tblRead h => [h < 16]
  | .routeCommit h => [h < 16]
  | .regCommit h => [h < 16]
  | .accWrite h => [h < 16]
  | .testConditionsHeld => []
  | .accRead h => [h < 16]
  | .accCommit h => [h < 16]
  | .accStatus h => [h < 16]
  | .accLog h => [h < 16]
  | .testDeferLimit _ => []
  | .accLogClear h => [h < 16]
  | .scrubStart h => [h < 16]
  | .scrubStatus h => [h < 16]
  | .retire h => [h < 16]
  | .testCopyInComplete _ => []
  | .storeroom h => [h < 16]
  | .regionReset h => [h < 16]
  | .regionResetAdmissionsOpen region => [region < 4]
  | .ucReset h => [h < 16]
  | .testMarchStep _ bad _ => [bad.all (fun b => b < 18432)]
  | .faultLog h => [h < 16]
  | .faultInjection h => [h < 16]
  | .thermStatus h => [h < 16]
  | .wearRead h => [h < 16]
  | .testRestoreComplete _ => []
  | .powerStatus h => [h < 16]
  | .vaultStatus h => [h < 16]
  | .fuseProgram h => [h < 16]
  | .fuseCommit h => [h < 16]
  | .perfSelWrite k _ => [k < 128]
  | .fuseLock h => [h < 16]
  | .fuseRemap h => [h < 16]
  | .fuseRead h => [h < 16]
  | .imageBegin h => [h < 16]
  | .perfCntWrite k _ => [k < 128]
  | .imageWrite h => [h < 16]
  | .imageCommit h => [h < 16]
  | .imageStatus h => [h < 16]
  | .imageRead h => [h < 16]
  | .perfClearAll => []
  | .wpStatus h => [h < 16]
  | .fpLanes h => [h < 16]
  | .laneTest h => [h < 16]
  | .ucStatus h => [h < 16]
  | .perfOvfClear _ _ => []
  | .blockStatus h => [h < 16]
  | .trowelStatus h => [h < 16]
  | .calStatus h => [h < 16]
  | .regStatus h => [h < 16]
  | .sampleTrigger => []
  | .testStart h => [h < 16]
  | .testResult h => [h < 16]
  | .testUnitGrant region => [region < 4]
  | .perfCounterWrap k => [k < 128]
  | .evtTailWrite t _ => [t < 8]
  | .sampleSet h => [h < 16]
  | .sampleStatus h => [h < 16]
  | .traceClear h => [h < 16]
  | .evtDropClear t => [t < 8]
  | .registerWrite _ off _ => [off % 8 = 0, off < 0x10000]
  | .twTransactionStart => []
  | .twTransactionComplete _ _ => []
  | .twAckPoll _ => []
  | .twPollTimeout => []
  | .twStretchTimeout => []
  | .twBusStuck => []
  | .twBusUnstuck => []
  | .voltageRequest _ => []
  | .twBusConflict => []
  | .twIdleWaitEnd => []
  | .readVoutPoll => []
  | .boardSensorAccess sensor bs rd => [sensor < 4, bs.length + rd ≤ 16]
  | .twAlert => []
  | .progressStarvation b => [b < 36]
  | .powerRemoved => []
  | .railOutOfRange rail => [rail < 5]
  | .railRestored rail => [rail < 5]
  | .stackRstNRising => []
  | .fwBegin h => [h < 16]
  | .fwData h => [h < 16]
  | .fwEnd h => [h < 16]
  | .fwActivate h => [h < 16]
  | .wrColumnEcho b _ _ => [b < 36]
  | .fwStatus h => [h < 16]
  | .trstNAsserted => []
  | .larderAreaAccess addr bs rd =>
      [0x10000 ≤ addr, addr + bs.length ≤ 0x20000, addr + rd ≤ 0x20000, (bs = [] ∨ rd = 0)]
  | .internalBulkOp h h0 _ => [h < 16, hOp h0 = opBulk]
  | .retainingResetWriteback => []
  | .twIdleWaitTimeout => []
  | .larderWatchdogSignal => []

/-- The operands of a command lie in the ranges of the units they name. -/
def Instr.wf (i : Instr) : Bool := i.checks.all (fun c => c)

end Sys2Proof
end

