-- ==== Sys2Proof/Certificates/Slice0/Obligations.lean ====
section
/-! DEFINITION. The statements about the block that the provers prove. -/

open Sys2Proof Sys2Proof.Machine

/-- For every command c and state s, the step of s with c at the front of its queue is exec of c on s with the queue's
rest; on an empty queue one tick passes, so a step never stops there. That the empty queue lets a tick pass is the
model's choice (log entry 1).  Rules: R25. -/
def Obligations.StepRunsTheFrontCommand : Prop :=
  (∀ (c : Instr) (rest : List Instr) (s : State),
    step { s with pending := c :: rest } = exec c { s with pending := rest }) ∧
  (∀ s : State, s.pending = [] → ∃ t, step s = .next t ∧ t.now = s.now + 1 ∧ t.pending = [])

/-- A sample of eight readings, all above PACE_WARN, that is due (the first, or 10 us after the latest) completes; one
that is not due changes nothing: PACE_NOW is one of the readings and no reading is below it, MIN_SOURCE names a
loop that gave it, PACE_MIN falls to it if it is lower, the event of R29 is armed again, the pace registers alone
change, and the conditions of the in-service tests are then judged. It says when each of these completes, and with
which next state: PACE_SAMPLE.  Rules: R28. -/
def Obligations.PaceSampleTakesTheLowestReading : Prop :=
  ∀ (s : State) (rs : List (BitVec 16)), live s = true → rs.length = 8 →
    (paceDue s = false → exec (.paceSample rs) s = .next s) ∧
    ((∀ t0, s.pace.sampledAt = some t0 → waited s t0 10000 = true) → 0x1000 ≤ s.pace.warn.toNat →
    (∀ r ∈ rs, s.pace.warn.toNat < r.toNat) →
    ∃ p : Pace, exec (.paceSample rs) s = .next (checkConds { s with pace := p }) ∧
      p.now ∈ rs ∧ (∀ r ∈ rs, p.now.toNat ≤ r.toNat) ∧ rs[p.minSource.toNat]? = some p.now ∧
      p.min.toNat = min s.pace.min.toNat p.now.toNat ∧ p.armed = true ∧ p.lowRun = 0 ∧ p.okRun = s.pace.okRun + 1 ∧
      p.lowSamples = s.pace.lowSamples ∧ p.outOfRange = s.pace.outOfRange ∧ p.warn = s.pace.warn ∧
      p.sampledAt = some s.now)

/-- For eight equal readings v of a sample that is due. At or below PACE_WARN but not below 0x1000, with the event
armed: C0 0x0101 with PACE_NOW and MIN_SOURCE, and the event is disarmed; disarmed, no event. Below 0x1000 for the
third time running with OUT_OF_RANGE clear: LOW_SAMPLES counts one more, OUT_OF_RANGE is set and C1 0x0102 is
raised; with OUT_OF_RANGE set the fault does not repeat. OUT_OF_RANGE clears only when no condition lasts;
MIN_CLEAR sets PACE_MIN to 0xFFFF; a write of LOW_SAMPLES sets it to 0; PACE_WARN takes a value from 0x1000 to
0x1800 and ignores any other; VDD_CORE outside its range for more than 100 us sets OUT_OF_RANGE and raises C1
0x0102 once. Nothing else changes. It says when each of these completes, and with which next state: PACE_SAMPLE,
VDD_CORE_OUT_OF_RANGE, PACE_WARN_WRITE, OUT_OF_RANGE_CLEAR, MIN_CLEAR, LOW_SAMPLES_RESET.  Rules: R29, R30. -/
def Obligations.PaceReactions : Prop :=
  (∀ (s : State) (v : BitVec 16), live s = true → paceDue s = true → v.toNat ≤ s.pace.warn.toNat →
    let src : BitVec 3 := 0
    let p0 : Pace := { s.pace with
      now := v, min := BitVec.ofNat 16 (min s.pace.min.toNat v.toNat), minSource := src, armed := false, sampledAt := some s.now }
    let low : Pace := { p0 with
      lowRun := s.pace.lowRun + 1, okRun := 0, lowSamples := BitVec.ofNat 16 (min (s.pace.lowSamples.toNat + 1) 0xFFFF) }
    (0x1000 ≤ v.toNat →
      let u : State := { s with pace := { p0 with lowRun := 0, okRun := s.pace.okRun + 1 } }
      exec (.paceSample (List.replicate 8 v)) s =
        .next (checkConds (if s.pace.armed then c0 u 7 0x0101 v.toNat 0 else u))) ∧
    (v.toNat < 0x1000 → s.pace.armed = false → s.pace.lowRun = 2 → s.pace.outOfRange = false →
      exec (.paceSample (List.replicate 8 v)) s =
        .next (checkConds (chipFault { occ { s with pace := low } 0x10C 7 0xF 1 with
          pace := { low with outOfRange := true } } .c1 7 0x0102 v.toNat))) ∧
    (v.toNat < 0x1000 → s.pace.armed = false → s.pace.outOfRange = true →
      exec (.paceSample (List.replicate 8 v)) s = .next (checkConds (occ { s with pace := low } 0x10C 7 0xF 1)))) ∧
  (∀ s : State, live s = true →
    ((s.pace.vddOut = true ∨ s.pace.hot = true ∨ s.pace.okRun < 100) → exec .outOfRangeClear s = .next s) ∧
    (s.pace.vddOut = false → s.pace.hot = false → 100 ≤ s.pace.okRun →
      exec .outOfRangeClear s = .next { s with pace := { s.pace with outOfRange := false } }) ∧
    exec .minClear s = .next { s with pace := { s.pace with min := 0xFFFF } } ∧
    exec .lowSamplesReset s = .next { s with pace := { s.pace with lowSamples := 0 } } ∧
    (∀ v : BitVec 16, 0x1000 ≤ v.toNat → v.toNat ≤ 0x1800 →
      exec (.paceWarnWrite v) s = .next { s with pace := { s.pace with warn := v } }) ∧
    (∀ v : BitVec 16, (v.toNat < 0x1000 ∨ 0x1800 < v.toNat) → exec (.paceWarnWrite v) s = .next s) ∧
    (∀ since, since + 100000 < s.now → s.pace.outOfRange = false →
      exec (.vddCoreOutOfRange since true) s =
        .next (chipFault { s with pace := { s.pace with vddOut := true, outOfRange := true } } .c1 7 0x0102
          (s.pace.now.toNat + s.pace.minSource.toNat * 2 ^ 16))) ∧
    (∀ since, exec (.vddCoreOutOfRange since false) s = .next { s with pace := { s.pace with vddOut := false } }))

/-- With the reference locked, each 1 ms, taps from 700 to 1400 set TDC_LSB to 1,024,000 / taps and any other count
fails the TDC with C1 0x0F02; the loss of the reference begins HOLDOVER, counts it and raises C1 0x0F01; its return
locks the unit again and ends the period at the next tick; scales are put in force every 10 s. Nothing else
changes. It says when each of these completes, and with which next state: TDC_MEASURE, SENSOR_SCALE_MEASURE,
REFERENCE_LOST, REFERENCE_RELOCK.  Rules: R418, R419, R422, R428. -/
def Obligations.TimingUnitCommands : Prop :=
  ∀ s : State, live s = true →
    (∀ taps t0, s.cal.timing = .locked → s.cal.tdcAt = some t0 → waited s t0 1000000 = true →
      (700 ≤ taps → taps ≤ 1400 → exec (.tdcMeasure taps) s = .next { s with cal := { s.cal with
        tdcAt := some s.now, tdcLsb := BitVec.ofNat 16 (1024000 / taps) } }) ∧
      (taps ≤ 2048 → (taps < 700 ∨ 1400 < taps) → exec (.tdcMeasure taps) s =
        .next (chipFault { s with cal := { s.cal with tdcAt := some s.now, timing := .tdcFailed } } .c1 12 0x0F02 0))) ∧
    (∀ taps t0, s.cal.tdcAt = some t0 → waited s t0 1000000 = false → exec (.tdcMeasure taps) s = .next s) ∧
    (s.cal.holdover = false → s.cal.timing = .locked →
      exec .referenceLost s = .next (chipFault { s with cal := { s.cal with
        timing := .holdover, holdover := true, spans := s.cal.spans ++ [(s.now, none)],
        holdovers := BitVec.ofNat 32 (min (s.cal.holdovers.toNat + 1) (2 ^ 32 - 1)) } } .c1 12 0x0F01 0)) ∧
    (s.cal.holdover = true → s.cal.timing = .holdover →
      exec .referenceRelock s = .next { s with cal := { s.cal with
        timing := .locked, holdover := false,
        spans := s.cal.spans.map (fun p => if p.2.isNone then (p.1, some (s.now + 1)) else p) } }) ∧
    (∀ scales : List (BitVec 16), scales.length = 18 → s.cal.timing ≠ .tdcFailed →
      waited s s.cal.scaleAt 10000000000 = true →
      ∃ t, exec (.sensorScaleMeasure scales) s = .next t ∧ t = { s with cal := { s.cal with
          scaleAt := s.now, scale := t.cal.scale } } ∧
        ∀ d < 18, scaleV t d = (scales[d]?).getD 0)

/-- A walk starts on a serving block with a free spare TSV and its period over: its next wire is 0 and its period
starts anew. At an idle period the spare takes the next wire, with its measured delays held, by one WALK_TAKE to
every die; given back 1.5 us later, its delays are in force with the selections they give, the walk goes on to the
next wire and counts a step. A walk late by four periods raises C0 0x0F03 once and is counted. It says when each of
these completes, and with which next state: WALK_START, WALK_TAKE, WALK_GIVE, WALK_LATE.  Rules: R424, R425, R426, R427. -/
def Obligations.CalibrationWalks : Prop :=
  ∀ (s : State) (b : Nat), live s = true → b < 36 →
    ((s.cal.walkEn = true → s.cal.timing = .locked → s.cal.done = true → (blk s b).st = .serving →
        (walkOf s b).next = none → (walkOf s b).wire = none → freeTsvs s b ≠ [] →
        waited s (walkOf s b).lastFull (s.cal.walkPeriod.toNat * 1000000) = true →
        ∃ t, exec (.walkStart b) s = .next t ∧ t = { s with cal := t.cal } ∧
          (walkOf t b).next = some 0 ∧ (walkOf t b).lastFull = s.now ∧ (walkOf t b).lateRaised = false ∧
          ∀ a, a ≠ b → walkOf t a = walkOf s a) ∧
     (∀ (n k : Nat) (rest : List Nat) (ds sp : List (Nat × Nat × Option Nat)),
        s.cal.walkEn = true → s.cal.timing = .locked → (walkOf s b).next = some n → (walkOf s b).wire = none →
        (walkOf s b).requal = [] → freeTsvs s b = k :: rest → (blk s b).st = .serving → blockIdle s b 500 = true →
        tapsOk ds = true → tapsOk sp = true → wireFails s b n ds = false →
        ∃ t, exec (.walkTake b ds sp) s = .next t ∧ t = { s with cal := t.cal, blocks := t.blocks } ∧
          walkOf t b = { walkOf s b with
            wire := some n, spare := k, takenAt := s.now, pend := wireMeas s b n ds,
            loops := (List.range 16).flatMap (fun d => [(d, true), (d, false)]) } ∧
          (blk t b).lastCa.map (fun w => w.word) = (List.range 16).flatMap (fun d =>
            [caWord 7 d 0 0x02 false, BitVec.ofNat 16 ((n + k * 256) * 8)]) ∧
          ∀ a, a ≠ b → blk t a = blk s a) ∧
     (∀ n key v, n + 1 < 152 → (walkOf s b).wire = some n → (walkOf s b).next = some n → (walkOf s b).requal = [] →
        (walkOf s b).pend = [(key, v)] → blockIdle s b 500 = true → waited s (walkOf s b).takenAt 1500 = true →
        ∃ t, exec (.walkGive b []) s = .next t ∧ t = { s with cal := t.cal, blocks := t.blocks } ∧
          walkOf t b = { walkOf s b with wire := none, next := some (n + 1), loops := [], pend := [] } ∧
          smGet none t.cal.meas key = some v ∧ smGet 0 t.cal.sel key = pickSel s key v ∧
          (∀ a, a ≠ b → blk t a = blk s a) ∧
          t.cal.walkSteps.toNat = min (s.cal.walkSteps.toNat + 1) (2 ^ 64 - 1)) ∧
     (s.cal.walkEn = true → s.cal.done = true → (walkOf s b).lateRaised = false → (walkOf s b).next = some 0 →
        expired s (walkOf s b).lastDone (4 * (s.cal.walkPeriod.toNat * 1000000)) = true →
        ∃ u, exec (.walkLate b) s = .next (raiseC0 u .block (b / 9) b 0x0F03 0 0) ∧ u = { s with cal := u.cal } ∧
          walkOf u b = { walkOf s b with lateRaised := true } ∧
          u.cal.walkLate.toNat = min (s.cal.walkLate.toNat + 1) (2 ^ 32 - 1)))

/-- A sample that is due completes; after it CW_THERM_STATUS names the highest DRAM value and the highest base-die
value, THERM_N is low exactly when a region is throttled or pre-throttled or a stop is in force or in progress, and
the conditions of the in-service tests are judged. It says when each of these completes, and with which next state:
THERMAL_SAMPLE.  Rules: R365, R369, R374, R382. -/
def Obligations.ThermalSampleStatus : Prop :=
  ∀ (s : State) (die : Nat) (vals : List (Option (BitVec 16))) (spare : Option (BitVec 16)) (power : List Nat),
    wired s = true → die < 18 → vals.length = (diePos die).length → power.length = 4 → sampleDue s die = true →
    ∃ u, exec (.thermalSample die vals spare power) s = .next (checkConds u) ∧
      (∀ i < 72, tval u i ≤ s16 u.heat.hotDram) ∧ (∀ i, 72 ≤ i → i < 88 → tval u i ≤ s16 u.heat.hotBase) ∧
      (u.pins.thermLow = true ↔ (∃ r < 4, (zone u r).t < 16 ∨ (zone u r).pre = true) ∨ u.heat.stop ≠ .running)

/-- A region still at its throttle limit 100 us after its last step down goes down two levels, not below T_MIN; a
region below its hold band goes up one level each 1 ms, to 16, or to 12 in pre-throttle. Other regions keep their
level, and no other die's value, no memory and no register outside the heat group, the fault counts and the events
changes. It says when each of these completes, and with which next state: THROTTLE_STEP_DOWN, THROTTLE_STEP_UP.  Rules: R372, R373. -/
def Obligations.ThrottleSteps : Prop :=
  ∀ (s : State) (r : Nat), live s = true → r < 4 →
    (∀ t0, (zone s r).lastDown = some t0 → zoneHot s r = true → waited s t0 100000 = true →
      ∃ t, exec (.throttleStepDown r) s = .next t ∧ (zone t r).t = max s.heat.tMin.toNat ((zone s r).t - 2) ∧
        (zone t r).lastDown = some s.now ∧ (∀ q < 4, q ≠ r → zone t q = zone s q) ∧ t.heat.pos = s.heat.pos ∧
        t = { s with heat := t.heat, mg := t.mg, perf := t.perf, faults := t.faults }) ∧
    (∀ t0, (zone s r).belowSince = some t0 → (zone s r).t < (if (zone s r).pre then 12 else 16) →
      waited s (max t0 (zone s r).lastUp) 1000000 = true →
      ∃ t, exec (.throttleStepUp r) s = .next t ∧ (zone t r).t = (zone s r).t + 1 ∧ (zone t r).lastUp = s.now ∧
        (∀ q < 4, q ≠ r → zone t q = zone s q) ∧ t.heat.pos = s.heat.pos ∧
        t = { s with heat := t.heat, mg := t.mg, perf := t.perf, faults := t.faults })

/-- 20 us after t0 of an orderly stop whose blocks have all left service, the stop is complete. A stopped stack whose
positions have been cool for 10 ms begins its resume; an unfinished condition leaves it as it is. The hourly wear
record is queued on the two-wire bus. It says when each of these completes, and with which next state:
ORDERLY_STOP_WRITEBACK, THERMAL_RESUME, BOND_WEAR_SAVE.  Rules: R377, R381, R383. -/
def Obligations.ThermalStopEndAndResume : Prop :=
  ∀ s : State, live s = true →
    (s.heat.stop = .orderly → waited s s.heat.stopAt 20000 = true → (∀ b < 36, activeBlock (blk s b) = false) →
      (∀ b < 36, (blk s b).st ≠ .leaving) →
      ∃ t, exec .orderlyStopWriteback s = .next t ∧ t.heat.stop = .stopped) ∧
    (∀ t0, s.heat.stop = .stopped → s.heat.coolSince = some t0 → waited s t0 10000000 = true →
      ∃ t, exec .thermalResume s = .next t ∧ t.heat.stop = .resuming ∧ t.heat.resumeAt = s.now) ∧
    (s.heat.stop = .running → exec .thermalResume s = .next s) ∧
    (s.heat.storeOk = true → waited s s.heat.wearSaved 3600000000000 = true → twBusyFor s .wear = false →
      ∃ t, exec .bondWearSave s = .next t ∧ t.heat.wearSaved = s.now ∧ s.tw.waiting.length < t.tw.waiting.length ∧
        t = { s with heat := t.heat, tw := t.tw })

/-- The oldest waiting transaction of the highest class that may start is taken onto a free bus. A READ_VOUT that
completes gives VDD_CORE. An EEPROM that does not acknowledge its address is polled; the acknowledge of a poll
after a page ends the write cycle with the page in the EEPROM. A transaction that fails is retried from its first
byte, at most three times. A device that acknowledges its poll ends its write cycle, and one polled for 10 ms
fails. TW_SCL high for 100 us frees a stuck bus. A poll that is not acknowledged leaves the device in its write
cycle with the time of its first such poll kept; the EEPROM poll of start-up finds the second device or does not; a
write cycle polled for 10 ms ends and its transaction is tried again; a stretch of 10 ms fails the transaction and
TW_SCL low a further 10 ms makes the bus stuck, with C1 0x1405 and every waiting transaction failed; a conflict is
counted as an attempt and waits for 100 us of idle bus, after which the transaction is tried again; 10 ms without
such a wait fail the attempt; an alert raises C0 0x1403 at most once a second. It says when each of these
completes, and with which next state: TW_TRANSACTION_COMPLETE, TW_ACK_POLL, TW_TRANSACTION_START, TW_POLL_TIMEOUT,
TW_STRETCH_TIMEOUT, TW_BUS_STUCK, TW_BUS_UNSTUCK, TW_BUS_CONFLICT, TW_IDLE_WAIT_END, TW_ALERT,
TW_IDLE_WAIT_TIMEOUT.  Rules: R514, R515, R516, R517, R521. -/
def Obligations.TwoWireBusTransactions : Prop :=
  (∀ s : State, live s = true →
    (∀ (t : TwTrans) (i : Nat), s.tw.cur = none → s.tw.stuck = false → twPick s = some i → s.tw.waiting[i]? = some t →
      pageStop s t = none →
      exec .twTransactionStart s =
        .next { s with tw := { s.tw with
          cur := some t, stretch := none, lastVoutCmd := if isVout t then some s.now else s.tw.lastVoutCmd,
          waiting := s.tw.waiting.eraseIdx i } }) ∧
    (∀ t : TwTrans, s.tw.cur = some t → twDevice t.kind ≠ none → s.tw.idleSince = none →
      exec (.twAckPoll false) s = .next { s with tw := { s.tw with
        cur := none, polls := s.tw.polls ++ [({ t with unsent := true }, some s.now, s.now)] } }) ∧
    (∀ (t : TwTrans) (a : Nat) (d : List (BitVec 8)) (u : Nat), s.tw.cur = none → s.tw.stuck = false →
      s.boot.phase ≠ .image → t.kind = .eeWrite a d → t.who = .larder → t.unsent = false → twChunk s t.kind = d.length →
      s.tw.polls = [(t, none, u)] →
      exec (.twAckPoll true) s = .next { s with
        img := { s.img with eeprom := bmWrite s.img.eeprom a d }, tw := { s.tw with polls := [] } }) ∧
    (∀ t : TwTrans, s.tw.cur = some t → s.tw.idleSince = none → ∃ r, exec .twBusConflict s = .next r ∧
      r.tw.cur = some { t with attempts := t.attempts + 1 } ∧ r.tw.idleSince = some (s.now, s.now) ∧
      r.tw.waiting = s.tw.waiting) ∧
    (∀ (t : TwTrans) (rd : List (BitVec 8)) (v : Nat), s.tw.cur = some t → s.tw.idleSince = none → t.kind = .readVout →
      voutMv s (leAt rd 0 2) = some v →
      exec (.twTransactionComplete rd true) s =
        .next { s with tw := { s.tw with cur := none }, mg := { s.mg with vdd := BitVec.ofNat 16 v } }) ∧
    (∀ (t : TwTrans) (rd : List (BitVec 8)), s.tw.cur = some t → s.tw.idleSince = none → t.attempts < 3 →
      ∃ a : Nat, exec (.twTransactionComplete rd false) s = .next { s with tw := { s.tw with
        cur := none, waiting := { t with attempts := t.attempts + 1, addr := a } :: s.tw.waiting } }) ∧
    exec .twBusUnstuck s = .next { s with tw := { s.tw with stuck := false, stretch := none } }) ∧
  (∀ s : State, live s = true →
    (∀ t u, s.tw.cur = none → s.tw.stuck = false → s.boot.phase ≠ .image → s.tw.polls = [(t, none, u)] →
      exec (.twAckPoll false) s = .next { s with tw := { s.tw with polls := [(t, some s.now, s.now)] } }) ∧
    (∀ ack, s.tw.cur = none → s.tw.stuck = false → s.boot.phase = .image →
      exec (.twAckPoll ack) s = .next { s with img := { s.img with two := s.img.two || ack } }) ∧
    (∀ t f u, s.boot.phase ≠ .image → s.tw.polls = [(t, some f, u)] → expired s f 10000000 = true → t.attempts < 3 →
      ∃ r, exec .twPollTimeout s = .next r ∧ r.tw.polls = [] ∧
        (r.tw.waiting.head?).map (fun x => (x.kind, x.who, x.attempts)) = some (t.kind, t.who, t.attempts + 1)) ∧
    (∀ t, s.tw.cur = some t → t.attempts < 3 →
      ∃ r, exec .twStretchTimeout s = .next r ∧ r.tw.cur = none ∧ r.tw.idleSince = none ∧ r.tw.stretch = some s.now ∧
        (r.tw.waiting.head?).map (fun x => (x.kind, x.who, x.attempts)) = some (t.kind, t.who, t.attempts + 1)) ∧
    (∀ u, s.tw.stretch = some u → expired s u 10000000 = true → s.tw.stuck = false →
      exec .twBusStuck s =
        .next (twFailAll (chipFault { s with tw := { s.tw with stuck := true } } .c1 15 0x1405 0))) ∧
    (∀ t u t0, s.tw.cur = some t → s.tw.idleSince = some (u, t0) →
      exec .twBusConflict s = .next { s with tw := { s.tw with idleSince := some (s.now, t0) } }) ∧
    (∀ t u t0, s.tw.cur = some t → s.tw.idleSince = some (u, t0) → waited s u 100000 = true → t.attempts < 4 →
      exec .twIdleWaitEnd s = .next { s with tw := { s.tw with idleSince := none } }) ∧
    (∀ t u t0, s.tw.cur = some t → s.tw.idleSince = some (u, t0) → expired s t0 10000000 = true → t.attempts < 4 →
      ∃ a : Nat, exec .twIdleWaitTimeout s = .next { s with tw := { s.tw with
        cur := none, idleSince := none, waiting := { t with addr := a } :: s.tw.waiting } }) ∧
    (s.tw.alertC0 = none →
      exec .twAlert s = .next (c0 { s with tw := { s.tw with alertC0 := some s.now } } 15 0x1403 1 0)))

/-- While Larder runs, a voltage within range replaces a waiting VOUT_COMMAND and is queued, one outside it raises C0
0x1403; READ_VOUT is asked every 100 ms; a board sensor that is enabled and the Larder area of the calibration
store are asked for in their classes; the store room and the calibration record are queued when they have changed
and the temperature permits. Each request only joins the queue of the bus. It says when each of these completes,
and with which next state: VOLTAGE_REQUEST, BOARD_SENSOR_ACCESS, LARDER_AREA_ACCESS, STOREROOM_SAVE,
CAL_RECORD_WRITE, READ_VOUT_POLL.  Rules: R431, R287, R383, R413, R514, R519, R520. -/
def Obligations.TwoWireRequests : Prop :=
  ∀ s : State, live s = true →
    (∀ mv m, s.boot.larder = .running → s.tw.regEn = true → mantissa s mv = some m →
      exec (.voltageRequest mv) s = .next { s with tw := { s.tw with
        waiting := s.tw.waiting.filter (fun t => !isVout t) ++
          [{ cls := 1, kind := .voutCommand mv, who := .stack, addr := s.tw.regAddr.toNat, attempts := 0 }] } }) ∧
    (∀ mv, s.boot.larder = .running → mantissa s mv = none → exec (.voltageRequest mv) s = .next (c0 s 15 0x1403 0 0)) ∧
    (s.tw.regEn = true → waited s s.tw.lastPoll 100000000 = true →
      exec .readVoutPoll s = .next { s with tw := { s.tw with
        lastPoll := s.now,
        waiting := s.tw.waiting ++
          [{ cls := 1, kind := .readVout, who := .stack, addr := s.tw.regAddr.toNat, attempts := 0 }] } }) ∧
    (∀ i bs rd, i < 4 → bs.length + rd ≤ 16 → s.boot.larder = .running → s.tw.sensorEn.getLsbD i = true →
      ∃ a : Nat, exec (.boardSensorAccess i bs rd) s = .next { s with tw := { s.tw with
        waiting := s.tw.waiting ++ [{ cls := 5, kind := .sensor i bs rd, who := .larder, addr := a, attempts := 0 }] } }) ∧
    (∀ addr bs, 0x10000 ≤ addr → addr + bs.length ≤ 0x20000 → bs ≠ [] → s.boot.larder = .running →
      exec (.larderAreaAccess addr bs 0) s = .next { s with tw := { s.tw with
        waiting := s.tw.waiting ++ [{ cls := 4, kind := .eeWrite addr bs, who := .larder, addr := 0x50, attempts := 0 }] } }) ∧
    (∀ addr rd, 0x10000 ≤ addr → addr + rd ≤ 0x20000 → rd ≠ 0 → s.boot.larder = .running →
      exec (.larderAreaAccess addr [] rd) s = .next { s with tw := { s.tw with
        waiting := s.tw.waiting ++ [{ cls := 4, kind := .eeRead addr rd, who := .larder, addr := 0x50, attempts := 0 }] } }) ∧
    (s.store.unsaved = true → s.store.saving = none → s.heat.storeOk = true → twBusyFor s .storeRoom = false →
      ∃ t, exec .storeroomSave s = .next t ∧ t.store = { s.store with saving := some s.store.seq } ∧
        s.tw.waiting.length < t.tw.waiting.length ∧ t = { s with store := t.store, tw := t.tw }) ∧
    (s.cal.moved = true → s.heat.storeOk = true → s.cal.lastWrite = 0 → twBusyFor s .calibration = false →
      ∃ t, exec .calRecordWrite s = .next t ∧ t.cal.moved = false ∧ t.cal.lastWrite = s.now ∧
        t.cal.calCount.toNat = min (s.cal.calCount.toNat + 1) (2 ^ 32 - 1) ∧
        s.tw.waiting.length < t.tw.waiting.length ∧ t = { s with cal := t.cal, tw := t.tw })

/-- A write of an enabled Hatch's request buffer by its node stores those bytes and no others; RING by its node while
IDLE or DONE takes a copy of the request, remembers SEQ and NOTIFY, and makes the Hatch BUSY; a write or a RING by
another node, and a RING while BUSY, only add one to the rejected count. No other Hatch and nothing outside the
Hatches changes. It says when each of these completes, and with which next state: HATCH_BUFFER_WRITE, HATCH_RING.  Rules: R459, R460, R462, R465. -/
def Obligations.HatchBuffersAndRings : Prop :=
  ∀ (s : State) (h : Nat) (node : Node), live s = true → h < 16 → hatchOn s h = true →
    (∀ (off : Nat) (bs : List (BitVec 8)), node = hatchNode s h → off + bs.length ≤ 4096 →
      ∃ t, exec (.hatchBufferWrite h node off bs) s = .next t ∧ bmRead (hatch t h).req off bs.length = bs ∧
        (∀ a, a < off ∨ off + bs.length ≤ a → bmGet (hatch t h).req a = bmGet (hatch s h).req a) ∧
        hatch t h = { hatch s h with req := (hatch t h).req } ∧ (∀ k, k ≠ h → hatch t k = hatch s k) ∧
        t = { s with mg := { s.mg with hatches := t.mg.hatches } }) ∧
    (∀ (off : Nat) (bs : List (BitVec 8)), node ≠ hatchNode s h → off + bs.length ≤ 4096 →
      exec (.hatchBufferWrite h node off bs) s = .next (putHatch s h { hatch s h with
        rejected := BitVec.ofNat 16 (min ((hatch s h).rejected.toNat + 1) 0xFFFF) })) ∧
    (node = hatchNode s h → ((hatch s h).st = .idle ∨ (hatch s h).st = .done) →
      ∃ t, exec (.hatchRing h node) s = .next t ∧ (hatch t h).st = .busy ∧ (hatch t h).copy = (hatch s h).req ∧
        (hatch t h).req = (hatch s h).req ∧ (hatch t h).ringer = node ∧
        (hatch t h).seq = BitVec.ofNat 16 (leNat (bmRead (hatch s h).req 2 2)) ∧
        (hatch t h).notify = (leNat (bmRead (hatch s h).req 7 1)).testBit 0 ∧ (∀ k, k ≠ h → hatch t k = hatch s k) ∧
        t = { s with mg := { s.mg with hatches := t.mg.hatches } }) ∧
    ((node ≠ hatchNode s h ∨ (hatch s h).st = .busy) → (hatch s h).st ≠ .frozen →
      exec (.hatchRing h node) s = .next (putHatch s h { hatch s h with
        rejected := BitVec.ofNat 16 (min ((hatch s h).rejected.toNat + 1) 0xFFFF) }))

/-- For a Hatch rung by its node with MAJOR 3 in its request: LENGTH above 1,016 words is MALFORMED at byte 4, reserved
FLAGS at 7, reserved header bytes at 8; another MAJOR and an unlisted opcode are UNSUPPORTED; with Larder stopped
its commands are UNSUPPORTED and while it starts BUSY; a command its Hatch may not carry is DENIED. Each is the
result at once; a request that passes has none. It says when each of these completes, and with which next state:
HATCH_RING.  Rules: R462, R465. -/
def Obligations.HatchRequestChecks : Prop :=
  ∀ (s : State) (h : Nat), live s = true → h < 16 → hatchOn s h = true →
    ((hatch s h).st = .idle ∨ (hatch s h).st = .done) →
    let len := leNat (bmRead (hatch s h).req 4 2)
    let flags := leNat (bmRead (hatch s h).req 7 1)
    let op := leNat (bmRead (hatch s h).req 0 2)
    let res (x : Option (Nat × List (BitVec 8) × Nat × Nat)) : Prop :=
      ∃ t, exec (.hatchRing h (hatchNode s h)) s = .next t ∧ (hatch t h).result = x
    (1016 < len → res (some (2, [], 0, 4))) ∧
    (len ≤ 1016 → 2 ≤ flags → res (some (2, [], 0, 7))) ∧
    (len ≤ 1016 → flags < 2 → leNat (bmRead (hatch s h).req 8 24) ≠ 0 → res (some (2, [], 0, 8))) ∧
    (len ≤ 1016 → flags < 2 → leNat (bmRead (hatch s h).req 8 24) = 0 →
      ((leNat (bmRead (hatch s h).req 6 1) ≠ 3 ∨ opListed op = false) → res (some (4, [], 0, 0))) ∧
      (leNat (bmRead (hatch s h).req 6 1) = 3 → opListed op = true →
        (opStrong op = false → s.boot.larder = .stopped → res (some (4, [], 0, 0))) ∧
        (opStrong op = false → s.boot.larder ≠ .stopped → s.boot.larder ≠ .running → res (some (1, [], 0, 0))) ∧
        ((opStrong op = true ∨ s.boot.larder = .running) → op = 0x0202 → h ≠ s.acc.fmHatch.toNat →
          res (some (3, [], 0, 0))) ∧
        ((opStrong op = true ∨ s.boot.larder = .running) → op = 0x0304 → len = 0 → res none)))

/-- HATCH_ANSWER of a BUSY Hatch with a result writes the header (OPCODE, SEQ, length in words, STATUS) and the payload
into the response buffer and makes the Hatch DONE; without a result nothing changes. A fault-injection opcode has
the result UNSUPPORTED. It says when each of these completes, and with which next state: HATCH_ANSWER,
FAULT_INJECTION.  Rules: R362, R463, R464. -/
def Obligations.HatchAnswerAndInjection : Prop :=
  ∀ (s : State) (h : Nat), live s = true → h < 16 →
    (∀ (st : Nat) (p : List (BitVec 8)) (done errAt : Nat), (hatch s h).st = .busy → st < 256 → p.length ≤ 4064 →
      (hatch s h).result = some (st, p, done, errAt) → (hatch s h).notify = false →
      ∃ t, exec (.hatchAnswer h) s = .next t ∧ (hatch t h).st = .done ∧ (hatch t h).result = none ∧
        leNat (bmRead (hatch t h).rsp 0 2) = hOpcode s h ∧ leNat (bmRead (hatch t h).rsp 2 2) = (hatch s h).seq.toNat ∧
        leNat (bmRead (hatch t h).rsp 4 2) = (p.length + 3) / 4 ∧ leNat (bmRead (hatch t h).rsp 6 1) = st ∧
        bmRead (hatch t h).rsp 32 p.length = p ∧ (hatch t h).req = (hatch s h).req ∧
        (∀ k, k ≠ h → hatch t k = hatch s k) ∧ t = { s with mg := t.mg, perf := t.perf }) ∧
    ((hatch s h).result = none → exec (.hatchAnswer h) s = .next s) ∧
    (hatchReady s h 0x03F0 0x03FF = true →
      exec (.faultInjection h) s = .next (putHatch s h { hatch s h with result := some (4, [], 0, 0xFFFFFFFF), waiting := false }))

/-- A listed field answers its value, or its old value when it is set; a legal value is in force at once, and read
back, but for the response allotments, where it waits while more lines are reserved than it allows. An unlisted
field is UNSUPPORTED, a bad index MALFORMED at byte 3 of the payload, an illegal value at byte 8, with nothing
changed but the answer. It says when each of these completes, and with which next state: CFG_GET, CFG_SET.  Rules: R470. -/
def Obligations.LiveConfiguration : Prop :=
  ∀ (s : State) (h : Nat), live s = true → h < 16 →
    let sec := pl s h 0 2
    let fd := pl s h 2 1
    let i := pl s h 3 1
    let v := pl s h 8 8
    (hatchReady s h 0x0201 0x0201 = true → reservedBad s h [(0, 4)] = [] →
      (cfgGet s sec fd i = none → exec (.cfgGet h) s = .next (ans s h 4)) ∧
      (∀ old, cfgGet s sec fd i = some old → cfgIndexBad sec i = true → exec (.cfgGet h) s = .next (ansBad s h 3)) ∧
      (∀ old, cfgGet s sec fd i = some old → cfgIndexBad sec i = false →
        exec (.cfgGet h) s = .next (ansOk s h (leBytes old 8)))) ∧
    (hatchReady s h 0x0202 0x0202 = true → reservedBad s h [(0, 4), (8, 8)] = [] →
      (cfgGet s sec fd i = none → exec (.cfgSet h) s = .next (ans s h 4)) ∧
      (∀ old, cfgGet s sec fd i = some old → cfgIndexBad sec i = false → cfgPut s sec fd i v = none →
        exec (.cfgSet h) s = .next (ansBad s h 8)) ∧
      (∀ old u, cfgGet s sec fd i = some old → cfgIndexBad sec i = false → cfgPut s sec fd i v = some u →
        exec (.cfgSet h) s = .next (ansOk u h (leBytes old 8)) ∧
        (sec ≠ 2 → sec ≠ 7 → cfgGet u sec fd i = some v) ∧
        (sec = 2 → s.wp.allot - s.wp.allotFree ≤ v → u.wp.allot = v ∧ u.wp.allot - u.wp.allotFree = s.wp.allot - s.wp.allotFree)))

/-- A legal TBL_WRITE of n entries stores each in its table's shadow, and no other entry, no active table and nothing
outside the tables' shadows and the answer changes; a legal TBL_READ answers the entries of the shadow or of the
active table, entry by entry, and changes nothing but its answer. It says when each of these completes, and with
which next state: TBL_WRITE, TBL_READ.  Rules: R314, R469. -/
def Obligations.TableCommands : Prop :=
  ∀ (s : State) (h : Nat), live s = true → h < 16 →
    let t := pl s h 0 1
    let a := pl s h 1 1
    let k := pl s h 2 2
    let n := pl s h 4 2
    let z := tblSize t
    (hatchReady s h 0x0210 0x0210 = true → reservedBad s h [(0, 1), (2, 4), (8, n * z)] = [] → t < 5 → 1 ≤ n →
      k + n ≤ tblCount t → 8 + n * z ≤ 4064 → (∀ i < n, tblPad t (pl s h (8 + i * z) z) = false) →
      (t ≤ 1 → s.fab.committing = false) →
      ∃ u, exec (.tblWrite h) s = .next (ans u h 0) ∧ (∀ i < n, tblGet u t (k + i) false = pl s h (8 + i * z) z) ∧
        (∀ t' j, t' < 5 → (t' ≠ t ∨ j < k ∨ k + n ≤ j) → (t' = 4 → t ≠ 4) → tblGet u t' j false = tblGet s t' j false) ∧
        u = { s with fab := { s.fab with routesSh := u.fab.routesSh, windowsSh := u.fab.windowsSh },
                     reg := { s.reg with mastersSh := u.reg.mastersSh, wclassSh := u.reg.wclassSh, bulkSh := u.reg.bulkSh } }) ∧
    (hatchReady s h 0x0211 0x0211 = true → reservedBad s h [(0, 6)] = [] → t < 5 → a < 2 → 1 ≤ n → k + n ≤ tblCount t →
      8 + n * z ≤ 4064 →
      ∃ p, exec (.tblRead h) s = .next (ansOk s h p) ∧ p.length = n * z ∧
        ∀ i < n, (p.drop (i * z)).take z = leBytes (tblGet s t (k + i) (a = 1)) z)

/-- A legal ACC_WRITE stores its entries in the shadow while no commit is in progress and is BUSY during one; ACC_READ
answers entries; ACC_STATUS answers the generation and the state of the commit; ACC_LOG answers a target's records,
oldest first, 24 bytes each; ACC_LOG_CLEAR empties the named log, or all with 0xFF, and leaves the counts. It says
when each of these completes, and with which next state: ACC_WRITE, ACC_READ, ACC_STATUS, ACC_LOG, ACC_LOG_CLEAR.  Rules: R329, R330, R336, R338, R469. -/
def Obligations.AccessTableCommands : Prop :=
  ∀ (s : State) (h : Nat), live s = true → h < 16 →
    let t := pl s h 0 1
    let a := pl s h 1 1
    let k := pl s h 2 2
    let n := pl s h 4 2
    let z := accSize t
    (hatchReady s h 0x0230 0x0230 = true → reservedBad s h [(0, 1), (2, 4), (8, n * z)] = [] → t < 23 → 1 ≤ n →
      k + n ≤ accCount t → 8 + n * z ≤ 4064 →
      (s.acc.commit.isSome = true → exec (.accWrite h) s = .next (ans s h 1)) ∧
      (s.acc.commit = none → ∃ u, exec (.accWrite h) s = .next (ans u h 0) ∧
        (∀ i < n, accGet u t (k + i) false = pl s h (8 + i * z) z) ∧
        (∀ t' j, t' < 23 → j < accCount t' → (t' ≠ t ∨ j < k ∨ k + n ≤ j) → accGet u t' j false = accGet s t' j false) ∧
        u = { s with acc := { s.acc with groupsSh := u.acc.groupsSh, rulesSh := u.acc.rulesSh } })) ∧
    (hatchReady s h 0x0231 0x0231 = true → reservedBad s h [(0, 6)] = [] → t < 23 → a < 2 → 1 ≤ n → k + n ≤ accCount t →
      8 + n * z ≤ 4064 →
      ∃ p, exec (.accRead h) s = .next (ansOk s h p) ∧ p.length = n * z ∧
        ∀ i < n, (p.drop (i * z)).take z = leBytes (accGet s t (k + i) (a = 1)) z) ∧
    (hatchReady s h 0x0233 0x0233 = true → ∃ p, exec (.accStatus h) s = .next (ansOk s h p) ∧ p.length = 184 ∧
      leAt p 0 4 = s.acc.gen.toNat ∧ leAt p 4 4 = b2n s.acc.baseCoat + 2 * b2n s.acc.commit.isSome) ∧
    (hatchReady s h 0x0234 0x0234 = true → reservedBad s h [(0, 1)] = [] → t < 22 →
      ∃ p, exec (.accLog h) s = .next (ansOk s h p) ∧ p.length = 24 * (violTgt s t).log.length ∧
        ∀ (i : Nat) (r : ViolRec), (violTgt s t).log[i]? = some r → leAt p (24 * i) 2 = r.node.toNat ∧
          leAt p (24 * i + 2) 1 = r.opcode.toNat ∧ leAt p (24 * i + 16) 8 = r.time % 2 ^ 64) ∧
    (hatchReady s h 0x0235 0x0235 = true → reservedBad s h [(0, 1)] = [] → (t < 22 ∨ t = 0xFF) →
      ∃ u, exec (.accLogClear h) s = .next (ans u h 0) ∧
        (∀ j, violTgt u j = if j < 22 ∧ (t = 0xFF ∨ t = j) then { violTgt s j with log := [] } else violTgt s j) ∧
        u = { s with acc := { s.acc with viol := u.acc.viol } })

/-- While a commit is in progress ROUTE_COMMIT is BUSY; an illegal shadow is MALFORMED at the entry found. A legal one
that makes no range bulk and whose change moves no cached share, with no scan of a commit left, switches routes and
windows at once and answers OK; MAP_SWITCH does so for a commit whose last scan has ended, and changes no table
while one is left. It says when each of these completes, and with which next state: ROUTE_COMMIT, MAP_SWITCH.  Rules: R136, R142, R530. -/
def Obligations.RouteCommitAndMapSwitch : Prop :=
  ∀ (s : State) (h : Nat), live s = true → h < 16 →
    let switched (u : State) : Prop :=
      u.fab.routes = s.fab.routesSh ∧ u.fab.windows = s.fab.windowsSh ∧ u.fab.committing = false ∧ u.fab.altUse = [] ∧
      u.reg.masters = s.reg.masters ∧ u.dram = s.dram ∧ u.uc = s.uc
    (hatchReady s h 0x0212 0x0212 = true →
      (s.fab.committing = true → exec (.routeCommit h) s = .next (ans s h 1)) ∧
      (∀ i, s.fab.committing = false → routeErr s = some i → exec (.routeCommit h) s = .next (hatchResult s h 2 [] 0 i)) ∧
      (s.fab.committing = false → routeErr s = none → recallRanges s = [] → (bulkRanges s = [] ∨ s.uc.tags = []) →
        s.trowel.scans.any (fun c => c.owner == .routeCommit) = false → (hatch s h).notify = false →
        ∃ u, exec (.routeCommit h) s = .next (settle u) ∧ switched u ∧ (hatch u h).st = .done)) ∧
    (s.fab.committing = true → (bulkRanges s = [] ∨ s.uc.tags = []) →
      s.trowel.scans.any (fun c => c.owner == .routeCommit) = false → s.mg.routeCommit = some h →
      (hatch s h).st = .busy → (hatch s h).notify = false →
      ∃ u, exec .mapSwitch s = .next (settle u) ∧ switched u ∧ (hatch u h).st = .done) ∧
    (s.trowel.scans.any (fun c => c.owner == .routeCommit) = true → exec .mapSwitch s = .next (settle s))

/-- While a route commit changes a class REG_COMMIT is BUSY; an illegal shadow is MALFORMED; a sum of guarantees that
the delivery factor does not admit counts one refusal and is answered with the sum and the factor, and no table
changes; an admitted one puts masters, classes and the bulk class in force together and counts a commit. It says
when each of these completes, and with which next state: REG_COMMIT.  Rules: R303, R314, R530. -/
def Obligations.RegulatorCommit : Prop :=
  ∀ (s : State) (h : Nat), live s = true → h < 16 → hatchReady s h 0x0213 0x0213 = true →
    let err := regErr s.fab.windows s.reg.mastersSh s.reg.wclassSh s.reg.bulkSh
    let sum := sumOf s.reg.mastersSh s.reg.bulkSh
    (classCommit s = true → exec (.regCommit h) s = .next (ans s h 1)) ∧
    (∀ i, classCommit s = false → err = some i → exec (.regCommit h) s = .next (hatchResult s h 2 [] 0 i)) ∧
    (classCommit s = false → err = none → admitted sum (dfNow s) = false →
      exec (.regCommit h) s = .next (hatchResult { s with reg := { s.reg with
          refused := BitVec.ofNat 32 (min (s.reg.refused.toNat + 1) (2 ^ 32 - 1)) } } h 5
        (leBytes (min sum 0xFFFF) 2 ++ leBytes (dfNow s) 2) 0 0xFFFFFFFF)) ∧
    (classCommit s = false → err = none → admitted sum (dfNow s) = true →
      ∃ u, exec (.regCommit h) s = .next (ans u h 0) ∧ u.reg.masters = s.reg.mastersSh ∧ u.reg.wclass = s.reg.wclassSh ∧
        u.reg.bulk = s.reg.bulkSh ∧ u.reg.commits.toNat = min (s.reg.commits.toNat + 1) (2 ^ 32 - 1) ∧
        u.fab = s.fab ∧ u.dram = s.dram ∧ u.tx = s.tx)

/-- A second commit is BUSY, an illegal shadow MALFORMED. A legal one is held with its command until its scans end.
With no operation and no scan left ACCESS_SWITCH puts rules and groups in force, ends the base-coat state, advances
the generation by one and answers OK; with no commit it changes no table. It says when each of these completes, and
with which next state: ACC_COMMIT, ACCESS_SWITCH.  Rules: R330, R333. -/
def Obligations.AccessCommitAndSwitch : Prop :=
  ∀ (s : State) (h : Nat), live s = true → h < 16 →
    (hatchReady s h 0x0232 0x0232 = true → reservedBad s h [(0, 1)] = [] → pl s h 0 1 < 2 →
      (s.acc.commit.isSome = true → exec (.accCommit h) s = .next (ans s h 1)) ∧
      (∀ i, s.acc.commit = none → accErr (nRegions s) s.acc.groupsSh s.acc.rulesSh = some i →
        exec (.accCommit h) s = .next (hatchResult s h 2 [] 0 i)) ∧
      (s.acc.commit = none → accErr (nRegions s) s.acc.groupsSh s.acc.rulesSh = none →
        exec (.accCommit h) s = .next (settle (startAccessScans { hatchWait s h with acc := { s.acc with
          commit := some { hatch := some h, bulkEnd := decide (pl s h 0 1 = 1), narrowed := narrowed s },
          owed := s.acc.owed ++ (narrowed s).filter (fun p => regionStopped s p.1) } } (narrowed s))))) ∧
    (s.acc.commit = none → exec .accessSwitch s = .next (settle s)) ∧
    (∀ c, s.acc.commit = some c → c.hatch = some h → s.trowel.scans.any (fun x => x.owner == .accessCommit) = false →
      s.trowel.ops = [] → s.trowel.extWait = [] → s.trowel.intWait = [] → (hatch s h).st = .busy → (hatch s h).notify = false →
      ∃ u, exec .accessSwitch s = .next (settle u) ∧ u.acc.rules = s.acc.rulesSh ∧ u.acc.groups = s.acc.groupsSh ∧
        u.acc.gen = s.acc.gen + 1 ∧ u.acc.baseCoat = false ∧ u.acc.commit = none ∧ (hatch u h).st = .done ∧
        u.dram = s.dram ∧ u.uc = s.uc)

/-- With every record's copy in the chip log and no FID twice: writing a FID acknowledges that record and no other, and
changes nothing in it but that; the two all-bits acknowledge every record of C1, of C2; LOG_OVERFLOW clears when
written; a write sets LOST to 0. Nothing outside the fault registers changes. It says when each of these completes,
and with which next state: FAULT_ACK, FAULT_ACK_C1_ALL, FAULT_ACK_C2_ALL, LOG_OVERFLOW_CLEAR, LOST_RESET.  Rules: R352, R360. -/
def Obligations.FaultAcknowledgement : Prop :=
  ∀ (s : State), live s = true → ((allRecs s).map FaultRec.fid).Nodup →
    (∀ x ∈ s.faults.slots, s.faults.log.any (fun e => e.r.fid = x.fid) = true) →
    (∀ fid : BitVec 32, ∃ t, exec (.faultAck fid) s = .next t ∧
      allRecs t = (allRecs s).map (fun x => if x.fid = fid then { x with acked := true } else x) ∧
      t = { s with faults := t.faults }) ∧
    (∃ t, exec .faultAckC1All s = .next t ∧
      allRecs t = (allRecs s).map (fun x => if x.cls = .c1 then { x with acked := true } else x) ∧
      t = { s with faults := t.faults }) ∧
    (∃ t, exec .faultAckC2All s = .next t ∧
      allRecs t = (allRecs s).map (fun x => if x.cls = .c2 then { x with acked := true } else x) ∧
      t = { s with faults := t.faults }) ∧
    exec .logOverflowClear s = .next { s with faults := { s.faults with logOverflow := false } } ∧
    exec .lostReset s = .next { s with faults := { s.faults with lost := 0 } }

/-- With AUTO_ACK off, room in the chip log and no unacknowledged record of the class there, a chip-level C1 or C2
appends one unacknowledged record with the next FID, the element, the CODE, the DETAIL and the time; one of a block
with room in its collector adds it to the collector and a copy to the log. COUNT is 1, the FID count advances, and
the record is the latest. No state but the fault registers, the event registers and the event counts changes.  Rules: R340, R342, R343, R347, R348. -/
def Obligations.FaultRecordsAreCreated : Prop :=
  ∀ (s : State) (cls : FClass) (el code detail : Nat), s.faults.halted = false → (cls = .c1 ∨ cls = .c2) →
    s.faults.autoAck = 0 → s.faults.log.length < 64 →
    let r (lv : FLevel) (g : Nat) : FaultRec :=
      { fid := s.faults.nextFid, cls := cls, first := cls, escalated := false, acked := false, level := lv,
        region := BitVec.ofNat 2 g, element := BitVec.ofNat 16 el, code := BitVec.ofNat 16 code, count := 1, lastDelta := 0,
        time := BitVec.ofNat 64 s.now, detail := BitVec.ofNat 64 detail }
    ((∀ x ∈ chipRecs s, x.cls = cls → x.acked = true) →
      let t := chipFault s cls el code detail
      t.faults.log = s.faults.log ++ [{ r := r .chip 0, copy := false }] ∧ t.faults.slots = s.faults.slots ∧
        t.faults.nextFid = s.faults.nextFid + 1 ∧ t.faults.last = some (r .chip 0) ∧ t.faults.stopped = s.faults.stopped ∧
        t = { s with faults := t.faults, mg := t.mg, perf := t.perf }) ∧
    (el < 36 → regionStopped s (el / 9) = false →
      (s.faults.slots.filter (fun x => x.level == .block && x.element.toNat = el)).length < 8 →
      (∀ x ∈ s.faults.slots, x.level = .block → x.element.toNat = el → x.cls = cls → x.acked = true) →
      let t := blockFault s cls el code detail
      t.faults.slots = s.faults.slots ++ [r .block (el / 9)] ∧
        t.faults.log = s.faults.log ++ [{ r := r .block (el / 9), copy := true }] ∧
        t.faults.nextFid = s.faults.nextFid + 1 ∧ t.faults.last = some (r .block (el / 9)) ∧
        t = { s with faults := t.faults, mg := t.mg, perf := t.perf })

/-- A second C1 of a block whose record is unacknowledged makes no record: it counts one in it and, where second faults
escalate, raises it to C2 with ESCALATED set. A C3 of a running region sets its bit in STOPPED and stops its
serving blocks, and no other region's. A C4 halts the stack: no request, snoop or context is left, every block is
in self-refresh, FATAL_N is low, keys are zeroed and DRAM is as it was.  Rules: R349, R350, R354, R357. -/
def Obligations.SecondFaultsAndReactions : Prop :=
  ∀ (s : State) (code detail : Nat), s.faults.halted = false →
    (∀ (b : Nat) (x : FaultRec), b < 36 → regionStopped s (b / 9) = false → s.faults.slots = [x] → s.faults.log = [{ r := x, copy := true }] →
      x.level = .block → x.element = BitVec.ofNat 16 b → x.cls = .c1 → x.acked = false →
      ∃ y, (blockFault s .c1 b code detail).faults.slots = [y] ∧
        y.cls = (if escalates s then .c2 else .c1) ∧ y.escalated = (x.escalated || escalates s) ∧ y.fid = x.fid ∧
        y.acked = false ∧ y.code = x.code ∧ y.count.toNat = min (x.count.toNat + 1) 0xFFFF) ∧
    (∀ r, r < 4 → regionStopped s r = false → s.faults.slots = [] → s.faults.log = [] → s.tx.held = [] → s.tx.waiting = [] →
      s.tx.ctxs = [] → s.test.runs = [] → (migr s r).st = .idle →
      let t := regionFault s .c3 r code detail
      regionStopped t r = true ∧ (∀ q, q < 4 → q ≠ r → regionStopped t q = regionStopped s q) ∧
        (∀ b, b < 36 → b / 9 = r → (blk s b).st = .serving → (blk t b).st = .stopped) ∧
        (∀ b, b / 9 ≠ r → blk t b = blk s b) ∧ t.dram = s.dram ∧ t.faults.halted = false) ∧
    (∀ unit : Nat,
      let t := chipFault s .c4 unit code detail
      t.faults.halted = true ∧ t.faults.fatalLow = true ∧ t.boot.keysZero = true ∧ t.boot.larder = .stopped ∧
        t.tx.held = [] ∧ t.tx.waiting = [] ∧ t.tx.ctxs = [] ∧ t.tx.snoops = [] ∧
        (∀ b, b < 36 → (blk t b).st = .selfRefresh ∧ (blk t b).wq = []) ∧
        (∀ h, h < 16 → (hatch t h).st = .frozen) ∧ t.dram = s.dram)

/-- A TAIL between the old TAIL and HEAD is taken and any other ignored; a write clears DROPPED; a waiting record
leaves as one EVT toward its target's node once credits allow, 32 bytes of it in a data line, and waits otherwise.
Nothing else changes. It says when each of these completes, and with which next state: EVT_PUSH, EVT_TAIL_WRITE,
EVT_DROP_CLEAR.  Rules: R474, R475. -/
def Obligations.EventQueuesOfTheHost : Prop :=
  ∀ (s : State) (t : Nat), live s = true → t < 8 →
    (∀ v : BitVec 16, (v - (evtT s t).tail).toNat ≤ ((evtT s t).head - (evtT s t).tail).toNat →
      exec (.evtTailWrite t v) s = .next (putEvt s t { evtT s t with tail := v })) ∧
    (∀ v : BitVec 16, ((evtT s t).head - (evtT s t).tail).toNat < (v - (evtT s t).tail).toNat →
      exec (.evtTailWrite t v) s = .next s) ∧
    exec (.evtDropClear t) s = .next (putEvt s t { evtT s t with dropped := 0 }) ∧
    ((evtT s t).push = none → exec (.evtPush t) s = .next s) ∧
    (∀ r, (evtT s t).push = some r →
      let n : Node := (evtT s t).cfg.extractLsb' 8 12
      (evtMaySend s n = false → exec (.evtPush t) s = .next s) ∧
      (evtMaySend s n = true → hasEgress s n = true →
        ∃ u m, exec (.evtPush t) s = .next u ∧ evtT u t = { evtT s t with push := none } ∧
          (linkOf u (routeOf s n)).outQ = (linkOf s (routeOf s n)).outQ ++ [m] ∧ m.lines = [lineOf (evtBytes r)] ∧
          hOp m.h0 = opEvt ∧ (∀ k, k < 8 → k ≠ t → evtT u k = evtT s k) ∧
          u = { s with mg := u.mg, wp := u.wp, fp := u.fp }))

/-- The RWS fields of CW_ID_BOOT take what is written; RING is HATCH_RING of that Hatch; CW_EVT_CFG takes its bits but
the reserved ones; CW_EVT_PTR takes TAIL and DROP_CLEAR; CW_FAULT_SUMMARY clears LOG_OVERFLOW where it is written
1, and LOST; CW_FAULT_ACK acknowledges the FID; read-only and unlisted words ignore a write. It says when each of
these completes, and with which next state: FAULT_ACK, HATCH_RING, EVT_TAIL_WRITE, REGISTER_WRITE.  Rules: R10, R360, R460, R471, R472, R473. -/
def Obligations.RegisterWrites : Prop :=
  ∀ (s : State) (node : Node) (v : BitVec 64), live s = true →
    exec (.registerWrite node 0x18 v) s = .next { s with boot := { s.boot with
      lastReset := v.extractLsb' 16 3, retCount := v.extractLsb' 32 16, wdog := v.extractLsb' 48 16 } } ∧
    (∀ h, h < 16 → v.getLsbD 0 = true →
      exec (.registerWrite node (0x100 + 8 * h) v) s = exec (.hatchRing h node) s) ∧
    (∀ h, h < 16 → v.getLsbD 0 = false → exec (.registerWrite node (0x100 + 8 * h) v) s = .next s) ∧
    (∀ t, t < 8 → ∃ u, exec (.registerWrite node (0x200 + 8 * t) v) s = .next u ∧
      (∀ i, i < 46 → (evtT u t).cfg.getLsbD i = (v.getLsbD i && !(20 ≤ i && i < 24))) ∧
      (evtT u t).ring = (evtT s t).ring ∧ (evtT u t).head = (evtT s t).head ∧ u = { s with mg := u.mg }) ∧
    (∀ t, t < 8 → v.getLsbD 48 = false →
      exec (.registerWrite node (0x240 + 8 * t) v) s = exec (.evtTailWrite t (v.extractLsb' 16 16)) s) ∧
    exec (.registerWrite node 0x300 v) s = .next { s with faults := { s.faults with
      logOverflow := s.faults.logOverflow && !v.getLsbD 21, lost := 0 } } ∧
    (v.toNat < 2 ^ 32 → exec (.registerWrite node 0x308 v) s = exec (.faultAck (v.extractLsb' 0 32)) s) ∧
    (∀ off, off % 8 = 0 → (off < 0x18 ∨ (0x28 ≤ off ∧ off < 0x100) ∨ (0x180 ≤ off ∧ off < 0x200) ∨
        (0x310 ≤ off ∧ off < 0x400) ∨ (0x500 ≤ off ∧ off < 0x1000) ∨ (0x1900 ≤ off ∧ off < 0x10000)) →
      exec (.registerWrite node off v) s = .next s)

/-- In a chip halt, of the messages for this stack, with an egress for the asking node: MG_RD of the one word of
CW_FAULT_SUMMARY is answered by MG_DATA with that register's value; a management write by MG_RSP with ADDR_ERR; a
message of no management class queues nothing and changes only the credits it returns, and so does any message for
another node. Without a halt the command has no effect. It says when each of these completes, and with which next
state: HALT_RESPONDER_REQUEST.  Rules: R358. -/
def Obligations.HaltResponder : Prop :=
  ∀ (s : State) (ing : Nat) (m : Msg), ing < 5 →
    let n := hSrc m.h0
    (s.faults.halted = false → exec (.haltResponderRequest ing m) s = .next s) ∧
    (s.faults.halted = true → hDst m.h0 = s.fab.stackNode → hasEgress s n = true → hOp m.h0 = opMgRd → hMoff m.h0 = 0x300 → hSize m.h0 = 0 →
      ∃ u o, exec (.haltResponderRequest ing m) s = .next u ∧
        (linkOf u (routeOf s n)).outQ = (linkOf s (routeOf s n)).outQ ++ [o] ∧ hOp o.h0 = opMgData ∧
        hStatus o.h0 = stOk ∧ hTag o.h0 = hTag m.h0 ∧ o.lines = [BitVec.ofNat 512 (faultSummary s)] ∧
        u = { s with wp := u.wp, fp := u.fp }) ∧
    (s.faults.halted = true → hDst m.h0 = s.fab.stackNode → hasEgress s n = true →
      (hOp m.h0 = opMgWr ∨ (hOp m.h0 = opMgRd ∧ hMoff m.h0 < 0x300)) →
      ∃ u o, exec (.haltResponderRequest ing m) s = .next u ∧
        (linkOf u (routeOf s n)).outQ = (linkOf s (routeOf s n)).outQ ++ [o] ∧ hOp o.h0 = opMgRsp ∧
        hStatus o.h0 = stAddrErr ∧ hTag o.h0 = hTag m.h0 ∧ o.lines = [] ∧ u = { s with wp := u.wp, fp := u.fp }) ∧
    (s.faults.halted = true → (hDst m.h0 ≠ s.fab.stackNode ∨ (hOp m.h0 ≠ opMgRd ∧ hOp m.h0 ≠ opMgWr)) →
      ∃ u, exec (.haltResponderRequest ing m) s = .next u ∧ u = { s with wp := u.wp, fp := u.fp } ∧
        ∀ p, p < 5 → (linkOf u p).outQ = (linkOf s p).outQ)

/-- A legal SCRUB_START begins a pass at START with nothing read yet and is BUSY during one; SCRUB_STATUS answers its
counts and NEXT; RETIRE of a bank or a block queues it for migration where a spare is left, answers its place in
the queue, and is NO_SPARE where none is; STOREROOM answers the whole record. No stored line changes. It says when
each of these completes, and with which next state: SCRUB_START, SCRUB_STATUS, RETIRE, STOREROOM.  Rules: R287, R288, R293, R295. -/
def Obligations.ScrubAndRetirement : Prop :=
  ∀ (s : State) (h : Nat), live s = true → h < 16 →
    (hatchReady s h 0x0301 0x0301 = true → reservedBad s h [(0, 18)] = [] → pl s h 0 8 % 64 = 0 → pl s h 0 8 < 2 ^ 38 →
      1 ≤ pl s h 8 8 → pl s h 8 8 ≤ 2 ^ 32 → pl s h 0 8 + 64 * pl s h 8 8 ≤ capacity s → 1 ≤ pl s h 16 1 → pl s h 17 1 < 2 →
      (s.store.scrub.running = true → exec (.scrubStart h) s = .next (ans s h 1)) ∧
      (s.store.scrub.running = false → ∃ u, exec (.scrubStart h) s = .next (ansOk u h []) ∧
        u = { s with store := { s.store with scrub := u.store.scrub } } ∧ u.store.scrub.running = true ∧
        u.store.scrub.start = pl s h 0 8 ∧ u.store.scrub.count = pl s h 8 8 ∧ u.store.scrub.rate = pl s h 16 1 ∧
        u.store.scrub.spares = decide (pl s h 17 1 = 1) ∧ u.store.scrub.pos = 0 ∧ u.store.scrub.linesRead = 0 ∧
        u.store.scrub.t0 = s.now)) ∧
    (hatchReady s h 0x0302 0x0302 = true → ∃ (u : State) (p : List (BitVec 8)),
      exec (.scrubStatus h) s = .next (ansOk u h p) ∧ u = { s with free := u.free } ∧ p.length = 576 ∧
        leAt p 0 8 = min s.store.scrub.linesRead (2 ^ 64 - 1) ∧ leAt p 32 8 = min s.store.scrub.uncorr (2 ^ 64 - 1) ∧
        (s.store.scrub.running = false → leAt p 56 8 = 2 ^ 64 - 1)) ∧
    (hatchReady s h 0x0303 0x0303 = true → reservedBad s h [(0, 3)] = [] →
      (∀ u : RetUnit, (u = .block (pl s h 1 1) ∧ pl s h 0 1 = 2 ∧ pl s h 2 1 = 0 ∨
          u = .bank (pl s h 1 1) (pl s h 2 1) ∧ pl s h 0 1 = 1 ∧ pl s h 2 1 < 64 ∧
            isRetiredBank s (pl s h 1 1) (pl s h 2 1) = false) →
        pl s h 1 1 < 36 → (logicalOf s (pl s h 1 1)).isSome = true →
        (isQueued s u = true → exec (.retire h) s = .next (ansOk s h (leBytes (queuePlace s u) 1))) ∧
        (isQueued s u = false → spareLeft s u = false → exec (.retire h) s = .next (ans s h 9)) ∧
        (isQueued s u = false → spareLeft s u = true → ∃ t p, exec (.retire h) s = .next (ansOk t h p) ∧
          (migr t (pl s h 1 1 / 9)).queue = (migr s (pl s h 1 1 / 9)).queue ++ [u] ∧
          p = leBytes (migr s (pl s h 1 1 / 9)).queue.length 1 ∧ t = { s with store := t.store }))) ∧
    (hatchReady s h 0x0304 0x0304 = true → ∃ p, exec (.storeroom h) s = .next (ansOk s h p) ∧
      leAt p 0 4 = s.store.seq.toNat ∧ leAt p 4 12 = b2n s.store.unsaved)

/-- REGION_RESET of a running region, or while the stack is in a thermal stop, is DENIED; in a reset in progress it
waits with it; of a stopped region it waits, clears the region's records and begins the reset. Admissions open only
when everything before is done; then STOPPED clears and no reset is left. UC_RESET is UNSUPPORTED where the
Undercoat is absent and otherwise waits for the domain's reset, which empties the directory. It says when each of
these completes, and with which next state: REGION_RESET, REGION_RESET_ADMISSIONS_OPEN, UC_RESET.  Rules: R209, R355, R356. -/
def Obligations.RegionAndUndercoatResets : Prop :=
  ∀ (s : State) (h r : Nat), live s = true → h < 16 → r < 4 →
    (hatchReady s h 0x0305 0x0305 = true → reservedBad s h [(0, 1)] = [] → pl s h 0 1 = r → r < nRegions s →
      ((regionStopped s r = false ∨ s.heat.stop ≠ .running) → exec (.regionReset h) s = .next (ans s h 3)) ∧
      (regionStopped s r = true → s.heat.stop = .running → resetting s r = true →
        exec (.regionReset h) s = .next (hatchWait s h)) ∧
      (regionStopped s r = true → s.heat.stop = .running → resetting s r = false →
        exec (.regionReset h) s = .next (regionResetStart (hatchWait s h) r))) ∧
    (∀ x ∈ (clearCollectors s r).faults.slots, x.region.toNat ≠ r) ∧
    (resetReady s r = false → exec (.regionResetAdmissionsOpen r) s = .next s) ∧
    (resetReady s r = true → smGet [] s.faults.lostWrites r = [] → (ucReg s r).secondLoss = false → s.uc.frames = [] → s.uc.tags = [] →
      waitingFor s 0x0305 = [] →
      ∃ u, exec (.regionResetAdmissionsOpen r) s = .next (settle u) ∧ regionStopped u r = false ∧ resetting u r = false ∧
        (∀ q, q < 4 → q ≠ r → regionStopped u q = regionStopped s q)) ∧
    (hatchReady s h 0x0306 0x0306 = true →
      (s.cfg.ucEnable = false → exec (.ucReset h) s = .next (ans s h 4)) ∧
      (s.cfg.ucEnable = true → exec (.ucReset h) s = .next (startUcReset (hatchWait s h))))

/-- FAULT_LOG answers 64 slots of the chip log or 8 of a collector, 32 bytes each; WP_STATUS, UC_STATUS, BLOCK_STATUS,
TROWEL_STATUS and REG_STATUS answer the counts and the states of their units at the offsets of their layouts. Each
changes nothing but its own answer. It says when each of these completes, and with which next state: FAULT_LOG,
WP_STATUS, UC_STATUS, BLOCK_STATUS, TROWEL_STATUS, REG_STATUS.  Rules: R71, R214, R244, R272, R273, R317, R343. -/
def Obligations.StatusRecords : Prop :=
  ∀ (s : State) (h : Nat), live s = true → h < 16 →
    (hatchReady s h 0x0307 0x0307 = true → reservedBad s h [(0, 4)] = [] → pl s h 0 1 = 0 →
      ∃ p, exec (.faultLog h) s = .next (ansOk s h p) ∧
        ∀ (i : Nat) (e : LogEnt), i < 64 → s.faults.log[i]? = some e → (p.drop (32 * i)).take 32 = recBytes e.r) ∧
    (hatchReady s h 0x0307 0x0307 = true → reservedBad s h [(0, 4)] = [] → pl s h 0 1 = 1 → pl s h 1 1 = 1 → pl s h 2 2 < 36 →
      ∃ p, exec (.faultLog h) s = .next (ansOk s h p) ∧
        ∀ (i : Nat) (r : FaultRec), i < 8 → (collRecs s .block (pl s h 2 2))[i]? = some r →
          (p.drop (32 * i)).take 32 = recBytes r) ∧
    (hatchReady s h 0x0601 0x0601 = true → ∃ p, exec (.wpStatus h) s = .next (ansOk s h p) ∧ p.length = 40 ∧
      leAt p 1 1 = s.wp.link.epoch.toNat ∧ leAt p 2 2 = s.wp.allot % 65536 ∧ leAt p 8 8 = s.wp.crcErr % 2 ^ 64 ∧ leAt p 24 8 = s.wp.sparesIn.toNat ∧
      leAt p 32 4 = s.wp.sparesOut.toNat) ∧
    (hatchReady s h 0x0604 0x0604 = true → reservedBad s h [(0, 1)] = [] → pl s h 0 1 < nRegions s →
      ∃ p, exec (.ucStatus h) s = .next (ansOk s h p) ∧ p.length = 32 ∧ leAt p 2 1 = s.cfg.dirSize.toNat ∧
        leAt p 0 1 % 4 = pl s h 0 1 ∧ leAt p 28 4 = min (ucReg s (pl s h 0 1)).broadcasts 0xFFFFFFFF) ∧
    (hatchReady s h 0x0605 0x0605 = true → reservedBad s h [(0, 1)] = [] → pl s h 0 1 < 36 →
      ∃ p, exec (.blockStatus h) s = .next (ansOk s h p) ∧ p.length = 48 ∧ leAt p 0 1 = pl s h 0 1 ∧
        leAt p 2 1 % 8 = blockCode (blk s (pl s h 0 1)).st ∧ leAt p 3 1 = (blkEpoch s (pl s h 0 1)).toNat ∧
        leAt p 16 8 = (blk s (pl s h 0 1)).rowHits % 2 ^ 64) ∧
    (hatchReady s h 0x0606 0x0606 = true → ∃ p, exec (.trowelStatus h) s = .next (ansOk s h p) ∧ p.length = 56 ∧
      leAt p 1 1 = s.trowel.steps.length % 256 ∧ leAt p 8 8 = s.trowel.opsDone % 2 ^ 64 ∧
      leAt p 40 4 = b2n (s.primer.st == .done)) ∧
    (hatchReady s h 0x0608 0x0608 = true → reservedBad s h [(0, 2)] = [] → pl s h 0 2 < 4096 →
      ∃ p, exec (.regStatus h) s = .next (ansOk s h p) ∧ p.length = 32 ∧ leAt p 4 2 = s.reg.scale % 65536 ∧
        leAt p 8 4 = s.reg.missed.toNat ∧ leAt p 16 4 = s.reg.commits.toNat)

/-- ID_GET and ID_MEASURE are OK with complete identity and INCOMPLETE without, their payload filled either way;
ID_PUBKEY is INCOMPLETE without identity, BUSY before the key is ready, and then the modulus, most significant byte
first, and the exponent 65,537; ID_CERT answers the bytes that remain and the asked part of the chain. Each changes
nothing but its answer. It says when each of these completes, and with which next state: ID_GET, ID_PUBKEY,
ID_CERT, ID_MEASURE.  Rules: R399, R445, R469. -/
def Obligations.IdentityCommands : Prop :=
  ∀ (s : State) (h : Nat), live s = true → h < 16 →
    (hatchReady s h 0x0101 0x0101 = true → ∃ p, exec (.idGet h) s =
        .next (hatchResult s h (if identOk s then 0 else 8) p 0 0xFFFFFFFF) ∧ p.length = 20 ∧
      leAt p 0 4 = s.mg.part.toNat ∧ leAt p 4 8 = s.mg.serial.toNat ∧ leAt p 12 4 = s.mg.lot.toNat ∧
      leAt p 16 4 = b2n (identOk s) + 2 * b2n s.boot.identReady + 4 * b2n s.boot.slot0Ok) ∧
    (hatchReady s h 0x0102 0x0102 = true →
      (identOk s = false → exec (.idPubkey h) s = .next (ans s h 8)) ∧
      (identOk s = true → s.boot.identReady = false → exec (.idPubkey h) s = .next (ans s h 1)) ∧
      (identOk s = true → s.boot.identReady = true → ∃ p, exec (.idPubkey h) s = .next (ansOk s h p) ∧ p.length = 516 ∧
        leNat ((p.take 512).reverse) = s.boot.identMod.toNat ∧ leAt p 512 4 = 65537)) ∧
    (hatchReady s h 0x0103 0x0103 = true → reservedBad s h [(0, 8)] = [] → pl s h 0 4 ≤ chainLen s → 1 ≤ pl s h 4 4 →
      pl s h 4 4 ≤ 4056 → pl s h 0 4 + pl s h 4 4 ≤ chainLen s →
      (s.boot.slot0Ok = false → exec (.idCert h) s = .next (ans s h 8)) ∧
      (s.boot.slot0Ok = true → exec (.idCert h) s = .next (ansOk s h
        (leBytes (chainLen s - pl s h 0 4 - pl s h 4 4) 4 ++ ((chainData s).drop (pl s h 0 4)).take (pl s h 4 4))))) ∧
    (hatchReady s h 0x0104 0x0104 = true → reservedBad s h [(0, 1)] = [] → 1 ≤ pl s h 0 1 → pl s h 0 1 ≤ 5 →
      ∃ p, exec (.idMeasure h) s = .next (hatchResult s h (if identOk s then 0 else 8) p 0 0xFFFFFFFF) ∧
        leAt p 0 1 = pl s h 0 1 ∧ leAt p 2 2 = (measure s (pl s h 0 1)).length ∧ p.drop 4 = measure s (pl s h 0 1))

/-- GO from IDLE with a legal length makes the sender owner and the buffer BUSY where the request is GET_VERSION; any
other first request is answered at once; a length outside 4 to 4,096 makes it REJECTED; GO by a node that is not
the owner counts one refusal; RELEASE by the owner makes it IDLE, by another nothing; 100 ms after its last access
a finished response is dropped. Only the buffer's state changes. It says when each of these completes, and with
which next state: SPDM_GO, SPDM_RELEASE, SPDM_IDLE_TIMEOUT.  Rules: R446. -/
def Obligations.SpdmBuffer : Prop :=
  ∀ (s : State) (node : Node) (len : BitVec 13), live s = true →
    (s.spdm.st = .idle → 4 ≤ len.toNat → len.toNat ≤ 4096 →
      ∃ t, exec (.spdmGo node len) s = .next t ∧ t.spdm.owner = node ∧ t.spdm.reqLen = len ∧ t.spdm.lastAccess = s.now ∧
        t.spdm.st = (if spdmField 0 (bmRead s.spdm.req 0 len.toNat) = 1 then .busy else .done) ∧
        (spdmField 0 (bmRead s.spdm.req 0 len.toNat) = 1 → t = { s with spdm := { s.spdm with
          st := .busy, owner := node, reqLen := len, begun := false, lastAccess := s.now } }) ∧
        t = { s with spdm := t.spdm }) ∧
    (s.spdm.st = .idle → (len.toNat < 4 ∨ 4096 < len.toNat) →
      exec (.spdmGo node len) s = .next { s with spdm := { s.spdm with
        st := .rejected, owner := node, reqLen := len, begun := false, lastAccess := s.now } }) ∧
    (s.spdm.st ≠ .idle → node ≠ s.spdm.owner →
      exec (.spdmGo node len) s = .next { s with spdm := { s.spdm with
        refused := BitVec.ofNat 16 (min (s.spdm.refused.toNat + 1) 0xFFFF) } } ∧
      exec (.spdmRelease node) s = .next s) ∧
    (s.spdm.st = .busy → node = s.spdm.owner → exec (.spdmGo node len) s = .next s) ∧
    (s.spdm.st ≠ .idle → node = s.spdm.owner →
      exec (.spdmRelease node) s = .next { s with spdm := { s.spdm with st := .idle } }) ∧
    ((s.spdm.st = .done ∨ s.spdm.st = .rejected) → expired s s.spdm.lastAccess 100000000 = true →
      exec .spdmIdleTimeout s = .next { s with spdm := { s.spdm with st := .idle } }) ∧
    ((s.spdm.st = .idle ∨ s.spdm.st = .busy ∨ expired s s.spdm.lastAccess 100000000 = false) →
      exec .spdmIdleTimeout s = .next s)

/-- A request of its kind is answered: the buffer is DONE and holds the response. GET_VERSION begins the connection; an
offer without RSAPSS-4096, SHA-512 and the measurement specification is an InvalidRequest; digests, certificates
and CHALLENGE are Busy before the key is ready and unsupported without a provisioned slot 0; unsigned measurements
need no key. Nothing outside the buffer changes but the count of free values (nonces and salts). It says when each
of these completes, and with which next state: GET_VERSION, GET_CAPABILITIES, NEGOTIATE_ALGORITHMS, GET_DIGESTS,
GET_CERTIFICATE, CHALLENGE, GET_MEASUREMENTS.  Rules: R446, R447, R448. -/
def Obligations.SpdmRequests : Prop :=
  ∀ s : State, live s = true → s.spdm.st = .busy →
    let kind := spdmField 0 (bmRead s.spdm.req 0 s.spdm.reqLen.toNat)
    let done (b : Bool) (r : List (BitVec 8)) : State := { s with spdm := { s.spdm with
        st := .done, begun := b, rsp := bmWrite [] 0 (r.take 4096), rspLen := BitVec.ofNat 13 (r.take 4096).length,
        lastAccess := s.now } }
    let ran (c : Instr) (k : Nat) (b : Bool) (r : List (BitVec 8)) : Prop :=
      exec c s = .next (if kind = k then done b r else s)
    let some' (c : Instr) (k : Nat) : Prop := ∃ (t : State) (r : List (BitVec 8)), exec c s = .next t ∧
      (if kind = k then t.spdm.st = .done ∧ t.spdm.rsp = bmWrite [] 0 (r.take 4096) ∧ t.spdm.begun = s.spdm.begun else t = s) ∧
      t = { s with spdm := t.spdm, free := t.free }
    ran .getVersion 1 true (spdmEncode 1 [0x12] []) ∧
    (s.boot.slot0Ok = false → ran .getCapabilities 2 s.spdm.begun (spdmEncode 2 [0, 0, 1, 20] [])) ∧
    (s.boot.slot0Ok = true → identOk s = true → ran .getCapabilities 2 s.spdm.begun (spdmEncode 2 [1, 1, 2, 20] [])) ∧
    ran .negotiateAlgorithms 3 s.spdm.begun (if offerOk s then spdmEncode 3 [] [] else spdmEncode 0 [4] []) ∧
    (∀ c k, (c, k) ∈ [(Instr.getDigests, 4), (.getCertificate, 5), (.challenge, 6)] →
      (keyAwaited s = true → ran c k s.spdm.begun (spdmEncode 0 [1] [])) ∧
      (keyAwaited s = false → signedOk s = false → ran c k s.spdm.begun (spdmEncode 0 [3] [])) ∧
      (keyAwaited s = false → signedOk s = true → some' c k)) ∧
    (keyAwaited s = false → signedOk s = true →
      ran .getDigests 4 s.spdm.begun (spdmEncode 4 [1] (digestBytes (chainData s)))) ∧
    some' .getMeasurements 7 ∧
    (∃ t, exec .getMeasurements s = .next t ∧ ((kind = 7 ∧ spdmField 8 (spdmReq s) = 0 ∧ spdmField 9 (spdmReq s) = 0) →
      t = done s.spdm.begun (spdmEncode 7 [5, 0] [])))

/-- VAULT_STATUS answers the record of the Vault. With nothing in progress, a command on a locked or committed region
is LOCKED; FUSE_COMMIT of a region with a bad word is INCOMPLETE; a legal FUSE_PROGRAM, FUSE_COMMIT, FUSE_LOCK or
FUSE_REMAP starts with its words in order, each with its copy; a locked region is not read, and one that may be
read answers its header first. A region that is no field function is DENIED while FUSE_ALL is 1. It says when each
of these completes, and with which next state: VAULT_STATUS, FUSE_PROGRAM, FUSE_COMMIT, FUSE_LOCK, FUSE_REMAP,
FUSE_READ.  Rules: R399, R403, R469. -/
def Obligations.FuseCommands : Prop :=
  ∀ (s : State) (h n : Nat), live s = true → h < 16 → n < 20 → pl s h 0 1 = n →
    (hatchReady s h 0x0501 0x0501 = true → ∃ p, exec (.vaultStatus h) s = .next (ansOk s h p) ∧ p.length = 176 ∧
      leAt p 1 1 = rollbackCount s ∧ leAt p 2 1 = freeSpareRegions s ∧ leAt p 8 2 = s.vault.weak.toNat) ∧
    (s.vault.fuseAll = true → fieldRegion s n = false →
      (hatchReady s h 0x0503 0x0503 = true → reservedBad s h [(0, 1)] = [] → exec (.fuseCommit h) s = .next (ans s h 3)) ∧
      (hatchReady s h 0x0506 0x0506 = true → reservedBad s h [(0, 1)] = [] → exec (.fuseRead h) s = .next (ans s h 3))) ∧
    ((s.vault.fuseAll = false ∨ fieldRegion s n = true) → s.img.job = none →
      (hatchReady s h 0x0502 0x0502 = true → reservedBad s h [(0, 6), (8, 4 * pl s h 4 2)] = [] → pl s h 1 1 = 0 →
        1 ≤ pl s h 4 2 → pl s h 4 2 ≤ 124 →
        let l := (List.range (pl s h 4 2)).flatMap (fun i =>
          programWords n (hdrMode (fuseHeader s n)) (pl s h 2 2 + i) (fuseWord (pl s h (8 + 4 * i) 4)))
        ((s.vault.prog.getLsbD n = true ∨ vState s n = .committed) → exec (.fuseProgram h) s = .next (ans s h 7)) ∧
        (s.vault.prog.getLsbD n = false → vState s n ≠ .committed → hdrLegal (fuseHeader s n) = true →
          pl s h 2 2 + pl s h 4 2 ≤ hdrLen (fuseHeader s n) → clashes s l = false →
          exec (.fuseProgram h) s = .next (fuseStart s h 0x0502 n l))) ∧
      (hatchReady s h 0x0503 0x0503 = true → reservedBad s h [(0, 1)] = [] →
        ((s.vault.prog.getLsbD n = true ∨ vState s n = .committed) → exec (.fuseCommit h) s = .next (ans s h 7)) ∧
        (s.vault.prog.getLsbD n = false → vState s n ≠ .committed → fuseStop s = none →
          exec (.fuseCommit h) s = .next (if fuseVerified s n then
            fuseStart s h 0x0503 n [(192 * n + 190, 0x6C3A95A5, false), (192 * n + 191, 0x6C3A95A5, true)]
            else ans s h 8))) ∧
      (hatchReady s h 0x0504 0x0504 = true → reservedBad s h [(0, 2)] = [] → pl s h 1 1 = 1 → fieldRegion s n = true →
        exec (.fuseLock h) s = .next (fuseStart s h 0x0504 n
          [(3852, fuseT s 3852 ||| BitVec.ofNat 32 (2 ^ n), false), (3854, fuseT s 3854 ||| BitVec.ofNat 32 (2 ^ n), true)])) ∧
      (hatchReady s h 0x0505 0x0505 = true → reservedBad s h [(0, 1)] = [] → n < 16 → mapEntry s n = 0 →
        (vState s n = .lockedIncomplete ∨ vState s n = .defective) →
        (freeSpareRegion s = none → exec (.fuseRemap h) s = .next (ans (chipFault s .c1 10 0x0E08 0) h 9)) ∧
        (∀ k, freeSpareRegion s = some k → exec (.fuseRemap h) s = .next (fuseStart s h 0x0505 n
          [(3856 + n / 10, fuseT s (3856 + n / 10) ||| BitVec.ofNat 32 ((k + 1) * 2 ^ (3 * n % 30)), false),
           (3858 + n / 10, fuseT s (3858 + n / 10) ||| BitVec.ofNat 32 ((k + 1) * 2 ^ (3 * n % 30)), true)]))) ∧
      (hatchReady s h 0x0506 0x0506 = true → reservedBad s h [(0, 1)] = [] →
        (s.vault.read.getLsbD n = true → exec (.fuseRead h) s = .next (ans s h 7)) ∧
        (s.vault.read.getLsbD n = false → ∃ p, exec (.fuseRead h) s = .next (ansOk s h p) ∧
          leAt p 0 4 = (fuseHeader s n).toNat ∧ leAt p 4 4 = stateCode s n)))

/-- A started command waits with its words; those already holding their value are skipped. FUSE_WORD_BURNED adds the
bits of the word in progress and touches no other word; after the last word of a FUSE_COMMIT the region is
COMMITTED and the command answered OK; with words left the next is begun, unless a thermal stop or the temperature
forbids it, which ends the command with ABORTED or TEMP_RANGE. It says when each of these completes, and with which
next state: FUSE_WORD_BURNED.  Rules: R390, R403. -/
def Obligations.FuseWordsBurn : Prop :=
  ∀ (s : State) (h : Nat) (word : BitVec 32), live s = true → h < 16 → (hatch s h).st = .busy →
    (∀ (op n w : Nat) (v : BitVec 32) (l : List (Nat × BitVec 32 × Bool)) (e : Bool), fuseT s w ≠ v → fuseStop s = none →
      ∃ t, fuseStart s h op n ((w, v, e) :: l) = t ∧ (hatch t h).waiting = true ∧ (hatch t h).result = (hatch s h).result ∧
        t.img.job = some { hatch := h, opcode := op, region := n, words := (w, v, e) :: l, burned := 0 } ∧
        t = { s with mg := t.mg, img := t.img }) ∧
    (∀ (j : FuseJob) (w : Nat) (v : BitVec 32) (e : Bool) (l : List (Nat × BitVec 32 × Bool)),
      s.img.job = some j → j.words = (w, v, e) :: l → j.hatch = h → j.region < 20 → j.opcode = 0x0502 ∨ j.opcode = 0x0503 →
      ∃ t, exec (.fuseWordBurned word) s = .next t ∧ fuseT t w = fuseT s w ||| word ∧
        fuseL t w = fuseL s w ||| v ||| word ∧ (∀ x, x ≠ w → fuseT t x = fuseT s x ∧ fuseL t x = fuseL s x) ∧
        t = { s with vault := t.vault, img := t.img, mg := t.mg } ∧
        (l = [] → t.img.job = none ∧ (hatch t h).result = some (0, [], j.burned + b2n e, 0xFFFFFFFF) ∧
          (j.opcode = 0x0503 → vState t j.region = .committed)) ∧
        (∀ (w' : Nat) (v' : BitVec 32) (e' : Bool) (l' : List (Nat × BitVec 32 × Bool)), l = (w', v', e') :: l' →
          w' ≠ w → fuseT s w' ≠ v' →
          (fuseStop s = none → t.img.job = some { j with words := l, burned := j.burned + b2n e }) ∧
          (∀ st, fuseStop s = some st → t.img.job = none ∧
            (hatch t h).result = some (st, [], j.burned + b2n e, 0xFFFFFFFF)))) ∧
    (s.img.job = none → exec (.fuseWordBurned word) s = .next s) ∧
    (∀ st, fuseStop s = some st → st = 10 ∨ st = 6)

/-- With no command of a session on the bus and the store range held: IMAGE_BEGIN opens the session and clears the
standby slot's COMMIT bytes; IMAGE_WRITE, IMAGE_COMMIT, IMAGE_STATUS and IMAGE_READ queue their accesses, and each
waits with the bytes it covers. While one is on the bus another is BUSY; a command of another Hatch than the
session's is MALFORMED. It says when each of these completes, and with which next state: IMAGE_BEGIN, IMAGE_WRITE,
IMAGE_COMMIT, IMAGE_STATUS, IMAGE_READ.  Rules: R412, R469. -/
def Obligations.ImageCommands : Prop :=
  ∀ (s : State) (h : Nat), live s = true → h < 16 →
    let waits (c : Instr) (job : EeJob) (ses : Option ImgSession) (ks : List TwKind) : Prop :=
      ∃ u, exec c s = .next u ∧ u.img = { s.img with eeJob := some job, session := ses } ∧ (hatch u h).waiting = true ∧
        u.tw.waiting.map TwTrans.kind = s.tw.waiting.map TwTrans.kind ++ ks ∧ u = { s with img := u.img, mg := u.mg, tw := u.tw }
    let off := pl s h 0 4
    let n := pl s h 4 4
    (s.img.eeJob = none → s.heat.stop = .running → s.heat.storeOk = true →
      (hatchReady s h 0x0510 0x0510 = true → s.img.session = none →
        waits (.imageBegin h) { hatch := h, opcode := 0x0510, done := 0, total := 4 } (some { hatch := h, written := 0 })
          [.eeWrite (slotBase s (standby s) + 60) (leBytes 0xFFFFFFFF 4)]) ∧
      (hatchReady s h 0x0511 0x0511 = true → reservedBad s h [(0, 8), (8, n)] = [] → off % 4 = 0 → off + n ≤ slotSize s →
        4 ≤ n → n ≤ 4032 → n % 4 = 0 → 64 ≤ off → sessionOf s h = true →
        waits (.imageWrite h) { hatch := h, opcode := 0x0511, done := 0, total := n } s.img.session
          [.eeWrite (slotBase s (standby s) + off) (plBytes s h 8 n)]) ∧
      (hatchReady s h 0x0512 0x0512 = true → sessionOf s h = true →
        waits (.imageCommit h) { hatch := h, opcode := 0x0512, done := 0, total := 64 } s.img.session
          [.eeRead (slotBase s (standby s)) (min (slotSize s) (64 + hdrLength s (slotBase s (standby s))))])) ∧
    (s.img.eeJob = none → hatchReady s h 0x0513 0x0513 = true →
      waits (.imageStatus h) { hatch := h, opcode := 0x0513, done := 0, total := 128 } s.img.session
        [.eeRead (slotBase s 0) 64, .eeRead (slotBase s 1) 64]) ∧
    (s.img.eeJob = none → hatchReady s h 0x0514 0x0514 = true → reservedBad s h [(0, 1), (4, 8)] = [] → pl s h 0 1 < 2 →
      n % 4 = 0 → n + pl s h 8 4 ≤ slotSize s → 4 ≤ pl s h 8 4 → pl s h 8 4 ≤ 4032 → pl s h 8 4 % 4 = 0 →
      waits (.imageRead h) { hatch := h, opcode := 0x0514, done := slotBase s (pl s h 0 1) + n, total := pl s h 8 4 } s.img.session
        [.eeRead (slotBase s (pl s h 0 1) + n) (pl s h 8 4)]) ∧
    (s.img.eeJob.isSome = true → hatchReady s h 0x0513 0x0513 = true → exec (.imageStatus h) s = .next (ans s h 1)) ∧
    (sessionOf s h = false → hatchReady s h 0x0512 0x0512 = true → exec (.imageCommit h) s = .next (ansBad s h 0))

/-- FW_BEGIN opens one load of a legal total; FW_DATA stores its bytes in the half that does not run; FW_END refuses a
part-received, an ill-formed and an untrusted image and stages a good one; FW_ACTIVATE exchanges the halves and
runs the new one; a load idle for 1 s is rejected. The watchdog restarts a silent Larder and leaves it stopped at
the third restart in 10 minutes; a signal holds it off. FW_WAIT that ends without an image or a fallback leaves
Larder stopped and sets ROLLBACK. It says when each of these completes, and with which next state: FW_WAIT_EXPIRY,
FW_BEGIN, FW_DATA, FW_END, FW_ACTIVATE, FW_STATUS, LARDER_WATCHDOG, FW_LOAD_TIMEOUT, LARDER_WATCHDOG_SIGNAL.  Rules: R439, R440, R441, R469. -/
def Obligations.FirmwareLoads : Prop :=
  ∀ (s : State) (h : Nat), live s = true → h < 16 →
    let off := pl s h 0 4
    let n := pl s h 4 4
    (hatchReady s h 0x0801 0x0801 = true → reservedBad s h [(0, 4)] = [] → 8192 ≤ off → off ≤ 2097152 →
      (s.boot.staged = .open_ → exec (.fwBegin h) s = .next (ans s h 1)) ∧
      (s.boot.staged ≠ .open_ → ∃ u, exec (.fwBegin h) s = .next (ansOk u h []) ∧ u.boot.staged = .open_ ∧ u.boot.total = off ∧
        u.boot.got = [] ∧ u.boot.lastData = s.now ∧ fwHalf u s.boot.runHalf = fwHalf s s.boot.runHalf ∧
        u = { s with boot := u.boot })) ∧
    (hatchReady s h 0x0802 0x0802 = true → reservedBad s h [(0, 8 + n)] = [] → off % 4 = 0 → s.boot.staged = .open_ →
      off + n ≤ s.boot.total → n % 4 = 0 → 4 ≤ n → n ≤ 4032 →
      ∃ u, exec (.fwData h) s = .next (ansOk u h []) ∧ bmRead (fwStage u).bytes off n = plBytes s h 8 n ∧
        (∀ a, a < off ∨ off + n ≤ a → bmGet (fwStage u).bytes a = bmGet (fwStage s).bytes a) ∧
        fwHalf u s.boot.runHalf = fwHalf s s.boot.runHalf ∧ u.boot.lastData = s.now ∧ u = { s with boot := u.boot }) ∧
    (hatchReady s h 0x0803 0x0803 = true → reservedBad s h [] = [] →
      (s.boot.staged ≠ .open_ → exec (.fwEnd h) s = .next (ans s h 8)) ∧
      (s.boot.staged = .open_ → fwReceived s ≠ s.boot.total →
        exec (.fwEnd h) s = .next (ans { s with boot := { s.boot with staged := .rejected } } h 8)) ∧
      (s.boot.staged = .open_ → fwReceived s = s.boot.total → fwLegal (fwStage s) = false →
        exec (.fwEnd h) s = .next (ans { s with boot := { s.boot with staged := .rejected } } h 2)) ∧
      (s.boot.staged = .open_ → fwReceived s = s.boot.total → fwLegal (fwStage s) = true → s.boot.fwDecided = true →
        exec (.fwEnd h) s = .next (if fwTrusted s (fwStage s)
          then ansOk { s with boot := { s.boot with staged := .accepted } } h []
          else ans { s with boot := { s.boot with staged := .rejected } } h 3))) ∧
    (hatchReady s h 0x0804 0x0804 = true → reservedBad s h [] = [] →
      (s.boot.staged ≠ .accepted → exec (.fwActivate h) s = .next (ans s h 8)) ∧
      (s.boot.staged = .accepted → (hatch s h).exec = true → ∃ u, exec (.fwActivate h) s = .next (ansOk u h []) ∧ u.boot.runHalf = (!s.boot.runHalf) ∧
        u.boot.staged = .none ∧ u.boot.larder = .running ∧ u.boot.signalAt = s.now ∧ u.dram = s.dram)) ∧
    (hatchReady s h 0x0805 0x0805 = true → reservedBad s h [] = [] → ∃ p, exec (.fwStatus h) s = .next (ansOk s h p) ∧
      p.length = 72 ∧ leAt p 0 1 = s.boot.svn.toNat ∧ leAt p 2 2 = stagedCode s.boot.staged) ∧
    (s.boot.staged = .open_ → expired s s.boot.lastData 1000000000 = true →
      exec .fwLoadTimeout s = .next { s with boot := { s.boot with staged := .rejected } }) ∧
    ((s.boot.staged ≠ .open_ ∨ expired s s.boot.lastData 1000000000 = false) → exec .fwLoadTimeout s = .next s) ∧
    (s.boot.larder = .running →
      exec .larderWatchdogSignal s = .next { s with boot := { s.boot with signalAt := s.now } }) ∧
    (s.boot.larder = .running → expired s s.boot.signalAt 100000000 = true →
      ∃ u, exec .larderWatchdog s = .next u ∧ u.boot.wdog.toNat = min (s.boot.wdog.toNat + 1) 0xFFFF ∧
        (2 ≤ (s.boot.restarts.filter (fun t => s.now < t + 600000000000)).length → u.boot.larder = .stopped ∧ u.boot.svn = 0)) ∧
    (s.boot.fwDecided = true → exec (.fwWaitExpiry false) s = .next s) ∧
    (s.boot.fwDecided = false → portsOn s = true → waited s s.boot.fwFrom (s.boot.fwWait.toNat * 1000000) = true →
      s.boot.fallback = none →
      ∃ u, exec (.fwWaitExpiry true) s = .next u ∧ u.boot.fwDecided = true ∧ u.boot.larder = .stopped ∧ u.vault.rollback = true)

/-- The PLL's lock in time starts BIST; late, or a failed BIST, is a boot halt with STACK_FATAL_N low and nothing
served. BIST that passes leads to the image phase; the load ends in the calibration phase with the shadows as the
tables in force and the ports released; the image comes from the first readable slot that qualifies, by SEQ, and
from none its tables stay base-coat; calibration leads to the Primer pass; its clones leave every bank not retired
at zero; its end releases the stack with an empty directory. The key is ready once, in service. It says when each
of these completes, and with which next state: PRIMER_CLONES_COMPLETE, PRIMER_COMPLETE, BOOT_HALT,
STARTUP_BIST_COMPLETE, IMAGE_LOAD_COMPLETE, COLD_CALIBRATION_COMPLETE, PLL_LOCK, IDENTITY_KEY_READY.  Rules: R268, R269, R270, R408, R409, R442, R443, R445. -/
def Obligations.StartUpSequence : Prop :=
  ∀ s : State, live s = true →
    (s.boot.phase = .pll → expired s s.boot.t0 100000000 = false →
      exec .pllLock s = .next { s with boot := { s.boot with phase := .bist } }) ∧
    (s.boot.phase = .pll → expired s s.boot.t0 100000000 = true →
      exec .pllLock s = .next s ∧ exec (.bootHalt 0) s = .next (haltBoot s)) ∧
    (let t := haltBoot s
     t.boot.phase = .halt ∧ t.faults.fatalLow = true ∧ t.dram = [] ∧ t.vault.tight = s.vault.tight ∧
       t.img.eeprom = s.img.eeprom ∧ live t = false ∧ wired t = false ∧ t.wp.st = .off) ∧
    (s.boot.phase = .bist → exec (.startupBistComplete false []) s = .next (haltBoot s)) ∧
    (s.boot.phase = .bist → ∃ t, exec (.startupBistComplete true []) s = .next t ∧ t.boot.phase = .image) ∧
    (∀ k a b bad, s.boot.phase ≠ .image → exec (.imageLoadComplete k a b bad) s = .next s) ∧
    (∀ k a b bad, s.boot.phase = .image → k ≤ 3 → (∀ c ∈ bad, c < 6) →
      ∃ t, exec (.imageLoadComplete k a b bad) s = .next t ∧ t.boot.phase = .calibration ∧ t.boot.fwFrom = s.now ∧
        t.cal.t0 = s.now ∧ t.tw.bootSpeed = BitVec.ofNat 2 (2 - k) ∧ t.fab.committing = false ∧ t.acc.commit = none ∧
        t.fab.routesSh = t.fab.routes ∧ t.fab.windowsSh = t.fab.windows ∧ t.dram = s.dram ∧
        (t.fab.wpEnable = true → smGet false s.pins.railOut 2 = false → t.wp.st = .training ∧ t.wp.phase = .clockLock) ∧
        (a = false → b = false → t.vault.imgSlot = 2 ∧ t.vault.imgSeq = 0)) ∧
    (∀ a b, (chooseSlot s a b).2 ≠ [] → ∃ k, k ∈ slotOrder s a b ∧ qualifies s k = true ∧
      (∀ j, j ∈ (slotOrder s a b).takeWhile (fun x => x ≠ k) → qualifies s j = false) ∧
      (chooseSlot s a b).1.vault.imgSlot = BitVec.ofNat 8 k) ∧
    (∀ (taps : Nat) (scales : List (BitVec 16)), 700 ≤ taps → taps ≤ 1400 → scales.length = 18 →
      s.boot.phase = .calibration → calRuns s = true →
      ∃ t, exec (.coldCalibrationComplete taps [] scales [] []) s = .next t ∧ t.boot.phase = .primer ∧
        t.primer.st = .clones ∧ t.primer.t0 = s.now ∧ t.cal.tdcLsb = BitVec.ofNat 16 (1024000 / taps) ∧
        t.cal.scaleAt = s.now ∧ t.cal.done = true ∧ t.dram = s.dram) ∧
    (s.boot.identReady = false → portsOn s = true → identOk s = true → chainLen s = 0 →
      exec .identityKeyReady s = .next { s with boot := { s.boot with
        identMod := identModulus (BitVec.ofNat 512 (fnContent s 1)), identReady := true, keysZero := false } }) ∧
    (s.primer.st = .clones → 128400000 ≤ s.primer.ran + (s.now - s.primer.since) →
      (∀ b, ∀ x ∈ (srBlk s b).rowRep, x.2.1 < 65536) →
      ∃ t, exec (.primerClonesComplete []) s = .next t ∧ t.primer.st = .check ∧
        (∀ p ∈ t.dram, (srBlk s (p.1 / (128 * 34 * 65792) / 68)).retired.getLsbD (p.1 / (128 * 34 * 65792) % 68) = true) ∧
        t = { s with dram := t.dram, primer := t.primer }) ∧
    (s.primer.st = .check → 130000000 ≤ s.primer.ran + (s.now - s.primer.since) →
      ∃ u, exec (.primerComplete [] []) s = .next (settle u) ∧ u.boot.phase = .released ∧ u.primer.st = .done ∧
        u.dram = s.dram ∧ u.uc.dir = [] ∧ u.uc.frames = [] ∧ (∀ p ∈ u.blocks, p.2.ptab = [] ∧ p.2.povf = false))

/-- Power removed leaves the fuses, the EEPROM and the pins' levels, and nothing else: DRAM, records and tables are as
at reset. Power restored starts the count of ticks, and the start-up unless STACK_RST_N is low; a second rise does
nothing. A full stack reset discards all but the Vault and the EEPROM, and is ignored in a chip halt; its end
starts the stack with LAST_RESET 1. The waiting commands stay. It says when each of these completes, and with which
next state: POWER_ON, FULL_STACK_RESET, POWER_REMOVED, STACK_RST_N_RISING.  Rules: R449, R547. -/
def Obligations.PowerAndStackReset : Prop :=
  ∀ s : State, s.img.job = none → s.tw.cur = none → s.tw.polls = [] →
    (∃ t, exec .powerRemoved s = .next t ∧ t.dram = [] ∧ t.faults = State.reset.faults ∧ t.acc = State.reset.acc ∧
      t.boot.phase = .off ∧ t.boot.pwrGood = false ∧ t.vault.tight = s.vault.tight ∧ t.vault.loose = s.vault.loose ∧
      t.img.eeprom = s.img.eeprom ∧ t.pending = s.pending ∧ t.boot.stackRstN = s.boot.stackRstN) ∧
    (s.boot.pwrGood = true → ∀ r, exec (.powerOn r) s = .next s) ∧
    (s.boot.pwrGood = false → s.boot.stackRstN = true → ∀ r, ∃ t, exec (.powerOn r) s = .next t ∧ t.boot.phase = .pll ∧
      t.now = 0 ∧ t.boot.t0 = 0 ∧ t.boot.lastReset = 0 ∧ t.boot.pwrGood = true ∧ t.cal.refSel = r ∧ t.dram = s.dram) ∧
    (s.boot.pwrGood = false → s.boot.stackRstN = false → ∀ r, ∃ t, exec (.powerOn r) s = .next t ∧
      t.boot.phase = s.boot.phase ∧ t.boot.pwrGood = true) ∧
    (s.boot.pwrGood = true → s.faults.halted = true → exec .fullStackReset s = .next { s with boot := { s.boot with
      stackRstN := false, stackLowAt := max s.now 1 } }) ∧
    (s.faults.halted = false → s.boot.phase ≠ .halt → s.boot.phase ≠ .off →
      ∃ t, exec .fullStackReset s = .next t ∧ t.boot.phase = .off ∧ t.boot.stackRstN = false ∧ t.dram = [] ∧
        t.faults.log = [] ∧ t.faults.slots = [] ∧ t.acc = State.reset.acc ∧ t.vault.tight = s.vault.tight ∧
        t.img.eeprom = s.img.eeprom ∧ t.pending = s.pending) ∧
    (s.boot.stackRstN = true → exec .stackRstNRising s = .next s) ∧
    (s.boot.stackRstN = false → s.boot.pwrGood = true → s.boot.phase = .off → s.boot.stackLowAt ≠ 0 →
      ∃ t, exec .stackRstNRising s = .next t ∧ t.boot.phase = .pll ∧ t.boot.lastReset = 1 ∧ t.boot.t0 = s.now ∧
        t.vault.tight = s.vault.tight ∧ t.img.eeprom = s.img.eeprom ∧ t.dram = [])

/-- An instruction that enters scan zeroises the keys and, in a stack that is neither halted nor off, closes every
pipeline and puts every block in self-refresh; other instructions only stand in their register; TRST_N resets the
test port and leaves scan in force. VDD_ARRAY or VPP out of range is a C4 fault, VDDQ_W a C1 that takes the Wide
Port down, a fabric rail a C1 that takes the fabric ports down; a rail that is already out raises nothing. It says
when each of these completes, and with which next state: SCAN_ENTRY, TEST_PORT_INSTRUCTION, RAIL_OUT_OF_RANGE,
RAIL_RESTORED, TRST_N_ASSERTED.  Rules: R453, R548, R558, R559. -/
def Obligations.TestPortAndRails : Prop :=
  ∀ s : State, s.boot.pwrGood = true →
    (∀ (die : Nat) (ir : BitVec 8), die < 18 → entersScan die ir = true →
      ∃ t, exec (.scanEntry die ir) s = .next t ∧ t.boot.keysZero = true ∧ t.boot.identMod = 0 ∧ t.dram = s.dram ∧
        (s.faults.halted = false → s.boot.phase ≠ .halt → s.boot.phase ≠ .off → s.boot.phase ≠ .scan →
          t.boot.phase = .scan ∧ t.tx.held = [] ∧ t.tx.waiting = [] ∧ t.tx.ctxs = [] ∧
          ∀ b, b < 36 → (blk t b).st = .selfRefresh)) ∧
    (∀ ir : BitVec 8, entersScan 0 ir = false →
      exec (.testPortInstruction 0 ir) s = .next { s with pins := { s.pins with ir := ir } }) ∧
    (∀ (die : Nat) (ir : BitVec 8), 0 < die → die < 18 → entersScan die ir = false →
      exec (.testPortInstruction die ir) s =
        .next { s with pins := { s.pins with dieIr := smSet 1 s.pins.dieIr die ir } }) ∧
    exec .trstNAsserted s = .next { s with pins := { s.pins with ir := 1, chain := 0, dieIr := [] } } ∧
    (wired s = true →
      (∀ rail, rail < 5 → smGet false s.pins.railOut rail = true → exec (.railOutOfRange rail) s = .next s) ∧
      (∀ rail, rail < 5 → smGet false s.pins.railOut rail = false →
        let u : State := { s with pins := { s.pins with railOut := smSet false s.pins.railOut rail true } }
        (rail < 2 → exec (.railOutOfRange rail) s = .next (chipFault u .c4 13 0x1601 rail)) ∧
        (rail = 2 → ∀ v : State, v = chipFault u .c1 0 0x1602 0 →
          (v.wp.st = .off ∨ v.wp.st = .failed → exec (.railOutOfRange rail) s = .next v) ∧
          (v.wp.st ≠ .off → v.wp.st ≠ .failed → v.wp.dead = false → exec (.railOutOfRange rail) s = .next (wpOut v))) ∧
        (2 < rail → exec (.railOutOfRange rail) s =
          .next ((List.range 4).foldl (fun s p => fpDown s p false) (chipFault u .c1 1 0x1603 (rail - 3))))) ∧
      (∀ rail, rail < 3 → smGet false s.pins.railOut rail = true →
        exec (.railRestored rail) s =
          .next { s with pins := { s.pins with railOut := smSet false s.pins.railOut rail false } }) ∧
      (∀ rail, rail < 5 → smGet false s.pins.railOut rail = false → exec (.railRestored rail) s = .next s))

/-- Outside normal service only the pin's level is kept; in it the reset begins: LAST_RESET is 2, RET_COUNT counts,
commits, the image session and the waiting two-wire transactions of classes 3 to 5 end. 20 us later the blocks
leave service. Once every block is out of service and the answers are placed, or 130 us have gone by, the base die
is in reset: requests, Hatches and the SPDM buffer are cleared, and DRAM, the remap tables, the fault records and
the access tables keep what they hold. The release, when the pin rises, brings the stack back to service. It says
when each of these completes, and with which next state: RETAINING_RESET, RETAINING_RESET_TE,
RETAINING_RESET_RELEASE, RETAINING_RESET_WRITEBACK.  Rules: R450, R451, R452. -/
def Obligations.RetainingResetCommands : Prop :=
  ∀ s : State, live s = true →
    (s.boot.phase ≠ .released →
      exec .retainingReset s = .next { s with boot := { s.boot with retRstN := false, retLowAt := s.now } }) ∧
    (s.boot.phase = .released →
      ∃ u, exec .retainingReset s = .next (settle u) ∧ u.boot.phase = .retaining ∧ u.boot.retRstN = false ∧
        u.boot.retLowAt = s.now ∧ u.boot.lastReset = 2 ∧
        u.boot.retCount.toNat = min (s.boot.retCount.toNat + 1) 0xFFFF ∧ u.fab.committing = false ∧ u.acc.commit = none ∧
        u.img.session = none ∧ u.tw.waiting = s.tw.waiting.filter (fun t => t.cls < 3)) ∧
    ((s.boot.phase ≠ .retaining ∨ waited s s.boot.retLowAt 20000 = false) → exec .retainingResetWriteback s = .next s) ∧
    (s.boot.phase = .retaining → waited s s.boot.retLowAt 20000 = true →
      ∃ t, exec .retainingResetWriteback s = .next t ∧ (∀ b < 36, (blk t b).st ≠ .serving) ∧
        t = (List.range 36).foldl (fun s b =>
          if (blk s b).st = .stopped then sleepBlock s b
          else drainComplete (modBlk s b (fun k => if activeBlock k then { k with st := .leaving } else k)) b)
          (settle (resolveAllSnoops s))) ∧
    (teReady s = false → exec .retainingResetTe s = .next s) ∧
    (teReady s = true → s.boot.retRose = false →
      ∃ t, exec .retainingResetTe s = .next t ∧ t.boot.phase = .retHeld ∧ t.dram = s.dram ∧ t.remap = s.remap ∧
        t.acc.rules = s.acc.rules ∧ t.acc.groups = s.acc.groups ∧ t.faults.slots = s.faults.slots ∧
        t.faults.log = s.faults.log ∧ t.faults.nextFid = s.faults.nextFid ∧ t.mg.hatches = [] ∧ t.spdm = {} ∧
        t.tx.held = [] ∧ t.tx.waiting = [] ∧ t.tx.snoops = [] ∧ t.vault = s.vault) ∧
    (s.boot.phase = .retaining → exec .retainingResetRelease s =
      .next { s with boot := { s.boot with retRstN := true, retRose := true } }) ∧
    (s.boot.phase = .retHeld → ∃ u, exec .retainingResetRelease s = .next (settle u) ∧ u.boot.phase = .released ∧
      u.boot.retRstN = true ∧ u.boot.responder = [] ∧ u.reg.upTo = s.now ∧ u.reg.winStart = s.now)

/-- Every command answers a next state, in every state; one with an operand outside its range leaves the state as it
is. (That an operand outside its range changes nothing is the model's choice, log entry 2.)  Rules: R25. -/
def Obligations.EveryCommandCompletes : Prop :=
  ∀ (i : Instr) (s : State), (∃ t, exec i s = .next t) ∧ (i.wf = false → exec i s = .next s)

/-- In a chip halt every command but those of the ports and lanes, the messages they bring, the sensors, the rails, the
test port, the pins, the power and the end of a fuse word in progress leaves the state as it is.  Rules: R357, R358. -/
def Obligations.HaltedStackHearsOnlyItsPorts : Prop :=
  ∀ (c : Instr) (s : State), s.faults.halted = true → heardInHalt c = false → exec c s = .next s

/-- A failed start of a powered stack is a boot halt: STACK_FATAL_N low, no port trained, nothing held. Every step but
the removal of power keeps it, whatever command is at the front of the queue.  Rules: R443. -/
def Obligations.BootHaltHolds : Prop :=
  (∀ s : State, s.boot.pwrGood = true → BootHalted (haltBoot s)) ∧
  (∀ (s t : State), BootHalted s → s.pending.head? ≠ some .powerRemoved → step s = .next t → BootHalted t)

/-- At reset the queue is empty, power is off and every port is off or down, memories list nothing, no fault record or
event is held, the access tables stand in the base-coat state with FM_HATCH 0, event target 0 takes faults and
notices for node 0xFF0, and agents and Hatches have their base-coat nodes. (That the model starts with power off is
its choice, log entry 3.)  Rules: R70, R328, R360, R472, R479. -/
def Obligations.ResetState : Prop :=
  State.reset.pending = [] ∧ State.reset.boot.phase = .off ∧ State.reset.boot.pwrGood = false ∧ State.reset.wp.st = .off ∧
  (∀ p, p < 4 → (port State.reset p).st = .down) ∧ State.reset.dram = [] ∧ MemoriesWf State.reset ∧
  allRecs State.reset = [] ∧ State.reset.faults.halted = false ∧ State.reset.acc.baseCoat = true ∧ State.reset.acc.fmHatch = 0 ∧
  (evtT State.reset 0).cfg = 0x3FFFFF0FF0F9 ∧ (∀ t, t < 8 → 0 < t → (evtT State.reset t).cfg = 0) ∧
  (∀ h, h < 16 → hatchNode State.reset h = BitVec.ofNat 12 (0xFF0 + h) ∧ agentNode State.reset h = BitVec.ofNat 12 (0xFF0 + h)) ∧
  State.reset.tx.waiting = [] ∧ State.reset.tx.ctxs = [] ∧ State.reset.trowel.ops = []

/-- Each answers its record and changes nothing but its answer: 104 positions of 4 bytes with their values, 72 wear
entries of 16 bytes, VOUT, VDD_CORE, the region powers and the floor, and the state of the timing unit. It says
when each of these completes, and with which next state: THERM_STATUS, WEAR_READ, POWER_STATUS, CAL_STATUS.  Rules: R385, R387, R433, R469. -/
def Obligations.HeatAndCalibrationRecords : Prop :=
  ∀ (s : State) (h : Nat), live s = true → h < 16 →
    (hatchReady s h 0x0401 0x0401 = true → ∃ p, exec (.thermStatus h) s = .next (ansOk s h p) ∧ p.length = 416 ∧
      ∀ i, i < 104 → leAt p (4 * i) 2 = (tpos s i).value.toNat) ∧
    (hatchReady s h 0x0402 0x0402 = true → ∃ p, exec (.wearRead h) s = .next (ansOk s h p) ∧ p.length = 1152 ∧
      ∀ i, i < 72 → leAt p (16 * i) 4 = (wearOf s (i / 18) (i % 18)).bin20.toNat ∧
        leAt p (16 * i + 8) 4 = (wearOf s (i / 18) (i % 18)).bin60.toNat) ∧
    (hatchReady s h 0x0403 0x0403 = true → ∃ p, exec (.powerStatus h) s = .next (ansOk s h p) ∧ p.length = 14 ∧
      leAt p 0 2 = s.mg.vout.toNat ∧ leAt p 2 2 = s.mg.vdd.toNat ∧ leAt p 12 2 = dfNow s % 65536) ∧
    (hatchReady s h 0x0607 0x0607 = true → ∃ p, exec (.calStatus h) s = .next (ansOk s h p) ∧ p.length = 168 ∧
      leAt p 2 2 = s.cal.tdcLsb.toNat ∧ leAt p 8 4 = s.cal.holdovers.toNat ∧ leAt p 16 8 = s.cal.walkSteps.toNat)

/-- Writes of a counter, of a selection and CLEAR_ALL wait for the next tick; a written 1 clears an overflow bit at
once; a counter that wraps in this tick is counted at once. SAMPLE_SET takes a legal interval and its controls;
SAMPLE_STATUS answers NEXT, VALID and the count of samples; TRACE_CLEAR empties the buffer and drops the samples in
progress. The oldest transaction due is taken, or counted as lost where 64 are open or the buffer is full and
stops. It says when each of these completes, and with which next state: PERF_SEL_WRITE, PERF_CNT_WRITE,
PERF_OVF_CLEAR, PERF_COUNTER_WRAP, SAMPLE_SET, SAMPLE_STATUS, TRACE_CLEAR, PERF_CLEAR_ALL, SAMPLE_TRIGGER.  Rules: R499, R500, R501, R505, R507, R508. -/
def Obligations.CountersAndSampling : Prop :=
  ∀ (s : State) (h : Nat), live s = true → h < 16 →
    (∀ (k : Nat) (v : BitVec 64), k < 128 →
      (∃ t, exec (.perfCntWrite k v) s = .next t ∧ t.perf.cntNext = s.perf.cntNext ++ [(k, v.extractLsb' 0 48)] ∧
        t.perf.cnt = s.perf.cnt ∧ t = { s with perf := { s.perf with cntNext := t.perf.cntNext } }) ∧
      (∃ t, exec (.perfSelWrite k v) s = .next t ∧ t.perf.selNext = s.perf.selNext ++ [(k, selOf k v.toNat)] ∧
        t.perf.sel = s.perf.sel ∧ t = { s with perf := { s.perf with selNext := t.perf.selNext } })) ∧
    exec .perfClearAll s = .next { s with perf := { s.perf with clearNext := true } } ∧
    (∀ v : BitVec 64, exec (.perfOvfClear false v) s = .next { s with perf := { s.perf with ovf0 := s.perf.ovf0 &&& ~~~v } } ∧
      exec (.perfOvfClear true v) s = .next { s with perf := { s.perf with ovf1 := s.perf.ovf1 &&& ~~~v } }) ∧
    (∀ k, k < 128 → exec (.perfCounterWrap k) s = .next (if wrapsNow s k then perfFlush s else s)) ∧
    (∀ k, k < 64 → s.perf.occ = [] → (perfFlush s).perf.ovf0.getLsbD k = s.perf.ovf0.getLsbD k) ∧
    (s.perf.due = [] → exec .sampleTrigger s = .next s) ∧
    (∀ (x : Sample) (l : List Sample), s.perf.due = x :: l →
      ∃ t, exec .sampleTrigger s = .next t ∧ t.perf.due = l ∧ t = { s with perf := t.perf } ∧
        ((64 ≤ s.perf.open_.length ∨ traceStopped s = true) → t.perf.open_ = s.perf.open_ ∧
          t.perf.lost.toNat = min (s.perf.lost.toNat + 1) (2 ^ 32 - 1)) ∧
        (s.perf.open_.length < 64 → traceStopped s = false → t.perf.open_ = s.perf.open_ ++ [x] ∧
          t.perf.sampled = s.perf.sampled + 1)) ∧
    (hatchReady s h 0x0701 0x0701 = true → reservedBad s h [(0, 4), (4, 1)] = [] → pl s h 0 4 ≠ 0 → (pl s h 4 1).testBit 4 = false →
      ∃ u, exec (.sampleSet h) s = .next (ansOk u h []) ∧ u.perf.n.toNat = pl s h 0 4 ∧ u.perf.ctl.toNat = pl s h 4 1 ∧
        ((pl s h 4 1).testBit 1 = false → u.perf.countdown = pl s h 0 4) ∧ u = { s with perf := u.perf }) ∧
    (hatchReady s h 0x0702 0x0702 = true → ∃ p, exec (.sampleStatus h) s = .next (ansOk s h p) ∧ p.length = 12 ∧
      leAt p 0 2 = s.perf.next.toNat ∧ leAt p 2 2 = s.perf.valid.toNat) ∧
    (hatchReady s h 0x0703 0x0703 = true → exec (.traceClear h) s = .next (ansOk { s with perf := { s.perf with
      next := 0, valid := 0, sampled := 0, lost := 0, open_ := [], due := [] } } h []))

/-- TEST_START of a legal object that is neither denied nor busy opens a run with the next TEST_ID, deferred until the
conditions have held for 10 ms, and answers that number; TEST_RESULT answers a run's record. Once the conditions
hold the run resumes; one deferred past DEFER_LIMIT ends INCOMPLETE; a bank without data is marched directly, and
another takes a shadow unit; where its lines may be placed the subarray is copied into its unit, a write step of
the march leaves its background in the row, and a step of a block BIST enters its word in the signature and counts;
the restore hands a subarray out, and the last one ends the run. It says when each of these completes, and with
which next state: TEST_START, TEST_RESULT, TEST_DEFER_LIMIT, TEST_UNIT_GRANT, TEST_COPY_IN_COMPLETE,
TEST_MARCH_STEP, TEST_RESTORE_COMPLETE, TEST_CONDITIONS_HELD.  Rules: R484, R485, R486, R487, R488, R489, R493, R494, R495. -/
def Obligations.SelfTestRuns : Prop :=
  ∀ (s : State) (h : Nat), live s = true → h < 16 →
    (∀ pb, hatchReady s h 0x0609 0x0609 = true → reservedBad s h [(0, 5)] = [] → pl s h 0 1 = 1 → pl s h 1 1 = pb → pb < 36 →
      pl s h 2 1 = 0 → pl s h 3 1 = 0 → pl s h 4 1 = 0 →
      ((srBlk s pb).st ≠ .retired → exec (.testStart h) s = .next (ans s h 3)) ∧
      ((srBlk s pb).st = .retired → testBusy s 1 pb 0 = true → exec (.testStart h) s = .next (ans s h 1)) ∧
      ((srBlk s pb).st = .retired → testBusy s 1 pb 0 = false → condsHeld s = false →
        ∃ (u : State) (r : TestRun), exec (.testStart h) s = .next (ansOk u h (leBytes s.test.nextId 4)) ∧
          u.test.runs = keepRuns s.test.runs ++ [r] ∧ r.id = s.test.nextId ∧ r.kind = 1 ∧ r.pblock = pb ∧
          r.result = .deferred ∧ r.expected = 44635136 ∧ u.test.nextId = s.test.nextId + 1 ∧ u = { s with test := u.test })) ∧
    (∀ r, hatchReady s h 0x060A 0x060A = true → reservedBad s h [(0, 4)] = [] → pl s h 0 4 ≠ 0 → runGet s (pl s h 0 4) = some r →
      ∃ p, exec (.testResult h) s = .next (ansOk s h p) ∧ p.length = 40 ∧ leAt p 0 4 = resultCode r.result ∧
        leAt p 16 8 = r.sigM.toNat ∧ leAt p 24 8 = r.steps % 2 ^ 64) ∧
    (condsHeld s = true → exec .testConditionsHeld s = .next (resumeRuns s)) ∧
    (condsHeld s = false → exec .testConditionsHeld s = .next s) ∧
    (∀ (id d : Nat) (r : TestRun), runGet s id = some r → r.deferSince = some d → runOpen r = true →
      s.test.deferLimit.toNat * 1000000000 < r.deferTotal + (s.now - d) →
      exec (.testDeferLimit id) s = .next (endRun s id .incomplete)) ∧
    (∀ (g : Nat) (r : TestRun), g < 4 → s.test.runs = [r] → r.kind = 2 → r.pblock / 9 = g → r.phase = .waitUnit →
      r.result = .running → inService s = true → regionStopped s g = false → (blk s r.pblock).st = .serving →
      1 ≤ s.test.istMax.toNat → holdsNoData s r.pblock r.bank = true →
      exec (.testUnitGrant g) s = .next { s with test := { s.test with runs :=
        [{ r with phase := .march, unit := none, saStep := 0, ckM := r.sigM, ckSteps := r.steps, stepAt := s.now }] } }) ∧
    (∀ (id u : Nat) (r : TestRun), runGet s id = some r → r.phase = .copyIn → r.unit = some u →
      mayRun s r.pblock 10 32768 r.stepAt = true →
      ∃ v, exec (.testCopyInComplete id) s = .next (settle (modRun v id (fun t => { t with phase := .march, stepAt := v.now }))) ∧
        v = (List.range 1024).foldl (fun s q => (List.range 32).foldl (copyInLine r u (r.cur * 1024 + q)) s)
          (runLines s r.pblock 32768)) ∧
    (∀ (r : TestRun), s.test.runs = [r] → r.phase = .march → r.result = .running → r.endWith = none → r.saStep < 1024 →
      (srBlk s r.pblock).colRep = [] →
      mayRun s r.pblock 10 32 r.stepAt = true →
      ∃ v, exec (.testMarchStep r.id [] false) s = .next (settle v) ∧
        v.test = { s.test with runs :=
          [{ r with sigM := sigStep r.sigM 0, steps := r.steps + 1, saStep := r.saStep + 1, stepAt := s.now }] } ∧
        (∀ n < 32, dramCw v r.pblock r.bank (r.cur * 1024 + r.saStep) n = backLine false (r.cur * 1024 + r.saStep) n) ∧
        v = { s with dram := v.dram, blocks := v.blocks, heat := v.heat, test := v.test }) ∧
    (∀ (r : TestRun), s.test.runs = [r] → r.phase = .bist → r.result = .running → r.endWith = none → r.steps + 1 < 65536 →
      r.expected = 44635136 →
      exec (.testMarchStep r.id [] false) s = .next (settle { s with test := { s.test with runs :=
        [{ r with sigM := sigStep r.sigM 0, steps := r.steps + 1, stepAt := s.now }] } })) ∧
    (∀ (id u : Nat) (r : TestRun), runGet s id = some r → r.phase = .restore → r.unit = some u → repairsOwed s r = false →
      regionStopped s (r.pblock / 9) = false → (blk s r.pblock).st = .serving →
      mayRun s r.pblock (if r.forced then 8 else 10) 32768 r.stepAt = true →
      exec (.testRestoreComplete id) s = .next (settle (handOut (restoreRows (runLines s r.pblock 32768) r u) r)))

/-- REGULATOR_RELEASE with one header held at an ingress, whose buckets admit it: the header leaves the queue with the
class of the rule that released it, and a guaranteed one's bytes are taken from its master's buckets; where no
guarantee admits it and it contends for shared bandwidth, it leaves with class shared; with no header held only the
buckets advance. HOLD_SATURATED of a saturation that has lasted 10 us counts it once, with C0 0x0A03 that names the
master with the most held headers, at most once per ms; otherwise nothing changes. REGULATION_WINDOW_END at a
window's end starts the next with no bytes counted, and before it does nothing. DF_WRITE by a running Larder puts
the value in force, clamped to 500 for each block in service, with the scale it gives; without Larder a write does
nothing. It says when each of these completes, and with which next state: REGULATOR_RELEASE, HOLD_SATURATED,
DF_WRITE, REGULATION_WINDOW_END.  Rules: R303, R305, R306, R310, R312, R316. -/
def Obligations.RegulatorCommands : Prop :=
  ∀ s : State, live s = true →
    (∀ (ing : Nat) (w : Waiting) (rel : RelClass), s.tx.held = [w] → w.ing = ing → w.step = none → s.reg.upTo = s.now →
      guarRelease s w = some rel →
      ∃ t, exec (.regulatorRelease ing (hSrc w.msg.h0)) s = .next t ∧ t.tx.held = [] ∧
        t.tx.waiting = s.tx.waiting ++ [{ w with rel := rel }] ∧
        (rel = .guaranteed → (chargeOf s w).own ≠ 0 → minEff s (hSrc w.msg.h0).toNat ≠ 0 →
          (regSt t (hSrc w.msg.h0).toNat).guar = min (depthQ (rDepth (regEntry s (hSrc w.msg.h0).toNat)))
            ((regSt s (hSrc w.msg.h0).toNat).guar - ((4 * (chargeOf s w).own : Nat) : Int))) ∧
        t = { s with tx := t.tx, reg := t.reg, perf := t.perf, wp := t.wp, fp := t.fp }) ∧
    (∀ (ing : Nat) (w : Waiting), s.tx.held = [w] → w.ing = ing → w.step = none → s.reg.upTo = s.now →
      contends s w = true → backlogOk s w = true →
      ∃ t, exec (.regulatorRelease ing (hSrc w.msg.h0)) s = .next t ∧ t.tx.held = [] ∧
        t.tx.waiting = s.tx.waiting ++ [{ w with rel := .shared }] ∧
        t = { s with tx := t.tx, reg := t.reg, perf := t.perf, wp := t.wp, fp := t.fp }) ∧
    (∀ ing master, s.tx.held = [] → exec (.regulatorRelease ing master) s = .next (regAdvance s)) ∧
    (∀ ing, holdDue s ing = true →
      let r : Regulator := { s.reg with
        satCounted := smSet false s.reg.satCounted ing true,
        holdSat := BitVec.ofNat 32 (min (s.reg.holdSat.toNat + 1) (2 ^ 32 - 1)) }
      (limitOk s (smGet none s.reg.satLast ing) 1000000 = true →
        exec (.holdSaturated ing) s =
          .next (c0 { s with reg := { r with satLast := smSet none s.reg.satLast ing (some s.now) } } 8 0x0A03
            ((mostHeld s ing).toNat + ing * 2 ^ 12) 0)) ∧
      (limitOk s (smGet none s.reg.satLast ing) 1000000 = false → exec (.holdSaturated ing) s = .next { s with reg := r })) ∧
    (∀ ing, holdDue s ing = false → exec (.holdSaturated ing) s = .next s) ∧
    (s.reg.winStart + 10000 ≤ s.now → s.reg.masters = [] → bulkMinEff s = 0 →
      ∃ t, exec .regulationWindowEnd s = .next t ∧ t.reg.winStart = s.reg.winStart + 10000 ∧ t.reg.bulkSt.acc = 0 ∧
        t.reg.bulkSt.accLast = s.reg.bulkSt.acc ∧ t.reg.missed = s.reg.missed ∧ t = { s with reg := t.reg }) ∧
    (s.now < s.reg.winStart + 10000 → exec .regulationWindowEnd s = .next s) ∧
    (∀ v : BitVec 16, s.boot.larder ≠ .running → exec (.dfWrite v) s = .next s) ∧
    (∀ v : BitVec 16, s.boot.larder = .running →
      ∃ t, exec (.dfWrite v) s = .next t ∧ t.reg.df.toNat = min v.toNat (500 * blocksServing s) ∧ t.reg.dfWritten = true ∧
        t.reg.scale = scaleOf (min v.toNat (500 * blocksServing s)) (regSum s) ∧ t.reg.masters = s.reg.masters ∧
        t = { s with reg := t.reg, mg := t.mg, faults := t.faults, perf := t.perf })

/-- Each of the sixteen messages, whole, at an ingress that takes messages: from no enabled agent it is discarded and
counted; a Wide Port request with an unmapped address is answered ADDR_ERR; a message for another node is forwarded
over the route in force; one for this stack is served. At a closed ingress nothing follows. It says when each of
these completes, and with which next state: RD_SHARED, RD_OWN, CLAIM, RD_CUR, RD_LONG, EVICT_CLEAN, WR, WR_LONG,
WRBACK, ATOMIC, BULK_OP, SNP_RSP, SNP_RSPD, GACK, MG_RD, MG_WR.  Rules: R49, R50, R138, R139, R141. -/
def Obligations.MessagesAtTheirPort : Prop :=
  ∀ (s : State) (ing : Nat) (m : Msg) (c : Instr) (op : Nat),
    (c, op) ∈ [(Instr.rdShared ing m, opRdShared), (.rdOwn ing m, opRdOwn), (.claim ing m, opClaim), (.rdCur ing m, opRdCur),
      (.rdLong ing m, opRdLong), (.evictClean ing m, opEvictClean), (.wr ing m, opWr), (.wrLong ing m, opWrLong),
      (.wrback ing m, opWrback), (.atomic ing m, opAtomic), (.bulkOp ing m, opBulk), (.snpRsp ing m, opSnpRsp),
      (.snpRspd ing m, opSnpRspd), (.gack ing m, opGack), (.mgRd ing m, opMgRd), (.mgWr ing m, opMgWr)] →
    ing < 5 → hOp m.h0 = op → m.data.length = dataLines m.h0 → wired s = true →
    (ingressOpen s ing = false → exec c s = .next s) ∧
    (ingressOpen s ing = true → s.faults.halted = false → s.boot.phase ≠ .retHeld →
      (mapAgent s ing m = none → exec c s = .next (agentDiscard (leaveIngress s ing m) (hSrc m.h0))) ∧
      (∀ m1, mapAgent s ing m = some m1 → decodeIng s ing m1 = none →
        exec c s = .next (addrErrIng (retLine s ing (opClass (hOp m1.h0)) m1.data.length) ing m1)) ∧
      (∀ m1 m2, mapAgent s ing m = some m1 → decodeIng s ing m1 = some m2 → hDst m2.h0 ≠ s.fab.stackNode →
        exec c s = .next (forward (leaveIngress s ing m2) ing m2 m2.data.length).1) ∧
      (∀ m1 m2, mapAgent s ing m = some m1 → decodeIng s ing m1 = some m2 → hDst m2.h0 = s.fab.stackNode →
        exec c s = .next (serve s ing m2))) ∧
    (ing ≠ 4 → mapAgent s ing m = some m ∧ decodeIng s ing m = some m) ∧
    (ingressOpen s ing = true → s.boot.phase = .retHeld → ing ≠ 4 → exec c s = .next (recordReq s m))

/-- A memory request that is no duplicate is held for the regulator behind those before it, with its data if they are
whole, and WRBACK and EVICT_CLEAN wait for acceptance at once; a duplicate is discarded and counted; from t0 of a
retaining reset, and in a thermal stop, it is answered RETRY. A management request that no open one duplicates,
with a context free, legal fields and its right takes a context: a read is answered by MG_DATA with the words read,
a write by MG_RSP after its words are written. A grant acknowledgement releases its sector's chain.  Rules: R154, R161, R172, R176, R302, R377, R450. -/
def Obligations.MessagesServed : Prop :=
  ∀ (s : State) (ing : Nat) (m : Msg), ing < 5 → s.faults.halted = false →
    let op := hOp m.h0
    let n := hSrc m.h0
    (opIsRequest op = true → op ≠ opMgRd → op ≠ opMgWr → op ≠ opBulk → retriesNow s op = false →
      (openCtx s n (hTag m.h0) = none → m.data.length = dataLines m.h0 →
        ∃ (t : State) (w : Waiting), serve s ing m = t ∧ w.ing = ing ∧ w.msg.h0 = m.h0 ∧ w.msg.h1 = m.h1 ∧ w.data = m.data ∧
          w.arr = s.tx.nextArr ∧ t.tx.nextArr = s.tx.nextArr + 1 ∧ t.tx.ctxs = s.tx.ctxs ∧ t.dram = s.dram ∧
          (op ≠ opWrback → op ≠ opEvictClean → t.tx.held = s.tx.held ++ [w] ∧ t.tx.waiting = s.tx.waiting ∧ t.wp = s.wp ∧
            t.fp = s.fp) ∧
          (op = opWrback ∨ op = opEvictClean → t.tx.waiting = s.tx.waiting ++ [w] ∧ t.tx.held = s.tx.held)) ∧
      ((openCtx s n (hTag m.h0)).isSome = true → ∃ t, serve s ing m = t ∧ t.tx.dups = s.tx.dups + 1 ∧
        t.tx.held = s.tx.held ∧ t.tx.waiting = s.tx.waiting ∧ t.tx.ctxs = s.tx.ctxs ∧ t.dram = s.dram)) ∧
    (retriesNow s op = true → serve s ing m = retryNow s ing m) ∧
    (op = opBulk → retriesNow s op = false → serve s ing m = takeBulk s ing m) ∧
    (isMgmt op = true → retriesNow s op = false → openCtx s n (hTag m.h0) = none → s.tx.mgWait = [] → poolFree s ing = true →
      fieldsOk m = true → moffListed (hMoff m.h0) = true →
      let u := leaveIngress (if moffQuiet (hMoff m.h0) then s else occ (passIngress s ing m) 0x104 7 0xF 1) ing m
      let v := moffTouch u n (hMoff m.h0)
      mgmtDenied u ing n (hMoff m.h0) (hSize m.h0 + 1) (opRights op) = none →
      (op = opMgRd → hasEgress v n = true → ∃ (t : State) (o : OutMsg) (c : Ctx), serve s ing m = t ∧
        (linkOf t (routeOf v n)).outQ = (linkOf v (routeOf v n)).outQ ++ [o] ∧ hOp o.h0 = opMgData ∧ hStatus o.h0 = stOk ∧
        hTag o.h0 = hTag m.h0 ∧ o.lines = [lineOf (moffRead v (hMoff m.h0) (hSize m.h0 + 1))] ∧
        t.tx.ctxs = v.tx.ctxs ++ [c] ∧ c.src = n ∧ c.tag = hTag m.h0 ∧ c.phase = .answered ∧
        t = { v with tx := t.tx, wp := t.wp, fp := t.fp, perf := t.perf }) ∧
      (op = opMgWr →
        let x := moffWrite v n (hMoff m.h0) ((lineBytes ((m.data.head?).getD 0)).take (8 * (hSize m.h0 + 1)))
        hasEgress x n = true → ∃ (t : State) (o : OutMsg) (c : Ctx), serve s ing m = t ∧
          (linkOf t (routeOf x n)).outQ = (linkOf x (routeOf x n)).outQ ++ [o] ∧ hOp o.h0 = opMgRsp ∧ hStatus o.h0 = stOk ∧
          hTag o.h0 = hTag m.h0 ∧ o.lines = [] ∧ t.tx.ctxs = x.tx.ctxs ++ [c] ∧ c.src = n ∧ c.tag = hTag m.h0 ∧
          c.phase = .answered ∧ t = { x with tx := t.tx, wp := t.wp, fp := t.fp, perf := t.perf })) ∧
    ((op = opSnpRsp ∨ op = opSnpRspd) → serve s ing m = snoopAnswer s ing m) ∧
    (op = opGack → serve s ing m = takeGack s ing m) ∧
    (∀ (c : Ctx) (it : ChainItem), op = opGack → h0Clean m.h0 = true → s.tx.ctxs = [c] → c.kind = .request → c.src = n →
      c.tag = hTag m.h0 → gackItem s c.idx = some it →
      takeGack s ing m = settle (cleanCtxs (dropItem (leaveIngress s ing m) it)))

/-- Outside service, and in a thermal stop, nothing is accepted. The next header of an ingress at the region that leads
it, with legal fields, an address of this stack, running regions and its rights, takes a context with the next
order position when the pool allows, and waits otherwise; a pipeline that does not lead the header waits for it,
and accepts its part of a long request already accepted with an order position of its own; the checks come in their
order, and a refused header leaves the queue with its status. Sets the lookup finds bad are lost first. It says
when each of these completes, and with which next state: REQUEST_ACCEPT.  Rules: R154, R155, R156, R157, R158, R354. -/
def Obligations.RequestAcceptance : Prop :=
  ∀ (s : State) (region ing : Nat), live s = true →
    (∀ bad, pipesOpen s = false → exec (.requestAccept region ing bad) s = .next s) ∧
    (∀ bad, pipesOpen s = true → exec (.requestAccept region ing bad) s =
      .next (settle (acceptNext (bad.foldl (loseDirSet region) s) region ing))) ∧
    (nextPart s region ing = none → nextFor s region ing = none → acceptNext s region ing = s) ∧
    (∀ w : Waiting, nextPart s region ing = none → nextFor s region ing = some w → leadRegion s w.msg.h0 ≠ region →
      acceptNext s region ing = s) ∧
    (∀ (w : Waiting) (m : Mapped) (u : State) (e : Bool), nextPart s region ing = none → nextFor s region ing = some w →
      leadRegion s w.msg.h0 = region → openCtx s (hSrc w.msg.h0) (hTag w.msg.h0) = none → verdict s w = (u, .accept e) →
      mapFa s.fab.windows (hAddr w.msg.h0 * 64) = some m →
      (poolFree s ing = false → acceptNext s region ing = s) ∧
      (poolFree s ing = true → isWriteOp (hOp w.msg.h0) = false → acceptNext s region ing = acceptReq u w m e)) ∧
    (∀ (w : Waiting) (u : State) (st a : Nat), nextPart s region ing = none → nextFor s region ing = some w →
      leadRegion s w.msg.h0 = region → openCtx s (hSrc w.msg.h0) (hTag w.msg.h0) = none → verdict s w = (u, .refuse st a) →
      acceptNext s region ing = refuseReq u w st a) ∧
    (∀ c : Ctx, nextPart s region ing = some c → nextFor s region ing = none → isWriteOp c.op = false →
      ∃ t, acceptNext s region ing = t ∧ t.tx.nextOrd = s.tx.nextOrd + 1 ∧ t.tx.waiting = s.tx.waiting ∧ t.dram = s.dram) ∧
    (∀ w : Waiting,
      (fieldsOk w.msg = false → verdict s w = (s, .refuse stMalformed (hAddr w.msg.h0))) ∧
      (fieldsOk w.msg = true → rangeOk s w.msg.h0 = false → (verdict s w).2 = .refuse stAddrErr (hAddr w.msg.h0)) ∧
      (fieldsOk w.msg = true → rangeOk s w.msg.h0 = true → (reqRegions s w.msg.h0).any (regionStopped s) = true →
        verdict s w = (s, .refuse stRegionDown (hAddr w.msg.h0)))) ∧
    (∀ (w : Waiting) (m : Mapped) (e : Bool), isWriteOp (hOp w.msg.h0) = false → w.ing < 5 →
      ∃ c : Ctx, (acceptReq s w m e).tx.ctxs = s.tx.ctxs ++ [c] ∧ c.src = hSrc w.msg.h0 ∧ c.tag = hTag w.msg.h0 ∧
        c.phase = .working ∧ c.acceptedAt = s.now ∧ (acceptReq s w m e).tx.nextOrd = s.tx.nextOrd + 1 ∧
        (acceptReq s w m e).tx.waiting = s.tx.waiting.filter (fun v => v.arr ≠ w.arr) ∧ (acceptReq s w m e).dram = s.dram)

/-- The data of an accepted write feeds its entries; a write without data at its deadline ends with RETRY; the first
reservation of a port is granted when its lines fit, and waits otherwise. A snoop, a grant acknowledgement or an
announced write-back absent at its deadline is resolved, and before it nothing changes; a quarantined context is
free when its time is over. It says when each of these completes, and with which next state: EVICTION_QUEUE_FREE,
SNOOP_SECTOR_ADMIT, SNOOP_TIMEOUT, GACK_TIMEOUT, WRBACK_WAIT_TIMEOUT, CONTEXT_QUARANTINE_END, WRITE_DATA_COMPLETE,
DATA_TIMEOUT, ALLOT_RESERVE, SNOOP_RESERVE_PLACE.  Rules: R59, R131, R158, R166, R170, R176, R177, R178. -/
def Obligations.DataSnoopsAndTimeouts : Prop :=
  ∀ s : State, live s = true →
    (∀ (c : Ctx) (data : List Line), s.tx.ctxs = [c] → c.kind = .request → c.phase = .working → isWriteOp c.op = true →
      c.dataOk = false → c.lines.length = data.length →
      exec (.writeDataComplete c.ing c.src c.tag data) s =
        .next (settle (feedData (retLine s c.ing 3 data.length) c.idx data))) ∧
    (∀ (c : Ctx) (i : Nat), ctxGet s i = some c → c.kind = .request → isWriteOp c.op = true → c.phase = .working → c.dataOk = false →
      (expired s c.acceptedAt (s.cfg.dataTimeout.toNat * 1000) = true →
        exec (.dataTimeout i) s = .next (settle (c0Tx (endCtx s c stRetry) c.ing c.src))) ∧
      (expired s c.acceptedAt (s.cfg.dataTimeout.toNat * 1000) = false → exec (.dataTimeout i) s = .next s)) ∧
    (∀ (a : AllotReq) (l : List AllotReq), s.wp.allotQ = a :: l → s.wp.allotNext = none →
      (a.lines ≤ s.wp.allotFree → exec (.allotReserve 4) s = .next (settle (modCtx { s with wp := { s.wp with
        allotQ := l, allotFree := s.wp.allotFree - a.lines } } a.ctx (fun c => { c with reserved := true })))) ∧
      (s.wp.allotFree < a.lines → exec (.allotReserve 4) s = .next s)) ∧
    (∀ p, p < 4 → (port s p).allotQ = [] → exec (.allotReserve p) s = .next s) ∧
    (∀ r, exec (.snoopSectorAdmit r) s = .next (settle (admitSector s r))) ∧
    (∀ (r : Nat) (w : ResWait), s.tx.resWait = [w] → w.region = r → reserveFree s (physBlock s w.lblock) = true →
      budgetRank s r 5 = true → ∃ u e, exec (.snoopReservePlace r) s = .next (settle u) ∧ u.tx.resWait = [] ∧
        (blk u (physBlock s w.lblock)).wq = (blk s (physBlock s w.lblock)).wq ++ [e] ∧ e.key = w.key ∧ e.data = w.data) ∧
    (∀ r, (∀ it ∈ chainHeads s, it.region ≠ r) → exec (.evictionQueueFree r) s = .next s) ∧
    (∀ (r : Nat) (it : ChainItem) (c : Ctx), chainHeads s = [it] → it.region = r → snoopsOver s it = true → ctxGet s it.ctx = some c →
      c.kind = .backInv → exec (.evictionQueueFree r) s = .next (settle (evictionDone s it))) ∧
    (∀ (n : Snoop) (t : Nat), s.tx.snoops = [n] → n.answered = false → n.sent = some t →
      (expired s t (s.cfg.snoopTimeout.toNat * 1000) = true →
        exec (.snoopTimeout n.ctx n.node) s = .next (settle (resolveSnoop s n))) ∧
      (expired s t (s.cfg.snoopTimeout.toNat * 1000) = false → exec (.snoopTimeout n.ctx n.node) s = .next s)) ∧
    (∀ (i t : Nat) (it : ChainItem) (c : Ctx), gackItem s i = some it → ctxGet s i = some c → it.phase = .gack (some t) →
      (expired s t (s.cfg.snoopTimeout.toNat * 1000) = true →
        exec (.gackTimeout i) s = .next (settle (c0Tx (cleanCtxs (dropItem s it)) c.ing c.src))) ∧
      (expired s t (s.cfg.snoopTimeout.toNat * 1000) = false → exec (.gackTimeout i) s = .next s)) ∧
    (∀ n : Snoop, s.tx.snoops = [n] → n.answered = true → n.wbp ≠ 0 →
      (expired s n.wbpSince (s.cfg.snoopTimeout.toNat * 1000) = false → exec (.wrbackWaitTimeout n.ctx n.node) s = .next s) ∧
      (expired s n.wbpSince (s.cfg.snoopTimeout.toNat * 1000) = true →
        exec (.wrbackWaitTimeout n.ctx n.node) s = .next (settle (resolveLines { s with tx := { s.tx with
          snoops := [{ n with wbp := 0 }],
          lateWb := s.tx.lateWb ++ (bitsSet n.wbp).map (fun k => (n.node.toNat, n.region, n.sector, k)) } } n (bitsSet n.wbp))))) ∧
    (∀ (i t : Nat) (c : Ctx), ctxGet s i = some c → c.quarantine = some t →
      (t ≤ s.now → exec (.contextQuarantineEnd i) s = .next (cleanCtxs (modCtx s i (fun c => { c with quarantine := none })))) ∧
      (s.now < t → exec (.contextQuarantineEnd i) s = .next s))

/-- The walk moves its pointer; an entry lost with its header stops the region, one whose row is known poisons that row
and frees its frame; a faulty frame is retired, with C1 0x0602, and its slice with its sixty-fifth. The sweep,
within its share of the floor and where its four lines may be placed, marks the next unknown sector known, or
broadcasts when it is hinted, and ends its pass after the last. A slice that does not answer resets the domain, and
is lost when it failed within the last second. The reset is held 0.5 us, stable 5 us and over 11 us after t0, when
tags, directory and frames are empty. Before its time or outside its condition a command changes nothing. It says
when each of these completes, and with which next state: TAG_WALK, HINT_SWEEP_READ, UC_SLICE_TIMEOUT, UC_OSC_FAULT,
UC_RESET_HOLD, UC_RESET_OSC_STABLE, UC_RESET_SLICES_RETURN.  Rules: R191, R202, R207, R208, R209, R210. -/
def Obligations.UndercoatCommands : Prop :=
  ∀ s : State, live s = true →
    (∀ (r set way : Nat) (hl : Bool) (errs : List (Nat × Nat × BitVec 8)), r < 4 → way < 16 →
      errs.all (fun e => e.1 < 32 && e.2.1 < 72) = true → ucUsable s r = true → set < cSets s →
      let u := errs.foldl (flipFrame r set way) (ucRegPut s r { ucReg s r with walk := set * 16 + way })
      exec (.tagWalk r set way false hl false errs) s = .next u ∧
      exec (.tagWalk r set way true true false errs) s = .next (settle (regionFault u .c3 r 0x0605 0)) ∧
      ((tagGet u r set way).hdr = none →
        exec (.tagWalk r set way true false false errs) s = .next (settle (regionFault u .c3 r 0x0605 0))) ∧
      (∀ rid, (tagGet u r set way).hdr = some rid → exec (.tagWalk r set way true false false errs) s =
        .next (settle (sliceFault (frameFree (poisonRow u r rid.toNat) r set way) .c2 (sliceOf r set way) 0x0603 1))) ∧
      ((tagGet u r set way).wstate = .retired → exec (.tagWalk r set way false hl true errs) s = .next (settle u)) ∧
      ((tagGet u r set way).wstate ≠ .retired → 
        let v := storeChanged (retireFrame u r set way true)
        let x := sliceFault v .c1 (sliceOf r set way) 0x0602 (b2n ((ucReg u r).noSpare.length < (ucReg v r).noSpare.length))
        (retiredIn x (sliceOf r set way) ≤ 64 → exec (.tagWalk r set way false hl true errs) s = .next (settle x)) ∧
        (64 < retiredIn x (sliceOf r set way) → exec (.tagWalk r set way false hl true errs) s =
          .next (settle (sliceLoss x (sliceOf r set way) true))))) ∧
    (∀ (r set way : Nat) (a b c : Bool), r < 4 → way < 16 → (ucUsable s r = false ∨ cSets s ≤ set) →
      exec (.tagWalk r set way a b c []) s = .next s) ∧
    (∀ (r p : Nat), r < 4 → ucUsable s r = true → regionStopped s r = false → s.heat.stop = .running → (ucReg s r).sweep = some p →
      (nextUnknown s r p = none → exec (.hintSweepRead r) s = .next (settle (endPass s r))) ∧
      (∀ sec, nextUnknown s r p = some sec → (∀ c ∈ s.tx.chain, c.region = r → c.sector ≠ sec) →
        let pb := physBlock s (sectorLine r sec 0).1
        let u := runLines (sweepPast s r sec) pb 4
        (sweepRoom s r = false → exec (.hintSweepRead r) s = .next (settle s)) ∧
        (sweepRoom s r = true → mayRun s pb 8 4 (ucReg s r).sweepAt = true → sectorHinted s r sec = false →
          exec (.hintSweepRead r) s = .next (settle (markKnown u r sec))) ∧
        (sweepRoom s r = true → mayRun s pb 8 4 (ucReg s r).sweepAt = true → sectorHinted s r sec = true → poolFree s 5 = true →
          exec (.hintSweepRead r) s = .next (settle (broadcast u r sec none))))) ∧
    (∀ r, r < 4 → (ucUsable s r = false ∨ s.heat.stop ≠ .running) → exec (.hintSweepRead r) s = .next s) ∧
    (∀ (k : Nat) (rd : Bool), k < 64 →
      (ucOn s (k / 16) = false → exec (.ucSliceTimeout k rd) s = .next s) ∧
      (ucOn s (k / 16) = true → failedLately s k = true → exec (.ucSliceTimeout k rd) s = .next (settle (sliceLoss s k rd))) ∧
      (ucOn s (k / 16) = true → failedLately s k = false → s.uc.reset = .none → exec (.ucSliceTimeout k rd) s =
        .next (startUcReset { s with uc := { s.uc with lastReset := (k, s.now) :: s.uc.lastReset.filter (fun p => p.1 ≠ k) } }))) ∧
    ((s.uc.reset ≠ .none ∨ s.cfg.ucEnable = false) → exec .ucOscFault s = .next s) ∧
    (s.uc.reset = .none → s.cfg.ucEnable = true → (∀ r < 4, dirtyItems s r = []) → s.test.runs = [] →
      let u := (List.range 4).foldl resetRegion s
      exec .ucOscFault s = .next (settle (chipFault { u with
        tx := { u.tx with nextOrd := u.tx.nextOrd + 1 },
        uc := { u.uc with dir := [], reset := .decided, t0 := u.now, epoch := u.uc.epoch + 1 } } .c1 6 0x0604 0))) ∧
    (s.uc.reset = .decided → waited s s.uc.t0 500 = true →
      exec .ucResetHold s = .next { s with uc := { s.uc with reset := .held } }) ∧
    (s.uc.reset = .held → waited s s.uc.t0 5000 = true →
      exec .ucResetOscStable s = .next { s with uc := { s.uc with reset := .stable } }) ∧
    (s.uc.reset = .stable → waited s s.uc.t0 11000 = true → waitingFor s 0x0306 = [] → s.uc.tags = [] →
      exec .ucResetSlicesReturn s =
        .next (settle { s with uc := { s.uc with reset := .none, dir := [], frames := [], shadow := [], returned := some s.now } })) ∧
    (s.uc.reset = .none → exec .ucResetHold s = .next s ∧ exec .ucResetOscStable s = .next s ∧
      exec .ucResetSlicesReturn s = .next s)

/-- A slot that is taken issues nothing; a free one, once internal work has taken its entries and requests for rows
given up have ended, sets the mode and issues the command that comes first: an activate opens its row, a precharge
closes it, a refresh covers the next eight rows. An activate echo that matches opens the row to columns, one that
does not closes it; a column echo that matches performs its write. Data whose row code is right is delivered when
the line decodes, and read again when it does not. An idle bank with no queued hit is precharged. A refresh due
adds one to the debt, and is forced at eight. A leaving block with nothing left enters self-refresh; a returning
one opens placement after its burst. Starved work raises C0 0x1501. It says when each of these completes, and with
which next state: BLOCK_CA_SLOT, DRAM_READ_DATA, ACT_ECHO_RECEIVED, BANK_IDLE_TIMEOUT, REFRESH_DUE,
BLOCK_DRAIN_COMPLETE, BLOCK_PLACEMENT_OPEN, PROGRESS_STARVATION, WR_COLUMN_ECHO.  Rules: R228, R229, R232, R234, R237, R238, R241, R242, R529. -/
def Obligations.BlockCommands : Prop :=
  ∀ s : State, live s = true → ∀ b, b < 36 →
    (
      let u := placeInternal (endBadRows s b) b
      (slotFree u b = false → exec (.blockCaSlot b) s = .next u) ∧
      (slotFree u b = true → (blk (dropFills u b) b).st = .selfRefresh → exec (.blockCaSlot b) s = .next (dropFills u b)) ∧
      (slotFree u b = true → (blk (dropFills u b) b).st = .serving →
        let v := setMode (dropFills u b) b (nextMode (dropFills u b) b (blockItems (dropFills u b) b))
        (blk v b).st = .serving →
        (chooseCand v b = none → exec (.blockCaSlot b) s = .next (driveLoop v b)) ∧
        (∀ c, chooseCand v b = some c → ∃ t, exec (.blockCaSlot b) s = .next t ∧ t = issue v b c.cmd ∧
          (∀ bank row, c.cmd = .act bank row → (bankOf (blk t b) bank).row = some row ∧ (bankOf (blk t b) bank).actAt = v.now ∧
            (bankOf (blk t b) bank).echoOk = false) ∧
          (∀ bank, c.cmd = .pre bank → (bankOf (blk t b) bank).row = none ∧ (bankOf (blk t b) bank).preAt = v.now) ∧
          (∀ bank, c.cmd = .ref bank → (bankOf (blk t b) bank).refTill = v.now + tRFCpb ∧
            (bankOf (blk t b) bank).refRow = ((bankOf (blk v b) bank).refRow + 8) % 65536)))) ∧
    (∀ (bank r : Nat) (db : BitVec 3) (row : BitVec 16) (p : Bool), bank < 68 → (bankOf (blk s b) bank).row = some r →
      (bankOf (blk s b) bank).echoOk = false → (bankOf (blk s b) bank).actAt + tAECHO ≤ s.now →
      (parity (row.toNat + db.toNat * 65536 + b2n p * 2 ^ 19) 20 = false → row.toNat = r → db.toNat = dbankOf bank →
        exec (.actEchoReceived b bank row db p) s =
          .next (settle (echoGood (modBlk s b (fun k => modBank k bank (fun x => { x with echoOk := true }))) b bank false))) ∧
      ((parity (row.toNat + db.toNat * 65536 + b2n p * 2 ^ 19) 20 = true ∨ row.toNat ≠ r ∨ db.toNat ≠ dbankOf bank) →
        exec (.actEchoReceived b bank row db p) s = .next (settle (echoBad s b bank r false)))) ∧
    (∀ (key : Nat) (e : BitVec 4) (errs : List (Nat × BitVec 8)), (∀ p ∈ errs, p.1 < 72) →
      (readerOf s b key = none → exec (.dramReadData b key e errs) s = .next (settle s)) ∧
      (∀ rd, readerOf s b key = some rd →
        let bank := physBank s b (keyBank key)
        (e = 15 → exec (.dramReadData b key e errs) s = .next (settle (parityAlert (reissue s b rd) b bank (match rd with
          | .read x => x.at0
          | .base x => x.baseAt)))) ∧
        (e ≠ 15 → e.toNat ≠ (dbankOf bank * 65536 + keyRow key) % 15 →
          exec (.dramReadData b key e errs) s = .next (settle (echoBad (reissue s b rd) b bank (keyRow key) true))) ∧
        (e ≠ 15 → e.toNat = (dbankOf bank * 65536 + keyRow key) % 15 →
          let u := echoGood s b bank true
          (∀ d p h o fx, backOf u b rd = none → decodeLine (withErrs (keyRead u b key) errs) = .good d p h o fx →
            exec (.dramReadData b key e errs) s = .next (settle (goodRead u b key rd { d := d, p := p, h := h } o fx))) ∧
          (backOf u b rd = none → decodeLine (withErrs (keyRead u b key) errs) = .bad →
            exec (.dramReadData b key e errs) s = .next (settle (uncorrectable u b key rd errs)))))) ∧
    (∀ (key : Nat) (e : BitVec 4),
      ((∀ p ∈ (blk s b).wrEcho, p.2.1 ≠ key) → exec (.wrColumnEcho b key e) s = .next s) ∧
      (∀ p : Nat × Nat × Nat, (blk s b).wrEcho = [p] → p.2.1 = key → p.2.2 + tECHO ≤ s.now →
        let bank := physBank s b (keyBank key)
        let u := modBlk s b (fun k => { k with wrEcho := [] })
        (e.toNat = (dbankOf bank * 65536 + keyRow key) % 15 → ∀ w, (blk (echoGood u b bank true) b).wq = [w] → w.key = key →
          w.ord = p.1 → exec (.wrColumnEcho b key e) s = .next (settle (performEnt (echoGood u b bank true) b w))) ∧
        (e = 15 → exec (.wrColumnEcho b key e) s = .next (settle (parityAlert u b bank p.2.2))) ∧
        (e ≠ 15 → e.toNat ≠ (dbankOf bank * 65536 + keyRow key) % 15 →
          exec (.wrColumnEcho b key e) s = .next (settle (echoBad u b bank (keyRow key) true))))) ∧
    (∀ bank, bank < 68 →
      ((bankOf (blk s b) bank).row = none → exec (.bankIdleTimeout b bank) s = .next s) ∧
      ((bankOf (blk s b) bank).row.isSome = true → (bankOf (blk s b) bank).idleAt + s.cfg.idleTimer.toNat ≤ s.now →
        preOk (blk s b) b bank s.now = true → slotFree s b = true →
        (∀ q ∈ queued s b, q.2.1 = bank → (bankOf (blk s b) bank).row ≠ some q.2.2) →
        exec (.bankIdleTimeout b bank) s = .next (issuePre s b bank)) ∧
      (s.now < dueTime (blk s b) b bank → exec (.refreshDue b bank) s = .next s) ∧
      (dueTime (blk s b) b bank ≤ s.now → isRetiredBank s b bank = false → (blk s b).st = .serving →
        let x : Bank := { bankOf (blk s b) bank with
          due := dueTime (blk s b) b bank + (bdieOf (blk s b) (dieOfBank b bank)).refi }
        ((bankOf (blk s b) bank).debt < 8 → exec (.refreshDue b bank) s =
          .next (putBlk s b (putBank (blk s b) bank { x with debt := (bankOf (blk s b) bank).debt + 1 }))) ∧
        (8 ≤ (bankOf (blk s b) bank).debt → exec (.refreshDue b bank) s =
          .next (occ (putBlk s b (putBank { blk s b with forced := satAdd 32 (blk s b).forced 1 } bank { x with forced := true }))
            0x023 (b / 9) (b % 9) 1)))) ∧
    ((blk s b).st ≠ .leaving → exec (.blockDrainComplete b) s = .next s) ∧
    ((blk s b).st = .leaving → (blk s b).rq = [] → (blk s b).wq = [] → (blk s b).wrEcho = [] → (blk s b).rowOps = [] →
      s.test.runs = [] → ∀ lb, logicalOf s b = some lb → bistWaits (ucWriteBack s lb) b = false →
      exec (.blockDrainComplete b) s = .next (selfRefreshAll (ucWriteBack s lb) b .selfRefresh)) ∧
    ((blk s b).st ≠ .returning → exec (.blockPlacementOpen b) s = .next s) ∧
    ((blk s b).st = .returning → waited s (blk s b).t0 5800 = true → exec (.blockPlacementOpen b) s =
      .next (settle (modBlk s b (fun k => { k with
        st := .serving, t0 := s.now, banks := k.banks.map (fun p => (p.1, { p.2 with due := 0 })) })))) ∧
    (starved s b = [] → exec (.progressStarvation b) s = .next s) ∧
    (∀ r l, starved s b = r :: l → exec (.progressStarvation b) s = .next (raiseC0 s .block (b / 9) b 0x1501 r 1000000000))

/-- A checked operation is denied with its address or queued; the queued one that came first starts with its scans when
fewer than the limit execute; a scan whose recalls are over ends; a pipeline accepts its lines of the next step
when the step's context and row credits and its own write slots are to be had, and the step leaves the sequence
with its last lines; a clean row's operation is free to issue, another moves by line stream; a row operation that
is done writes its row; an operation whose lines are done is answered. An internal operation takes an entry or
waits. Outside its condition a command changes nothing. It says when each of these completes, and with which next
state: BULK_ACCESS_CHECK_COMPLETE, RANGE_SCAN_COMPLETE, TROWEL_STEP_ACCEPT, ROW_CHECK_READ_COMPLETE,
ROW_OP_COMPLETE, TROWEL_OP_COMPLETE, INTERNAL_BULK_OP, TROWEL_OP_START.  Rules: R249, R250, R255, R256, R259, R261, R264, R265, R324. -/
def Obligations.TrowelCommands : Prop :=
  ∀ s : State, live s = true →
    (∀ id, opGet s id = none → exec (.bulkAccessCheckComplete id) s = .next s ∧ exec (.trowelOpComplete id) s = .next s) ∧
    (∀ id o, opGet s id = some o → o.phase = .checking →
      (rangeDenied s o = none → rangePrivate s o = false → exec (.bulkAccessCheckComplete id) s =
        .next (setOp (occ s 0x100 7 0xF 1) id (fun o => { o with phase := .queued }))) ∧
      (rangeDenied s o = none → rangePrivate s o = true → exec (.bulkAccessCheckComplete id) s =
        .next (admitWaiting (bulkAnswer (privateDenied s (decodeDpa (nRegions s) (64 * o.dpaDst)).region o.master) o stDenied o.dst))) ∧
      (∀ r a rule nm nr, rangeDenied s o = some (r, a, .fail rule nm nr) → exec (.bulkAccessCheckComplete id) s =
        .next (admitWaiting (bulkAnswer (violation s o.master opBulk r rule nm nr o.ing a) o stDenied o.dst)))) ∧
    (∀ id o, opGet s id = some o →
      (opOver s o = false → exec (.trowelOpComplete id) s = .next s) ∧
      (opOver s o = true → exec (.trowelOpComplete id) s =
        .next (settle (admitWaiting (bulkAnswer (abortSteps s id) o (opStatus o).1 (opStatus o).2))))) ∧
    (∀ r bad, s.trowel.scans = [] → exec (.rangeScanComplete r bad) s = .next s) ∧
    (∀ r c, s.trowel.scans = [c] → c.region = r → scanOver s c = true → isOpScan c = true → exec (.rangeScanComplete r []) s =
      .next (settle (scansDone { s with trowel := { s.trowel with scans := [] } }))) ∧
    ((∀ o ∈ s.trowel.ops, o.phase ≠ .queued) → exec .trowelOpStart s = .next s) ∧
    (∀ o, s.trowel.ops = [o] → o.phase = .queued → o.endWith = none →
      ((s.trowel.maxActive = 0 ∨ pipesOpen s = false) → exec .trowelOpStart s = .next s) ∧
      (0 < s.trowel.maxActive → pipesOpen s = true → someTracked s o.dst o.count = false →
        (srcLines o.bop o.count = 0 ∨ someTracked s o.src (srcLines o.bop o.count) = false) →
        exec .trowelOpStart s = .next (settle (scansDone (setOp s o.id (fun o => { o with phase := .scanning }))))) ∧
      (0 < s.trowel.maxActive → pipesOpen s = true → someTracked s o.dst o.count = true → srcLines o.bop o.count = 0 →
        exec .trowelOpStart s = .next (settle (scansDone (startScans (setOp s o.id (fun o => { o with phase := .scanning }))
          (.op o.id) o.dpaDst o.count (o.bop ≤ 2)))))) ∧
    (∀ r, headStep s r = none → exec (.trowelStepAccept r) s = .next s) ∧
    (∀ r w t o, headStep s r = some (w, t, o) → 65536 ≤ t.ctx →
      let ls := linesOf s o t
      let held := (rowMoves s o t ls).map (fun m => rowOf m.1.lblock m.1.key)
      let writes := ((partOf ls r).filterMap (fun i => ls[i]?)).filter (fun l => l.wr)
      ((mayOpen s o t = false ∨ pipesOpen s = false) → exec (.trowelStepAccept r) s = .next s) ∧
      (mayOpen s o t = true → pipesOpen s = true → writes.all (fun l => (blk s (physBlock s l.lblock)).st == .serving) = true →
        slotsFree s (rankOf w.rel) (writes.filter (fun l => !held.contains (rowOf l.lblock l.key))) = true →
        let p := openStep s w o t
        let v := takeLines p.1 o p.2 r
        let all := (ctxGet v p.2.ctx).all (fun c => c.lines.all (fun l => l.accepted || l.done))
        (all = true → exec (.trowelStepAccept r) s =
          .next (settle { v with tx := { v.tx with waiting := v.tx.waiting.filter (fun y => y.arr ≠ w.arr) } })) ∧
        (all = false → exec (.trowelStepAccept r) s = .next (settle v)))) ∧
    (∀ (op lb : Nat) (errs : List (Nat × Nat × BitVec 8)), lb < 32 →
      (checkRow s op lb = none → exec (.rowCheckReadComplete op lb errs) s = .next s) ∧
      (∀ (t : TStep) (d c : Nat) (m : RowOp), checkRow s op lb = some (t, (d, c), m) →
        let pb := physBlock s lb
        let kd := d % 2 ^ 22 * 32
        let ks := c % 2 ^ 22 * 32
        let u := rowWriteBack s lb ks
        (blk s pb).st = .serving → checkReady s t c pb m = true →
        (∀ k, copyKind u pb kd ks = some k → (∀ n < 32, checkClean u pb (ks + n) errs = true) →
          exec (.rowCheckReadComplete op lb errs) s = .next (modBlk u pb (fun k => { k with
            rowOps := k.rowOps.map (fun r => if r = m then { r with checked := true } else r) }))) ∧
        ((copyKind u pb kd ks = none ∨ ∃ n < 32, checkClean u pb (ks + n) errs = false) →
          exec (.rowCheckReadComplete op lb errs) s = .next (rowFallback u t (d, c) pb)))) ∧
    (∀ b, b < 36 → (blk s b).rowOps = [] → exec (.rowOpComplete b) s = .next s) ∧
    (∀ b r k, b < 36 → (blk s b).rowOps = [r] → r.issued = some k → r.kind ≠ 1 → waited s k 45 = true →
      let u := modBlk s b (fun k => { k with rowOps := [] })
      (u.trowel.steps = [] → exec (.rowOpComplete b) s = .next u) ∧
      (∀ t q, u.trowel.steps = [t] → t.rows = [q] → r.op = some t.op → physBlock u (q.1 / 2 ^ 22) = b → q.1 % 65536 = r.dst →
        physBank u b (q.1 / 65536 % 64) = r.dstBank → exec (.rowOpComplete b) s = .next (rowDone u b r t q))) ∧
    (∀ (h : Nat) (h0 h1 : Slot), h < 16 → hOp h0 = opBulk →
      ((s.boot.larder ≠ .running ∨ pipesOpen s = false) → exec (.internalBulkOp h h0 h1) s = .next s) ∧
      (s.boot.larder = .running → pipesOpen s = true →
        (internalOps s < 16 → s.trowel.intWait = [] → exec (.internalBulkOp h h0 h1) s =
          .next (acceptBulk s 5 { h0 := withSrc h0 (hatchNode s h), h1 := h1, data := [] } (hatchNode s h))) ∧
        (16 ≤ internalOps s → exec (.internalBulkOp h h0 h1) s = .next { s with trowel := { s.trowel with
          intWait := s.trowel.intWait ++ [(hatchNode s h, withSrc h0 (hatchNode s h), h1)] } })))

/-- Entries of a block's error history end after 24 hours. A charged TSV takes the lowest free spare; a charged row or
column its spare, its lines rewritten, with C1 0x0907. A migration reserves its target and starts to copy, copies a
row at a time where its blocks may place the lines, and switches the remap entry once the unit has no queued work,
with C1 0x0908 for a bank. A scrub pass that is not due reads nothing, one that may place its line reads it, one
that is done ends, and firmware starts a full pass when its period is over. With nothing charged, queued or running
a command changes nothing. It says when each of these completes, and with which next state: ERROR_HISTORY_EXPIRE,
TSV_SUBSTITUTION, ROW_REPAIR, COLUMN_REPAIR, MIGRATION_START, MIGRATION_ROW_COPY, MIGRATION_SWITCH, SCRUB_READ,
SCRUB_AUTO_START.  Rules: R281, R283, R285, R286, R288, R289, R291, R293, R294, R295. -/
def Obligations.IntegrityCommands : Prop :=
  ∀ s : State, live s = true →
    (∀ b, b < 36 → exec (.errorHistoryExpire b) s =
      .next (putSr s b { srBlk s b with hist := (srBlk s b).hist.filter (histLive s) })) ∧
    (∀ b, b < 36 → (srBlk s b).tsvDue = [] → exec (.tsvSubstitution b) s = .next s) ∧
    (∀ b p k l, b < 36 → tsvReady s b = some p → columnsDone (blk s b) = true → freeTsvs s b = k :: l →
      let u := walkYield s b k
      let v := blockFault (storeChanged (putSr (modeDies u b (List.range 16) [] 0x18 0 (p.1 + k * 256)) b { srBlk u b with
          tsvDue := (srBlk u b).tsvDue.filter (fun q => q.1 ≠ p.1), tsvUsed := setBit (srBlk u b).tsvUsed k true,
          tsvTarget := setField (srBlk u b).tsvTarget (8 * k) 8 p.1 })) .c1 b 0x0906 p.1
      exec (.tsvSubstitution b) s = .next (if (freeTsvs v b).isEmpty then chargeBlock v b else v)) ∧
    (∀ b, b < 36 → (srBlk s b).rowDue = [] → exec (.rowRepair b) s = .next s) ∧
    (∀ b bank row rest, b < 36 → (srBlk s b).rowDue = (bank, row) :: rest →
      let a := repairBuf s b bank ((List.range 32).map (fun n => (row, n)))
      let k := (rowSpare a.1 b bank row).getD 0
      let u := putSr (modeDies a.1 b [dieOfBank b bank] (actWords b bank row) 0x19 (dbankOf bank) k) b { srBlk a.1 b with
        rowDue := rest, rowRep := (srBlk a.1 b).rowRep.filter (fun p => !(p.1 = bank && p.2.1 = row)) ++ [(bank, row, k)],
        rowRepairs := BitVec.ofNat 16 (min ((srBlk a.1 b).rowRepairs.toNat + 1) 65535) }
      exec (.rowRepair b) s = .next (cellFault (storeChanged (repairBack u b bank a.2)) .c1 b bank 0x0907 0)) ∧
    (∀ b, b < 36 → (srBlk s b).colDue = [] → exec (.columnRepair b) s = .next s) ∧
    (∀ b bank sa line rest, b < 36 → (srBlk s b).colDue = (bank, sa, line) :: rest → testOn s b bank (sa * 1024) = none →
      ((ucUsable s (b / 9) = false ∨ (ucReg s (b / 9)).units ≤ unitsUsed (ucReg s (b / 9))) →
        exec (.columnRepair b) s = .next s) ∧
      (ucUsable s (b / 9) = true → unitsUsed (ucReg s (b / 9)) < (ucReg s (b / 9)).units →
        let a := repairBuf s b bank ((List.range 1024).map (fun q => (sa * 1024 + q, line)))
        let k := (colSpare a.1 b bank sa).getD 0
        let y : SrBlock := { srBlk a.1 b with
          colDue := rest, colRep := (srBlk a.1 b).colRep.filter (fun p => !(p.1 = bank && p.2.1 = sa && p.2.2.1 = line)) ++ [(bank, sa, line, k)],
          colRepairs := BitVec.ofNat 8 (min ((srBlk a.1 b).colRepairs.toNat + 1) 255) }
        let u := putSr (modeDies a.1 b [dieOfBank b bank] (actWords b bank (sa * 1024)) 0x1A (dbankOf bank) (line + k * 32)) b y
        exec (.columnRepair b) s = .next (cellFault (storeChanged (repairBack u b bank a.2)) .c1 b bank 0x0907 1))) ∧
    (∀ r, r < 4 →
      (((migr s r).st ≠ .idle ∨ (migr s r).queue = [] ∨ pipesOpen s = false) → exec (.migrationStart r) s = .next s) ∧
      (∀ pb l, (migr s r).st = .idle → (migr s r).queue = .block pb :: l → regionStopped s r = false → pipesOpen s = true →
        chargedRun s (.block pb) = false →
        (freeBlock s r = none → exec (.migrationStart r) s = .next (migrNoSpare s r)) ∧
        (∀ k, freeBlock s r = some k →
          let u := putSr s k { srBlk s k with st := .migrating }
          let v := if ucOn u r then yieldTests (ucRegPut u r (askRing (ucReg u r) .migration)) r else u
          exec (.migrationStart r) s = .next (settle (putMigr (storeChanged (endRunsOn v (.block pb))) r
            { migr s r with st := .copy, target := k, row := 0, bank := 0, ring := false, copyAt := s.now })))) ∧
      (∀ errs, (migr s r).st ≠ .copy → exec (.migrationRowCopy r errs) s = .next s) ∧
      (∀ errs u l src dst, copyWaits s r = true → (migr s r).queue = u :: l → copyPlace s (migr s r) = some (src, dst) →
        runsOn s u = false → oldWrites s src (migr s r).row = false →
        (migrBlocks (migr s r)).all (fun b => mayRun s b 8 (64 / (migrBlocks (migr s r)).length) (migr s r).copyAt) = true →
        let v := (migrBlocks (migr s r)).foldl (fun s b => runLines s b (64 / (migrBlocks (migr s r)).length)) s
        exec (.migrationRowCopy r errs) s =
          .next (advanceCopy ((List.range 32).foldl (fun s n => copyLine s src dst (migr s r).row n errs) v) r)) ∧
      ((migr s r).st ≠ .switch → exec (.migrationSwitch r) s = .next s) ∧
      (∀ u l, (migr s r).st = .switch → (migr s r).queue = u :: l →
        (unitBusy s u = true → exec (.migrationSwitch r) s = .next s) ∧
        (unitBusy s u = false → ∀ pb old k, u = .bank pb old →
          (List.range 64).find? (fun b => physBank s pb b = old) = some k → 
            let v : State := { s with remap := { s.remap with bank := smSet 0 s.remap.bank (pb * 64 + k) ((migr s r).target + 1) } }
            let x : SrBlock := { srBlk v pb with retired := setBit (srBlk v pb).retired old true, banksUsed := if 64 ≤ old then setBit (srBlk v pb).banksUsed (old - 64) false else (srBlk v pb).banksUsed }
            exec (.migrationSwitch r) s =
              .next (settle (cellFault (migrDone (storeChanged (putSr (placeAfter v pb pb) pb x)) r) .c1 pb old 0x0908 0))))) ∧
    (∀ errs, (s.store.scrub.running = false ∨ pipesOpen s = false ∨ scrubDue s s.store.scrub = false) →
      exec (.scrubRead errs) s = .next s) ∧
    (∀ errs, s.store.scrub.running = true → pipesOpen s = true → scrubDue s s.store.scrub = true →
      (s.store.scrub.count ≤ s.store.scrub.pos → s.store.scrub.spares = false → exec (.scrubRead errs) s =
        .next (settle (scrubEnd s true))) ∧
      (s.store.scrub.pos < s.store.scrub.count → (scrubLine s errs).store.scrub.pos < (scrubLine s errs).store.scrub.count →
        exec (.scrubRead errs) s = .next (settle (scrubLine s errs))) ∧
      (s.store.scrub.pos + 1 < s.store.scrub.count →
        let loc := decodeDpa (nRegions s) (s.store.scrub.start + 64 * s.store.scrub.pos)
        let pb := physBlock s loc.lblock
        let u := runLines s pb 1
        regionStopped s loc.region = false → (blk s pb).st = .serving → (blk s pb).wq = [] →
        mayRun s pb 11 1 s.store.scrub.lastAt = true → retryOf u pb loc.key .scrub = none → frameOf u loc.lblock loc.key = none →
        ∀ d h, decodeLine (withErrs (keyRead u pb loc.key) errs) = .good d false h false [] →
          exec (.scrubRead errs) s = .next (settle (bumpScrub u (fun sc => { sc with
            pos := sc.pos + 1, linesRead := sc.linesRead + 1, lastAt := s.now }))))) ∧
    ((s.store.scrubPeriod = 0 ∨ s.store.scrub.running = true ∨ pipesOpen s = false) → exec .scrubAutoStart s = .next s) ∧
    (s.store.scrubPeriod ≠ 0 → s.boot.larder = .running → pipesOpen s = true → s.store.scrub.running = false →
      waited s s.store.scrub.lastAuto (s.store.scrubPeriod.toNat * 3600 * 1000000000) = true →
      let c : Scrub :=
        { start := 0, count := capacity s / 64, rate := s.store.scrubRate.toNat, spares := false, running := true,
          t0 := s.now, lastAt := s.now, lastAuto := s.now }
      exec .scrubAutoStart s = .next { s with store := { s.store with scrub := c } })

/-- A wire charged in three replays within 1 ms, of a group with no qualified spare left sends the port to FAILED;
while a group clock has been absent for 32 ns every flit is bad; a clock absent for 100 us sends the port to
FAILED, and before that nothing follows. FAILED raises its C1 fault, resolves the port's contexts and moves what is
queued. A clock that is lost is noted with its time, one that returns is forgotten. It says when each of these
completes, and with which next state: WP_FLIT_RECEIVE, WP_WIRE_FAILED, WP_CLOCK_LOSS, WP_CLOCK_LOSS_TIMEOUT.  Rules: R66. -/
def Obligations.FailedWiresAndLostClocks : Prop :=
  ∀ s : State, live s = true → s.wp.st = .active ∨ s.wp.st = .init → s.wp.dead = false →
    let failed : State := wpOut (chipFault s .c1 0 0x0206 0)
    (∀ u : State, wpOut u = egressLost (resolveEpoch (modWp u (fun w => { w with
      st := .failed, idleIn := false, idleOut := false, wakeAt := none })) 4) 4) ∧
    (∀ wire t1 t2 t3 r1 r2 r3, wire < 1088 → s.wp.charges = [(wire, t1, r1), (wire, t2, r2), (wire, t3, r3)] →
      r1 ≠ r2 → r1 ≠ r3 → r2 ≠ r3 → s.now ≤ t1 + 1000000 → s.now ≤ t2 + 1000000 → s.now ≤ t3 + 1000000 →
      (∀ x ∈ s.wp.subst, x.group ≠ (wireTarget wire).1) →
      (∀ k < 4, s.wp.badSpares.getLsbD (4 * (wireTarget wire).1 + k) = true ∨
        s.wp.sparesIn.getLsbD (4 * (wireTarget wire).1 + k) = true) →
      exec (.wpWireFailed wire) s = .next failed) ∧
    (∀ (f : WFlit) (g t : Nat), s.boot.phase ≠ .retHeld → (g, t) ∈ s.wp.clockLost → t + 32 ≤ s.now →
      exec (.wpFlitReceive f) s = .next (badFlit s f)) ∧
    (∀ g t, g < 8 → (g, t) ∈ s.wp.clockLost → expired s t 100000 = true → exec (.wpClockLossTimeout g) s = .next failed) ∧
    (∀ g, g < 8 → (∀ t, (g, t) ∈ s.wp.clockLost → expired s t 100000 = false) → exec (.wpClockLossTimeout g) s = .next s) ∧
    (∀ g, g < 8 → (∀ c ∈ s.wp.clockLost, c.1 ≠ g) →
      exec (.wpClockLoss g true) s = .next { s with wp := { s.wp with clockLost := s.wp.clockLost ++ [(g, s.now)] } }) ∧
    (∀ g, g < 8 → exec (.wpClockLoss g false) s = .next { s with wp := { s.wp with
      clockLost := s.wp.clockLost.filter (fun c => c.1 ≠ g) } })

/-- A codeword the decoder cannot correct is a bad flit; so is one whose flit fails its CRC-64; a flit that passes is a
good one. Each corrected symbol is counted in CORRECTED of the physical lane that carried it, and of no other lane.
A bad flit is counted, and in ACTIVE a NAK is owed for it. It says when each of these completes, and with which
next state: FP_FLIT_RECEIVE.  Rules: R118. -/
def Obligations.CodewordsOfAFabricPort : Prop :=
  ∀ (s : State) (p : Nat) (cw : BitVec 3400), wired s = true → s.boot.phase ≠ .retHeld → p < 4 →
    (port s p).st = .init ∨ (port s p).st = .active → (port s p).rxPower = .active →
    (fcwDecode cw = none → exec (.fpFlitReceive p cw) s = .next (fpBadFlit s p)) ∧
    (∀ (v : BitVec 3200) (at_ : List Nat), fcwDecode cw = some (v, at_) →
      let u := chargeLanes s p at_
      (∀ l, (lane (port u p) l).corrected = (lane (port s p) l).corrected +
        (at_.filter (fun m => ((port s p).laneMap[m % 4]?).getD 0 = l)).length) ∧
      (v.toNat >>> 3136 ≠ crc64 (leBytes (v.toNat % 2 ^ 3136) 392) →
        exec (.fpFlitReceive p cw) s = .next (fpBadFlit u p)) ∧
      (v.toNat >>> 3136 = crc64 (leBytes (v.toNat % 2 ^ 3136) 392) →
        ∃ f, fabParse v = some f ∧ exec (.fpFlitReceive p cw) s = .next (fpGoodFlit u p f))) ∧
    (let x := port (fpBadFlit s p) p
     x.crcBad = (port s p).crcBad + 1 ∧ x.link.badRun = (port s p).link.badRun + 1 ∧
       ((port s p).st = .active → (port s p).link.awaiting = false → x.link.nakDue = true ∧ x.link.awaiting = true))

/-- Each phase of training that has lasted its time leads to the next, to the link's initialisation, or to FAILED. A
flit of an earlier epoch is discarded, a bad one answered with a NAK; NAKs are repeated, and 64 of them start the
link over, as does a REINIT. Idle-clocked and Parked are entered and left under their conditions and timers. A
failed wire asks for the lowest free spare, which takes over once its flit S is reached. Outside its condition a
command changes nothing. It says when each of these completes, and with which next state: WP_FLIT_RECEIVE,
WP_WIRE_FAILED, WP_SUBST_REQ_RECEIVED, WP_SUBST_ACK_RECEIVED, WP_SPARE_TAKEOVER, WP_TRAINING_PHASE_END,
WP_NAK_REPEAT, WP_NAK_LIMIT, WP_FLIT_SEND, WP_HOST_CLOCK_TIMEOUT, WP_INIT_DONE_RECEIVED,
WP_CREDIT_SHORTFALL_TIMEOUT, WP_IDLE_ENTER, WP_IDLE_WAKE, WP_PARK_REQ_RECEIVED, WP_PARK_ACK_RECEIVED,
WP_PARK_NAK_RECEIVED, WP_PARK_TIMER, WP_PARK_WAKE, WP_REINIT_RECEIVED.  Rules: R54, R56, R57, R58, R62, R63, R64, R65, R67, R68, R69. -/
def Obligations.WidePortCommands : Prop :=
  ∀ s : State, live s = true →
    let w := s.wp
    let link : WidePort → State := fun x => { s with wp := x }
    let anew : State := resendSnoops (resolveEpoch (modWp (requeueCut (chipFault s .c1 0 0x0205 0) 4) (fun _ =>
      { wideInit (requeueCut (chipFault s .c1 0 0x0205 0) 4) 64 with st := .init })) 4) 4
    (∀ f : WFlit, s.boot.phase ≠ .retHeld →
      (w.st = .off ∨ w.st = .failed → exec (.wpFlitReceive f) s = .next s) ∧
      (w.st = .training → exec (.wpFlitReceive f) s = .next (if w.phase = .train then link (trainReceived f w) else s)) ∧
      (w.st = .active → w.clockLost = [] →
        (wpParse f = none → exec (.wpFlitReceive f) s = .next (badFlit s f)) ∧
        (∀ x, wpParse f = some x → x.epoch ≠ (liveEpoch w.link).toNat → exec (.wpFlitReceive f) s = .next s) ∧
        (∀ x, wpParse f = some x → x.epoch = (liveEpoch w.link).toNat → exec (.wpFlitReceive f) s = .next (goodFlit s f x)))) ∧
    (w.link.awaiting = true → w.link.nakDue = false → 128 ≤ w.link.nakFlits →
      exec .wpNakRepeat s =
      .next (link { w with link := { w.link with nakDue := true, nakFlits := 0 }, replayNo := w.replayNo + 1 })) ∧
    (w.link.awaiting = false → exec .wpNakRepeat s = .next s) ∧
    (w.st = .active → 64 ≤ w.link.nakCount → exec .wpNakLimit s = .next anew) ∧
    (w.link.nakCount < 64 → exec .wpNakLimit s = .next s) ∧
    (w.st = .active → w.link.reinitLeft = 0 → exec .wpReinitReceived s = .next anew) ∧
    (w.link.reinitLeft ≠ 0 → exec .wpReinitReceived s = .next s) ∧
    (w.st = .off ∨ w.st = .failed → exec .wpFlitSend s = .next s) ∧
    (w.st = .active → s.boot.phase ≠ .retHeld → w.wakeAt = none →
      exec .wpFlitSend s = .next (if w.idleOut then s else driveNext s)) ∧
    (w.st = .training → exec .wpFlitSend s = .next (link (sendTraining w))) ∧
    (w.st = .parked → exec .wpFlitSend s = .next (if w.parkLeft = 0 then s
      else driveNext (link { w with parkLeft := w.parkLeft - 1 }))) ∧
    (w.st = .training → w.dead = false → w.hostClockSeen = false → expired s w.t0 100000000 = true → exec .wpHostClockTimeout s = .next (wpFail s)) ∧
    (w.hostClockSeen = true → exec .wpHostClockTimeout s = .next s) ∧
    (∀ i ok, legalReport i = true → w.dead = false →
      (w.st ≠ .training → exec (.wpTrainingPhaseEnd i ok) s = .next s) ∧
      (w.st = .training →
        (waited s w.phaseAt (phaseTime w.phase) = false → exec (.wpTrainingPhaseEnd i ok) s = .next s) ∧
        (waited s w.phaseAt (phaseTime w.phase) = true →
          (w.phase = .clockLock → exec (.wpTrainingPhaseEnd i ok) s = .next (if ok then
            link { w with hostClockSeen := true, prbs := prbsSeeds, phase := .prbs, phaseAt := s.now } else wpFail s)) ∧
          (w.phase = .prbs → exec (.wpTrainingPhaseEnd i ok) s = .next (link { w with phase := .qualify, phaseAt := s.now })) ∧
          (w.phase = .qualify → exec (.wpTrainingPhaseEnd i ok) s = .next (link { w with
            inFailed := i, badSpares := badBits i, trainRx := 0, trainRec := [], phase := .train, phaseAt := s.now })) ∧
          (w.phase = .train → reportFails w.inFailed = true → exec (.wpTrainingPhaseEnd i ok) s = .next (wpFail s)) ∧
          (w.phase = .train → (∃ g < 8, 5 ≤ (recordFailed w g).1) → exec (.wpTrainingPhaseEnd i ok) s = .next (wpFail s)) ∧
          (w.phase = .train → w.inFailed = [] → w.trainRec = [] → exec (.wpTrainingPhaseEnd i ok) s = .next (link { w with
            mapIn := [], sparesIn := 0, mapOut := [], sparesOut := 0, prbs := prbsSeeds, phase := .requalify,
            phaseAt := s.now })) ∧
          (w.phase = .requalify → exec (.wpTrainingPhaseEnd i ok) s = .next (if ok then beginLink s
            else if w.requalFails ≠ 0 then wpFail s
            else link { w with requalFails := 1, phase := .requalify, phaseAt := s.now }))))) ∧
    (w.st = .init → exec .wpInitDoneReceived s = .next (wpTryActive (link { w with
      link := { w.link with initRcvd := true, initRcvdAt := s.now } }))) ∧
    (w.st ≠ .init → w.st ≠ .halted → exec .wpInitDoneReceived s = .next s) ∧
    (w.st = .init → w.link.initRcvd = true → minimaMet w.link.adv = false → w.link.shortRaised = false →
      expired s w.link.initRcvdAt 100000 = true →
      exec .wpCreditShortfallTimeout s = .next (c0 (link { w with link := { w.link with shortRaised := true } }) 0 0x0203 0 0)) ∧
    ((w.st ≠ .init ∨ w.link.shortRaised = true) → exec .wpCreditShortfallTimeout s = .next s) ∧
    (w.st = .active → s.fab.idleEn = true → w.idleOut = false → linkBusy w.link = false →
      waited s w.lastTx s.fab.idleTimer.toNat = true →
      exec .wpIdleEnter s = .next (modWp (driveCtl s wpIdle) (fun w => { w with idleOut := true }))) ∧
    (linkBusy w.link = true → exec .wpIdleEnter s = .next s) ∧
    (w.st = .active → w.idleOut = true → w.wakeAt = none → linkBusy w.link = true →
      exec .wpIdleWake s = .next (link { w with wakeAt := some (s.now + 36) })) ∧
    (w.idleOut = false → exec .wpIdleWake s = .next s) ∧
    (w.st = .active →
      exec .wpParkReqReceived s = .next (if s.fab.parkPolicy ≠ 2 ∧ wpDrained s = true then link { w with
          link := { w.link with ctl := w.link.ctl ++ [(wpParkAck, [])] }, st := .parked, parkLeft := 65, parkAsked := false }
        else link { w with link := { w.link with ctl := w.link.ctl ++ [(wpParkNak, [])] } })) ∧
    (w.st ≠ .active → exec .wpParkReqReceived s = .next s) ∧
    (w.st = .active → w.parkAsked = true →
      exec .wpParkAckReceived s = .next (link { w with st := .parked, parkLeft := 64, parkAsked := false })) ∧
    (w.parkAsked = true → exec .wpParkNakReceived s = .next (link { w with parkAsked := false, lastTraffic := s.now })) ∧
    (w.parkAsked = false → exec .wpParkAckReceived s = .next s ∧ exec .wpParkNakReceived s = .next s) ∧
    (w.st = .active → s.fab.parkPolicy = 1 → w.parkAsked = false → wpDrained s = true →
      waited s w.lastTraffic (s.fab.parkTimer.toNat * 1000) = true → exec .wpParkTimer s =
      .next (link { w with link := { w.link with ctl := w.link.ctl ++ [(wpParkReq, [])] }, parkAsked := true })) ∧
    (s.fab.parkPolicy ≠ 1 → exec .wpParkTimer s = .next s) ∧
    (w.st = .parked → exec .wpParkWake s = .next (link { wideInit s 0 with st := .init, wakeAt := some (s.now + 1200) })) ∧
    (w.st ≠ .parked → exec .wpParkWake s = .next s) ∧
    (∀ wire k, wire < 1088 → w.st = .active → wireCharged s wire = true →
      (∀ x ∈ w.subst, ¬(x.group = (wireTarget wire).1 ∧ x.target = (wireTarget wire).2)) →
      freeSpare s (wireTarget wire).1 = some k →
      exec (.wpWireFailed wire) s = .next (pushCtl (modWp s (fun w => { w with
          subst := w.subst ++ [{ group := (wireTarget wire).1, target := (wireTarget wire).2, spare := k, atSeq := none }],
          charges := w.charges.filter (fun c => c.1 ≠ targetWire (wireTarget wire).1 (wireTarget wire).2) }))
        wpSubstReq [BitVec.ofNat 128 ((wireTarget wire).1 + (wireTarget wire).2 * 256 + k * 65536)])) ∧
    (∀ wire, wire < 1088 → wireCharged s wire = false → exec (.wpWireFailed wire) s = .next s) ∧
    (∀ g t k q, g < 8 → t < 136 → k < 4 → q < 4096 →
      (wpServes s = false → exec (.wpSubstReqReceived g t k) s = .next s) ∧
      (wpServes s = true → w.substOut = [] → exec (.wpSubstReqReceived g t k) s = .next (link { w with
        substOut := [{ group := g, target := t, spare := k, atSeq := none }],
        link := { w.link with ctl := w.link.ctl ++ [(wpSubstAck, [BitVec.ofNat 128 (g + t * 256 + k * 65536)])] } })) ∧
      (w.subst = [{ group := g, target := t, spare := k, atSeq := none }] →
        exec (.wpSubstAckReceived g t k q) s =
          .next (link { w with subst := [{ group := g, target := t, spare := k, atSeq := some q }] })) ∧
      (w.subst = [] → exec (.wpSubstAckReceived g t k q) s = .next s) ∧
      (w.substOut = [] → w.subst = [{ group := g, target := t, spare := k, atSeq := some q }] →
        (seqGe 4 (nextSeq 4 w.link) q = false → exec (.wpSpareTakeover g t k) s = .next s) ∧
        (seqGe 4 (nextSeq 4 w.link) q = true → (substDone (link { w with
            subst := [], mapIn := mapPut w.mapIn g t k, sparesIn := setBit w.sparesIn (4 * g + k) true }) g t).wp.substOut = [] →
          exec (.wpSpareTakeover g t k) s = .next (substDone (link { w with
            subst := [], mapIn := mapPut w.mapIn g t k, sparesIn := setBit w.sparesIn (4 * g + k) true }) g t))))

/-- The third sync symbol of a profile, with two good status words, gives a lane pattern sync; one that is lost
searches again, and after 100 us in service has failed, with C1 0x0306. A status word that fails its CRC is only
counted. A marker acts at its second good copy. The bring-up timers step the profile down, end a restore, and raise
C1 0x0307 once. Quiet and Dark are entered after their timers with nothing to send, and left when there is; an
energy wake with stale state acquires afresh. A lane test runs for its duration, and FP_LANES answers the five
lanes' records. Outside its condition a command changes nothing. It says when each of these completes, and with
which next state: LANE_SYNC_SYMBOL_RECEIVED, LANE_STATUS_WORD_RECEIVED, LANE_MARKER_RECEIVED,
LANE_QUALIFICATION_LOST, LANE_REQUALIFY_TIMEOUT, LANE_DEGRADED, BRINGUP_STEP_TIMER, BRINGUP_RESTORE_TIMER,
BRINGUP_TIMER, FP_QUIET_ENTER, FP_DARK_ENTER, FP_QUIET_EXIT, FP_DARK_EXIT, FP_ENERGY_WAKE, FP_WAKE_QUALIFY_TIMEOUT,
FP_LANES, LANE_TEST, LANE_TEST_COMPLETE.  Rules: R88, R90, R92, R94, R98, R100, R102, R103, R105, R106, R108, R111. -/
def Obligations.FabricLaneCommands : Prop :=
  ∀ (s : State) (p : Nat), live s = true → p < 4 →
    let x := port s p
    (∀ l prof (m : SyncSeen), l < 5 → prof < 4 → m.snr.length ≤ 128 → m.taps.length ≤ 128 →
      exec (.laneSyncSymbolReceived p l prof m.evm m.freq m.timing m.wordOk m.snr m.taps) s = .next (syncReceived s p l prof m) ∧
      ((lane x l).st = .search → (lane x l).candProf = prof → (lane x l).syncs = 2 → (lane x l).goodWords = 1 → m.wordOk = true →
        s.now = (lane x l).candAt + 2489 →
        ∃ y : Lane, y.st = .patternSync ∧ y.prof = prof ∧ y.syncs = 3 ∧ y.syncAt = s.now ∧ y.evm = m.evm ∧ y.freq = m.freq ∧
          y.snr = (m.snr :: (lane x l).snr).take 64 ∧ y.taps = (m.taps :: (lane x l).taps).take 8 ∧
          y.prefec = laneEstimate x y prof ∧ syncReceived s p l prof m = tryQualify (modLane s p l (fun _ => y)) p l) ∧
      ((lane x l).st = .qualified → (lane x l).prof ≠ prof →
        ∃ y : Lane, y.st = .qualified ∧ y.prof = (lane x l).prof ∧ y.candProf = prof ∧ y.missed = (lane x l).missed + 1 ∧
          syncReceived s p l prof m = modLane s p l (fun _ => y)) ∧
      ((lane x l).st = .off ∨ (lane x l).st = .failed → syncReceived s p l prof m = s)) ∧
    (∀ l w, l < 5 →
      ((lane x l).st = .failed → exec (.laneStatusWordReceived p l w) s = .next s) ∧
      ((lane x l).st = .qualified → wordCrc w = false → exec (.laneStatusWordReceived p l w) s =
        .next (modLane s p l (fun y => { y with badWords := y.badWords + 1 }))) ∧
      ((lane x l).st = .search → wordGood w = true → exec (.laneStatusWordReceived p l w) s =
        .next (modLane s p l (fun y => { y with
          badWords := 0, tagRemote := BitVec.ofNat 8 (field w.toNat 16 8), tagProf := field w.toNat 0 2 })))) ∧
    (∀ l n ok, l < 5 → 4 ≤ n → n ≤ 6 →
      ((lane x l).st = .off → exec (.laneMarkerReceived p l n ok) s = .next s) ∧
      ((lane x l).st = .qualified → (lane x l).lastMarker ≠ n → exec (.laneMarkerReceived p l n ok) s =
        .next (modLane s p l (fun y => { y with lastMarker := n, markerAt := s.now, copies := 1, markers := b2n ok }))) ∧
      ((lane x l).st = .qualified → (lane x l).lastMarker = n → (lane x l).copies < 4 → s.now ≤ (lane x l).markerAt + 8 →
        (lane x l).markers = 1 → exec (.laneMarkerReceived p l n true) s = .next (actMarker (modLane s p l (fun y => { y with
          lastMarker := n, markerAt := s.now, copies := y.copies + 1, markers := 2 })) p l n))) ∧
    (∀ l c (fo : Int), l < 5 → c < 3 → (lane x l).st = .qualified → (lane x l).test = none →
      (c = 1 → (lane x l).badWords < 8 → exec (.laneQualificationLost p l c fo) s =
        .next (modLane s p l (fun y => { y with freq := fo }))) ∧
      ((c = 0 ∧ 4 ≤ (lane x l).missed) ∨ (c = 1 ∧ 8 ≤ (lane x l).badWords) ∨ (c = 2 ∧ 40000 < fo.natAbs) →
        (lane x l).syncs < 3 → exec (.laneQualificationLost p l c fo) s =
        .next (modLane (modLane s p l (fun y => { y with freq := fo })) p l (fun y => { y with
          st := .search, missed := 0, badWords := 0, degradedSince := none, degraded := false, stale := false,
          lockLosses := satAdd 32 y.lockLosses 1, lostSince := some s.now })))) ∧
    (∀ l c (fo : Int), l < 5 → c < 3 → (lane x l).st = .search → exec (.laneQualificationLost p l c fo) s =
      .next (modLane s p l (fun y => { y with freq := fo }))) ∧
    (∀ l, l < 5 →
      ((lane x l).lostSince = none → exec (.laneRequalifyTimeout p l) s = .next s) ∧
      (∀ t, (lane x l).lostSince = some t → x.bring = .up → laneQual (lane x l) = false → expired s t 100000 = true →
        exec (.laneRequalifyTimeout p l) s = .next (laneFailed (chipFault s .c1 (p + 1) 0x0306 l) p l)) ∧
      ((lane x l).degradedSince = none → exec (.laneDegraded p l) s = .next s) ∧
      (∀ t, (lane x l).degradedSince = some t → (lane x l).st = .qualified → (lane x l).degraded = false →
        waited s t 1000000 = true → logicalOfLane x l = none → exec (.laneDegraded p l) s =
        .next (c0 (modLane s p l (fun y => { y with degraded := true })) (p + 1) 0x0304 l 0))) ∧
    (∀ t, x.stepAt = some t → x.bring = .search → expired s t 200000 = true → acked x = false →
      exec (.bringupStepTimer p) s = .next (putPort s p { x with txProf := x.txProf - 1, stepAt := some s.now })) ∧
    (x.bring ≠ .search → exec (.bringupStepTimer p) s = .next s) ∧
    (∀ t, x.restoreAt = some t → x.bring = .restore → expired s t 200000 = true →
      exec (.bringupRestoreTimer p) s = .next (putPort s p { x with
        bring := .search, txProf := x.savedT, stepAt := some s.now, restoreAt := none, unacked := 0 })) ∧
    (x.bring ≠ .restore → exec (.bringupRestoreTimer p) s = .next s) ∧
    (x.bring = .search → x.bringRaised = false → expired s x.bringAt 2000000 = true →
      exec (.bringupTimer p) s = .next (chipFault (putPort s p { x with bringRaised := true }) .c1 (p + 1) 0x0307 0)) ∧
    ((x.bringRaised = true ∨ x.bring = .up) → exec (.bringupTimer p) s = .next s) ∧
    (x.quietEn = true → x.st = .active → x.txPower = .active → linkBusy x.link = false → testHolds x = false →
      waited s x.lastTx x.quietTimer.toNat = true → exec (.fpQuietEnter p) s = .next (putPort s p { x with
        txPower := .quiet, quietSince := s.now, txChange := none, stream := streamQuiet x.txProf s.now x.stream })) ∧
    (linkBusy x.link = true → exec (.fpQuietEnter p) s = .next s) ∧
    (x.st = .active → x.txPower = .quiet → x.link.unacked = [] → testHolds x = false → x.darkEn = true → linkBusy x.link = false →
      waited s x.quietSince (x.darkTimer.toNat * 1000) = true → exec (.fpDarkEnter p) s = .next (putPort s p { x with
        txPower := .dark, txChange := some (0, s.now), stream := streamDark x.txProf s.now true x.stream })) ∧
    (x.link.unacked ≠ [] → exec (.fpDarkEnter p) s = .next s) ∧
    (x.st = .active → x.txPower = .quiet → linkBusy x.link = true → exec (.fpQuietExit p) s =
      .next (putPort s p { x with
        txPower := .active, lastTx := s.now, stream := streamWake x.txProf s.now true x.stream,
        txChange := some (90 + wakeSlip (streamWake x.txProf s.now true x.stream), s.now) })) ∧
    (∀ d t, x.st = .active → x.txPower = .dark → linkBusy x.link = true → x.txChange = some (d, t) →
      (t + 60 ≤ s.now → exec (.fpDarkExit p) s = .next (putPort s p { x with
        txPower := .active, lastTx := s.now, txChange := some (3520, s.now),
        stream := streamFresh x.txProf s.now x.stream })) ∧
      (t + 10 ≤ s.now → s.now < t + 60 → exec (.fpDarkExit p) s = .next (putPort s p { x with
        txPower := .active, lastTx := s.now, stream := streamWake x.txProf s.now false x.stream,
        txChange := some (10 + wakeSlip (streamWake x.txProf s.now false x.stream), s.now) }))) ∧
    (linkBusy x.link = false → exec (.fpQuietExit p) s = .next s ∧ exec (.fpDarkExit p) s = .next s) ∧
    (x.rxPower ≠ .dark → exec (.fpEnergyWake p) s = .next s) ∧
    (x.rxPower = .dark → refLostSince s x.darkAt = true → exec (.fpEnergyWake p) s = .next (staleWake s p s.now)) ∧
    (∀ t, x.rxPower = .dark → refLostSince s x.darkAt = false → x.retained = some t →
      (s16 t - s16 (portTemp s p)).natAbs ≤ 240 → (∀ l < 5, (lane x l).st ≠ .dark) →
      exec (.fpEnergyWake p) s = .next (putPort s p { x with rxPower := .active, wakeAt := some s.now })) ∧
    (∀ t, x.wakeAt = some t → expired s t 8000 = true →
      (∃ k < 5, laneInUse (lane x k) = true ∧ laneQual (lane x k) = false) →
      exec (.fpWakeQualifyTimeout p) s = .next (staleWake s p t)) ∧
    (x.wakeAt = none → exec (.fpWakeQualifyTimeout p) s = .next s) ∧
    (∀ l n (errs : List Nat), l < 5 → errsLegal n errs = true →
      ((lane x l).test = none → exec (.laneTestComplete p l n errs) s = .next s) ∧
      (∀ (t : LaneTest), (lane x l).test = some t → waited s t.start (testMicros t * 1000) = true →
        ((byteAt t.params 1).toNat = 0 → exec (.laneTestComplete p l n errs) s =
          .next (endTest s p l 0 { t with bits := 0, errors := 0, resyncs := 0, binErr := [] } true)) ∧
        ((byteAt t.params 1).toNat ≠ 0 → ∀ (c : Checker), c = checked (testBin x t (lane x l).prof) n errs →
          exec (.laneTestComplete p l n errs) s =
          .next (endTest s p l 0 { t with bits := c.bits, errors := c.errors, resyncs := c.resyncs, binErr := c.bins } true)))) ∧
    (∀ (f : Nat → Nat) (n : Nat), 64 ≤ n → (checked f n []).bits = n - 64 ∧ (checked f n []).errors = 0 ∧ (checked f n []).resyncs = 0) ∧
    (∀ h, h < 16 →
      (hatchReady s h 0x0602 0x0602 = true → reservedBad s h [(0, 1)] = [] → pl s h 0 1 < 4 →
        exec (.fpLanes h) s = .next (ansOk s h ((List.range 5).flatMap (laneRecord (port s (pl s h 0 1)))))) ∧
      (hatchReady s h 0x0603 0x0603 = true → reservedBad s h [(0, 9), (12, 4)] = [] →
        (laneTestBad s h).filter (fun f => f.2) = [] → exec (.laneTest h) s = .next (startLaneTest s h)))

/-- INIT with SEEN both ways and the minima opens the link; without it 100 us long the port goes DOWN. REINIT and 64
NAKs start the link over, the third time within 10 ms it goes DOWN, as it does on NODE_DOWN and after 16 bad flits,
with C1 0x0403. A substitution moves the lane after its markers, and without them in 10 us takes the port DOWN. A
forwarded message held for 1 ms without credit raises C0 0x0408, and a route returns to its primary egress. Outside
its condition a command changes nothing. It says when each of these completes, and with which next state:
FP_BAD_FLIT_LIMIT, FP_NAK_REPEAT, FP_NAK_LIMIT, FP_FLIT_SEND, FP_INIT_RECEIVED, FP_INIT_TIMEOUT,
FP_REINIT_RECEIVED, FP_NODE_DOWN_RECEIVED, FP_SUBST_REQ_RECEIVED, FP_SUBST_MARKERS_SEND, FP_SUBST_TIMEOUT,
FORWARD_HOLD_TIMEOUT, ROUTE_REVERT.  Rules: R115, R124, R125, R126, R127, R128, R134, R137, R139. -/
def Obligations.FabricLinkCommands : Prop :=
  ∀ (s : State) (p : Nat), live s = true → p < 4 →
    let x := port s p
    let failed : State := fpDown (chipFault s .c1 (p + 1) 0x0403 0) p true
    (∀ s0 s1,
      (x.st ≠ .init → exec (.fpInitReceived p s0 s1) s = .next s) ∧
      (x.st = .init → minimaMet (initCredits s1) = true → exec (.fpInitReceived p s0 s1) s = .next (fpTryActive (putPort s p { x with
        seen := true, partnerSeen := s0.getLsbD 24, partnerNode := s0.extractLsb' 8 12,
        link := { x.link with adv := initCredits s1, initRcvd := true, initRcvdAt := s.now } }) p)) ∧
      (x.st = .init → minimaMet (initCredits s1) = false → x.link.shortRaised = false → exec (.fpInitReceived p s0 s1) s =
        .next (fpTryActive (c0 (putPort s p { x with
          seen := true, partnerSeen := s0.getLsbD 24, partnerNode := s0.extractLsb' 8 12,
          link := { x.link with adv := initCredits s1, initRcvd := true, initRcvdAt := s.now, shortRaised := true } })
          (p + 1) 0x0401 0 0) p))) ∧
    (x.st = .init → x.sentSeen = true → x.partnerSeen = true → minimaMet x.link.adv = true →
      ∃ u, fpTryActive s p = askAwaiting u p ∧ (port u p).st = .active ∧ (port u p).activeSince = s.now ∧
        (port u p).link.held = x.link.adv) ∧
    (x.st = .init → x.seen = false ∨ minimaMet x.link.adv = false → expired s x.link.initAt 100000 = true → exec (.fpInitTimeout p) s = .next (fpDown s p true)) ∧
    (x.st ≠ .init → exec (.fpInitTimeout p) s = .next s) ∧
    (x.link.reinitLeft ≠ 0 → exec (.fpReinitReceived p) s = .next s) ∧
    (x.link.reinitLeft = 0 → x.st = .active →
      (3 ≤ reinitCount s x.link → exec (.fpReinitReceived p) s = .next failed) ∧
      (reinitCount s x.link < 3 →
        let a := requeueCut (chipFault s .c1 (p + 1) 0x0402 0) p
        exec (.fpReinitReceived p) s = .next (resendSnoops (resolveEpoch (modPort a p (fun x =>
          { x with st := .init, seen := false, partnerSeen := false, sentSeen := false,
                   link := freshLink a { x.link with reinitLeft := 64, reinits := a.now :: x.link.reinits.filter (fun t =>
                     a.now < t + 10000000) },
                   stream := { (wakeTx a x).stream with wakeDue := true },
                   txPower := .active, txChange := (wakeTx a x).txChange, lastTx := (wakeTx a x).lastTx })) p) p))) ∧
    (x.st = .active → exec (.fpNodeDownReceived p) s = .next failed) ∧
    (x.st = .down → exec (.fpNodeDownReceived p) s = .next s) ∧
    (x.st = .active → 16 ≤ x.link.badRun → exec (.fpBadFlitLimit p) s = .next failed) ∧
    (x.link.badRun < 16 → exec (.fpBadFlitLimit p) s = .next s) ∧
    (x.st = .active → x.link.awaiting = true → x.link.nakDue = false → 64 ≤ x.link.nakFlits → exec (.fpNakRepeat p) s =
      .next (putLink s p { x.link with nakDue := true, nakFlits := 0 })) ∧
    (x.st ≠ .active → exec (.fpNakRepeat p) s = .next s) ∧
    (64 ≤ x.link.nakCount → x.st = .active → 3 ≤ reinitCount s x.link → exec (.fpNakLimit p) s = .next failed) ∧
    (x.link.nakCount < 64 → exec (.fpNakLimit p) s = .next s) ∧
    (x.st = .down → exec (.fpFlitSend p) s = .next s) ∧
    (x.st = .init → s.boot.phase ≠ .retHeld → txOpen s x = true → x.link.reinitLeft = 0 →
      exec (.fpFlitSend p) s = .next (fpTryActive (driveFabric (modPort s p (fun x => { x with sentSeen := x.seen })) p
        (plainFlit p x.link fpInit ((initSlots s p).map (fun v => (0, v)))) false) p)) ∧
    (txOpen s x = false → x.st ≠ .halted → exec (.fpFlitSend p) s = .next s) ∧
    (∀ lg fl sp, lg < 4 → fl < 5 → sp < 5 →
      (x.st ≠ .active → exec (.fpSubstReqReceived p lg fl sp) s = .next s) ∧
      (x.st = .active → (lane x sp).test = none → exec (.fpSubstReqReceived p lg fl sp) s = .next (putPort s p { x with
        txSubst := some { logical := lg, failed := fl, spare := sp, since := s.now } }))) ∧
    (x.txSubst = none → exec (.fpSubstMarkersSend p) s = .next s) ∧
    (∀ u, x.txSubst = some u → x.stream.marks = none → txOpen s x = true → exec (.fpSubstMarkersSend p) s =
      .next (putPort s p { x with stream := { x.stream with marks := some (u.spare, 4) } })) ∧
    (∀ u, x.txSubst = some u → x.stream.marks = none → txOpen s x = false → ∃ y : FabPort,
      exec (.fpSubstMarkersSend p) s = .next (putPort s p y) ∧ y.txMap = x.txMap.set u.logical u.spare ∧ y.txSpare = none ∧
        y.txSubst = none ∧ y.stream.out.length = 4 ∧ (∀ m ∈ y.stream.out, m.mark = some u.spare) ∧ y.laneMap = x.laneMap) ∧
    (∀ u v, x.txSubst = some u → x.stream.marks = some (v, 0) → spareCarries x = { x with
      txMap := x.txMap.set u.logical u.spare, txSpare := none, txSubst := none, stream := { x.stream with marks := none } }) ∧
    (x.subst = none → exec (.fpSubstTimeout p) s = .next s) ∧
    (∀ u, x.subst = some u → x.st = .active → expired s u.since 10000 = true → exec (.fpSubstTimeout p) s = .next failed) ∧
    (∀ m, x.link.txData = [] → x.link.outQ = [m] → m.ing.isSome = true → hSrc m.h0 ≠ s.fab.stackNode → m.late = false →
      x.link.held.hdr (msgClass m) = 0 → m.since + 1000000 < s.now → exec (.forwardHoldTimeout p) s =
      .next (c0 (putLink s p { x.link with outQ := [{ m with late := true }] }) (p + 1) 0x0408 0 0)) ∧
    (x.link.outQ = [] → x.link.txData = [] → exec (.forwardHoldTimeout p) s = .next s) ∧
    (∀ n : Node,
      (smGet false s.fab.altUse n.toNat = false → exec (.routeRevert n) s = .next s) ∧
      (smGet false s.fab.altUse n.toNat = true → rRevert (routeGet s n) = true → primaryBack s (rPrimary (routeGet s n)) = true →
        heldFor s (rAlternate (routeGet s n)) n = false → exec (.routeRevert n) s =
        .next { s with fab := { s.fab with altUse := smSet false s.fab.altUse n.toNat false } }))
end

