-- ==== Sys2Proof/Laws/Memory.lean ====
section
/-! SUPPORT. Laws of sparse tables and byte memories: a read after a write, the canonical form every write keeps, and the
stored codewords of the DRAM. -/

namespace Sys2Proof

variable {α : Type}

/-! ## Reads after writes -/

theorem smGet_smErase_same (d : α) (m : SMap α) (i : Nat) : smGet d (smErase m i) i = d := by
  induction m with
  | nil => rfl
  | cons p r ih =>
    obtain ⟨k, v⟩ := p
    by_cases h : k = i <;> simp [smErase, smGet, h, ih]

theorem smGet_smErase_ne (d : α) (m : SMap α) {i j : Nat} (h : j ≠ i) : smGet d (smErase m i) j = smGet d m j := by
  induction m with
  | nil => rfl
  | cons p r ih =>
    obtain ⟨k, v⟩ := p
    by_cases hk : k = i
    · have : i ≠ j := fun e => h e.symm
      simp [smErase, smGet, hk, this, ih]
    · simp [smErase, smGet, hk, ih]

theorem smGet_smInsert_same (d : α) (m : SMap α) (i : Nat) (v : α) : smGet d (smInsert m i v) i = v := by
  induction m with
  | nil => simp [smInsert, smGet]
  | cons p r ih =>
    obtain ⟨k, w⟩ := p
    simp only [smInsert]
    split
    · simp [smGet]
    · split
      · simp [smGet]
      · rename_i h; simp [smGet, h, ih]

theorem smGet_smInsert_ne (d : α) (m : SMap α) {i j : Nat} (v : α) (h : j ≠ i) :
    smGet d (smInsert m i v) j = smGet d m j := by
  have hij : i ≠ j := fun e => h e.symm
  induction m with
  | nil => simp [smInsert, smGet, hij]
  | cons p r ih =>
    obtain ⟨k, w⟩ := p
    simp only [smInsert]
    split
    · simp [smGet, hij]
    · split
      · rename_i hk; simp [smGet, hij, hk]
      · simp [smGet, ih]

section
variable [DecidableEq α]

/-- A key just written reads as what was written. -/
@[simp] theorem smGet_smSet_same (d : α) (m : SMap α) (i : Nat) (v : α) : smGet d (smSet d m i v) i = v := by
  unfold smSet
  split
  · rename_i h; rw [smGet_smErase_same, h]
  · exact smGet_smInsert_same d m i v

/-- A write leaves every other key alone. -/
theorem smGet_smSet_ne (d : α) (m : SMap α) (i j : Nat) (v : α) (h : j ≠ i) :
    smGet d (smSet d m i v) j = smGet d m j := by
  unfold smSet
  split
  · exact smGet_smErase_ne d m h
  · exact smGet_smInsert_ne d m v h

/-- The same where unlisted keys have defaults of their own. -/
theorem smGet_smSet_other (d d' : α) (m : SMap α) (i j : Nat) (v : α) (h : j ≠ i) :
    smGet d' (smSet d m i v) j = smGet d' m j := by
  unfold smSet
  split
  · exact smGet_smErase_ne d' m h
  · exact smGet_smInsert_ne d' m v h

/-! ## The canonical form -/

theorem smWf_cons (d : α) (k : Nat) (v : α) (m : SMap α) :
    smWf d ((k, v) :: m) = true ↔ v ≠ d ∧ (∀ p ∈ m, k < p.1) ∧ smWf d m = true := by
  induction m generalizing k v with
  | nil => simp [smWf]
  | cons q r ih =>
    obtain ⟨k', v'⟩ := q
    have hr := ih k' v'
    simp only [smWf, Bool.and_eq_true, decide_eq_true_eq, List.mem_cons, forall_eq_or_imp]
    constructor
    · rintro ⟨⟨a, b⟩, c⟩
      exact ⟨b, ⟨a, fun p hp => Nat.lt_trans a ((hr.mp c).2.1 p hp)⟩, c⟩
    · rintro ⟨b, ⟨a, _⟩, c⟩
      exact ⟨⟨a, b⟩, c⟩

omit [DecidableEq α] in
theorem mem_smErase {m : SMap α} {i : Nat} {p : Nat × α} (h : p ∈ smErase m i) : p ∈ m := by
  induction m with
  | nil => exact h
  | cons q r ih =>
    obtain ⟨k, v⟩ := q
    by_cases hk : k = i
    · simp only [smErase, hk, if_true] at h; exact List.mem_cons_of_mem _ (ih h)
    · simp only [smErase, hk, if_false, List.mem_cons] at h
      rcases h with h | h
      · exact h ▸ List.mem_cons_self
      · exact List.mem_cons_of_mem _ (ih h)

theorem smWf_smErase (d : α) (m : SMap α) (i : Nat) (h : smWf d m = true) : smWf d (smErase m i) = true := by
  induction m with
  | nil => rfl
  | cons q r ih =>
    obtain ⟨k, v⟩ := q
    obtain ⟨a, b, c⟩ := (smWf_cons d k v r).mp h
    by_cases hk : k = i
    · simpa [smErase, hk] using ih c
    · simp only [smErase, hk, if_false]
      exact (smWf_cons d k v _).mpr ⟨a, fun p hp => b p (mem_smErase hp), ih c⟩

omit [DecidableEq α] in
theorem mem_smInsert {m : SMap α} {i : Nat} {v : α} {p : Nat × α} (h : p ∈ smInsert m i v) : p = (i, v) ∨ p ∈ m := by
  induction m with
  | nil => simpa [smInsert] using h
  | cons q r ih =>
    obtain ⟨k, w⟩ := q
    simp only [smInsert] at h
    split at h
    · simpa using h
    · split at h
      · rcases List.mem_cons.mp h with h | h
        · exact .inl h
        · exact .inr (List.mem_cons_of_mem _ h)
      · rcases List.mem_cons.mp h with h | h
        · exact .inr (h ▸ List.mem_cons_self)
        · rcases ih h with h | h
          · exact .inl h
          · exact .inr (List.mem_cons_of_mem _ h)

theorem smWf_smInsert (d : α) (m : SMap α) (i : Nat) (v : α) (hv : v ≠ d) (h : smWf d m = true) :
    smWf d (smInsert m i v) = true := by
  induction m with
  | nil => simp [smInsert, smWf, hv]
  | cons q r ih =>
    obtain ⟨k, w⟩ := q
    obtain ⟨a, b, c⟩ := (smWf_cons d k w r).mp h
    simp only [smInsert]
    split
    · rename_i hik
      refine (smWf_cons d i v _).mpr ⟨hv, ?_, h⟩
      intro p hp
      rcases List.mem_cons.mp hp with hp | hp
      · rw [hp]; exact hik
      · exact Nat.lt_trans hik (b p hp)
    · split
      · rename_i hk; exact (smWf_cons d i v _).mpr ⟨hv, fun p hp => hk ▸ b p hp, c⟩
      · rename_i h1 h2
        refine (smWf_cons d k w _).mpr ⟨a, ?_, ih c⟩
        intro p hp
        rcases mem_smInsert hp with e | hp
        · rw [e]; exact Nat.lt_of_le_of_ne (Nat.le_of_not_lt h1) h2
        · exact b p hp

/-- A write keeps the canonical form. -/
theorem smWf_smSet (d : α) (m : SMap α) (i : Nat) (v : α) (h : smWf d m = true) : smWf d (smSet d m i v) = true := by
  unfold smSet
  split
  · exact smWf_smErase d m i h
  · rename_i hv; exact smWf_smInsert d m i v hv h

/-- In canonical form, writing what a key reads as changes nothing: equal memories are equal lists. -/
theorem smSet_smGet (d : α) (m : SMap α) (i : Nat) (h : smWf d m = true) : smSet d m i (smGet d m i) = m := by
  have key : ∀ m : SMap α, smWf d m = true →
      (smGet d m i = d → smErase m i = m) ∧ (smGet d m i ≠ d → smInsert m i (smGet d m i) = m) := by
    intro m
    induction m with
    | nil => intro _; simp [smGet, smErase]
    | cons q r ih =>
      obtain ⟨k, w⟩ := q
      intro h
      obtain ⟨a, b, c⟩ := (smWf_cons d k w r).mp h
      obtain ⟨e1, e2⟩ := ih c
      by_cases hk : k = i
      · subst hk; simp [smGet, smInsert, a]
      · refine ⟨fun hg => ?_, fun hg => ?_⟩
        · simp only [smGet, hk, if_false] at hg
          simp only [smErase, hk, if_false]; rw [e1 hg]
        · simp only [smGet, hk, if_false] at hg ⊢
          have hlt : ¬ i < k := by
            intro hik
            have : ∀ r : SMap α, (∀ p ∈ r, k < p.1) → smGet d r i = d := by
              intro r
              induction r with
              | nil => intro _; rfl
              | cons p t iht =>
                intro hp
                have h1 := hp p List.mem_cons_self
                have : p.1 ≠ i := by omega
                simp only [smGet, this, if_false]
                exact iht (fun x hx => hp x (List.mem_cons_of_mem _ hx))
            exact hg (this r b)
          simp only [smInsert, hlt, hk, if_false]; rw [e2 hg]
  unfold smSet
  split
  · rename_i hg; exact (key m h).1 hg
  · rename_i hg; exact (key m h).2 hg

end

/-! ## Byte memories -/

theorem bmGet_bmSet_same (m : ByteMem) (a : Nat) (v : BitVec 8) : bmGet (bmSet m a v) a = v := smGet_smSet_same 0 m a v

theorem bmGet_bmSet_ne (m : ByteMem) {a b : Nat} (v : BitVec 8) (h : b ≠ a) : bmGet (bmSet m a v) b = bmGet m b :=
  smGet_smSet_ne 0 m a b v h

/-- A write leaves every byte outside it alone. -/
theorem bmGet_bmWrite_out (bs : List (BitVec 8)) : ∀ (m : ByteMem) (a j : Nat), (j < a ∨ a + bs.length ≤ j) →
    bmGet (bmWrite m a bs) j = bmGet m j := by
  induction bs with
  | nil => intros; rfl
  | cons b r ih =>
    intro m a j h
    simp only [List.length_cons] at h
    rw [bmWrite, ih _ _ _ (by omega), bmGet_bmSet_ne _ _ (by omega)]

/-- A write is read back byte by byte. -/
theorem bmRead_bmWrite (bs : List (BitVec 8)) : ∀ (m : ByteMem) (a : Nat), bmRead (bmWrite m a bs) a bs.length = bs := by
  induction bs with
  | nil => intros; rfl
  | cons b r ih =>
    intro m a
    simp only [List.length_cons, bmRead, bmWrite]
    rw [ih, bmGet_bmWrite_out _ _ _ _ (by omega), bmGet_bmSet_same]

theorem bmWrite_wf (bs : List (BitVec 8)) : ∀ (m : ByteMem) (a : Nat), smWf (0 : BitVec 8) m = true →
    smWf (0 : BitVec 8) (bmWrite m a bs) = true := by
  induction bs with
  | nil => intro m a h; exact h
  | cons b r ih => intro m a h; exact ih _ _ (smWf_smSet 0 m a b h)

/-- n little-endian bytes of a number give it back modulo their range. -/
theorem leNat_leBytes (n : Nat) : ∀ v : Nat, leNat (leBytes v n) = v % 256 ^ n := by
  induction n with
  | zero => intro v; simp [leBytes, leNat, Nat.mod_one]
  | succ n ih =>
    intro v
    simp only [leBytes, leNat, ih, BitVec.toNat_ofNat]
    have e : (256 : Nat) ^ (n + 1) = 256 * 256 ^ n := by rw [Nat.pow_succ, Nat.mul_comm]
    rw [e, Nat.mod_mul]

theorem leBytes_length (n : Nat) : ∀ v : Nat, (leBytes v n).length = n := by
  induction n with
  | zero => intro v; rfl
  | succ n ih => intro v; simp [leBytes, ih]

namespace Machine

/-! ## The stored codewords -/

/-- A write of a codeword moves no line: repairs place lines, not their contents. -/
@[simp] theorem cellKey_dramPut (s : State) (pb bank row line : Nat) (c : Codeword) (pb' bank' row' line' : Nat) :
    cellKey (dramPut s pb bank row line c) pb' bank' row' line' = cellKey s pb' bank' row' line' := rfl

/-- A codeword written to a place is read there. -/
theorem dramCw_dramPut (s : State) (pb bank row line : Nat) (c : Codeword) :
    dramCw (dramPut s pb bank row line c) pb bank row line = c := by
  have h := bmRead_bmWrite (leBytes c.toNat 72) s.dram (cellKey s pb bank row line)
  rw [leBytes_length] at h
  unfold dramCw
  rw [cellKey_dramPut]
  simp only [dramPut, h, leNat_leBytes]
  apply BitVec.eq_of_toNat_eq
  have := c.isLt
  simp only [BitVec.toNat_ofNat]
  omega

/-- A codeword written to a place changes no byte outside its 72. -/
theorem dramGet_dramPut_out (s : State) (pb bank row line j : Nat) (c : Codeword)
    (h : j < cellKey s pb bank row line ∨ cellKey s pb bank row line + 72 ≤ j) :
    bmGet (dramPut s pb bank row line c).dram j = bmGet s.dram j := by
  unfold dramPut
  exact bmGet_bmWrite_out _ _ _ _ (by rw [leBytes_length]; exact h)

theorem dramPut_wf (s : State) (pb bank row line : Nat) (c : Codeword) (h : Memory.wf s.dram) :
    Memory.wf (dramPut s pb bank row line c).dram := bmWrite_wf _ _ _ h

theorem framePut_wf (s : State) (r set w n : Nat) (c : Codeword) (h : Memory.wf s.uc.frames) :
    Memory.wf (framePut s r set w n c).uc.frames := bmWrite_wf _ _ _ h

theorem shadowPut_wf (s : State) (r u q n : Nat) (c : Codeword) (h : Memory.wf s.uc.shadow) :
    Memory.wf (shadowPut s r u q n c).uc.shadow := bmWrite_wf _ _ _ h

/-- Writing a cell keeps the DRAM in canonical form. -/
theorem cellWrite_wf (s : State) (pb bank row line : Nat) (c : Codeword) (h : Memory.wf s.dram) :
    Memory.wf (cellWrite s pb bank row line c).dram := by
  unfold cellWrite
  split
  · dsimp only
    split
    · exact h
    · exact dramPut_wf _ _ _ _ _ _ h
  · exact dramPut_wf _ _ _ _ _ _ h

/-- Writing a line by its key keeps the DRAM in canonical form. -/
theorem keyWrite_wf (s : State) (pb key : Nat) (c : Codeword) (h : Memory.wf s.dram) :
    Memory.wf (keyWrite s pb key c).dram := by
  unfold keyWrite
  dsimp only
  split
  · exact cellWrite_wf _ _ _ _ _ _ (cellWrite_wf _ _ _ _ _ _ h)
  · exact cellWrite_wf _ _ _ _ _ _ h

/-- The memories of the reset state are in canonical form. -/
theorem reset_memoriesWf : MemoriesWf State.reset := ⟨rfl, rfl⟩

end Machine

end Sys2Proof
end

