-- ==== Sys2Proof/Laws/State.lean ====
section
/-! SUPPORT. One lemma per field of State and named update: what an update leaves alone, by rfl; and what the accessors
read after it. -/

namespace Sys2Proof.Machine

/-! ## putBlk -/

@[simp] theorem putBlk_pending (s : State) (b : Nat) (x : Block) : (putBlk s b x).pending = s.pending := rfl
@[simp] theorem putBlk_now (s : State) (b : Nat) (x : Block) : (putBlk s b x).now = s.now := rfl
@[simp] theorem putBlk_free (s : State) (b : Nat) (x : Block) : (putBlk s b x).free = s.free := rfl
@[simp] theorem putBlk_cfg (s : State) (b : Nat) (x : Block) : (putBlk s b x).cfg = s.cfg := rfl
@[simp] theorem putBlk_pins (s : State) (b : Nat) (x : Block) : (putBlk s b x).pins = s.pins := rfl
@[simp] theorem putBlk_pace (s : State) (b : Nat) (x : Block) : (putBlk s b x).pace = s.pace := rfl
@[simp] theorem putBlk_remap (s : State) (b : Nat) (x : Block) : (putBlk s b x).remap = s.remap := rfl
@[simp] theorem putBlk_wp (s : State) (b : Nat) (x : Block) : (putBlk s b x).wp = s.wp := rfl
@[simp] theorem putBlk_fp (s : State) (b : Nat) (x : Block) : (putBlk s b x).fp = s.fp := rfl
@[simp] theorem putBlk_fab (s : State) (b : Nat) (x : Block) : (putBlk s b x).fab = s.fab := rfl
@[simp] theorem putBlk_tx (s : State) (b : Nat) (x : Block) : (putBlk s b x).tx = s.tx := rfl
@[simp] theorem putBlk_uc (s : State) (b : Nat) (x : Block) : (putBlk s b x).uc = s.uc := rfl
@[simp] theorem putBlk_dram (s : State) (b : Nat) (x : Block) : (putBlk s b x).dram = s.dram := rfl
@[simp] theorem putBlk_trowel (s : State) (b : Nat) (x : Block) : (putBlk s b x).trowel = s.trowel := rfl
@[simp] theorem putBlk_primer (s : State) (b : Nat) (x : Block) : (putBlk s b x).primer = s.primer := rfl
@[simp] theorem putBlk_store (s : State) (b : Nat) (x : Block) : (putBlk s b x).store = s.store := rfl
@[simp] theorem putBlk_reg (s : State) (b : Nat) (x : Block) : (putBlk s b x).reg = s.reg := rfl
@[simp] theorem putBlk_acc (s : State) (b : Nat) (x : Block) : (putBlk s b x).acc = s.acc := rfl
@[simp] theorem putBlk_faults (s : State) (b : Nat) (x : Block) : (putBlk s b x).faults = s.faults := rfl
@[simp] theorem putBlk_heat (s : State) (b : Nat) (x : Block) : (putBlk s b x).heat = s.heat := rfl
@[simp] theorem putBlk_vault (s : State) (b : Nat) (x : Block) : (putBlk s b x).vault = s.vault := rfl
@[simp] theorem putBlk_img (s : State) (b : Nat) (x : Block) : (putBlk s b x).img = s.img := rfl
@[simp] theorem putBlk_cal (s : State) (b : Nat) (x : Block) : (putBlk s b x).cal = s.cal := rfl
@[simp] theorem putBlk_boot (s : State) (b : Nat) (x : Block) : (putBlk s b x).boot = s.boot := rfl
@[simp] theorem putBlk_spdm (s : State) (b : Nat) (x : Block) : (putBlk s b x).spdm = s.spdm := rfl
@[simp] theorem putBlk_mg (s : State) (b : Nat) (x : Block) : (putBlk s b x).mg = s.mg := rfl
@[simp] theorem putBlk_test (s : State) (b : Nat) (x : Block) : (putBlk s b x).test = s.test := rfl
@[simp] theorem putBlk_perf (s : State) (b : Nat) (x : Block) : (putBlk s b x).perf = s.perf := rfl
@[simp] theorem putBlk_tw (s : State) (b : Nat) (x : Block) : (putBlk s b x).tw = s.tw := rfl

/-! ## putPort -/

@[simp] theorem putPort_pending (s : State) (p : Nat) (x : FabPort) : (putPort s p x).pending = s.pending := rfl
@[simp] theorem putPort_now (s : State) (p : Nat) (x : FabPort) : (putPort s p x).now = s.now := rfl
@[simp] theorem putPort_free (s : State) (p : Nat) (x : FabPort) : (putPort s p x).free = s.free := rfl
@[simp] theorem putPort_cfg (s : State) (p : Nat) (x : FabPort) : (putPort s p x).cfg = s.cfg := rfl
@[simp] theorem putPort_pins (s : State) (p : Nat) (x : FabPort) : (putPort s p x).pins = s.pins := rfl
@[simp] theorem putPort_pace (s : State) (p : Nat) (x : FabPort) : (putPort s p x).pace = s.pace := rfl
@[simp] theorem putPort_remap (s : State) (p : Nat) (x : FabPort) : (putPort s p x).remap = s.remap := rfl
@[simp] theorem putPort_wp (s : State) (p : Nat) (x : FabPort) : (putPort s p x).wp = s.wp := rfl
@[simp] theorem putPort_fab (s : State) (p : Nat) (x : FabPort) : (putPort s p x).fab = s.fab := rfl
@[simp] theorem putPort_tx (s : State) (p : Nat) (x : FabPort) : (putPort s p x).tx = s.tx := rfl
@[simp] theorem putPort_uc (s : State) (p : Nat) (x : FabPort) : (putPort s p x).uc = s.uc := rfl
@[simp] theorem putPort_blocks (s : State) (p : Nat) (x : FabPort) : (putPort s p x).blocks = s.blocks := rfl
@[simp] theorem putPort_dram (s : State) (p : Nat) (x : FabPort) : (putPort s p x).dram = s.dram := rfl
@[simp] theorem putPort_trowel (s : State) (p : Nat) (x : FabPort) : (putPort s p x).trowel = s.trowel := rfl
@[simp] theorem putPort_primer (s : State) (p : Nat) (x : FabPort) : (putPort s p x).primer = s.primer := rfl
@[simp] theorem putPort_store (s : State) (p : Nat) (x : FabPort) : (putPort s p x).store = s.store := rfl
@[simp] theorem putPort_reg (s : State) (p : Nat) (x : FabPort) : (putPort s p x).reg = s.reg := rfl
@[simp] theorem putPort_acc (s : State) (p : Nat) (x : FabPort) : (putPort s p x).acc = s.acc := rfl
@[simp] theorem putPort_faults (s : State) (p : Nat) (x : FabPort) : (putPort s p x).faults = s.faults := rfl
@[simp] theorem putPort_heat (s : State) (p : Nat) (x : FabPort) : (putPort s p x).heat = s.heat := rfl
@[simp] theorem putPort_vault (s : State) (p : Nat) (x : FabPort) : (putPort s p x).vault = s.vault := rfl
@[simp] theorem putPort_img (s : State) (p : Nat) (x : FabPort) : (putPort s p x).img = s.img := rfl
@[simp] theorem putPort_cal (s : State) (p : Nat) (x : FabPort) : (putPort s p x).cal = s.cal := rfl
@[simp] theorem putPort_boot (s : State) (p : Nat) (x : FabPort) : (putPort s p x).boot = s.boot := rfl
@[simp] theorem putPort_spdm (s : State) (p : Nat) (x : FabPort) : (putPort s p x).spdm = s.spdm := rfl
@[simp] theorem putPort_mg (s : State) (p : Nat) (x : FabPort) : (putPort s p x).mg = s.mg := rfl
@[simp] theorem putPort_test (s : State) (p : Nat) (x : FabPort) : (putPort s p x).test = s.test := rfl
@[simp] theorem putPort_perf (s : State) (p : Nat) (x : FabPort) : (putPort s p x).perf = s.perf := rfl
@[simp] theorem putPort_tw (s : State) (p : Nat) (x : FabPort) : (putPort s p x).tw = s.tw := rfl

/-! ## putZone -/

@[simp] theorem putZone_pending (s : State) (r : Nat) (z : Throttle) : (putZone s r z).pending = s.pending := rfl
@[simp] theorem putZone_now (s : State) (r : Nat) (z : Throttle) : (putZone s r z).now = s.now := rfl
@[simp] theorem putZone_free (s : State) (r : Nat) (z : Throttle) : (putZone s r z).free = s.free := rfl
@[simp] theorem putZone_cfg (s : State) (r : Nat) (z : Throttle) : (putZone s r z).cfg = s.cfg := rfl
@[simp] theorem putZone_pins (s : State) (r : Nat) (z : Throttle) : (putZone s r z).pins = s.pins := rfl
@[simp] theorem putZone_pace (s : State) (r : Nat) (z : Throttle) : (putZone s r z).pace = s.pace := rfl
@[simp] theorem putZone_remap (s : State) (r : Nat) (z : Throttle) : (putZone s r z).remap = s.remap := rfl
@[simp] theorem putZone_wp (s : State) (r : Nat) (z : Throttle) : (putZone s r z).wp = s.wp := rfl
@[simp] theorem putZone_fp (s : State) (r : Nat) (z : Throttle) : (putZone s r z).fp = s.fp := rfl
@[simp] theorem putZone_fab (s : State) (r : Nat) (z : Throttle) : (putZone s r z).fab = s.fab := rfl
@[simp] theorem putZone_tx (s : State) (r : Nat) (z : Throttle) : (putZone s r z).tx = s.tx := rfl
@[simp] theorem putZone_uc (s : State) (r : Nat) (z : Throttle) : (putZone s r z).uc = s.uc := rfl
@[simp] theorem putZone_blocks (s : State) (r : Nat) (z : Throttle) : (putZone s r z).blocks = s.blocks := rfl
@[simp] theorem putZone_dram (s : State) (r : Nat) (z : Throttle) : (putZone s r z).dram = s.dram := rfl
@[simp] theorem putZone_trowel (s : State) (r : Nat) (z : Throttle) : (putZone s r z).trowel = s.trowel := rfl
@[simp] theorem putZone_primer (s : State) (r : Nat) (z : Throttle) : (putZone s r z).primer = s.primer := rfl
@[simp] theorem putZone_store (s : State) (r : Nat) (z : Throttle) : (putZone s r z).store = s.store := rfl
@[simp] theorem putZone_reg (s : State) (r : Nat) (z : Throttle) : (putZone s r z).reg = s.reg := rfl
@[simp] theorem putZone_acc (s : State) (r : Nat) (z : Throttle) : (putZone s r z).acc = s.acc := rfl
@[simp] theorem putZone_faults (s : State) (r : Nat) (z : Throttle) : (putZone s r z).faults = s.faults := rfl
@[simp] theorem putZone_vault (s : State) (r : Nat) (z : Throttle) : (putZone s r z).vault = s.vault := rfl
@[simp] theorem putZone_img (s : State) (r : Nat) (z : Throttle) : (putZone s r z).img = s.img := rfl
@[simp] theorem putZone_cal (s : State) (r : Nat) (z : Throttle) : (putZone s r z).cal = s.cal := rfl
@[simp] theorem putZone_boot (s : State) (r : Nat) (z : Throttle) : (putZone s r z).boot = s.boot := rfl
@[simp] theorem putZone_spdm (s : State) (r : Nat) (z : Throttle) : (putZone s r z).spdm = s.spdm := rfl
@[simp] theorem putZone_mg (s : State) (r : Nat) (z : Throttle) : (putZone s r z).mg = s.mg := rfl
@[simp] theorem putZone_test (s : State) (r : Nat) (z : Throttle) : (putZone s r z).test = s.test := rfl
@[simp] theorem putZone_perf (s : State) (r : Nat) (z : Throttle) : (putZone s r z).perf = s.perf := rfl
@[simp] theorem putZone_tw (s : State) (r : Nat) (z : Throttle) : (putZone s r z).tw = s.tw := rfl

/-! ## putSr -/

@[simp] theorem putSr_pending (s : State) (b : Nat) (x : SrBlock) : (putSr s b x).pending = s.pending := rfl
@[simp] theorem putSr_now (s : State) (b : Nat) (x : SrBlock) : (putSr s b x).now = s.now := rfl
@[simp] theorem putSr_free (s : State) (b : Nat) (x : SrBlock) : (putSr s b x).free = s.free := rfl
@[simp] theorem putSr_cfg (s : State) (b : Nat) (x : SrBlock) : (putSr s b x).cfg = s.cfg := rfl
@[simp] theorem putSr_pins (s : State) (b : Nat) (x : SrBlock) : (putSr s b x).pins = s.pins := rfl
@[simp] theorem putSr_pace (s : State) (b : Nat) (x : SrBlock) : (putSr s b x).pace = s.pace := rfl
@[simp] theorem putSr_remap (s : State) (b : Nat) (x : SrBlock) : (putSr s b x).remap = s.remap := rfl
@[simp] theorem putSr_wp (s : State) (b : Nat) (x : SrBlock) : (putSr s b x).wp = s.wp := rfl
@[simp] theorem putSr_fp (s : State) (b : Nat) (x : SrBlock) : (putSr s b x).fp = s.fp := rfl
@[simp] theorem putSr_fab (s : State) (b : Nat) (x : SrBlock) : (putSr s b x).fab = s.fab := rfl
@[simp] theorem putSr_tx (s : State) (b : Nat) (x : SrBlock) : (putSr s b x).tx = s.tx := rfl
@[simp] theorem putSr_uc (s : State) (b : Nat) (x : SrBlock) : (putSr s b x).uc = s.uc := rfl
@[simp] theorem putSr_blocks (s : State) (b : Nat) (x : SrBlock) : (putSr s b x).blocks = s.blocks := rfl
@[simp] theorem putSr_dram (s : State) (b : Nat) (x : SrBlock) : (putSr s b x).dram = s.dram := rfl
@[simp] theorem putSr_trowel (s : State) (b : Nat) (x : SrBlock) : (putSr s b x).trowel = s.trowel := rfl
@[simp] theorem putSr_primer (s : State) (b : Nat) (x : SrBlock) : (putSr s b x).primer = s.primer := rfl
@[simp] theorem putSr_reg (s : State) (b : Nat) (x : SrBlock) : (putSr s b x).reg = s.reg := rfl
@[simp] theorem putSr_acc (s : State) (b : Nat) (x : SrBlock) : (putSr s b x).acc = s.acc := rfl
@[simp] theorem putSr_faults (s : State) (b : Nat) (x : SrBlock) : (putSr s b x).faults = s.faults := rfl
@[simp] theorem putSr_heat (s : State) (b : Nat) (x : SrBlock) : (putSr s b x).heat = s.heat := rfl
@[simp] theorem putSr_vault (s : State) (b : Nat) (x : SrBlock) : (putSr s b x).vault = s.vault := rfl
@[simp] theorem putSr_img (s : State) (b : Nat) (x : SrBlock) : (putSr s b x).img = s.img := rfl
@[simp] theorem putSr_cal (s : State) (b : Nat) (x : SrBlock) : (putSr s b x).cal = s.cal := rfl
@[simp] theorem putSr_boot (s : State) (b : Nat) (x : SrBlock) : (putSr s b x).boot = s.boot := rfl
@[simp] theorem putSr_spdm (s : State) (b : Nat) (x : SrBlock) : (putSr s b x).spdm = s.spdm := rfl
@[simp] theorem putSr_mg (s : State) (b : Nat) (x : SrBlock) : (putSr s b x).mg = s.mg := rfl
@[simp] theorem putSr_test (s : State) (b : Nat) (x : SrBlock) : (putSr s b x).test = s.test := rfl
@[simp] theorem putSr_perf (s : State) (b : Nat) (x : SrBlock) : (putSr s b x).perf = s.perf := rfl
@[simp] theorem putSr_tw (s : State) (b : Nat) (x : SrBlock) : (putSr s b x).tw = s.tw := rfl

/-! ## putMigr -/

@[simp] theorem putMigr_pending (s : State) (r : Nat) (m : Migr) : (putMigr s r m).pending = s.pending := rfl
@[simp] theorem putMigr_now (s : State) (r : Nat) (m : Migr) : (putMigr s r m).now = s.now := rfl
@[simp] theorem putMigr_free (s : State) (r : Nat) (m : Migr) : (putMigr s r m).free = s.free := rfl
@[simp] theorem putMigr_cfg (s : State) (r : Nat) (m : Migr) : (putMigr s r m).cfg = s.cfg := rfl
@[simp] theorem putMigr_pins (s : State) (r : Nat) (m : Migr) : (putMigr s r m).pins = s.pins := rfl
@[simp] theorem putMigr_pace (s : State) (r : Nat) (m : Migr) : (putMigr s r m).pace = s.pace := rfl
@[simp] theorem putMigr_remap (s : State) (r : Nat) (m : Migr) : (putMigr s r m).remap = s.remap := rfl
@[simp] theorem putMigr_wp (s : State) (r : Nat) (m : Migr) : (putMigr s r m).wp = s.wp := rfl
@[simp] theorem putMigr_fp (s : State) (r : Nat) (m : Migr) : (putMigr s r m).fp = s.fp := rfl
@[simp] theorem putMigr_fab (s : State) (r : Nat) (m : Migr) : (putMigr s r m).fab = s.fab := rfl
@[simp] theorem putMigr_tx (s : State) (r : Nat) (m : Migr) : (putMigr s r m).tx = s.tx := rfl
@[simp] theorem putMigr_uc (s : State) (r : Nat) (m : Migr) : (putMigr s r m).uc = s.uc := rfl
@[simp] theorem putMigr_blocks (s : State) (r : Nat) (m : Migr) : (putMigr s r m).blocks = s.blocks := rfl
@[simp] theorem putMigr_dram (s : State) (r : Nat) (m : Migr) : (putMigr s r m).dram = s.dram := rfl
@[simp] theorem putMigr_trowel (s : State) (r : Nat) (m : Migr) : (putMigr s r m).trowel = s.trowel := rfl
@[simp] theorem putMigr_primer (s : State) (r : Nat) (m : Migr) : (putMigr s r m).primer = s.primer := rfl
@[simp] theorem putMigr_reg (s : State) (r : Nat) (m : Migr) : (putMigr s r m).reg = s.reg := rfl
@[simp] theorem putMigr_acc (s : State) (r : Nat) (m : Migr) : (putMigr s r m).acc = s.acc := rfl
@[simp] theorem putMigr_faults (s : State) (r : Nat) (m : Migr) : (putMigr s r m).faults = s.faults := rfl
@[simp] theorem putMigr_heat (s : State) (r : Nat) (m : Migr) : (putMigr s r m).heat = s.heat := rfl
@[simp] theorem putMigr_vault (s : State) (r : Nat) (m : Migr) : (putMigr s r m).vault = s.vault := rfl
@[simp] theorem putMigr_img (s : State) (r : Nat) (m : Migr) : (putMigr s r m).img = s.img := rfl
@[simp] theorem putMigr_cal (s : State) (r : Nat) (m : Migr) : (putMigr s r m).cal = s.cal := rfl
@[simp] theorem putMigr_boot (s : State) (r : Nat) (m : Migr) : (putMigr s r m).boot = s.boot := rfl
@[simp] theorem putMigr_spdm (s : State) (r : Nat) (m : Migr) : (putMigr s r m).spdm = s.spdm := rfl
@[simp] theorem putMigr_mg (s : State) (r : Nat) (m : Migr) : (putMigr s r m).mg = s.mg := rfl
@[simp] theorem putMigr_test (s : State) (r : Nat) (m : Migr) : (putMigr s r m).test = s.test := rfl
@[simp] theorem putMigr_perf (s : State) (r : Nat) (m : Migr) : (putMigr s r m).perf = s.perf := rfl
@[simp] theorem putMigr_tw (s : State) (r : Nat) (m : Migr) : (putMigr s r m).tw = s.tw := rfl

/-! ## putHatch -/

@[simp] theorem putHatch_pending (s : State) (h : Nat) (x : Hatch) : (putHatch s h x).pending = s.pending := rfl
@[simp] theorem putHatch_now (s : State) (h : Nat) (x : Hatch) : (putHatch s h x).now = s.now := rfl
@[simp] theorem putHatch_free (s : State) (h : Nat) (x : Hatch) : (putHatch s h x).free = s.free := rfl
@[simp] theorem putHatch_cfg (s : State) (h : Nat) (x : Hatch) : (putHatch s h x).cfg = s.cfg := rfl
@[simp] theorem putHatch_pins (s : State) (h : Nat) (x : Hatch) : (putHatch s h x).pins = s.pins := rfl
@[simp] theorem putHatch_pace (s : State) (h : Nat) (x : Hatch) : (putHatch s h x).pace = s.pace := rfl
@[simp] theorem putHatch_remap (s : State) (h : Nat) (x : Hatch) : (putHatch s h x).remap = s.remap := rfl
@[simp] theorem putHatch_wp (s : State) (h : Nat) (x : Hatch) : (putHatch s h x).wp = s.wp := rfl
@[simp] theorem putHatch_fp (s : State) (h : Nat) (x : Hatch) : (putHatch s h x).fp = s.fp := rfl
@[simp] theorem putHatch_fab (s : State) (h : Nat) (x : Hatch) : (putHatch s h x).fab = s.fab := rfl
@[simp] theorem putHatch_tx (s : State) (h : Nat) (x : Hatch) : (putHatch s h x).tx = s.tx := rfl
@[simp] theorem putHatch_uc (s : State) (h : Nat) (x : Hatch) : (putHatch s h x).uc = s.uc := rfl
@[simp] theorem putHatch_blocks (s : State) (h : Nat) (x : Hatch) : (putHatch s h x).blocks = s.blocks := rfl
@[simp] theorem putHatch_dram (s : State) (h : Nat) (x : Hatch) : (putHatch s h x).dram = s.dram := rfl
@[simp] theorem putHatch_trowel (s : State) (h : Nat) (x : Hatch) : (putHatch s h x).trowel = s.trowel := rfl
@[simp] theorem putHatch_primer (s : State) (h : Nat) (x : Hatch) : (putHatch s h x).primer = s.primer := rfl
@[simp] theorem putHatch_store (s : State) (h : Nat) (x : Hatch) : (putHatch s h x).store = s.store := rfl
@[simp] theorem putHatch_reg (s : State) (h : Nat) (x : Hatch) : (putHatch s h x).reg = s.reg := rfl
@[simp] theorem putHatch_acc (s : State) (h : Nat) (x : Hatch) : (putHatch s h x).acc = s.acc := rfl
@[simp] theorem putHatch_faults (s : State) (h : Nat) (x : Hatch) : (putHatch s h x).faults = s.faults := rfl
@[simp] theorem putHatch_heat (s : State) (h : Nat) (x : Hatch) : (putHatch s h x).heat = s.heat := rfl
@[simp] theorem putHatch_vault (s : State) (h : Nat) (x : Hatch) : (putHatch s h x).vault = s.vault := rfl
@[simp] theorem putHatch_img (s : State) (h : Nat) (x : Hatch) : (putHatch s h x).img = s.img := rfl
@[simp] theorem putHatch_cal (s : State) (h : Nat) (x : Hatch) : (putHatch s h x).cal = s.cal := rfl
@[simp] theorem putHatch_boot (s : State) (h : Nat) (x : Hatch) : (putHatch s h x).boot = s.boot := rfl
@[simp] theorem putHatch_spdm (s : State) (h : Nat) (x : Hatch) : (putHatch s h x).spdm = s.spdm := rfl
@[simp] theorem putHatch_test (s : State) (h : Nat) (x : Hatch) : (putHatch s h x).test = s.test := rfl
@[simp] theorem putHatch_perf (s : State) (h : Nat) (x : Hatch) : (putHatch s h x).perf = s.perf := rfl
@[simp] theorem putHatch_tw (s : State) (h : Nat) (x : Hatch) : (putHatch s h x).tw = s.tw := rfl

/-! ## putEvt -/

@[simp] theorem putEvt_pending (s : State) (t : Nat) (x : EvtTarget) : (putEvt s t x).pending = s.pending := rfl
@[simp] theorem putEvt_now (s : State) (t : Nat) (x : EvtTarget) : (putEvt s t x).now = s.now := rfl
@[simp] theorem putEvt_free (s : State) (t : Nat) (x : EvtTarget) : (putEvt s t x).free = s.free := rfl
@[simp] theorem putEvt_cfg (s : State) (t : Nat) (x : EvtTarget) : (putEvt s t x).cfg = s.cfg := rfl
@[simp] theorem putEvt_pins (s : State) (t : Nat) (x : EvtTarget) : (putEvt s t x).pins = s.pins := rfl
@[simp] theorem putEvt_pace (s : State) (t : Nat) (x : EvtTarget) : (putEvt s t x).pace = s.pace := rfl
@[simp] theorem putEvt_remap (s : State) (t : Nat) (x : EvtTarget) : (putEvt s t x).remap = s.remap := rfl
@[simp] theorem putEvt_wp (s : State) (t : Nat) (x : EvtTarget) : (putEvt s t x).wp = s.wp := rfl
@[simp] theorem putEvt_fp (s : State) (t : Nat) (x : EvtTarget) : (putEvt s t x).fp = s.fp := rfl
@[simp] theorem putEvt_fab (s : State) (t : Nat) (x : EvtTarget) : (putEvt s t x).fab = s.fab := rfl
@[simp] theorem putEvt_tx (s : State) (t : Nat) (x : EvtTarget) : (putEvt s t x).tx = s.tx := rfl
@[simp] theorem putEvt_uc (s : State) (t : Nat) (x : EvtTarget) : (putEvt s t x).uc = s.uc := rfl
@[simp] theorem putEvt_blocks (s : State) (t : Nat) (x : EvtTarget) : (putEvt s t x).blocks = s.blocks := rfl
@[simp] theorem putEvt_dram (s : State) (t : Nat) (x : EvtTarget) : (putEvt s t x).dram = s.dram := rfl
@[simp] theorem putEvt_trowel (s : State) (t : Nat) (x : EvtTarget) : (putEvt s t x).trowel = s.trowel := rfl
@[simp] theorem putEvt_primer (s : State) (t : Nat) (x : EvtTarget) : (putEvt s t x).primer = s.primer := rfl
@[simp] theorem putEvt_store (s : State) (t : Nat) (x : EvtTarget) : (putEvt s t x).store = s.store := rfl
@[simp] theorem putEvt_reg (s : State) (t : Nat) (x : EvtTarget) : (putEvt s t x).reg = s.reg := rfl
@[simp] theorem putEvt_acc (s : State) (t : Nat) (x : EvtTarget) : (putEvt s t x).acc = s.acc := rfl
@[simp] theorem putEvt_faults (s : State) (t : Nat) (x : EvtTarget) : (putEvt s t x).faults = s.faults := rfl
@[simp] theorem putEvt_heat (s : State) (t : Nat) (x : EvtTarget) : (putEvt s t x).heat = s.heat := rfl
@[simp] theorem putEvt_vault (s : State) (t : Nat) (x : EvtTarget) : (putEvt s t x).vault = s.vault := rfl
@[simp] theorem putEvt_img (s : State) (t : Nat) (x : EvtTarget) : (putEvt s t x).img = s.img := rfl
@[simp] theorem putEvt_cal (s : State) (t : Nat) (x : EvtTarget) : (putEvt s t x).cal = s.cal := rfl
@[simp] theorem putEvt_boot (s : State) (t : Nat) (x : EvtTarget) : (putEvt s t x).boot = s.boot := rfl
@[simp] theorem putEvt_spdm (s : State) (t : Nat) (x : EvtTarget) : (putEvt s t x).spdm = s.spdm := rfl
@[simp] theorem putEvt_test (s : State) (t : Nat) (x : EvtTarget) : (putEvt s t x).test = s.test := rfl
@[simp] theorem putEvt_perf (s : State) (t : Nat) (x : EvtTarget) : (putEvt s t x).perf = s.perf := rfl
@[simp] theorem putEvt_tw (s : State) (t : Nat) (x : EvtTarget) : (putEvt s t x).tw = s.tw := rfl

/-! ## putTpos -/

@[simp] theorem putTpos_pending (s : State) (i : Nat) (x : TPos) : (putTpos s i x).pending = s.pending := rfl
@[simp] theorem putTpos_now (s : State) (i : Nat) (x : TPos) : (putTpos s i x).now = s.now := rfl
@[simp] theorem putTpos_free (s : State) (i : Nat) (x : TPos) : (putTpos s i x).free = s.free := rfl
@[simp] theorem putTpos_cfg (s : State) (i : Nat) (x : TPos) : (putTpos s i x).cfg = s.cfg := rfl
@[simp] theorem putTpos_pins (s : State) (i : Nat) (x : TPos) : (putTpos s i x).pins = s.pins := rfl
@[simp] theorem putTpos_pace (s : State) (i : Nat) (x : TPos) : (putTpos s i x).pace = s.pace := rfl
@[simp] theorem putTpos_remap (s : State) (i : Nat) (x : TPos) : (putTpos s i x).remap = s.remap := rfl
@[simp] theorem putTpos_wp (s : State) (i : Nat) (x : TPos) : (putTpos s i x).wp = s.wp := rfl
@[simp] theorem putTpos_fp (s : State) (i : Nat) (x : TPos) : (putTpos s i x).fp = s.fp := rfl
@[simp] theorem putTpos_fab (s : State) (i : Nat) (x : TPos) : (putTpos s i x).fab = s.fab := rfl
@[simp] theorem putTpos_tx (s : State) (i : Nat) (x : TPos) : (putTpos s i x).tx = s.tx := rfl
@[simp] theorem putTpos_uc (s : State) (i : Nat) (x : TPos) : (putTpos s i x).uc = s.uc := rfl
@[simp] theorem putTpos_blocks (s : State) (i : Nat) (x : TPos) : (putTpos s i x).blocks = s.blocks := rfl
@[simp] theorem putTpos_dram (s : State) (i : Nat) (x : TPos) : (putTpos s i x).dram = s.dram := rfl
@[simp] theorem putTpos_trowel (s : State) (i : Nat) (x : TPos) : (putTpos s i x).trowel = s.trowel := rfl
@[simp] theorem putTpos_primer (s : State) (i : Nat) (x : TPos) : (putTpos s i x).primer = s.primer := rfl
@[simp] theorem putTpos_store (s : State) (i : Nat) (x : TPos) : (putTpos s i x).store = s.store := rfl
@[simp] theorem putTpos_reg (s : State) (i : Nat) (x : TPos) : (putTpos s i x).reg = s.reg := rfl
@[simp] theorem putTpos_acc (s : State) (i : Nat) (x : TPos) : (putTpos s i x).acc = s.acc := rfl
@[simp] theorem putTpos_faults (s : State) (i : Nat) (x : TPos) : (putTpos s i x).faults = s.faults := rfl
@[simp] theorem putTpos_vault (s : State) (i : Nat) (x : TPos) : (putTpos s i x).vault = s.vault := rfl
@[simp] theorem putTpos_img (s : State) (i : Nat) (x : TPos) : (putTpos s i x).img = s.img := rfl
@[simp] theorem putTpos_cal (s : State) (i : Nat) (x : TPos) : (putTpos s i x).cal = s.cal := rfl
@[simp] theorem putTpos_boot (s : State) (i : Nat) (x : TPos) : (putTpos s i x).boot = s.boot := rfl
@[simp] theorem putTpos_spdm (s : State) (i : Nat) (x : TPos) : (putTpos s i x).spdm = s.spdm := rfl
@[simp] theorem putTpos_mg (s : State) (i : Nat) (x : TPos) : (putTpos s i x).mg = s.mg := rfl
@[simp] theorem putTpos_test (s : State) (i : Nat) (x : TPos) : (putTpos s i x).test = s.test := rfl
@[simp] theorem putTpos_perf (s : State) (i : Nat) (x : TPos) : (putTpos s i x).perf = s.perf := rfl
@[simp] theorem putTpos_tw (s : State) (i : Nat) (x : TPos) : (putTpos s i x).tw = s.tw := rfl

/-! ## putWalk -/

@[simp] theorem putWalk_pending (s : State) (b : Nat) (w : Walk) : (putWalk s b w).pending = s.pending := rfl
@[simp] theorem putWalk_now (s : State) (b : Nat) (w : Walk) : (putWalk s b w).now = s.now := rfl
@[simp] theorem putWalk_free (s : State) (b : Nat) (w : Walk) : (putWalk s b w).free = s.free := rfl
@[simp] theorem putWalk_cfg (s : State) (b : Nat) (w : Walk) : (putWalk s b w).cfg = s.cfg := rfl
@[simp] theorem putWalk_pins (s : State) (b : Nat) (w : Walk) : (putWalk s b w).pins = s.pins := rfl
@[simp] theorem putWalk_pace (s : State) (b : Nat) (w : Walk) : (putWalk s b w).pace = s.pace := rfl
@[simp] theorem putWalk_remap (s : State) (b : Nat) (w : Walk) : (putWalk s b w).remap = s.remap := rfl
@[simp] theorem putWalk_wp (s : State) (b : Nat) (w : Walk) : (putWalk s b w).wp = s.wp := rfl
@[simp] theorem putWalk_fp (s : State) (b : Nat) (w : Walk) : (putWalk s b w).fp = s.fp := rfl
@[simp] theorem putWalk_fab (s : State) (b : Nat) (w : Walk) : (putWalk s b w).fab = s.fab := rfl
@[simp] theorem putWalk_tx (s : State) (b : Nat) (w : Walk) : (putWalk s b w).tx = s.tx := rfl
@[simp] theorem putWalk_uc (s : State) (b : Nat) (w : Walk) : (putWalk s b w).uc = s.uc := rfl
@[simp] theorem putWalk_blocks (s : State) (b : Nat) (w : Walk) : (putWalk s b w).blocks = s.blocks := rfl
@[simp] theorem putWalk_dram (s : State) (b : Nat) (w : Walk) : (putWalk s b w).dram = s.dram := rfl
@[simp] theorem putWalk_trowel (s : State) (b : Nat) (w : Walk) : (putWalk s b w).trowel = s.trowel := rfl
@[simp] theorem putWalk_primer (s : State) (b : Nat) (w : Walk) : (putWalk s b w).primer = s.primer := rfl
@[simp] theorem putWalk_store (s : State) (b : Nat) (w : Walk) : (putWalk s b w).store = s.store := rfl
@[simp] theorem putWalk_reg (s : State) (b : Nat) (w : Walk) : (putWalk s b w).reg = s.reg := rfl
@[simp] theorem putWalk_acc (s : State) (b : Nat) (w : Walk) : (putWalk s b w).acc = s.acc := rfl
@[simp] theorem putWalk_faults (s : State) (b : Nat) (w : Walk) : (putWalk s b w).faults = s.faults := rfl
@[simp] theorem putWalk_heat (s : State) (b : Nat) (w : Walk) : (putWalk s b w).heat = s.heat := rfl
@[simp] theorem putWalk_vault (s : State) (b : Nat) (w : Walk) : (putWalk s b w).vault = s.vault := rfl
@[simp] theorem putWalk_img (s : State) (b : Nat) (w : Walk) : (putWalk s b w).img = s.img := rfl
@[simp] theorem putWalk_boot (s : State) (b : Nat) (w : Walk) : (putWalk s b w).boot = s.boot := rfl
@[simp] theorem putWalk_spdm (s : State) (b : Nat) (w : Walk) : (putWalk s b w).spdm = s.spdm := rfl
@[simp] theorem putWalk_mg (s : State) (b : Nat) (w : Walk) : (putWalk s b w).mg = s.mg := rfl
@[simp] theorem putWalk_test (s : State) (b : Nat) (w : Walk) : (putWalk s b w).test = s.test := rfl
@[simp] theorem putWalk_perf (s : State) (b : Nat) (w : Walk) : (putWalk s b w).perf = s.perf := rfl
@[simp] theorem putWalk_tw (s : State) (b : Nat) (w : Walk) : (putWalk s b w).tw = s.tw := rfl

/-! ## bumpRegion -/

@[simp] theorem bumpRegion_pending (s : State) (r : Nat) : (bumpRegion s r).pending = s.pending := rfl
@[simp] theorem bumpRegion_now (s : State) (r : Nat) : (bumpRegion s r).now = s.now := rfl
@[simp] theorem bumpRegion_free (s : State) (r : Nat) : (bumpRegion s r).free = s.free := rfl
@[simp] theorem bumpRegion_cfg (s : State) (r : Nat) : (bumpRegion s r).cfg = s.cfg := rfl
@[simp] theorem bumpRegion_pins (s : State) (r : Nat) : (bumpRegion s r).pins = s.pins := rfl
@[simp] theorem bumpRegion_pace (s : State) (r : Nat) : (bumpRegion s r).pace = s.pace := rfl
@[simp] theorem bumpRegion_wp (s : State) (r : Nat) : (bumpRegion s r).wp = s.wp := rfl
@[simp] theorem bumpRegion_fp (s : State) (r : Nat) : (bumpRegion s r).fp = s.fp := rfl
@[simp] theorem bumpRegion_fab (s : State) (r : Nat) : (bumpRegion s r).fab = s.fab := rfl
@[simp] theorem bumpRegion_tx (s : State) (r : Nat) : (bumpRegion s r).tx = s.tx := rfl
@[simp] theorem bumpRegion_uc (s : State) (r : Nat) : (bumpRegion s r).uc = s.uc := rfl
@[simp] theorem bumpRegion_blocks (s : State) (r : Nat) : (bumpRegion s r).blocks = s.blocks := rfl
@[simp] theorem bumpRegion_dram (s : State) (r : Nat) : (bumpRegion s r).dram = s.dram := rfl
@[simp] theorem bumpRegion_trowel (s : State) (r : Nat) : (bumpRegion s r).trowel = s.trowel := rfl
@[simp] theorem bumpRegion_primer (s : State) (r : Nat) : (bumpRegion s r).primer = s.primer := rfl
@[simp] theorem bumpRegion_store (s : State) (r : Nat) : (bumpRegion s r).store = s.store := rfl
@[simp] theorem bumpRegion_reg (s : State) (r : Nat) : (bumpRegion s r).reg = s.reg := rfl
@[simp] theorem bumpRegion_acc (s : State) (r : Nat) : (bumpRegion s r).acc = s.acc := rfl
@[simp] theorem bumpRegion_faults (s : State) (r : Nat) : (bumpRegion s r).faults = s.faults := rfl
@[simp] theorem bumpRegion_heat (s : State) (r : Nat) : (bumpRegion s r).heat = s.heat := rfl
@[simp] theorem bumpRegion_vault (s : State) (r : Nat) : (bumpRegion s r).vault = s.vault := rfl
@[simp] theorem bumpRegion_img (s : State) (r : Nat) : (bumpRegion s r).img = s.img := rfl
@[simp] theorem bumpRegion_cal (s : State) (r : Nat) : (bumpRegion s r).cal = s.cal := rfl
@[simp] theorem bumpRegion_boot (s : State) (r : Nat) : (bumpRegion s r).boot = s.boot := rfl
@[simp] theorem bumpRegion_spdm (s : State) (r : Nat) : (bumpRegion s r).spdm = s.spdm := rfl
@[simp] theorem bumpRegion_mg (s : State) (r : Nat) : (bumpRegion s r).mg = s.mg := rfl
@[simp] theorem bumpRegion_test (s : State) (r : Nat) : (bumpRegion s r).test = s.test := rfl
@[simp] theorem bumpRegion_perf (s : State) (r : Nat) : (bumpRegion s r).perf = s.perf := rfl
@[simp] theorem bumpRegion_tw (s : State) (r : Nat) : (bumpRegion s r).tw = s.tw := rfl

/-! ## bumpBlock -/

@[simp] theorem bumpBlock_pending (s : State) (b : Nat) : (bumpBlock s b).pending = s.pending := rfl
@[simp] theorem bumpBlock_now (s : State) (b : Nat) : (bumpBlock s b).now = s.now := rfl
@[simp] theorem bumpBlock_free (s : State) (b : Nat) : (bumpBlock s b).free = s.free := rfl
@[simp] theorem bumpBlock_cfg (s : State) (b : Nat) : (bumpBlock s b).cfg = s.cfg := rfl
@[simp] theorem bumpBlock_pins (s : State) (b : Nat) : (bumpBlock s b).pins = s.pins := rfl
@[simp] theorem bumpBlock_pace (s : State) (b : Nat) : (bumpBlock s b).pace = s.pace := rfl
@[simp] theorem bumpBlock_wp (s : State) (b : Nat) : (bumpBlock s b).wp = s.wp := rfl
@[simp] theorem bumpBlock_fp (s : State) (b : Nat) : (bumpBlock s b).fp = s.fp := rfl
@[simp] theorem bumpBlock_fab (s : State) (b : Nat) : (bumpBlock s b).fab = s.fab := rfl
@[simp] theorem bumpBlock_tx (s : State) (b : Nat) : (bumpBlock s b).tx = s.tx := rfl
@[simp] theorem bumpBlock_uc (s : State) (b : Nat) : (bumpBlock s b).uc = s.uc := rfl
@[simp] theorem bumpBlock_blocks (s : State) (b : Nat) : (bumpBlock s b).blocks = s.blocks := rfl
@[simp] theorem bumpBlock_dram (s : State) (b : Nat) : (bumpBlock s b).dram = s.dram := rfl
@[simp] theorem bumpBlock_trowel (s : State) (b : Nat) : (bumpBlock s b).trowel = s.trowel := rfl
@[simp] theorem bumpBlock_primer (s : State) (b : Nat) : (bumpBlock s b).primer = s.primer := rfl
@[simp] theorem bumpBlock_store (s : State) (b : Nat) : (bumpBlock s b).store = s.store := rfl
@[simp] theorem bumpBlock_reg (s : State) (b : Nat) : (bumpBlock s b).reg = s.reg := rfl
@[simp] theorem bumpBlock_acc (s : State) (b : Nat) : (bumpBlock s b).acc = s.acc := rfl
@[simp] theorem bumpBlock_faults (s : State) (b : Nat) : (bumpBlock s b).faults = s.faults := rfl
@[simp] theorem bumpBlock_heat (s : State) (b : Nat) : (bumpBlock s b).heat = s.heat := rfl
@[simp] theorem bumpBlock_vault (s : State) (b : Nat) : (bumpBlock s b).vault = s.vault := rfl
@[simp] theorem bumpBlock_img (s : State) (b : Nat) : (bumpBlock s b).img = s.img := rfl
@[simp] theorem bumpBlock_cal (s : State) (b : Nat) : (bumpBlock s b).cal = s.cal := rfl
@[simp] theorem bumpBlock_boot (s : State) (b : Nat) : (bumpBlock s b).boot = s.boot := rfl
@[simp] theorem bumpBlock_spdm (s : State) (b : Nat) : (bumpBlock s b).spdm = s.spdm := rfl
@[simp] theorem bumpBlock_mg (s : State) (b : Nat) : (bumpBlock s b).mg = s.mg := rfl
@[simp] theorem bumpBlock_test (s : State) (b : Nat) : (bumpBlock s b).test = s.test := rfl
@[simp] theorem bumpBlock_perf (s : State) (b : Nat) : (bumpBlock s b).perf = s.perf := rfl
@[simp] theorem bumpBlock_tw (s : State) (b : Nat) : (bumpBlock s b).tw = s.tw := rfl

/-! ## tagPut -/

@[simp] theorem tagPut_pending (s : State) (r set way : Nat) (t : Tag6) : (tagPut s r set way t).pending = s.pending := rfl
@[simp] theorem tagPut_now (s : State) (r set way : Nat) (t : Tag6) : (tagPut s r set way t).now = s.now := rfl
@[simp] theorem tagPut_free (s : State) (r set way : Nat) (t : Tag6) : (tagPut s r set way t).free = s.free := rfl
@[simp] theorem tagPut_cfg (s : State) (r set way : Nat) (t : Tag6) : (tagPut s r set way t).cfg = s.cfg := rfl
@[simp] theorem tagPut_pins (s : State) (r set way : Nat) (t : Tag6) : (tagPut s r set way t).pins = s.pins := rfl
@[simp] theorem tagPut_pace (s : State) (r set way : Nat) (t : Tag6) : (tagPut s r set way t).pace = s.pace := rfl
@[simp] theorem tagPut_remap (s : State) (r set way : Nat) (t : Tag6) : (tagPut s r set way t).remap = s.remap := rfl
@[simp] theorem tagPut_wp (s : State) (r set way : Nat) (t : Tag6) : (tagPut s r set way t).wp = s.wp := rfl
@[simp] theorem tagPut_fp (s : State) (r set way : Nat) (t : Tag6) : (tagPut s r set way t).fp = s.fp := rfl
@[simp] theorem tagPut_fab (s : State) (r set way : Nat) (t : Tag6) : (tagPut s r set way t).fab = s.fab := rfl
@[simp] theorem tagPut_tx (s : State) (r set way : Nat) (t : Tag6) : (tagPut s r set way t).tx = s.tx := rfl
@[simp] theorem tagPut_blocks (s : State) (r set way : Nat) (t : Tag6) : (tagPut s r set way t).blocks = s.blocks := rfl
@[simp] theorem tagPut_dram (s : State) (r set way : Nat) (t : Tag6) : (tagPut s r set way t).dram = s.dram := rfl
@[simp] theorem tagPut_trowel (s : State) (r set way : Nat) (t : Tag6) : (tagPut s r set way t).trowel = s.trowel := rfl
@[simp] theorem tagPut_primer (s : State) (r set way : Nat) (t : Tag6) : (tagPut s r set way t).primer = s.primer := rfl
@[simp] theorem tagPut_store (s : State) (r set way : Nat) (t : Tag6) : (tagPut s r set way t).store = s.store := rfl
@[simp] theorem tagPut_reg (s : State) (r set way : Nat) (t : Tag6) : (tagPut s r set way t).reg = s.reg := rfl
@[simp] theorem tagPut_acc (s : State) (r set way : Nat) (t : Tag6) : (tagPut s r set way t).acc = s.acc := rfl
@[simp] theorem tagPut_faults (s : State) (r set way : Nat) (t : Tag6) : (tagPut s r set way t).faults = s.faults := rfl
@[simp] theorem tagPut_heat (s : State) (r set way : Nat) (t : Tag6) : (tagPut s r set way t).heat = s.heat := rfl
@[simp] theorem tagPut_vault (s : State) (r set way : Nat) (t : Tag6) : (tagPut s r set way t).vault = s.vault := rfl
@[simp] theorem tagPut_img (s : State) (r set way : Nat) (t : Tag6) : (tagPut s r set way t).img = s.img := rfl
@[simp] theorem tagPut_cal (s : State) (r set way : Nat) (t : Tag6) : (tagPut s r set way t).cal = s.cal := rfl
@[simp] theorem tagPut_boot (s : State) (r set way : Nat) (t : Tag6) : (tagPut s r set way t).boot = s.boot := rfl
@[simp] theorem tagPut_spdm (s : State) (r set way : Nat) (t : Tag6) : (tagPut s r set way t).spdm = s.spdm := rfl
@[simp] theorem tagPut_mg (s : State) (r set way : Nat) (t : Tag6) : (tagPut s r set way t).mg = s.mg := rfl
@[simp] theorem tagPut_test (s : State) (r set way : Nat) (t : Tag6) : (tagPut s r set way t).test = s.test := rfl
@[simp] theorem tagPut_perf (s : State) (r set way : Nat) (t : Tag6) : (tagPut s r set way t).perf = s.perf := rfl
@[simp] theorem tagPut_tw (s : State) (r set way : Nat) (t : Tag6) : (tagPut s r set way t).tw = s.tw := rfl

/-! ## framePut -/

@[simp] theorem framePut_pending (s : State) (r set way n : Nat) (c : Codeword) : (framePut s r set way n c).pending = s.pending := rfl
@[simp] theorem framePut_now (s : State) (r set way n : Nat) (c : Codeword) : (framePut s r set way n c).now = s.now := rfl
@[simp] theorem framePut_free (s : State) (r set way n : Nat) (c : Codeword) : (framePut s r set way n c).free = s.free := rfl
@[simp] theorem framePut_cfg (s : State) (r set way n : Nat) (c : Codeword) : (framePut s r set way n c).cfg = s.cfg := rfl
@[simp] theorem framePut_pins (s : State) (r set way n : Nat) (c : Codeword) : (framePut s r set way n c).pins = s.pins := rfl
@[simp] theorem framePut_pace (s : State) (r set way n : Nat) (c : Codeword) : (framePut s r set way n c).pace = s.pace := rfl
@[simp] theorem framePut_remap (s : State) (r set way n : Nat) (c : Codeword) : (framePut s r set way n c).remap = s.remap := rfl
@[simp] theorem framePut_wp (s : State) (r set way n : Nat) (c : Codeword) : (framePut s r set way n c).wp = s.wp := rfl
@[simp] theorem framePut_fp (s : State) (r set way n : Nat) (c : Codeword) : (framePut s r set way n c).fp = s.fp := rfl
@[simp] theorem framePut_fab (s : State) (r set way n : Nat) (c : Codeword) : (framePut s r set way n c).fab = s.fab := rfl
@[simp] theorem framePut_tx (s : State) (r set way n : Nat) (c : Codeword) : (framePut s r set way n c).tx = s.tx := rfl
@[simp] theorem framePut_blocks (s : State) (r set way n : Nat) (c : Codeword) : (framePut s r set way n c).blocks = s.blocks := rfl
@[simp] theorem framePut_dram (s : State) (r set way n : Nat) (c : Codeword) : (framePut s r set way n c).dram = s.dram := rfl
@[simp] theorem framePut_trowel (s : State) (r set way n : Nat) (c : Codeword) : (framePut s r set way n c).trowel = s.trowel := rfl
@[simp] theorem framePut_primer (s : State) (r set way n : Nat) (c : Codeword) : (framePut s r set way n c).primer = s.primer := rfl
@[simp] theorem framePut_store (s : State) (r set way n : Nat) (c : Codeword) : (framePut s r set way n c).store = s.store := rfl
@[simp] theorem framePut_reg (s : State) (r set way n : Nat) (c : Codeword) : (framePut s r set way n c).reg = s.reg := rfl
@[simp] theorem framePut_acc (s : State) (r set way n : Nat) (c : Codeword) : (framePut s r set way n c).acc = s.acc := rfl
@[simp] theorem framePut_faults (s : State) (r set way n : Nat) (c : Codeword) : (framePut s r set way n c).faults = s.faults := rfl
@[simp] theorem framePut_heat (s : State) (r set way n : Nat) (c : Codeword) : (framePut s r set way n c).heat = s.heat := rfl
@[simp] theorem framePut_vault (s : State) (r set way n : Nat) (c : Codeword) : (framePut s r set way n c).vault = s.vault := rfl
@[simp] theorem framePut_img (s : State) (r set way n : Nat) (c : Codeword) : (framePut s r set way n c).img = s.img := rfl
@[simp] theorem framePut_cal (s : State) (r set way n : Nat) (c : Codeword) : (framePut s r set way n c).cal = s.cal := rfl
@[simp] theorem framePut_boot (s : State) (r set way n : Nat) (c : Codeword) : (framePut s r set way n c).boot = s.boot := rfl
@[simp] theorem framePut_spdm (s : State) (r set way n : Nat) (c : Codeword) : (framePut s r set way n c).spdm = s.spdm := rfl
@[simp] theorem framePut_mg (s : State) (r set way n : Nat) (c : Codeword) : (framePut s r set way n c).mg = s.mg := rfl
@[simp] theorem framePut_test (s : State) (r set way n : Nat) (c : Codeword) : (framePut s r set way n c).test = s.test := rfl
@[simp] theorem framePut_perf (s : State) (r set way n : Nat) (c : Codeword) : (framePut s r set way n c).perf = s.perf := rfl
@[simp] theorem framePut_tw (s : State) (r set way n : Nat) (c : Codeword) : (framePut s r set way n c).tw = s.tw := rfl

/-! ## shadowPut -/

@[simp] theorem shadowPut_pending (s : State) (r u q n : Nat) (c : Codeword) : (shadowPut s r u q n c).pending = s.pending := rfl
@[simp] theorem shadowPut_now (s : State) (r u q n : Nat) (c : Codeword) : (shadowPut s r u q n c).now = s.now := rfl
@[simp] theorem shadowPut_free (s : State) (r u q n : Nat) (c : Codeword) : (shadowPut s r u q n c).free = s.free := rfl
@[simp] theorem shadowPut_cfg (s : State) (r u q n : Nat) (c : Codeword) : (shadowPut s r u q n c).cfg = s.cfg := rfl
@[simp] theorem shadowPut_pins (s : State) (r u q n : Nat) (c : Codeword) : (shadowPut s r u q n c).pins = s.pins := rfl
@[simp] theorem shadowPut_pace (s : State) (r u q n : Nat) (c : Codeword) : (shadowPut s r u q n c).pace = s.pace := rfl
@[simp] theorem shadowPut_remap (s : State) (r u q n : Nat) (c : Codeword) : (shadowPut s r u q n c).remap = s.remap := rfl
@[simp] theorem shadowPut_wp (s : State) (r u q n : Nat) (c : Codeword) : (shadowPut s r u q n c).wp = s.wp := rfl
@[simp] theorem shadowPut_fp (s : State) (r u q n : Nat) (c : Codeword) : (shadowPut s r u q n c).fp = s.fp := rfl
@[simp] theorem shadowPut_fab (s : State) (r u q n : Nat) (c : Codeword) : (shadowPut s r u q n c).fab = s.fab := rfl
@[simp] theorem shadowPut_tx (s : State) (r u q n : Nat) (c : Codeword) : (shadowPut s r u q n c).tx = s.tx := rfl
@[simp] theorem shadowPut_blocks (s : State) (r u q n : Nat) (c : Codeword) : (shadowPut s r u q n c).blocks = s.blocks := rfl
@[simp] theorem shadowPut_dram (s : State) (r u q n : Nat) (c : Codeword) : (shadowPut s r u q n c).dram = s.dram := rfl
@[simp] theorem shadowPut_trowel (s : State) (r u q n : Nat) (c : Codeword) : (shadowPut s r u q n c).trowel = s.trowel := rfl
@[simp] theorem shadowPut_primer (s : State) (r u q n : Nat) (c : Codeword) : (shadowPut s r u q n c).primer = s.primer := rfl
@[simp] theorem shadowPut_store (s : State) (r u q n : Nat) (c : Codeword) : (shadowPut s r u q n c).store = s.store := rfl
@[simp] theorem shadowPut_reg (s : State) (r u q n : Nat) (c : Codeword) : (shadowPut s r u q n c).reg = s.reg := rfl
@[simp] theorem shadowPut_acc (s : State) (r u q n : Nat) (c : Codeword) : (shadowPut s r u q n c).acc = s.acc := rfl
@[simp] theorem shadowPut_faults (s : State) (r u q n : Nat) (c : Codeword) : (shadowPut s r u q n c).faults = s.faults := rfl
@[simp] theorem shadowPut_heat (s : State) (r u q n : Nat) (c : Codeword) : (shadowPut s r u q n c).heat = s.heat := rfl
@[simp] theorem shadowPut_vault (s : State) (r u q n : Nat) (c : Codeword) : (shadowPut s r u q n c).vault = s.vault := rfl
@[simp] theorem shadowPut_img (s : State) (r u q n : Nat) (c : Codeword) : (shadowPut s r u q n c).img = s.img := rfl
@[simp] theorem shadowPut_cal (s : State) (r u q n : Nat) (c : Codeword) : (shadowPut s r u q n c).cal = s.cal := rfl
@[simp] theorem shadowPut_boot (s : State) (r u q n : Nat) (c : Codeword) : (shadowPut s r u q n c).boot = s.boot := rfl
@[simp] theorem shadowPut_spdm (s : State) (r u q n : Nat) (c : Codeword) : (shadowPut s r u q n c).spdm = s.spdm := rfl
@[simp] theorem shadowPut_mg (s : State) (r u q n : Nat) (c : Codeword) : (shadowPut s r u q n c).mg = s.mg := rfl
@[simp] theorem shadowPut_test (s : State) (r u q n : Nat) (c : Codeword) : (shadowPut s r u q n c).test = s.test := rfl
@[simp] theorem shadowPut_perf (s : State) (r u q n : Nat) (c : Codeword) : (shadowPut s r u q n c).perf = s.perf := rfl
@[simp] theorem shadowPut_tw (s : State) (r u q n : Nat) (c : Codeword) : (shadowPut s r u q n c).tw = s.tw := rfl

/-! ## dramPut -/

@[simp] theorem dramPut_pending (s : State) (pb bank row n : Nat) (c : Codeword) : (dramPut s pb bank row n c).pending = s.pending := rfl
@[simp] theorem dramPut_now (s : State) (pb bank row n : Nat) (c : Codeword) : (dramPut s pb bank row n c).now = s.now := rfl
@[simp] theorem dramPut_free (s : State) (pb bank row n : Nat) (c : Codeword) : (dramPut s pb bank row n c).free = s.free := rfl
@[simp] theorem dramPut_cfg (s : State) (pb bank row n : Nat) (c : Codeword) : (dramPut s pb bank row n c).cfg = s.cfg := rfl
@[simp] theorem dramPut_pins (s : State) (pb bank row n : Nat) (c : Codeword) : (dramPut s pb bank row n c).pins = s.pins := rfl
@[simp] theorem dramPut_pace (s : State) (pb bank row n : Nat) (c : Codeword) : (dramPut s pb bank row n c).pace = s.pace := rfl
@[simp] theorem dramPut_remap (s : State) (pb bank row n : Nat) (c : Codeword) : (dramPut s pb bank row n c).remap = s.remap := rfl
@[simp] theorem dramPut_wp (s : State) (pb bank row n : Nat) (c : Codeword) : (dramPut s pb bank row n c).wp = s.wp := rfl
@[simp] theorem dramPut_fp (s : State) (pb bank row n : Nat) (c : Codeword) : (dramPut s pb bank row n c).fp = s.fp := rfl
@[simp] theorem dramPut_fab (s : State) (pb bank row n : Nat) (c : Codeword) : (dramPut s pb bank row n c).fab = s.fab := rfl
@[simp] theorem dramPut_tx (s : State) (pb bank row n : Nat) (c : Codeword) : (dramPut s pb bank row n c).tx = s.tx := rfl
@[simp] theorem dramPut_uc (s : State) (pb bank row n : Nat) (c : Codeword) : (dramPut s pb bank row n c).uc = s.uc := rfl
@[simp] theorem dramPut_blocks (s : State) (pb bank row n : Nat) (c : Codeword) : (dramPut s pb bank row n c).blocks = s.blocks := rfl
@[simp] theorem dramPut_trowel (s : State) (pb bank row n : Nat) (c : Codeword) : (dramPut s pb bank row n c).trowel = s.trowel := rfl
@[simp] theorem dramPut_primer (s : State) (pb bank row n : Nat) (c : Codeword) : (dramPut s pb bank row n c).primer = s.primer := rfl
@[simp] theorem dramPut_store (s : State) (pb bank row n : Nat) (c : Codeword) : (dramPut s pb bank row n c).store = s.store := rfl
@[simp] theorem dramPut_reg (s : State) (pb bank row n : Nat) (c : Codeword) : (dramPut s pb bank row n c).reg = s.reg := rfl
@[simp] theorem dramPut_acc (s : State) (pb bank row n : Nat) (c : Codeword) : (dramPut s pb bank row n c).acc = s.acc := rfl
@[simp] theorem dramPut_faults (s : State) (pb bank row n : Nat) (c : Codeword) : (dramPut s pb bank row n c).faults = s.faults := rfl
@[simp] theorem dramPut_heat (s : State) (pb bank row n : Nat) (c : Codeword) : (dramPut s pb bank row n c).heat = s.heat := rfl
@[simp] theorem dramPut_vault (s : State) (pb bank row n : Nat) (c : Codeword) : (dramPut s pb bank row n c).vault = s.vault := rfl
@[simp] theorem dramPut_img (s : State) (pb bank row n : Nat) (c : Codeword) : (dramPut s pb bank row n c).img = s.img := rfl
@[simp] theorem dramPut_cal (s : State) (pb bank row n : Nat) (c : Codeword) : (dramPut s pb bank row n c).cal = s.cal := rfl
@[simp] theorem dramPut_boot (s : State) (pb bank row n : Nat) (c : Codeword) : (dramPut s pb bank row n c).boot = s.boot := rfl
@[simp] theorem dramPut_spdm (s : State) (pb bank row n : Nat) (c : Codeword) : (dramPut s pb bank row n c).spdm = s.spdm := rfl
@[simp] theorem dramPut_mg (s : State) (pb bank row n : Nat) (c : Codeword) : (dramPut s pb bank row n c).mg = s.mg := rfl
@[simp] theorem dramPut_test (s : State) (pb bank row n : Nat) (c : Codeword) : (dramPut s pb bank row n c).test = s.test := rfl
@[simp] theorem dramPut_perf (s : State) (pb bank row n : Nat) (c : Codeword) : (dramPut s pb bank row n c).perf = s.perf := rfl
@[simp] theorem dramPut_tw (s : State) (pb bank row n : Nat) (c : Codeword) : (dramPut s pb bank row n c).tw = s.tw := rfl

/-! ## putScrub -/

@[simp] theorem putScrub_pending (s : State) (x : Scrub) : (putScrub s x).pending = s.pending := rfl
@[simp] theorem putScrub_now (s : State) (x : Scrub) : (putScrub s x).now = s.now := rfl
@[simp] theorem putScrub_free (s : State) (x : Scrub) : (putScrub s x).free = s.free := rfl
@[simp] theorem putScrub_cfg (s : State) (x : Scrub) : (putScrub s x).cfg = s.cfg := rfl
@[simp] theorem putScrub_pins (s : State) (x : Scrub) : (putScrub s x).pins = s.pins := rfl
@[simp] theorem putScrub_pace (s : State) (x : Scrub) : (putScrub s x).pace = s.pace := rfl
@[simp] theorem putScrub_remap (s : State) (x : Scrub) : (putScrub s x).remap = s.remap := rfl
@[simp] theorem putScrub_wp (s : State) (x : Scrub) : (putScrub s x).wp = s.wp := rfl
@[simp] theorem putScrub_fp (s : State) (x : Scrub) : (putScrub s x).fp = s.fp := rfl
@[simp] theorem putScrub_fab (s : State) (x : Scrub) : (putScrub s x).fab = s.fab := rfl
@[simp] theorem putScrub_tx (s : State) (x : Scrub) : (putScrub s x).tx = s.tx := rfl
@[simp] theorem putScrub_uc (s : State) (x : Scrub) : (putScrub s x).uc = s.uc := rfl
@[simp] theorem putScrub_blocks (s : State) (x : Scrub) : (putScrub s x).blocks = s.blocks := rfl
@[simp] theorem putScrub_dram (s : State) (x : Scrub) : (putScrub s x).dram = s.dram := rfl
@[simp] theorem putScrub_trowel (s : State) (x : Scrub) : (putScrub s x).trowel = s.trowel := rfl
@[simp] theorem putScrub_primer (s : State) (x : Scrub) : (putScrub s x).primer = s.primer := rfl
@[simp] theorem putScrub_reg (s : State) (x : Scrub) : (putScrub s x).reg = s.reg := rfl
@[simp] theorem putScrub_acc (s : State) (x : Scrub) : (putScrub s x).acc = s.acc := rfl
@[simp] theorem putScrub_faults (s : State) (x : Scrub) : (putScrub s x).faults = s.faults := rfl
@[simp] theorem putScrub_heat (s : State) (x : Scrub) : (putScrub s x).heat = s.heat := rfl
@[simp] theorem putScrub_vault (s : State) (x : Scrub) : (putScrub s x).vault = s.vault := rfl
@[simp] theorem putScrub_img (s : State) (x : Scrub) : (putScrub s x).img = s.img := rfl
@[simp] theorem putScrub_cal (s : State) (x : Scrub) : (putScrub s x).cal = s.cal := rfl
@[simp] theorem putScrub_boot (s : State) (x : Scrub) : (putScrub s x).boot = s.boot := rfl
@[simp] theorem putScrub_spdm (s : State) (x : Scrub) : (putScrub s x).spdm = s.spdm := rfl
@[simp] theorem putScrub_mg (s : State) (x : Scrub) : (putScrub s x).mg = s.mg := rfl
@[simp] theorem putScrub_test (s : State) (x : Scrub) : (putScrub s x).test = s.test := rfl
@[simp] theorem putScrub_perf (s : State) (x : Scrub) : (putScrub s x).perf = s.perf := rfl
@[simp] theorem putScrub_tw (s : State) (x : Scrub) : (putScrub s x).tw = s.tw := rfl

/-! ## modWp -/

@[simp] theorem modWp_pending (s : State) (f : WidePort → WidePort) : (modWp s f).pending = s.pending := rfl
@[simp] theorem modWp_now (s : State) (f : WidePort → WidePort) : (modWp s f).now = s.now := rfl
@[simp] theorem modWp_free (s : State) (f : WidePort → WidePort) : (modWp s f).free = s.free := rfl
@[simp] theorem modWp_cfg (s : State) (f : WidePort → WidePort) : (modWp s f).cfg = s.cfg := rfl
@[simp] theorem modWp_pins (s : State) (f : WidePort → WidePort) : (modWp s f).pins = s.pins := rfl
@[simp] theorem modWp_pace (s : State) (f : WidePort → WidePort) : (modWp s f).pace = s.pace := rfl
@[simp] theorem modWp_remap (s : State) (f : WidePort → WidePort) : (modWp s f).remap = s.remap := rfl
@[simp] theorem modWp_fp (s : State) (f : WidePort → WidePort) : (modWp s f).fp = s.fp := rfl
@[simp] theorem modWp_fab (s : State) (f : WidePort → WidePort) : (modWp s f).fab = s.fab := rfl
@[simp] theorem modWp_tx (s : State) (f : WidePort → WidePort) : (modWp s f).tx = s.tx := rfl
@[simp] theorem modWp_uc (s : State) (f : WidePort → WidePort) : (modWp s f).uc = s.uc := rfl
@[simp] theorem modWp_blocks (s : State) (f : WidePort → WidePort) : (modWp s f).blocks = s.blocks := rfl
@[simp] theorem modWp_dram (s : State) (f : WidePort → WidePort) : (modWp s f).dram = s.dram := rfl
@[simp] theorem modWp_trowel (s : State) (f : WidePort → WidePort) : (modWp s f).trowel = s.trowel := rfl
@[simp] theorem modWp_primer (s : State) (f : WidePort → WidePort) : (modWp s f).primer = s.primer := rfl
@[simp] theorem modWp_store (s : State) (f : WidePort → WidePort) : (modWp s f).store = s.store := rfl
@[simp] theorem modWp_reg (s : State) (f : WidePort → WidePort) : (modWp s f).reg = s.reg := rfl
@[simp] theorem modWp_acc (s : State) (f : WidePort → WidePort) : (modWp s f).acc = s.acc := rfl
@[simp] theorem modWp_faults (s : State) (f : WidePort → WidePort) : (modWp s f).faults = s.faults := rfl
@[simp] theorem modWp_heat (s : State) (f : WidePort → WidePort) : (modWp s f).heat = s.heat := rfl
@[simp] theorem modWp_vault (s : State) (f : WidePort → WidePort) : (modWp s f).vault = s.vault := rfl
@[simp] theorem modWp_img (s : State) (f : WidePort → WidePort) : (modWp s f).img = s.img := rfl
@[simp] theorem modWp_cal (s : State) (f : WidePort → WidePort) : (modWp s f).cal = s.cal := rfl
@[simp] theorem modWp_boot (s : State) (f : WidePort → WidePort) : (modWp s f).boot = s.boot := rfl
@[simp] theorem modWp_spdm (s : State) (f : WidePort → WidePort) : (modWp s f).spdm = s.spdm := rfl
@[simp] theorem modWp_mg (s : State) (f : WidePort → WidePort) : (modWp s f).mg = s.mg := rfl
@[simp] theorem modWp_test (s : State) (f : WidePort → WidePort) : (modWp s f).test = s.test := rfl
@[simp] theorem modWp_perf (s : State) (f : WidePort → WidePort) : (modWp s f).perf = s.perf := rfl
@[simp] theorem modWp_tw (s : State) (f : WidePort → WidePort) : (modWp s f).tw = s.tw := rfl

/-! ## ucRegPut -/

@[simp] theorem ucRegPut_pending (s : State) (r : Nat) (x : UcRegion) : (ucRegPut s r x).pending = s.pending := rfl
@[simp] theorem ucRegPut_now (s : State) (r : Nat) (x : UcRegion) : (ucRegPut s r x).now = s.now := rfl
@[simp] theorem ucRegPut_free (s : State) (r : Nat) (x : UcRegion) : (ucRegPut s r x).free = s.free := rfl
@[simp] theorem ucRegPut_cfg (s : State) (r : Nat) (x : UcRegion) : (ucRegPut s r x).cfg = s.cfg := rfl
@[simp] theorem ucRegPut_pins (s : State) (r : Nat) (x : UcRegion) : (ucRegPut s r x).pins = s.pins := rfl
@[simp] theorem ucRegPut_pace (s : State) (r : Nat) (x : UcRegion) : (ucRegPut s r x).pace = s.pace := rfl
@[simp] theorem ucRegPut_remap (s : State) (r : Nat) (x : UcRegion) : (ucRegPut s r x).remap = s.remap := rfl
@[simp] theorem ucRegPut_wp (s : State) (r : Nat) (x : UcRegion) : (ucRegPut s r x).wp = s.wp := rfl
@[simp] theorem ucRegPut_fp (s : State) (r : Nat) (x : UcRegion) : (ucRegPut s r x).fp = s.fp := rfl
@[simp] theorem ucRegPut_fab (s : State) (r : Nat) (x : UcRegion) : (ucRegPut s r x).fab = s.fab := rfl
@[simp] theorem ucRegPut_tx (s : State) (r : Nat) (x : UcRegion) : (ucRegPut s r x).tx = s.tx := rfl
@[simp] theorem ucRegPut_blocks (s : State) (r : Nat) (x : UcRegion) : (ucRegPut s r x).blocks = s.blocks := rfl
@[simp] theorem ucRegPut_dram (s : State) (r : Nat) (x : UcRegion) : (ucRegPut s r x).dram = s.dram := rfl
@[simp] theorem ucRegPut_trowel (s : State) (r : Nat) (x : UcRegion) : (ucRegPut s r x).trowel = s.trowel := rfl
@[simp] theorem ucRegPut_primer (s : State) (r : Nat) (x : UcRegion) : (ucRegPut s r x).primer = s.primer := rfl
@[simp] theorem ucRegPut_store (s : State) (r : Nat) (x : UcRegion) : (ucRegPut s r x).store = s.store := rfl
@[simp] theorem ucRegPut_reg (s : State) (r : Nat) (x : UcRegion) : (ucRegPut s r x).reg = s.reg := rfl
@[simp] theorem ucRegPut_acc (s : State) (r : Nat) (x : UcRegion) : (ucRegPut s r x).acc = s.acc := rfl
@[simp] theorem ucRegPut_faults (s : State) (r : Nat) (x : UcRegion) : (ucRegPut s r x).faults = s.faults := rfl
@[simp] theorem ucRegPut_heat (s : State) (r : Nat) (x : UcRegion) : (ucRegPut s r x).heat = s.heat := rfl
@[simp] theorem ucRegPut_vault (s : State) (r : Nat) (x : UcRegion) : (ucRegPut s r x).vault = s.vault := rfl
@[simp] theorem ucRegPut_img (s : State) (r : Nat) (x : UcRegion) : (ucRegPut s r x).img = s.img := rfl
@[simp] theorem ucRegPut_cal (s : State) (r : Nat) (x : UcRegion) : (ucRegPut s r x).cal = s.cal := rfl
@[simp] theorem ucRegPut_boot (s : State) (r : Nat) (x : UcRegion) : (ucRegPut s r x).boot = s.boot := rfl
@[simp] theorem ucRegPut_spdm (s : State) (r : Nat) (x : UcRegion) : (ucRegPut s r x).spdm = s.spdm := rfl
@[simp] theorem ucRegPut_mg (s : State) (r : Nat) (x : UcRegion) : (ucRegPut s r x).mg = s.mg := rfl
@[simp] theorem ucRegPut_test (s : State) (r : Nat) (x : UcRegion) : (ucRegPut s r x).test = s.test := rfl
@[simp] theorem ucRegPut_perf (s : State) (r : Nat) (x : UcRegion) : (ucRegPut s r x).perf = s.perf := rfl
@[simp] theorem ucRegPut_tw (s : State) (r : Nat) (x : UcRegion) : (ucRegPut s r x).tw = s.tw := rfl

/-! ## modBlk -/

@[simp] theorem modBlk_pending (s : State) (b : Nat) (f : Block → Block) : (modBlk s b f).pending = s.pending := rfl
@[simp] theorem modBlk_now (s : State) (b : Nat) (f : Block → Block) : (modBlk s b f).now = s.now := rfl
@[simp] theorem modBlk_free (s : State) (b : Nat) (f : Block → Block) : (modBlk s b f).free = s.free := rfl
@[simp] theorem modBlk_cfg (s : State) (b : Nat) (f : Block → Block) : (modBlk s b f).cfg = s.cfg := rfl
@[simp] theorem modBlk_pins (s : State) (b : Nat) (f : Block → Block) : (modBlk s b f).pins = s.pins := rfl
@[simp] theorem modBlk_pace (s : State) (b : Nat) (f : Block → Block) : (modBlk s b f).pace = s.pace := rfl
@[simp] theorem modBlk_remap (s : State) (b : Nat) (f : Block → Block) : (modBlk s b f).remap = s.remap := rfl
@[simp] theorem modBlk_wp (s : State) (b : Nat) (f : Block → Block) : (modBlk s b f).wp = s.wp := rfl
@[simp] theorem modBlk_fp (s : State) (b : Nat) (f : Block → Block) : (modBlk s b f).fp = s.fp := rfl
@[simp] theorem modBlk_fab (s : State) (b : Nat) (f : Block → Block) : (modBlk s b f).fab = s.fab := rfl
@[simp] theorem modBlk_tx (s : State) (b : Nat) (f : Block → Block) : (modBlk s b f).tx = s.tx := rfl
@[simp] theorem modBlk_uc (s : State) (b : Nat) (f : Block → Block) : (modBlk s b f).uc = s.uc := rfl
@[simp] theorem modBlk_dram (s : State) (b : Nat) (f : Block → Block) : (modBlk s b f).dram = s.dram := rfl
@[simp] theorem modBlk_trowel (s : State) (b : Nat) (f : Block → Block) : (modBlk s b f).trowel = s.trowel := rfl
@[simp] theorem modBlk_primer (s : State) (b : Nat) (f : Block → Block) : (modBlk s b f).primer = s.primer := rfl
@[simp] theorem modBlk_store (s : State) (b : Nat) (f : Block → Block) : (modBlk s b f).store = s.store := rfl
@[simp] theorem modBlk_reg (s : State) (b : Nat) (f : Block → Block) : (modBlk s b f).reg = s.reg := rfl
@[simp] theorem modBlk_acc (s : State) (b : Nat) (f : Block → Block) : (modBlk s b f).acc = s.acc := rfl
@[simp] theorem modBlk_faults (s : State) (b : Nat) (f : Block → Block) : (modBlk s b f).faults = s.faults := rfl
@[simp] theorem modBlk_heat (s : State) (b : Nat) (f : Block → Block) : (modBlk s b f).heat = s.heat := rfl
@[simp] theorem modBlk_vault (s : State) (b : Nat) (f : Block → Block) : (modBlk s b f).vault = s.vault := rfl
@[simp] theorem modBlk_img (s : State) (b : Nat) (f : Block → Block) : (modBlk s b f).img = s.img := rfl
@[simp] theorem modBlk_cal (s : State) (b : Nat) (f : Block → Block) : (modBlk s b f).cal = s.cal := rfl
@[simp] theorem modBlk_boot (s : State) (b : Nat) (f : Block → Block) : (modBlk s b f).boot = s.boot := rfl
@[simp] theorem modBlk_spdm (s : State) (b : Nat) (f : Block → Block) : (modBlk s b f).spdm = s.spdm := rfl
@[simp] theorem modBlk_mg (s : State) (b : Nat) (f : Block → Block) : (modBlk s b f).mg = s.mg := rfl
@[simp] theorem modBlk_test (s : State) (b : Nat) (f : Block → Block) : (modBlk s b f).test = s.test := rfl
@[simp] theorem modBlk_perf (s : State) (b : Nat) (f : Block → Block) : (modBlk s b f).perf = s.perf := rfl
@[simp] theorem modBlk_tw (s : State) (b : Nat) (f : Block → Block) : (modBlk s b f).tw = s.tw := rfl

/-! ## modPort -/

@[simp] theorem modPort_pending (s : State) (p : Nat) (f : FabPort → FabPort) : (modPort s p f).pending = s.pending := rfl
@[simp] theorem modPort_now (s : State) (p : Nat) (f : FabPort → FabPort) : (modPort s p f).now = s.now := rfl
@[simp] theorem modPort_free (s : State) (p : Nat) (f : FabPort → FabPort) : (modPort s p f).free = s.free := rfl
@[simp] theorem modPort_cfg (s : State) (p : Nat) (f : FabPort → FabPort) : (modPort s p f).cfg = s.cfg := rfl
@[simp] theorem modPort_pins (s : State) (p : Nat) (f : FabPort → FabPort) : (modPort s p f).pins = s.pins := rfl
@[simp] theorem modPort_pace (s : State) (p : Nat) (f : FabPort → FabPort) : (modPort s p f).pace = s.pace := rfl
@[simp] theorem modPort_remap (s : State) (p : Nat) (f : FabPort → FabPort) : (modPort s p f).remap = s.remap := rfl
@[simp] theorem modPort_wp (s : State) (p : Nat) (f : FabPort → FabPort) : (modPort s p f).wp = s.wp := rfl
@[simp] theorem modPort_fab (s : State) (p : Nat) (f : FabPort → FabPort) : (modPort s p f).fab = s.fab := rfl
@[simp] theorem modPort_tx (s : State) (p : Nat) (f : FabPort → FabPort) : (modPort s p f).tx = s.tx := rfl
@[simp] theorem modPort_uc (s : State) (p : Nat) (f : FabPort → FabPort) : (modPort s p f).uc = s.uc := rfl
@[simp] theorem modPort_blocks (s : State) (p : Nat) (f : FabPort → FabPort) : (modPort s p f).blocks = s.blocks := rfl
@[simp] theorem modPort_dram (s : State) (p : Nat) (f : FabPort → FabPort) : (modPort s p f).dram = s.dram := rfl
@[simp] theorem modPort_trowel (s : State) (p : Nat) (f : FabPort → FabPort) : (modPort s p f).trowel = s.trowel := rfl
@[simp] theorem modPort_primer (s : State) (p : Nat) (f : FabPort → FabPort) : (modPort s p f).primer = s.primer := rfl
@[simp] theorem modPort_store (s : State) (p : Nat) (f : FabPort → FabPort) : (modPort s p f).store = s.store := rfl
@[simp] theorem modPort_reg (s : State) (p : Nat) (f : FabPort → FabPort) : (modPort s p f).reg = s.reg := rfl
@[simp] theorem modPort_acc (s : State) (p : Nat) (f : FabPort → FabPort) : (modPort s p f).acc = s.acc := rfl
@[simp] theorem modPort_faults (s : State) (p : Nat) (f : FabPort → FabPort) : (modPort s p f).faults = s.faults := rfl
@[simp] theorem modPort_heat (s : State) (p : Nat) (f : FabPort → FabPort) : (modPort s p f).heat = s.heat := rfl
@[simp] theorem modPort_vault (s : State) (p : Nat) (f : FabPort → FabPort) : (modPort s p f).vault = s.vault := rfl
@[simp] theorem modPort_img (s : State) (p : Nat) (f : FabPort → FabPort) : (modPort s p f).img = s.img := rfl
@[simp] theorem modPort_cal (s : State) (p : Nat) (f : FabPort → FabPort) : (modPort s p f).cal = s.cal := rfl
@[simp] theorem modPort_boot (s : State) (p : Nat) (f : FabPort → FabPort) : (modPort s p f).boot = s.boot := rfl
@[simp] theorem modPort_spdm (s : State) (p : Nat) (f : FabPort → FabPort) : (modPort s p f).spdm = s.spdm := rfl
@[simp] theorem modPort_mg (s : State) (p : Nat) (f : FabPort → FabPort) : (modPort s p f).mg = s.mg := rfl
@[simp] theorem modPort_test (s : State) (p : Nat) (f : FabPort → FabPort) : (modPort s p f).test = s.test := rfl
@[simp] theorem modPort_perf (s : State) (p : Nat) (f : FabPort → FabPort) : (modPort s p f).perf = s.perf := rfl
@[simp] theorem modPort_tw (s : State) (p : Nat) (f : FabPort → FabPort) : (modPort s p f).tw = s.tw := rfl

/-! ## modRun -/

@[simp] theorem modRun_pending (s : State) (i : Nat) (f : TestRun → TestRun) : (modRun s i f).pending = s.pending := rfl
@[simp] theorem modRun_now (s : State) (i : Nat) (f : TestRun → TestRun) : (modRun s i f).now = s.now := rfl
@[simp] theorem modRun_free (s : State) (i : Nat) (f : TestRun → TestRun) : (modRun s i f).free = s.free := rfl
@[simp] theorem modRun_cfg (s : State) (i : Nat) (f : TestRun → TestRun) : (modRun s i f).cfg = s.cfg := rfl
@[simp] theorem modRun_pins (s : State) (i : Nat) (f : TestRun → TestRun) : (modRun s i f).pins = s.pins := rfl
@[simp] theorem modRun_pace (s : State) (i : Nat) (f : TestRun → TestRun) : (modRun s i f).pace = s.pace := rfl
@[simp] theorem modRun_remap (s : State) (i : Nat) (f : TestRun → TestRun) : (modRun s i f).remap = s.remap := rfl
@[simp] theorem modRun_wp (s : State) (i : Nat) (f : TestRun → TestRun) : (modRun s i f).wp = s.wp := rfl
@[simp] theorem modRun_fp (s : State) (i : Nat) (f : TestRun → TestRun) : (modRun s i f).fp = s.fp := rfl
@[simp] theorem modRun_fab (s : State) (i : Nat) (f : TestRun → TestRun) : (modRun s i f).fab = s.fab := rfl
@[simp] theorem modRun_tx (s : State) (i : Nat) (f : TestRun → TestRun) : (modRun s i f).tx = s.tx := rfl
@[simp] theorem modRun_uc (s : State) (i : Nat) (f : TestRun → TestRun) : (modRun s i f).uc = s.uc := rfl
@[simp] theorem modRun_blocks (s : State) (i : Nat) (f : TestRun → TestRun) : (modRun s i f).blocks = s.blocks := rfl
@[simp] theorem modRun_dram (s : State) (i : Nat) (f : TestRun → TestRun) : (modRun s i f).dram = s.dram := rfl
@[simp] theorem modRun_trowel (s : State) (i : Nat) (f : TestRun → TestRun) : (modRun s i f).trowel = s.trowel := rfl
@[simp] theorem modRun_primer (s : State) (i : Nat) (f : TestRun → TestRun) : (modRun s i f).primer = s.primer := rfl
@[simp] theorem modRun_store (s : State) (i : Nat) (f : TestRun → TestRun) : (modRun s i f).store = s.store := rfl
@[simp] theorem modRun_reg (s : State) (i : Nat) (f : TestRun → TestRun) : (modRun s i f).reg = s.reg := rfl
@[simp] theorem modRun_acc (s : State) (i : Nat) (f : TestRun → TestRun) : (modRun s i f).acc = s.acc := rfl
@[simp] theorem modRun_faults (s : State) (i : Nat) (f : TestRun → TestRun) : (modRun s i f).faults = s.faults := rfl
@[simp] theorem modRun_heat (s : State) (i : Nat) (f : TestRun → TestRun) : (modRun s i f).heat = s.heat := rfl
@[simp] theorem modRun_vault (s : State) (i : Nat) (f : TestRun → TestRun) : (modRun s i f).vault = s.vault := rfl
@[simp] theorem modRun_img (s : State) (i : Nat) (f : TestRun → TestRun) : (modRun s i f).img = s.img := rfl
@[simp] theorem modRun_cal (s : State) (i : Nat) (f : TestRun → TestRun) : (modRun s i f).cal = s.cal := rfl
@[simp] theorem modRun_boot (s : State) (i : Nat) (f : TestRun → TestRun) : (modRun s i f).boot = s.boot := rfl
@[simp] theorem modRun_spdm (s : State) (i : Nat) (f : TestRun → TestRun) : (modRun s i f).spdm = s.spdm := rfl
@[simp] theorem modRun_mg (s : State) (i : Nat) (f : TestRun → TestRun) : (modRun s i f).mg = s.mg := rfl
@[simp] theorem modRun_perf (s : State) (i : Nat) (f : TestRun → TestRun) : (modRun s i f).perf = s.perf := rfl
@[simp] theorem modRun_tw (s : State) (i : Nat) (f : TestRun → TestRun) : (modRun s i f).tw = s.tw := rfl

/-! ## modCtx -/

@[simp] theorem modCtx_pending (s : State) (i : Nat) (f : Ctx → Ctx) : (modCtx s i f).pending = s.pending := rfl
@[simp] theorem modCtx_now (s : State) (i : Nat) (f : Ctx → Ctx) : (modCtx s i f).now = s.now := rfl
@[simp] theorem modCtx_free (s : State) (i : Nat) (f : Ctx → Ctx) : (modCtx s i f).free = s.free := rfl
@[simp] theorem modCtx_cfg (s : State) (i : Nat) (f : Ctx → Ctx) : (modCtx s i f).cfg = s.cfg := rfl
@[simp] theorem modCtx_pins (s : State) (i : Nat) (f : Ctx → Ctx) : (modCtx s i f).pins = s.pins := rfl
@[simp] theorem modCtx_pace (s : State) (i : Nat) (f : Ctx → Ctx) : (modCtx s i f).pace = s.pace := rfl
@[simp] theorem modCtx_remap (s : State) (i : Nat) (f : Ctx → Ctx) : (modCtx s i f).remap = s.remap := rfl
@[simp] theorem modCtx_wp (s : State) (i : Nat) (f : Ctx → Ctx) : (modCtx s i f).wp = s.wp := rfl
@[simp] theorem modCtx_fp (s : State) (i : Nat) (f : Ctx → Ctx) : (modCtx s i f).fp = s.fp := rfl
@[simp] theorem modCtx_fab (s : State) (i : Nat) (f : Ctx → Ctx) : (modCtx s i f).fab = s.fab := rfl
@[simp] theorem modCtx_uc (s : State) (i : Nat) (f : Ctx → Ctx) : (modCtx s i f).uc = s.uc := rfl
@[simp] theorem modCtx_blocks (s : State) (i : Nat) (f : Ctx → Ctx) : (modCtx s i f).blocks = s.blocks := rfl
@[simp] theorem modCtx_dram (s : State) (i : Nat) (f : Ctx → Ctx) : (modCtx s i f).dram = s.dram := rfl
@[simp] theorem modCtx_trowel (s : State) (i : Nat) (f : Ctx → Ctx) : (modCtx s i f).trowel = s.trowel := rfl
@[simp] theorem modCtx_primer (s : State) (i : Nat) (f : Ctx → Ctx) : (modCtx s i f).primer = s.primer := rfl
@[simp] theorem modCtx_store (s : State) (i : Nat) (f : Ctx → Ctx) : (modCtx s i f).store = s.store := rfl
@[simp] theorem modCtx_reg (s : State) (i : Nat) (f : Ctx → Ctx) : (modCtx s i f).reg = s.reg := rfl
@[simp] theorem modCtx_acc (s : State) (i : Nat) (f : Ctx → Ctx) : (modCtx s i f).acc = s.acc := rfl
@[simp] theorem modCtx_faults (s : State) (i : Nat) (f : Ctx → Ctx) : (modCtx s i f).faults = s.faults := rfl
@[simp] theorem modCtx_heat (s : State) (i : Nat) (f : Ctx → Ctx) : (modCtx s i f).heat = s.heat := rfl
@[simp] theorem modCtx_vault (s : State) (i : Nat) (f : Ctx → Ctx) : (modCtx s i f).vault = s.vault := rfl
@[simp] theorem modCtx_img (s : State) (i : Nat) (f : Ctx → Ctx) : (modCtx s i f).img = s.img := rfl
@[simp] theorem modCtx_cal (s : State) (i : Nat) (f : Ctx → Ctx) : (modCtx s i f).cal = s.cal := rfl
@[simp] theorem modCtx_boot (s : State) (i : Nat) (f : Ctx → Ctx) : (modCtx s i f).boot = s.boot := rfl
@[simp] theorem modCtx_spdm (s : State) (i : Nat) (f : Ctx → Ctx) : (modCtx s i f).spdm = s.spdm := rfl
@[simp] theorem modCtx_mg (s : State) (i : Nat) (f : Ctx → Ctx) : (modCtx s i f).mg = s.mg := rfl
@[simp] theorem modCtx_test (s : State) (i : Nat) (f : Ctx → Ctx) : (modCtx s i f).test = s.test := rfl
@[simp] theorem modCtx_perf (s : State) (i : Nat) (f : Ctx → Ctx) : (modCtx s i f).perf = s.perf := rfl
@[simp] theorem modCtx_tw (s : State) (i : Nat) (f : Ctx → Ctx) : (modCtx s i f).tw = s.tw := rfl

/-! ## countLines -/

@[simp] theorem countLines_pending (s : State) (r n : Nat) : (countLines s r n).pending = s.pending := rfl
@[simp] theorem countLines_now (s : State) (r n : Nat) : (countLines s r n).now = s.now := rfl
@[simp] theorem countLines_free (s : State) (r n : Nat) : (countLines s r n).free = s.free := rfl
@[simp] theorem countLines_cfg (s : State) (r n : Nat) : (countLines s r n).cfg = s.cfg := rfl
@[simp] theorem countLines_pins (s : State) (r n : Nat) : (countLines s r n).pins = s.pins := rfl
@[simp] theorem countLines_pace (s : State) (r n : Nat) : (countLines s r n).pace = s.pace := rfl
@[simp] theorem countLines_remap (s : State) (r n : Nat) : (countLines s r n).remap = s.remap := rfl
@[simp] theorem countLines_wp (s : State) (r n : Nat) : (countLines s r n).wp = s.wp := rfl
@[simp] theorem countLines_fp (s : State) (r n : Nat) : (countLines s r n).fp = s.fp := rfl
@[simp] theorem countLines_fab (s : State) (r n : Nat) : (countLines s r n).fab = s.fab := rfl
@[simp] theorem countLines_tx (s : State) (r n : Nat) : (countLines s r n).tx = s.tx := rfl
@[simp] theorem countLines_uc (s : State) (r n : Nat) : (countLines s r n).uc = s.uc := rfl
@[simp] theorem countLines_blocks (s : State) (r n : Nat) : (countLines s r n).blocks = s.blocks := rfl
@[simp] theorem countLines_dram (s : State) (r n : Nat) : (countLines s r n).dram = s.dram := rfl
@[simp] theorem countLines_trowel (s : State) (r n : Nat) : (countLines s r n).trowel = s.trowel := rfl
@[simp] theorem countLines_primer (s : State) (r n : Nat) : (countLines s r n).primer = s.primer := rfl
@[simp] theorem countLines_store (s : State) (r n : Nat) : (countLines s r n).store = s.store := rfl
@[simp] theorem countLines_reg (s : State) (r n : Nat) : (countLines s r n).reg = s.reg := rfl
@[simp] theorem countLines_acc (s : State) (r n : Nat) : (countLines s r n).acc = s.acc := rfl
@[simp] theorem countLines_faults (s : State) (r n : Nat) : (countLines s r n).faults = s.faults := rfl
@[simp] theorem countLines_vault (s : State) (r n : Nat) : (countLines s r n).vault = s.vault := rfl
@[simp] theorem countLines_img (s : State) (r n : Nat) : (countLines s r n).img = s.img := rfl
@[simp] theorem countLines_cal (s : State) (r n : Nat) : (countLines s r n).cal = s.cal := rfl
@[simp] theorem countLines_boot (s : State) (r n : Nat) : (countLines s r n).boot = s.boot := rfl
@[simp] theorem countLines_spdm (s : State) (r n : Nat) : (countLines s r n).spdm = s.spdm := rfl
@[simp] theorem countLines_mg (s : State) (r n : Nat) : (countLines s r n).mg = s.mg := rfl
@[simp] theorem countLines_test (s : State) (r n : Nat) : (countLines s r n).test = s.test := rfl
@[simp] theorem countLines_perf (s : State) (r n : Nat) : (countLines s r n).perf = s.perf := rfl
@[simp] theorem countLines_tw (s : State) (r n : Nat) : (countLines s r n).tw = s.tw := rfl

/-! ## takeResv -/

@[simp] theorem takeResv_pending (s : State) (b n : Nat) : (takeResv s b n).pending = s.pending := rfl
@[simp] theorem takeResv_now (s : State) (b n : Nat) : (takeResv s b n).now = s.now := rfl
@[simp] theorem takeResv_free (s : State) (b n : Nat) : (takeResv s b n).free = s.free := rfl
@[simp] theorem takeResv_cfg (s : State) (b n : Nat) : (takeResv s b n).cfg = s.cfg := rfl
@[simp] theorem takeResv_pins (s : State) (b n : Nat) : (takeResv s b n).pins = s.pins := rfl
@[simp] theorem takeResv_pace (s : State) (b n : Nat) : (takeResv s b n).pace = s.pace := rfl
@[simp] theorem takeResv_remap (s : State) (b n : Nat) : (takeResv s b n).remap = s.remap := rfl
@[simp] theorem takeResv_wp (s : State) (b n : Nat) : (takeResv s b n).wp = s.wp := rfl
@[simp] theorem takeResv_fp (s : State) (b n : Nat) : (takeResv s b n).fp = s.fp := rfl
@[simp] theorem takeResv_fab (s : State) (b n : Nat) : (takeResv s b n).fab = s.fab := rfl
@[simp] theorem takeResv_tx (s : State) (b n : Nat) : (takeResv s b n).tx = s.tx := rfl
@[simp] theorem takeResv_uc (s : State) (b n : Nat) : (takeResv s b n).uc = s.uc := rfl
@[simp] theorem takeResv_dram (s : State) (b n : Nat) : (takeResv s b n).dram = s.dram := rfl
@[simp] theorem takeResv_trowel (s : State) (b n : Nat) : (takeResv s b n).trowel = s.trowel := rfl
@[simp] theorem takeResv_primer (s : State) (b n : Nat) : (takeResv s b n).primer = s.primer := rfl
@[simp] theorem takeResv_store (s : State) (b n : Nat) : (takeResv s b n).store = s.store := rfl
@[simp] theorem takeResv_reg (s : State) (b n : Nat) : (takeResv s b n).reg = s.reg := rfl
@[simp] theorem takeResv_acc (s : State) (b n : Nat) : (takeResv s b n).acc = s.acc := rfl
@[simp] theorem takeResv_faults (s : State) (b n : Nat) : (takeResv s b n).faults = s.faults := rfl
@[simp] theorem takeResv_heat (s : State) (b n : Nat) : (takeResv s b n).heat = s.heat := rfl
@[simp] theorem takeResv_vault (s : State) (b n : Nat) : (takeResv s b n).vault = s.vault := rfl
@[simp] theorem takeResv_img (s : State) (b n : Nat) : (takeResv s b n).img = s.img := rfl
@[simp] theorem takeResv_cal (s : State) (b n : Nat) : (takeResv s b n).cal = s.cal := rfl
@[simp] theorem takeResv_boot (s : State) (b n : Nat) : (takeResv s b n).boot = s.boot := rfl
@[simp] theorem takeResv_spdm (s : State) (b n : Nat) : (takeResv s b n).spdm = s.spdm := rfl
@[simp] theorem takeResv_mg (s : State) (b n : Nat) : (takeResv s b n).mg = s.mg := rfl
@[simp] theorem takeResv_test (s : State) (b n : Nat) : (takeResv s b n).test = s.test := rfl
@[simp] theorem takeResv_perf (s : State) (b n : Nat) : (takeResv s b n).perf = s.perf := rfl
@[simp] theorem takeResv_tw (s : State) (b n : Nat) : (takeResv s b n).tw = s.tw := rfl

/-! ## setOp -/

@[simp] theorem setOp_pending (s : State) (i : Nat) (f : BulkOp → BulkOp) : (setOp s i f).pending = s.pending := rfl
@[simp] theorem setOp_now (s : State) (i : Nat) (f : BulkOp → BulkOp) : (setOp s i f).now = s.now := rfl
@[simp] theorem setOp_free (s : State) (i : Nat) (f : BulkOp → BulkOp) : (setOp s i f).free = s.free := rfl
@[simp] theorem setOp_cfg (s : State) (i : Nat) (f : BulkOp → BulkOp) : (setOp s i f).cfg = s.cfg := rfl
@[simp] theorem setOp_pins (s : State) (i : Nat) (f : BulkOp → BulkOp) : (setOp s i f).pins = s.pins := rfl
@[simp] theorem setOp_pace (s : State) (i : Nat) (f : BulkOp → BulkOp) : (setOp s i f).pace = s.pace := rfl
@[simp] theorem setOp_remap (s : State) (i : Nat) (f : BulkOp → BulkOp) : (setOp s i f).remap = s.remap := rfl
@[simp] theorem setOp_wp (s : State) (i : Nat) (f : BulkOp → BulkOp) : (setOp s i f).wp = s.wp := rfl
@[simp] theorem setOp_fp (s : State) (i : Nat) (f : BulkOp → BulkOp) : (setOp s i f).fp = s.fp := rfl
@[simp] theorem setOp_fab (s : State) (i : Nat) (f : BulkOp → BulkOp) : (setOp s i f).fab = s.fab := rfl
@[simp] theorem setOp_tx (s : State) (i : Nat) (f : BulkOp → BulkOp) : (setOp s i f).tx = s.tx := rfl
@[simp] theorem setOp_uc (s : State) (i : Nat) (f : BulkOp → BulkOp) : (setOp s i f).uc = s.uc := rfl
@[simp] theorem setOp_blocks (s : State) (i : Nat) (f : BulkOp → BulkOp) : (setOp s i f).blocks = s.blocks := rfl
@[simp] theorem setOp_dram (s : State) (i : Nat) (f : BulkOp → BulkOp) : (setOp s i f).dram = s.dram := rfl
@[simp] theorem setOp_primer (s : State) (i : Nat) (f : BulkOp → BulkOp) : (setOp s i f).primer = s.primer := rfl
@[simp] theorem setOp_store (s : State) (i : Nat) (f : BulkOp → BulkOp) : (setOp s i f).store = s.store := rfl
@[simp] theorem setOp_reg (s : State) (i : Nat) (f : BulkOp → BulkOp) : (setOp s i f).reg = s.reg := rfl
@[simp] theorem setOp_acc (s : State) (i : Nat) (f : BulkOp → BulkOp) : (setOp s i f).acc = s.acc := rfl
@[simp] theorem setOp_faults (s : State) (i : Nat) (f : BulkOp → BulkOp) : (setOp s i f).faults = s.faults := rfl
@[simp] theorem setOp_heat (s : State) (i : Nat) (f : BulkOp → BulkOp) : (setOp s i f).heat = s.heat := rfl
@[simp] theorem setOp_vault (s : State) (i : Nat) (f : BulkOp → BulkOp) : (setOp s i f).vault = s.vault := rfl
@[simp] theorem setOp_img (s : State) (i : Nat) (f : BulkOp → BulkOp) : (setOp s i f).img = s.img := rfl
@[simp] theorem setOp_cal (s : State) (i : Nat) (f : BulkOp → BulkOp) : (setOp s i f).cal = s.cal := rfl
@[simp] theorem setOp_boot (s : State) (i : Nat) (f : BulkOp → BulkOp) : (setOp s i f).boot = s.boot := rfl
@[simp] theorem setOp_spdm (s : State) (i : Nat) (f : BulkOp → BulkOp) : (setOp s i f).spdm = s.spdm := rfl
@[simp] theorem setOp_mg (s : State) (i : Nat) (f : BulkOp → BulkOp) : (setOp s i f).mg = s.mg := rfl
@[simp] theorem setOp_test (s : State) (i : Nat) (f : BulkOp → BulkOp) : (setOp s i f).test = s.test := rfl
@[simp] theorem setOp_perf (s : State) (i : Nat) (f : BulkOp → BulkOp) : (setOp s i f).perf = s.perf := rfl
@[simp] theorem setOp_tw (s : State) (i : Nat) (f : BulkOp → BulkOp) : (setOp s i f).tw = s.tw := rfl

/-! ## Accessors after updates -/

@[simp] theorem blk_putBlk_same (s : State) (i : Nat) (x : Block) : blk (putBlk s i x) i = x := smGet_smSet_same _ _ _ _
theorem blk_putBlk_ne (s : State) (i j : Nat) (x : Block) (h : j ≠ i) : blk (putBlk s i x) j = blk s j :=
  smGet_smSet_other _ _ _ _ _ _ h
@[simp] theorem port_putPort_same (s : State) (i : Nat) (x : FabPort) : port (putPort s i x) i = x := smGet_smSet_same _ _ _ _
theorem port_putPort_ne (s : State) (i j : Nat) (x : FabPort) (h : j ≠ i) : port (putPort s i x) j = port s j :=
  smGet_smSet_other _ _ _ _ _ _ h
@[simp] theorem zone_putZone_same (s : State) (i : Nat) (x : Throttle) : zone (putZone s i x) i = x := smGet_smSet_same _ _ _ _
theorem zone_putZone_ne (s : State) (i j : Nat) (x : Throttle) (h : j ≠ i) : zone (putZone s i x) j = zone s j :=
  smGet_smSet_other _ _ _ _ _ _ h
@[simp] theorem srBlk_putSr_same (s : State) (i : Nat) (x : SrBlock) : srBlk (putSr s i x) i = x := smGet_smSet_same _ _ _ _
theorem srBlk_putSr_ne (s : State) (i j : Nat) (x : SrBlock) (h : j ≠ i) : srBlk (putSr s i x) j = srBlk s j :=
  smGet_smSet_other _ _ _ _ _ _ h
@[simp] theorem migr_putMigr_same (s : State) (i : Nat) (x : Migr) : migr (putMigr s i x) i = x := smGet_smSet_same _ _ _ _
theorem migr_putMigr_ne (s : State) (i j : Nat) (x : Migr) (h : j ≠ i) : migr (putMigr s i x) j = migr s j :=
  smGet_smSet_other _ _ _ _ _ _ h
@[simp] theorem hatch_putHatch_same (s : State) (i : Nat) (x : Hatch) : hatch (putHatch s i x) i = x := smGet_smSet_same _ _ _ _
theorem hatch_putHatch_ne (s : State) (i j : Nat) (x : Hatch) (h : j ≠ i) : hatch (putHatch s i x) j = hatch s j :=
  smGet_smSet_other _ _ _ _ _ _ h
@[simp] theorem evtT_putEvt_same (s : State) (i : Nat) (x : EvtTarget) : evtT (putEvt s i x) i = x := smGet_smSet_same _ _ _ _
theorem evtT_putEvt_ne (s : State) (i j : Nat) (x : EvtTarget) (h : j ≠ i) : evtT (putEvt s i x) j = evtT s j :=
  smGet_smSet_other _ _ _ _ _ _ h
@[simp] theorem tpos_putTpos_same (s : State) (i : Nat) (x : TPos) : tpos (putTpos s i x) i = x := smGet_smSet_same _ _ _ _
theorem tpos_putTpos_ne (s : State) (i j : Nat) (x : TPos) (h : j ≠ i) : tpos (putTpos s i x) j = tpos s j :=
  smGet_smSet_other _ _ _ _ _ _ h
@[simp] theorem walkOf_putWalk_same (s : State) (i : Nat) (x : Walk) : walkOf (putWalk s i x) i = x := smGet_smSet_same _ _ _ _
theorem walkOf_putWalk_ne (s : State) (i j : Nat) (x : Walk) (h : j ≠ i) : walkOf (putWalk s i x) j = walkOf s j :=
  smGet_smSet_other _ _ _ _ _ _ h

@[simp] theorem lane_putLane_same (x : FabPort) (l : Nat) (y : Lane) : lane (putLane x l y) l = y := smGet_smSet_same _ _ _ _
theorem lane_putLane_ne (x : FabPort) (l k : Nat) (y : Lane) (h : k ≠ l) : lane (putLane x l y) k = lane x k :=
  smGet_smSet_ne _ _ _ _ _ h
@[simp] theorem bankOf_putBank_same (k : Block) (b : Nat) (x : Bank) : bankOf (putBank k b x) b = x := smGet_smSet_same _ _ _ _
theorem bankOf_putBank_ne (k : Block) (b c : Nat) (x : Bank) (h : c ≠ b) : bankOf (putBank k b x) c = bankOf k c :=
  smGet_smSet_ne _ _ _ _ _ h
@[simp] theorem bdieOf_putBdie_same (k : Block) (d : Nat) (x : BDie) : bdieOf (putBdie k d x) d = x := smGet_smSet_same _ _ _ _
theorem tagGet_tagPut_same (s : State) (r set way : Nat) (t : Tag6) : tagGet (tagPut s r set way t) r set way = t :=
  smGet_smSet_same _ _ _ _
@[simp] theorem blk_modBlk_same (s : State) (b : Nat) (f : Block → Block) : blk (modBlk s b f) b = f (blk s b) :=
  blk_putBlk_same _ _ _
@[simp] theorem port_modPort_same (s : State) (p : Nat) (f : FabPort → FabPort) : port (modPort s p f) p = f (port s p) :=
  port_putPort_same _ _ _
@[simp] theorem linkOf_putLink_same (s : State) (p : Nat) (l : Link) : linkOf (putLink s p l) p = l := by
  unfold linkOf putLink
  split
  · rfl
  · simp

end Sys2Proof.Machine
end

