-- ==== Sys2Proof/Laws/Ops.lean ====
section
/-! SUPPORT. What the shared operations can do, said once: when commands act, the checks of a Hatch command, counted
occurrences, and a step. -/

namespace Sys2Proof.Machine

/-! ## When commands act -/

theorem live_wired {s : State} (h : live s = true) : wired s = true := by
  simp only [live, wired, Bool.and_eq_true, Bool.not_eq_true'] at *
  exact h.2

theorem whenLive_live {s : State} (f : State → State) (h : live s = true) : whenLive s f = .next (f s) := by
  simp [whenLive, h]

/-- On a stack that does not act a command changes nothing. -/
theorem whenLive_dead {s : State} (f : State → State) (h : live s = false) : whenLive s f = .next s := by
  simp [whenLive, h]

theorem whenWired_wired {s : State} (f : State → State) (h : wired s = true) : whenWired s f = .next (f s) := by
  simp [whenWired, h]

theorem whenWired_live {s : State} (f : State → State) (h : live s = true) : whenWired s f = .next (f s) :=
  whenWired_wired f (live_wired h)

theorem whenWired_off {s : State} (f : State → State) (h : wired s = false) : whenWired s f = .next s := by
  simp [whenWired, h]

/-- A command guarded by `whenLive` always answers a next state. -/
theorem whenLive_next (s : State) (f : State → State) : ∃ t, whenLive s f = .next t := by
  unfold whenLive
  split
  · exact ⟨_, rfl⟩
  · exact ⟨_, rfl⟩

theorem whenWired_next (s : State) (f : State → State) : ∃ t, whenWired s f = .next t := by
  unfold whenWired
  split
  · exact ⟨_, rfl⟩
  · exact ⟨_, rfl⟩

/-! ## Hatch commands -/

/-- A Hatch command that is ready runs its meaning. -/
theorem hatchRun_ready {h lo hi : Nat} {s : State} (f : State → State) (hh : h < 16) (hl : live s = true)
    (hr : hatchReady s h lo hi = true) : hatchRun h lo hi s f = .next (f s) := by
  simp [hatchRun, whenLive, hh, hl, hr]

/-- One that is not ready changes nothing. -/
theorem hatchRun_idle {h lo hi : Nat} {s : State} (f : State → State) (hh : h < 16)
    (hr : hatchReady s h lo hi = false) : hatchRun h lo hi s f = .next s := by
  simp [hatchRun, whenLive, hh, hr]

/-- A request whose fields are legal goes on to its effect. -/
theorem withFields_legal {s : State} {h : Nat} {used : List (Nat × Nat)} {bad : List (Nat × Bool)} (f : State → State)
    (hr : reservedBad s h used = []) (hb : bad.filter (fun p => p.2) = []) : withFields s h used bad f = f s := by
  simp [withFields, hr, hb]

theorem hatchReady_busy {s : State} {h lo hi : Nat} (r : hatchReady s h lo hi = true) :
    (hatch s h).st = .busy ∧ (hatch s h).result = none ∧ (hatch s h).waiting = false := by
  simp [hatchReady] at r
  tauto

/-- A result is kept by a Hatch whose command waits for it, and by no other. -/
theorem hatchResult_busy {s : State} {h : Nat} (st : Nat) (pay : List (BitVec 8)) (done at_ : Nat)
    (hb : (hatch s h).st = .busy) : hatch (hatchResult s h st pay done at_) h =
      { hatch s h with result := some (st, pay, done, at_), waiting := false } := by
  simp [hatchResult, hb]

theorem hatchResult_idle {s : State} {h : Nat} (st : Nat) (pay : List (BitVec 8)) (done at_ : Nat)
    (hb : (hatch s h).st ≠ .busy) : hatchResult s h st pay done at_ = s := by
  simp [hatchResult, hb]

/-! ## Counted occurrences touch the counters alone -/

theorem occ_eq (s : State) (ev grp qual n : Nat) : ∃ p : Perf, occ s ev grp qual n = { s with perf := p } := by
  unfold occ
  split
  · exact ⟨s.perf, rfl⟩
  · exact ⟨_, rfl⟩

@[simp] theorem port_occ (s : State) (ev grp qual n p : Nat) : port (occ s ev grp qual n) p = port s p := by
  obtain ⟨x, h⟩ := occ_eq s ev grp qual n
  rw [h]; rfl

@[simp] theorem blk_occ (s : State) (ev grp qual n b : Nat) : blk (occ s ev grp qual n) b = blk s b := by
  obtain ⟨x, h⟩ := occ_eq s ev grp qual n
  rw [h]; rfl

@[simp] theorem occ_dram (s : State) (ev grp qual n : Nat) : (occ s ev grp qual n).dram = s.dram := by
  obtain ⟨x, h⟩ := occ_eq s ev grp qual n
  rw [h]

@[simp] theorem occ_tx (s : State) (ev grp qual n : Nat) : (occ s ev grp qual n).tx = s.tx := by
  obtain ⟨x, h⟩ := occ_eq s ev grp qual n
  rw [h]

@[simp] theorem occ_wp (s : State) (ev grp qual n : Nat) : (occ s ev grp qual n).wp = s.wp := by
  obtain ⟨x, h⟩ := occ_eq s ev grp qual n
  rw [h]

/-! ## The step -/

/-- A step runs the command at the front of the queue. -/
theorem step_front (s : State) (c : Instr) (rest : List Instr) (h : s.pending = c :: rest) :
    step s = exec c { s with pending := rest } := by
  simp [step, h]

end Sys2Proof.Machine
end

