-- ==== Sys2Proof/Machine/Package.lean ====
section
/-! DEFINITION. The bumps (22 R539 to R543) and the test port's identities and cells (22 R558).  Positions are in
micrometres from R539's origin. -/

namespace Sys2Proof.Machine

/-! ## Bumps -/

/-- Centre of the Wide Port bump at a row and a column (R540). -/
def wideBump (row col : Nat) : Nat × Nat := (2180 + 40 * col, 220 + 40 * row)

/-- Entry of list L of a group: data wire k of 128, control wire k of 8, spare k of 4, clock half k. -/
def dataEntry (k : Nat) : Nat := if k < 64 then k else k + 8
def controlEntry (k : Nat) : Nat := if k < 4 then 66 + k else 132 + k
def spareEntryL (k : Nat) : Nat := 140 + k
def clockEntry (k : Nat) : Nat := 64 + k

/-- Centre of an entry of a group's list. -/
def groupBump (outbound : Bool) (g e : Nat) : Nat × Nat :=
  wideBump (e / 12 + 12 * b2n outbound) (24 * g + 2 * (e % 12) + e / 12 % 2)

/-- Centre of data wire w, 0 to 1,023, and of control wire w, 0 to 63. -/
def dataBump (outbound : Bool) (w : Nat) : Nat × Nat := groupBump outbound (w / 128) (dataEntry (w % 128))
def controlBump (outbound : Bool) (w : Nat) : Nat × Nat := groupBump outbound (w / 8) (controlEntry (w % 8))

/-- What a bump of a fabric or the miscellaneous field carries. -/
inductive BumpUse where
  | vss | vio | txp (lane : Nat) | txn (lane : Nat) | rxp (lane : Nat) | rxn (lane : Nat)
  | vddArray | vddCore | vpp | vddaF | vddhF
  | xi | xo | refSel | twScl | twSda | twAlertN | pwrGood | stackRstN | retRstN | stackFatalN | thermN
  | tck | tms | tdi | tdo | trstN | tfpCk | tfpIn (i : Nat) | tfpOut (i : Nat)
  deriving DecidableEq, Repr

/-- Fabric site k, 0 to 30, of port p: its centre and its use (R541). -/
def fabricBump (p k : Nat) : Nat × Nat :=
  (if p = 0 || p = 3 then 300 else 11700, if p < 2 then 1200 + 110 * k else 13300 - 110 * k)
def fabricUse (k : Nat) : BumpUse :=
  if k = 30 then .vss
  else match k % 6 with
    | 1 => .txp (k / 6)
    | 2 => .txn (k / 6)
    | 4 => .rxp (k / 6)
    | 5 => .rxn (k / 6)
    | _ => .vss

/-- Miscellaneous site m, 0 to 31 (R542). -/
def miscBump (m : Nat) : Nat × Nat := (800 + 110 * m, 13800)
def miscUse (m : Nat) : BumpUse :=
  ([.xi, .vss, .xo, .vss, .refSel, .vio, .twScl, .twSda, .twAlertN, .vss, .pwrGood, .stackRstN, .retRstN, .stackFatalN,
    .thermN, .vio, .tck, .tms, .tdi, .tdo, .trstN, .vss, .tfpCk, .tfpIn 0, .tfpIn 1, .tfpIn 2, .tfpIn 3, .tfpOut 0,
    .tfpOut 1, .tfpOut 2, .tfpOut 3] : List BumpUse).getD m .vss

/-- Core site at row r, 0 to 215, and column c, 0 to 191 (R543). -/
def coreBump (r c : Nat) : Nat × Nat := (720 + 55 * c, 1400 + 55 * r)
def coreUse (r c : Nat) : BumpUse :=
  if (r + c) % 2 = 0 then .vss
  else match r % 8 with
    | 0 | 2 | 4 => .vddArray
    | 1 | 3 | 5 => .vddCore
    | 6 => .vpp
    | _ => if c % 4 = 0 then .vddaF else .vddhF

/-! ## The test port (R558) -/

/-- IDCODE of a die: 0 the base die, 1 the Undercoat, others DRAM. -/
def idcode (die : Nat) : BitVec 32 := if die = 0 then 0x16C20A6F else if die = 1 then 0x16C21A6F else 0x16C22A6F

/-- Boundary-scan cell of an entry of list L, none for clocks and returns. -/
def wireCell (outbound : Bool) (g e : Nat) : Option Nat :=
  if 144 ≤ e || (64 ≤ e && e < 66) || (70 ≤ e && e < 72) then none
  else some (9 + 1120 * b2n outbound + 140 * g + (if e < 64 then e else if e < 70 then e - 2 else e - 4))


end Sys2Proof.Machine
end

