-- ==== Sys2Proof/Machine/Symbols.lean ====
section
/-! DEFINITION. What the fabric lanes carry (03 R74 to R80, R84, R87, R88, R99, R110, R111): the bins of each symbol of a
lane, their samples, the generated patterns of lane tests and the checker.  A bin's value is an integer point with the
mean power of its constellation and a level in half decibels, so that it is exact; samples are real numbers. -/

namespace Sys2Proof.Machine

/-! ## Sequences (R77, R78, R87, R110) -/

/-- The next n bits of a sequence x^a + x^b + 1, latest first. -/
def prbsRun (a b : Nat) : Nat → List Bool → List Bool
  | 0, l => l
  | n + 1, l => prbsRun a b n ((l.getD (a - 1) true ^^ l.getD (b - 1) true) :: l)

/-- The first n bits of a sequence whose first bits are given. -/
def prbsFrom (a b : Nat) (start : List Bool) (n : Nat) : List Bool :=
  ((prbsRun a b (n - start.length) start.reverse).reverse).take n

/-- A sequence seeded with all ones, which are its first output bits. -/
def prbs (a b n : Nat) : List Bool := prbsFrom a b (List.replicate a true) n

/-- Sign of pilot j in symbol t of the frame: a 1 gives -1 (R78); the upper band of sync and marker symbols is j = 7. -/
def pilotSign (t j : Nat) : Int :=
  let k := (t + 128 * j) % 2047
  if ((prbs 11 9 (k + 1)).getLast?).getD false then -1 else 1

/-- Pattern n: bits 32n to 32n + 31 of PRBS-31 (R87). -/
def patternField (n : Nat) : List Bool := (prbs 31 28 (32 * n + 32)).drop (32 * n)

/-- The scrambler's first n bits of a frame on a lane (R77). -/
def scramblerBits (l n : Nat) : List Bool :=
  let start := seedStart 23 (BitVec.ofNat 23 ((l + 1) * 0x10001))
  prbsFrom 23 18 ((List.range 23).map (fun i => start.getLsbD i)) n

def scramble (l from_ : Nat) (bits : List Bool) : List Bool :=
  (bits.zip ((scramblerBits l (from_ + bits.length)).drop from_)).map (fun p => p.1 ^^ p.2)

/-! ## Bins (R75, R76, R78, R79) -/

/-- The value of a bin: (re + i im) / sqrt mean, at a level in half decibels (R76, R78, R82). -/
structure BinVal where
  bin : Nat
  re : Int
  im : Int
  mean : Nat := 1
  half : Int := 0
  deriving DecidableEq, Repr, Inhabited

/-- Level of a bin in half decibels: the attenuation of its loading table; P0 has none (R79, R82). -/
def gainHalf (x : FabPort) (prof k : Nat) : Int :=
  if prof = 0 then 0 else -(entryGain ((loadTable x prof).getD (k - 1) 0) : Int)

/-- A Gray-coded group, most significant bit first, in binary. -/
def grayToBin : List Bool → Bool → Nat → Nat
  | [], _, n => n
  | b :: l, last, n => grayToBin l (b ^^ last) (2 * n + b2n (b ^^ last))

/-- Amplitude on an axis (R76). -/
def axisLevel (g : List Bool) : Int :=
  if g.isEmpty then 0 else 2 * (grayToBin g false 0 : Int) - (2 ^ g.length - 1)

/-- Sum of the squares of the 2^m amplitudes of an axis, over 2^m: its mean power, (4^m - 1) / 3. -/
def axisPower (m : Nat) : Nat := (4 ^ m - 1) / 3

/-- The point of a group of bits: the top half in phase, the rest in quadrature, of unit mean power. -/
def binPoint (x : FabPort) (prof k : Nat) (g : List Bool) : BinVal :=
  let n := (g.length + 1) / 2
  { bin := k, re := axisLevel (g.take n), im := axisLevel (g.drop n), mean := axisPower n + axisPower (g.length - n),
    half := gainHalf x prof k }

/-- Bins filled in ascending order from a stream of bits. -/
def fillBins (x : FabPort) (prof : Nat) : List (Nat × Nat) → List Bool → List BinVal
  | [], _ => []
  | (k, b) :: l, bits => binPoint x prof k (bits.take b) :: fillBins x prof l (bits.drop b)

/-- A sign on a bin. -/
def signVal (x : FabPort) (prof k : Nat) (v : Int) (half : Int) : BinVal :=
  { bin := k, re := v, im := 0, half := gainHalf x prof k + half }

/-! ## Symbols (R78, R80, R87, R88, R99) -/

/-- Pilots of symbol t of the frame, on the bins the profile does not mask, 3 dB above a data bin. -/
def pilotPoints (x : FabPort) (prof t : Nat) : List BinVal :=
  (pilotBins.zipIdx.filter (fun p => !binMasked x prof p.1)).map (fun p => signVal x prof p.1 (pilotSign t p.2) 6)

/-- The upper band of sync and marker symbols, on every bin that is not masked. -/
def upperPoints (x : FabPort) (prof t : Nat) : List BinVal :=
  (upperBins.filter (fun k => !binMasked x prof k)).map (fun k => signVal x prof k (pilotSign t 7) 0)

/-- A sync symbol (n the profile) or a marker (n 4 QUIET, 5 WAKE, 6 DARK) of lane l at symbol t of the frame. -/
def controlSymbol (x : FabPort) (l n t : Nat) : List BinVal :=
  let prof := x.txProf
  pilotPoints x prof t ++ fillBins x prof (patternBins.map (fun k => (k, 2))) (patternField n) ++
    fillBins x prof (statusBins.map (fun k => (k, 2))) ((List.range 32).map (fun i => (statusWord x l).getLsbD i)) ++
    upperPoints x prof t

/-- The sync symbol that starts each frame of a lane (R88). -/
def syncSymbol (x : FabPort) (l : Nat) : List BinVal := controlSymbol x l x.txProf 0

/-- A data symbol of physical lane l whose scrambler has passed `pos` bits of the frame. -/
def dataSymbol (x : FabPort) (l t pos : Nat) (bits : List Bool) : List BinVal :=
  pilotPoints x x.txProf t ++ fillBins x x.txProf (loading x x.txProf) (scramble l pos bits)

/-- An idle data symbol: all-zero bits, scrambled (R94, R99). -/
def idleSymbol (x : FabPort) (l t pos : Nat) : List BinVal :=
  dataSymbol x l t pos (List.replicate (symbolBits x.txProf) false)

/-- Data bits of a symbol on physical lane l: those of its logical lane; idle bits on a lane that carries none. -/
def laneData (x : FabPort) (y : TxSym) (l : Nat) : List Bool :=
  match x.txMap.idxOf? l with
  | some i => (y.bits[i]?).getD []
  | none => List.replicate (((y.bits.head?).map List.length).getD 0) false

/-- What lane l sends of a symbol of the stream. -/
def laneSymbol (x : FabPort) (y : TxSym) (l : Nat) : List BinVal :=
  match y.n with
  | some n => controlSymbol x l n y.t
  | none =>
    if y.mark = some l then controlSymbol x l 5 y.t
    else if y.bits.isEmpty then pilotPoints x x.txProf y.t
    else dataSymbol x l y.t (y.pos - smGet 0 y.lag l) (laneData x y l)

/-- The bits of the codeword last driven that physical lane l carries; a spare lane carries none of it (R99). -/
def carriedBits (s : State) (p l : Nat) : List Bool :=
  let x := port s p
  match x.wire, x.txMap.idxOf? l with
  | some cw, some i => laneBits cw i
  | _, _ => []

/-! ## Samples (R74, R84) -/

/-- Amplitude of a bin in phase and in quadrature. -/
noncomputable def binReal (v : BinVal) : ℝ × ℝ :=
  let g : ℝ := (10 : ℝ) ^ ((v.half : ℝ) / 40) / Real.sqrt v.mean
  (v.re * g, v.im * g)

/-- Sample n of the real-valued 256-point inverse transform of bins 1 to 127; bins 0 and 128 are zero.  R74 states no
scale: it is 1 / 256 (log 179). -/
noncomputable def transform (l : List BinVal) (n : Nat) : ℝ :=
  (l.map (fun v =>
    let a : ℝ := 2 * Real.pi * v.bin * n / 256
    2 * ((binReal v).1 * Real.cos a - (binReal v).2 * Real.sin a))).sum / 256

/-- Sample n of a symbol's 272: the last 16 of the transform come first, as cyclic prefix. -/
noncomputable def sample (l : List BinVal) (n : Nat) : ℝ := transform l ((n + 240) % 256)

/-- The 272 samples of a symbol. -/
noncomputable def samples (l : List BinVal) : List ℝ := (List.range 272).map (sample l)

/-- A tap in Q2.10. -/
noncomputable def tapReal (x : FabPort) (i : Nat) : ℝ := ((x.filter.getD i 0).toInt : ℝ) / 1024

/-- Output of the 32-tap filter for sample n of a sample stream. -/
noncomputable def filtered (x : FabPort) (stream : Nat → ℝ) (n : Nat) : ℝ :=
  ((List.range 32).map (fun i => if i ≤ n then tapReal x i * stream (n - i) else 0)).sum

/-! ## Lane tests (R110) -/

/-- Fields of a test's parameters. -/
def testRole (t : LaneTest) : Nat := (byteAt t.params 1).toNat
def testPattern (t : LaneTest) : Nat := (byteAt t.params 2).toNat
def injMode (t : LaneTest) : Nat := (byteAt t.params 3).toNat
def injInterval (t : LaneTest) : Nat := leAt t.params 4 4
def injLength (t : LaneTest) : Nat := if injMode t = 2 then (byteAt t.params 8).toNat else 1

/-- Polynomial of a pattern: x^a + x^b + 1. -/
def testPoly : Nat → Nat × Nat
  | 0 => (7, 6)
  | 1 => (15, 14)
  | 2 => (23, 18)
  | _ => (31, 28)

/-- Bit n of the stream is flipped: from bit INJ_INTERVAL on, the first bits of every interval (R110 does not say where in
its interval an injection lies; log 180). -/
def injected (t : LaneTest) (n : Nat) : Bool :=
  injMode t ≠ 0 && injInterval t ≠ 0 && injInterval t ≤ n && n % injInterval t < injLength t

/-- Bits n of the generated pattern, from bit a on, with the injected errors; its start is not stated (log 180). -/
def generated (t : LaneTest) (a n : Nat) : List Bool :=
  let p := testPoly (testPattern t)
  let start := seedStart p.1 (BitVec.allOnes p.1)
  (((prbsFrom p.1 p.2 ((List.range p.1).map (fun i => start.getLsbD i)) (a + n)).drop a).zipIdx).map
    (fun b => b.1 ^^ injected t (a + b.2))

/-- A data symbol of SOUND: the sync upper-band content on all data bins 1 to 127 at 0 dB, masks ignored. -/
def soundSymbol (x : FabPort) (t : Nat) : List BinVal :=
  pilotPoints x x.txProf t ++
    (((List.range 128).drop 1).filter (fun k => !isPilot k)).map (fun k => { bin := k, re := pilotSign t 7, im := 0 })

/-- A data symbol of the generator of a lane under test, from bit a of its pattern. -/
def testSymbol (x : FabPort) (l t pos a : Nat) (u : LaneTest) : List BinVal :=
  if testPattern u = 4 then soundSymbol x t
  else dataSymbol x l t pos (generated u a (symbolBits x.txProf))

end Sys2Proof.Machine
end

