-- ==== Sys2Proof/Tests/Slice0.lean ====
section
/-! SUPPORT. Tests of the model's author: ill-formed commands are refused, worked cases of the spec come out, and every
statement's hypotheses are met by a concrete state and operands (for each of its clauses). -/

namespace Sys2Proof.Tests

open Sys2Proof Sys2Proof.Machine

section Cases
set_option Elab.async false
set_option linter.unusedVariables false

/-! ## Ill-formed commands, one for each check -/

/-- Operands outside the units they name, of the ports, lanes and blocks. -/
theorem test_ill_formed_ports :
    ([.paceSample [], .wpWireFailed 1088, .wpSubstReqReceived 8 0 0, .wpSubstReqReceived 0 136 0,
      .wpSubstReqReceived 0 0 4, .wpSubstAckReceived 8 0 0 0, .wpSubstAckReceived 0 136 0 0,
      .wpSubstAckReceived 0 0 4 0, .wpSubstAckReceived 0 0 0 4096, .wpSpareTakeover 8 0 0,
      .wpSpareTakeover 0 136 0, .wpSpareTakeover 0 0 4, .wpClockLoss 8 true, .wpClockLossTimeout 8,
      .wpTrainingPhaseEnd [(8, 0)] true, .wpTrainingPhaseEnd [(0, 140)] true,
      .wpTrainingPhaseEnd [(0, 1), (0, 1)] true, .laneSyncSymbolReceived 4 0 0 0 0 0 true [] [],
      .laneSyncSymbolReceived 0 5 0 0 0 0 true [] [], .laneSyncSymbolReceived 0 0 4 0 0 0 true [] [],
      .laneSyncSymbolReceived 0 0 0 0 0 0 true (List.replicate 129 0) [],
      .laneSyncSymbolReceived 0 0 0 0 0 0 true [] (List.replicate 129 (0, 0)),
      .laneStatusWordReceived 4 0 0, .laneStatusWordReceived 0 5 0, .laneMarkerReceived 4 0 4 true,
      .laneMarkerReceived 0 5 4 true, .laneMarkerReceived 0 0 3 true, .laneMarkerReceived 0 0 7 true,
      .laneQualificationLost 0 0 3 0, .laneRequalifyTimeout 4 0, .laneDegraded 0 5, .bringupStepTimer 4,
      .fpFlitSend 4, .fpSubstReqReceived 0 4 0 0, .fpSubstReqReceived 0 0 5 0,
      .fpSubstReqReceived 0 0 0 5, .forwardHoldTimeout 5, .allotReserve 5,
      .tagWalk 4 0 0 true true true [], .tagWalk 0 0 16 true true true [],
      .tagWalk 0 0 0 true true true [(32, 0, 0)], .tagWalk 0 0 0 true true true [(0, 72, 0)],
      .hintSweepRead 4, .ucSliceTimeout 64 true, .blockCaSlot 36, .dramReadData 36 0 0 [],
      .dramReadData 0 0 0 [(72, 0)], .actEchoReceived 36 0 0 0 true] : List Instr).all (fun i => !i.wf) = true := by decide +kernel

/-- Operands outside their ranges, of the rest. -/
theorem test_ill_formed_hatches :
    ([.actEchoReceived 0 68 0 0 true, .bankIdleTimeout 0 68, .refreshDue 36 0,
      .rowCheckReadComplete 0 32 [], .migrationStart 4, .evtPush 8, .thermalSample 18 [] none [],
      .throttleStepUp 4, .tdcMeasure 2049, .sensorScaleMeasure [], .walkStart 36, .walkTake 36 [] [],
      .walkTake 0 [(64, 0, none)] [], .walkTake 0 [] [(0, 5000, none)], .walkGive 36 [], .bootHalt 3,
      .startupBistComplete true [(4096, 0)], .imageLoadComplete 4 true true [],
      .imageLoadComplete 0 true true [6], .coldCalibrationComplete 0 [] [] [] [],
      .coldCalibrationComplete 0 [(184320, List.replicate 21 0, none)] (List.replicate 18 0) [] [],
      .coldCalibrationComplete 0 [] (List.replicate 18 0) [] [64], .scanEntry 18 3, .scanEntry 0 1,
      .testPortInstruction 0 3, .testPortInstruction 18 1, .hatchBufferWrite 16 0 0 [],
      .hatchBufferWrite 0 0 4096 [0], .hatchRing 16 0, .idGet 16, .laneTestComplete 4 0 0 [],
      .laneTestComplete 0 0 1 [1], .laneTestComplete 0 0 2 [1, 0], .testMarchStep 0 [18432] true,
      .perfSelWrite 128 0, .perfCntWrite 128 0, .perfCounterWrap 128, .evtTailWrite 8 0,
      .registerWrite 0 4 0, .registerWrite 0 0x10000 0, .boardSensorAccess 4 [] 0,
      .boardSensorAccess 0 [] 17, .railOutOfRange 5, .larderAreaAccess 0xFFFF [] 1,
      .larderAreaAccess 0x1FFFF [0, 0] 0, .larderAreaAccess 0x1FFFF [] 2,
      .larderAreaAccess 0x10000 [0] 1, .internalBulkOp 16 0x20 0, .internalBulkOp 0 0 0] : List Instr).all (fun i => !i.wf) = true := by decide +kernel

/-- A message of another row's opcode, without its data, or at an ingress that does not exist. -/
theorem test_ill_formed_messages :
    let m (op : Nat) : Msg := { h0 := BitVec.ofNat 128 op, h1 := 0, data := [] }
    ([.rdShared 0 (m 2), .rdShared 5 (m 1), .rdOwn 0 (m 1), .claim 0 (m 1), .rdCur 0 (m 1), .rdLong 0 (m 1), .evictClean 0 (m 1),
      .wr 0 (m 0x10), .wrLong 0 (m 0x11), .wrback 0 (m 0x12), .atomic 0 (m 0x13), .bulkOp 0 (m 1), .snpRsp 0 (m 1),
      .snpRspd 0 (m 1), .gack 0 (m 1), .mgRd 0 (m 1), .mgWr 0 (m 0x61)] : List Instr).all (fun i => !i.wf) = true := by
  decide +kernel

/-- An ill-formed command changes nothing. -/
theorem test_ill_formed_changes_nothing :
    (match exec (.hatchRing 16 0) State.reset with
     | .next t => decide (t = State.reset)
     | _ => false) = true := by
  decide +kernel

/-! ## Worked cases of the spec -/

/-- The worked decode after 01 R32: DPA 0x2A_5C3D_7B40 is logical block 23 of Region 3, B32 as shipped, row 43,376,
bank 13 and line 13. -/
theorem test_decode_dpa :
    decodeDpa 4 0x2A5C3D7B40 = { region := 3, lblock := 23, bank := 13, row := 43376, line := 13 } ∧
      physBlock State.reset 23 = 32 ∧ dieOfBank 32 13 = 3 ∧ (decodeDpa 4 0x2A5C3D7C40).lblock = 16 := by
  decide +kernel

/-- The worked case after 04 R142: window 17 interleaves four nodes by 4 KiB. -/
theorem test_map_window :
    let w : BitVec 128 := BitVec.ofNat 128 (1 + 2 * 2 ^ 3 + 4 * 2 ^ 6 + 0x40 * 2 ^ 10 + 0x400 * 2 ^ 22 + 0x7FF * 2 ^ 45)
    (mapFa [(17, w)] 0x1000A3C6E80).map (fun m => (m.win, m.node.toNat, m.dpa)) = some (17, 0x042, 0x28F1E80) ∧
      decodeDpa 4 0x28F1E80 = { region := 0, lblock := 0, bank := 5, row := 10, line := 2 } := by
  decide +kernel

/-- The worked case of chapter 11: rule 1 decides alone for a write of node 0x042 to DPA 0x2A_5C3D_7B40. -/
theorem test_access_rules :
    let rules : SMap (BitVec 128) :=
      [(768, BitVec.ofNat 128 (1 + 2 + 9 * 2 ^ 2 + 0x15000 * 2 ^ 32 + 0x157FF * 2 ^ 49)),
       (769, BitVec.ofNat 128 (1 + 0x40 * 2 ^ 2 + 0x4F * 2 ^ 14 + 9 * 2 ^ 26 + 0x10000 * 2 ^ 32 + 0x1FFFF * 2 ^ 49)),
       (770, BitVec.ofNat 128 (1 + 2 + 5 * 2 ^ 2 + 31 * 2 ^ 26 + 0x1FFFF * 2 ^ 49))]
    let groups : SMap (BitVec 8) := [(0x42, 5), (0x51, 9), (0xFF1, 5)]
    0x2A5C3D7B40 / 2 ^ 21 = 0x152E1 ∧ aEval rules groups 3 0x042 (some 0x152E1) 2 = .fail 1 false false ∧
      aEval rules groups 3 0x045 (some 0x152E1) 1 = .pass ∧ aEval rules groups 3 0xFF1 (some 0x152E1) 2 = .pass ∧
      aEval rules groups 3 0x051 (some 0x152E1) 1 = .fail 0 false false := by
  decide +kernel

/-- 88 degrees gives a refresh interval of 1,953 ticks (worked case of chapter 07), in sixteenths of a degree. -/
theorem test_refresh_interval : refiOf (88 * 16) = 1953 := by decide +kernel

/-- The worked case of 22 R540: outbound data wire 700 stands at (7.02 mm, 0.90 mm). -/
theorem test_bump : dataBump true 700 = (7020, 900) := by decide +kernel

/-- The boundary-scan cells run from 9 to 1,128 inbound and from 1,129 to 2,248 outbound (22 R558). -/
theorem test_wire_cells :
    wireCell false 0 0 = some 9 ∧ wireCell false 7 143 = some 1128 ∧ wireCell true 0 0 = some 1129 ∧
      wireCell true 7 143 = some 2248 ∧ wireCell false 0 64 = none := by
  decide +kernel

/-- Gray-coded amplitudes of 64-QAM, in the order of their groups (03 R76). -/
theorem test_axis_levels :
    [[false, false, false], [false, false, true], [false, true, true], [false, true, false], [true, true, false],
      [true, true, true], [true, false, true], [true, false, false]].map axisLevel = [-7, -5, -3, -1, 1, 3, 5, 7] := by
  decide +kernel

/-- 16 pattern bins, 16 status bins and 88 upper-band bins (03 R75). -/
theorem test_bins : patternBins.length = 16 ∧ statusBins.length = 16 ∧ upperBins.length = 88 := by
  decide +kernel

/-! ## Steps from reset -/

/-- Power applied starts the PLL at tick 0 (16 R442). -/
theorem test_power_on :
    (match step { State.reset with pending := [.powerOn true] } with
     | .next t => t.boot.phase == .pll && t.now == 0 && t.boot.pwrGood && t.pending == []
     | _ => false) = true := by
  decide +kernel

/-- With nothing waiting a step is one tick of time. -/
theorem test_tick :
    (match step State.reset with
     | .next t => t.now == State.reset.now + 1 && t.pending == []
     | _ => false) = true := by
  decide +kernel

/-- No row of the table has bits: no word spells a command. -/
theorem test_no_word : decodeTableWord 0 0 = none ∧ decodeTableWord 64 (2 ^ 64 - 1) = none := by decide +kernel

/-! ## States that meet the statements' hypotheses -/
/-- A released stack with Larder running, long after power-on. -/
def up : State := { State.reset with
  now := 10000000000000, boot := { phase := .released, larder := .running, pwrGood := true }, cal := { done := true },
  heat := { fuseOk := true, storeOk := true } }

/-- A Hatch that holds a request of an opcode and a payload, rung by the fabric manager. -/
def ringOn (s : State) (h op : Nat) (pay : List (BitVec 8)) : State :=
  let b := leBytes op 2 ++ leBytes 0 2 ++ leBytes ((pay.length + 3) / 4) 2 ++ List.replicate 26 0 ++ pay
  putHatch s h { st := .busy, ringer := s.acc.fmNode, copy := bmWrite [] 0 b, exec := opStrong op }
def ring (op : Nat) (pay : List (BitVec 8)) : State := ringOn up 0 op pay

/-- An idle Hatch with a request written into its request area. -/
def asks (s : State) (h op len flags rsv ver : Nat) : State :=
  let b := leBytes op 2 ++ leBytes 0 2 ++ leBytes len 2 ++ leBytes ver 1 ++ leBytes flags 1 ++ leBytes rsv 24
  putHatch s h { req := bmWrite [] 0 b }

/-- A transaction of the two-wire bus. -/
def twT (k : TwKind) (w : TwFor) : TwTrans := { cls := 1, kind := k, who := w, addr := 0, attempts := 0 }
def twUp (f : TwoWire → TwoWire) : State := { up with tw := f up.tw }
def calUp (f : Cal → Cal) : State := { up with cal := f up.cal }
def heatUp (f : Heat → Heat) : State := { up with heat := f up.heat }

/-- A fault record of a block. -/
def rec0 (cls : FClass) (region el : Nat) : FaultRec :=
  { fid := 1, cls := cls, first := cls, escalated := false, acked := false, level := .block, region := BitVec.ofNat 2 region,
    element := BitVec.ofNat 16 el, code := 0x0702, count := 1, lastDelta := 0, time := 0, detail := 0 }
def faultUp (f : Faults → Faults) : State := { up with faults := f up.faults }
def ucUp (f : Uc → Uc) : State := { up with uc := f up.uc }

/-- A header: opcode, source, destination, tag, and what stands above bit 63. -/
def hdr (op src dst tag : Nat) (hi : Nat) : Slot :=
  BitVec.ofNat 128 (op + src * 2 ^ 16 + dst * 2 ^ 28 + tag * 2 ^ 40 + hi * 2 ^ 64)
def msg (op src dst tag hi : Nat) : Msg := { h0 := hdr op src dst tag hi, h1 := 0, data := [] }

/-- A Wide Port in service with credits held. -/
def wpOn (s : State) : State :=
  let c : Credits := { req := 16, snp := 16, rsp := 16, dat := 16, blk := 16, mg := 16, datL := 64, mgL := 64 }
  { s with wp := { s.wp with st := .active, link := { s.wp.link with held := c, adv := c, initSent := true, initRcvd := true } } }
def halted : State := wpOn (faultUp (fun f => { f with halted := true }))
def retired (r : BitVec 72) : State :=
  { up with store := { up.store with blocks := [(0, { retired := r })] } }


/-- A stack with a change of its Vault, Images, Boot or SPDM state. -/
def vUp (f : Vault → Vault) : State := { up with vault := f up.vault }
def iUp (f : Images → Images) : State := { up with img := f up.img }
def bUp (f : Boot → Boot) : State := { up with boot := f up.boot }
def sUp (f : Spdm → Spdm) : State := { up with spdm := f up.spdm }
/-- Identity provisioned: regions 0, 1 and 2 committed. -/
def idUp (f : Boot → Boot) : State :=
  { bUp f with vault := { up.vault with states := [(0, .committed), (1, .committed), (2, .committed)] } }
/-- Region 4 opened for four data words of mode 1. -/
def hdr4 : State := vUp (fun v => { v with tight := [(768, 0x110), (3840, 0x80000001)], states := [(4, .openR)] })
/-- The bytes of a Larder image of the least length, all zero but where a field must not be. -/
def fwImg : FwHalf :=
  { bytes := bmWrite (bmWrite [] 0 (leBytes 0x4C524446 4 ++ leBytes 1 2 ++ [0, 0] ++ leBytes 4096 4)) 640 (leBytes 65537 4)
    len := 8192 }
/-- An open load of 8,192 bytes, all received. -/
def fwUp (f : Boot → Boot) : State :=
  bUp (fun b => f { b with staged := .open_, total := 8192, got := [(0, 8192)], half1 := fwImg, fwDecided := true })
/-- An EEPROM whose slot 0 holds a committed image of one section, its checksum as the model computes it. -/
def eeUp : State :=
  let h := leBytes 0x4946564B 4 ++ leBytes 1 2 ++ leBytes 1 2 ++ leBytes 1 4 ++ leBytes 16 4 ++ List.replicate 40 0
  let d := leBytes 0x21 2 ++ leBytes 0 2 ++ leBytes 8 4 ++ List.replicate 8 1
  let b := h ++ leBytes (crc32c (h ++ d)) 4 ++ leBytes 0x5A3CC3A5 4 ++ d
  { idUp id with img := { up.img with eeprom := bmWrite [] 0x20000 b } }
/-- A retaining reset with every block out of service. -/
def retUp (f : Boot → Boot) : State :=
  { bUp f with blocks := (List.range 36).map (fun b => (b, { st := .selfRefresh })) }
/-- A self-test run of a bank or of a whole block. -/
def run0 (kind pb bank : Nat) (ph : TPhase) : TestRun :=
  { (default : TestRun) with id := 1, kind := kind, pblock := pb, bank := bank, phase := ph, result := .running, expected := 44635136 }
def testUp (f : Tests → Tests) : State := { up with test := f up.test }
/-- A request held at an ingress. -/
def heldAt (ing : Nat) (m : Msg) : Waiting :=
  { ing := ing, msg := m, arr := 0, data := [], dataOk := true, rel := default, step := none }
/-- An access table whose one rule of region 0 gives every node every right. -/
def openUp (f : Tx → Tx) : State :=
  { up with acc := { up.acc with baseCoat := false, rules := [(0, BitVec.ofNat 128 (1 + 0xFFF * 2 ^ 14 + 31 * 2 ^ 26 + 0x1FFFF * 2 ^ 49))] }
            tx := f up.tx }
def txUp (f : Tx → Tx) : State := { up with tx := f up.tx }
/-- An open request of a node, and one whose data are not all there. -/
def ctx0 (i ing op : Nat) : Ctx := { (default : Ctx) with idx := i, ing := ing, kind := .request, phase := .working, op := op }
def snoop0 : Snoop := { (default : Snoop) with ctx := 1, region := 3, sector := 5 }
def item0 (p : ChainPhase) : ChainItem := { ord := 1, region := 3, sector := 5, ctx := 1, phase := p }
/-- Port 0 in service. -/
def portUp : State := modPort up 0 (fun x => { x with st := .active })
def ucRegUp (r : Nat) (f : UcRegion → UcRegion) : State := ucRegPut up r (f (ucReg up r))
def blkUp (b : Nat) (f : Block → Block) : State := modBlk up b f
def bankUp (b bank : Nat) (x : Bank) : State := blkUp b (fun k => putBank k bank x)
/-- A read of line 0 of block 35's neighbour that awaits its data. -/
def rd0 : REnt := { (default : REnt) with key := 0, issued := true }
def wr0 : WEnt := { (default : WEnt) with key := 0, ord := 5 }
/-- A bulk operation of one line, its one step, and the state that holds them. -/
def op0 (bop : Nat) (ph : OpPhase) : BulkOp :=
  { (default : BulkOp) with id := 1, ing := 4, bop := bop, cls := .bulk, srcCls := .bulk, count := 1, phase := ph }
def st0 : TStep := { (default : TStep) with op := 1, count := 1, kind := .line, ctx := 65536 }
def trUp (f : Trowel → Trowel) : State := { up with trowel := f up.trowel }
def stepUp (f : Trowel → Trowel) : State :=
  { trUp (fun t => f { t with ops := [op0 2 .running], steps := [st0] }) with
    tx := { up.tx with waiting := [{ heldAt 5 (msg opBulk 0 0 0 0) with step := some (1, 0) }] } }
/-- A row of bank 0 that a copy moves to row 0, and a state in which its source row is open and awaits its check. -/
def rm (src : Nat) : RowOp :=
  { (default : RowOp) with
    kind := 0, bank := physBank up (physBlock up 0) 0, src := src,
    dst := 0, dstBank := physBank up (physBlock up 0) 0, op := some 1, rank := 6, issued := none, checked := false }
def rowUp (src : Nat) : State :=
  modBlk { trUp (fun t => { t with ops := [op0 0 .running], steps := [{ st0 with kind := .rowGroup, rows := [(0, src)], ctx := 7 }] }) with
    tx := { up.tx with ctxs := [{ ctx0 7 5 opBulk with kind := .step }] } } (physBlock up 0)
    (fun k => { putBank k (rm src).bank { row := some src, echoOk := true } with rowOps := [rm src] })
def ro0 : RowOp := { (default : RowOp) with issued := some 0, op := some 1, kind := 0 }
def srUp (b : Nat) (f : SrBlock → SrBlock) : State := putSr up b (f (srBlk up b))
def migUp (r : Nat) (m : Migr) : State := putMigr up r m
def scrubUp (f : Scrub → Scrub) : State := { up with store := { up.store with scrub := f up.store.scrub } }
def wu (f : WidePort → WidePort) : State := { up with wp := f up.wp }
def wuL (st : WpState) (f : Link → Link) : State := wu (fun w => { w with st := st, link := f w.link })
def pu (f : FabPort → FabPort) : State := modPort up 3 f
def puL (st : FpState) (f : Link → Link) : State := pu (fun x => { x with st := st, link := f x.link })
def lu (f : Lane → Lane) : State := modLane up 3 4 f
/-- A NULL W-flit of an epoch. -/
def nullFlit (e : Nat) : WFlit :=
  wpFormat { (default : AFlit) with f := { (default : LFlit) with slots := [] }, epoch := e }
def fat : Credits := { req := 16, snp := 32, rsp := 64, dat := 64, blk := 4, mg := 4, datL := 64, mgL := 64 }
def out0 : OutMsg :=
  { h0 := hdr opRdCur 1 2 1 0, h1 := 0, lines := [], need := 0, ctx := none, final := false, allot := false, ing := some 4,
    since := 0, late := false }
def test0 : LaneTest := { hatch := 0, params := List.replicate 16 0, start := 0, bits := 0, errors := 0, resyncs := 0, binErr := [] }
/-- What a sync symbol measures, at no offset and with a good status word. -/
def seen0 : SyncSeen := { evm := 0, freq := 0, timing := 0, wordOk := true, snr := [], taps := [] }
def sub0 : LaneSubst := { logical := 0, failed := 0, spare := 4, since := 0 }
/-- A codeword whose payload is zero with its checksum, and one with more errors than can be corrected. -/
def cwGood : BitVec 3400 :=
  BitVec.ofNat 3400 (12455540330506567573890330144530538462302587577731548823069173338421756644806016 * 2 ^ 3136)
def cwBad : BitVec 3400 :=
  BitVec.ofNat 3400 (1300108683439244527477872971767105969037018240620753967012039911064001057604635721728 * 2 ^ 3120)

set_option maxRecDepth 1000000 in
theorem cwBad_decodes : fcwDecode cwBad = none := by decide +kernel
set_option maxRecDepth 1000000 in
theorem cwZero_decodes : fcwDecode 0 = some (0, []) := by decide +kernel
set_option maxRecDepth 1000000 in
theorem cwGood_decodes : fcwDecode cwGood = some (BitVec.ofNat 3200 (2613208154074762624 * 2 ^ 3136), []) := by decide +kernel
set_option maxRecDepth 1000000 in
theorem zero_crc : crc64 (leBytes 0 392) = 2613208154074762624 := by decide +kernel

/-- Every clause of StepRunsTheFrontCommand has a case. -/
theorem wit_StepRunsTheFrontCommand :
    (∃ (s : State), (s.pending = [])) :=
  ⟨up, by decide +kernel⟩

/-- Every clause of PaceSampleTakesTheLowestReading has a case. -/
theorem wit_PaceSampleTakesTheLowestReading :
    (∃ (s : State), ∃ (rs : List (BitVec 16)), (live s = true) ∧ (rs.length = 8) ∧ (paceDue s = false)) ∧
    (∃ (s : State), ∃ (rs : List (BitVec 16)), (live s = true) ∧ (rs.length = 8) ∧ ((∀ t0, s.pace.sampledAt = some t0 
      → waited s t0 10000 = true)) ∧ (0x1000 ≤ s.pace.warn.toNat) ∧ ((∀ r ∈ rs, s.pace.warn.toNat < r.toNat))) :=
  ⟨⟨{ up with pace := { up.pace with sampledAt := some up.now } }, List.replicate 8 0, by decide +kernel⟩,
   ⟨up, [0x1801, 0x1801, 0x1801, 0x1801, 0x1801, 0x1801, 0x1801, 0xFFFF], ⟨by decide, by decide, fun t0 h => by { have e : up.pace.sampledAt = none := (by decide +kernel); rw [e] at h; cases h }, by decide +kernel, by { have e : up.pace.warn = 0x1100#16 := (by decide +kernel); rw [e]; simp }⟩⟩⟩

/-- Every clause of PaceReactions has a case. -/
theorem wit_PaceReactions :
    (∃ (s : State), ∃ (v : BitVec 16), (live s = true) ∧ (paceDue s = true) ∧ (v.toNat ≤ s.pace.warn.toNat) ∧ (0x1000 
      ≤ v.toNat)) ∧
    (∃ (s : State), ∃ (v : BitVec 16), (live s = true) ∧ (paceDue s = true) ∧ (v.toNat ≤ s.pace.warn.toNat) ∧ 
      (v.toNat < 0x1000) ∧ (s.pace.armed = false) ∧ (s.pace.lowRun = 2) ∧ (s.pace.outOfRange = false)) ∧
    (∃ (s : State), ∃ (v : BitVec 16), (live s = true) ∧ (paceDue s = true) ∧ (v.toNat ≤ s.pace.warn.toNat) ∧ 
      (v.toNat < 0x1000) ∧ (s.pace.armed = false) ∧ (s.pace.outOfRange = true)) ∧
    (∃ (s : State), (live s = true) ∧ ((s.pace.vddOut = true ∨ s.pace.hot = true ∨ s.pace.okRun < 100))) ∧
    (∃ (s : State), (live s = true) ∧ (s.pace.vddOut = false) ∧ (s.pace.hot = false) ∧ (100 ≤ s.pace.okRun)) ∧
    (∃ (s : State), (live s = true)) ∧
    (∃ (s : State), (live s = true) ∧ ∃ (v : BitVec 16), (0x1000 ≤ v.toNat) ∧ (v.toNat ≤ 0x1800)) ∧
    (∃ (s : State), (live s = true) ∧ ∃ (v : BitVec 16), ((v.toNat < 0x1000 ∨ 0x1800 < v.toNat))) ∧
    (∃ (s : State), (live s = true) ∧ ∃ (since : Nat), (since + 100000 < s.now) ∧ (s.pace.outOfRange = false)) ∧
    (∃ (s : State), (live s = true)) :=
  ⟨⟨up, 0x1000, by decide +kernel⟩,
   ⟨{ up with pace := { up.pace with armed := false, lowRun := 2 } }, 0xFFF, by decide +kernel⟩,
   ⟨{ up with pace := { up.pace with armed := false, outOfRange := true } }, 0, by decide +kernel⟩,
   ⟨up, by decide +kernel⟩,
   ⟨{ up with pace := { up.pace with okRun := 100 } }, by decide +kernel⟩,
   ⟨up, by decide +kernel⟩,
   ⟨up, by decide +kernel, 0x1800, by decide +kernel⟩,
   ⟨up, by decide +kernel, 0x1801, by decide +kernel⟩,
   ⟨up, by decide +kernel, 0, by decide +kernel⟩,
   ⟨up, by decide +kernel⟩⟩

/-- Every clause of TimingUnitCommands has a case. -/
theorem wit_TimingUnitCommands :
    (∃ (s : State), (live s = true) ∧ ∃ (taps : Nat), ∃ (t0 : Nat), (s.cal.timing = .locked) ∧ (s.cal.tdcAt = some 
      t0) ∧ (waited s t0 1000000 = true) ∧ (700 ≤ taps) ∧ (taps ≤ 1400)) ∧
    (∃ (s : State), (live s = true) ∧ ∃ (taps : Nat), ∃ (t0 : Nat), (s.cal.timing = .locked) ∧ (s.cal.tdcAt = some 
      t0) ∧ (waited s t0 1000000 = true) ∧ (taps ≤ 2048) ∧ ((taps < 700 ∨ 1400 < taps))) ∧
    (∃ (s : State), (live s = true) ∧ ∃ (taps : Nat), ∃ (t0 : Nat), (s.cal.tdcAt = some t0) ∧ (waited s t0 1000000 = 
      false)) ∧
    (∃ (s : State), (live s = true) ∧ (s.cal.holdover = false) ∧ (s.cal.timing = .locked)) ∧
    (∃ (s : State), (live s = true) ∧ (s.cal.holdover = true) ∧ (s.cal.timing = .holdover)) ∧
    (∃ (s : State), (live s = true) ∧ ∃ (scales : List (BitVec 16)), (scales.length = 18) ∧ (s.cal.timing ≠ 
      .tdcFailed) ∧ (waited s s.cal.scaleAt 10000000000 = true)) :=
  ⟨⟨calUp (fun c => { c with tdcAt := some 0 }), by decide +kernel, 700, 0, by decide +kernel⟩,
   ⟨calUp (fun c => { c with tdcAt := some 0 }), by decide +kernel, 1401, 0, by decide +kernel⟩,
   ⟨calUp (fun c => { c with tdcAt := some up.now }), by decide +kernel, 700, up.now, by decide +kernel⟩,
   ⟨up, by decide +kernel⟩,
   ⟨{ up with cal := { up.cal with holdover := true, timing := .holdover } }, by decide +kernel⟩,
   ⟨up, by decide +kernel, List.replicate 18 0x1000, by decide +kernel⟩⟩

/-- Every clause of CalibrationWalks has a case. -/
theorem wit_CalibrationWalks :
    (∃ (s : State), ∃ (b : Nat), (live s = true) ∧ (b < 36) ∧ (s.cal.walkEn = true) ∧ (s.cal.timing = .locked) ∧ 
      (s.cal.done = true) ∧ ((blk s b).st = .serving) ∧ ((walkOf s b).next = none) ∧ ((walkOf s b).wire = none) ∧ 
      (freeTsvs s b ≠ []) ∧ (waited s (walkOf s b).lastFull (s.cal.walkPeriod.toNat * 1000000) = true)) ∧
    (∃ (s : State), ∃ (b : Nat), (live s = true) ∧ (b < 36) ∧ ∃ (n : Nat), ∃ (k : Nat), ∃ (rest : List Nat), ∃ (ds : 
      List (Nat × Nat × Option Nat)), ∃ (sp : List (Nat × Nat × Option Nat)), (s.cal.walkEn = true) ∧ (s.cal.timing = 
      .locked) ∧ ((walkOf s b).next = some n) ∧ ((walkOf s b).wire = none) ∧ ((walkOf s b).requal = []) ∧ (freeTsvs s 
      b = k :: rest) ∧ ((blk s b).st = .serving) ∧ (blockIdle s b 500 = true) ∧ (tapsOk ds = true) ∧ (tapsOk sp = 
      true) ∧ (wireFails s b n ds = false)) ∧
    (∃ (s : State), ∃ (b : Nat), (live s = true) ∧ (b < 36) ∧ ∃ n, ∃ key, ∃ v, (n + 1 < 152) ∧ ((walkOf s b).wire = 
      some n) ∧ ((walkOf s b).next = some n) ∧ ((walkOf s b).requal = []) ∧ ((walkOf s b).pend = [(key, v)]) ∧ 
      (blockIdle s b 500 = true) ∧ (waited s (walkOf s b).takenAt 1500 = true)) ∧
    (∃ (s : State), ∃ (b : Nat), (live s = true) ∧ (b < 36) ∧ (s.cal.walkEn = true) ∧ (s.cal.done = true) ∧ ((walkOf 
      s b).lateRaised = false) ∧ ((walkOf s b).next = some 0) ∧ (expired s (walkOf s b).lastDone (4 * 
      (s.cal.walkPeriod.toNat * 1000000)) = true)) :=
  ⟨⟨up, 35, by decide +kernel⟩,
   ⟨{ up with cal := { up.cal with walks := [(0, { next := some 0 })] } }, 0, by decide +kernel, by decide +kernel, 0, 0, [1, 2, 3, 4, 5, 6, 7], [], [(15, 1, none)], by decide +kernel⟩,
   ⟨{ up with cal := { up.cal with walks := [(0, { next := some 150, wire := some 150, pend := [(4800, 40960)] })] } }, 0, by decide +kernel, by decide +kernel, 150, 4800, 40960, by decide +kernel⟩,
   ⟨{ up with cal := { up.cal with walks := [(0, { next := some 0 })] } }, 0, by decide +kernel⟩⟩

/-- Every clause of ThermalSampleStatus has a case. -/
theorem wit_ThermalSampleStatus :
    (∃ (s : State), ∃ (die : Nat), ∃ (vals : List (Option (BitVec 16))), ∃ (spare : Option (BitVec 16)), ∃ (power : 
      List Nat), (wired s = true) ∧ (die < 18) ∧ (vals.length = (diePos die).length) ∧ (power.length = 4) ∧ (sampleDue 
      s die = true)) :=
  ⟨up, 17, List.replicate (diePos 17).length none, none, [0, 0, 0, 0], by decide +kernel⟩

/-- Every clause of ThrottleSteps has a case. -/
theorem wit_ThrottleSteps :
    (∃ (s : State), ∃ (r : Nat), (live s = true) ∧ (r < 4) ∧ ∃ t0, ((zone s r).lastDown = some t0) ∧ (zoneHot s r = 
      true) ∧ (waited s t0 100000 = true)) ∧
    (∃ (s : State), ∃ (r : Nat), (live s = true) ∧ (r < 4) ∧ ∃ t0, ((zone s r).belowSince = some t0) ∧ ((zone s r).t 
      < (if (zone s r).pre then 12 else 16)) ∧ (waited s (max t0 (zone s r).lastUp) 1000000 = true)) :=
  ⟨⟨heatUp (fun h => { h with zones := [(3, { lastDown := some 0 })], pos := [(3, { value := 2000 })] }), 3, by decide +kernel, by decide +kernel, 0, by decide +kernel⟩,
   ⟨heatUp (fun h => { h with zones := [(3, { belowSince := some 0, t := 15 })] }), 3, by decide +kernel, by decide +kernel, 0, by decide +kernel⟩⟩

/-- Every clause of ThermalStopEndAndResume has a case. -/
theorem wit_ThermalStopEndAndResume :
    (∃ (s : State), (live s = true) ∧ (s.heat.stop = .orderly) ∧ (waited s s.heat.stopAt 20000 = true) ∧ ((∀ b < 36, 
      activeBlock (blk s b) = false)) ∧ ((∀ b < 36, (blk s b).st ≠ .leaving))) ∧
    (∃ (s : State), (live s = true) ∧ ∃ t0, (s.heat.stop = .stopped) ∧ (s.heat.coolSince = some t0) ∧ (waited s t0 
      10000000 = true)) ∧
    (∃ (s : State), (live s = true) ∧ (s.heat.stop = .running)) ∧
    (∃ (s : State), (live s = true) ∧ (s.heat.storeOk = true) ∧ (waited s s.heat.wearSaved 3600000000000 = true) ∧ 
      (twBusyFor s .wear = false)) :=
  ⟨⟨{ heatUp (fun h => { h with stop := .orderly }) with blocks := (List.range 36).map (fun b => (b, { st := .selfRefresh })) }, by decide +kernel⟩,
   ⟨heatUp (fun h => { h with stop := .stopped, coolSince := some 0 }), by decide +kernel, 0, by decide +kernel⟩,
   ⟨up, by decide +kernel⟩,
   ⟨heatUp (fun h => { h with storeOk := true }), by decide +kernel⟩⟩

/-- Every clause of TwoWireBusTransactions has a case. -/
theorem wit_TwoWireBusTransactions :
    (∃ (s : State), (live s = true) ∧ ∃ (t : TwTrans), ∃ (i : Nat), (s.tw.cur = none) ∧ (s.tw.stuck = false) ∧ 
      (twPick s = some i) ∧ (s.tw.waiting[i]? = some t) ∧ (pageStop s t = none)) ∧
    (∃ (s : State), (live s = true) ∧ ∃ (t : TwTrans), (s.tw.cur = some t) ∧ (twDevice t.kind ≠ none) ∧ 
      (s.tw.idleSince = none)) ∧
    (∃ (s : State), (live s = true) ∧ ∃ (t : TwTrans), ∃ (a : Nat), ∃ (d : List (BitVec 8)), ∃ (u : Nat), (s.tw.cur = 
      none) ∧ (s.tw.stuck = false) ∧ (s.boot.phase ≠ .image) ∧ (t.kind = .eeWrite a d) ∧ (t.who = .larder) ∧ (t.unsent 
      = false) ∧ (twChunk s t.kind = d.length) ∧ (s.tw.polls = [(t, none, u)])) ∧
    (∃ (s : State), (live s = true) ∧ ∃ (t : TwTrans), (s.tw.cur = some t) ∧ (s.tw.idleSince = none)) ∧
    (∃ (s : State), (live s = true) ∧ ∃ (t : TwTrans), ∃ (rd : List (BitVec 8)), ∃ (v : Nat), (s.tw.cur = some t) ∧ 
      (s.tw.idleSince = none) ∧ (t.kind = .readVout) ∧ (voutMv s (leAt rd 0 2) = some v)) ∧
    (∃ (s : State), (live s = true) ∧ ∃ (t : TwTrans), ∃ (rd : List (BitVec 8)), (s.tw.cur = some t) ∧ 
      (s.tw.idleSince = none) ∧ (t.attempts < 3)) ∧
    (∃ (s : State), (live s = true)) ∧
    (∃ (s : State), (live s = true) ∧ ∃ t, ∃ u, (s.tw.cur = none) ∧ (s.tw.stuck = false) ∧ (s.boot.phase ≠ .image) ∧ 
      (s.tw.polls = [(t, none, u)])) ∧
    (∃ (s : State), (live s = true) ∧ ∃ (ack : Bool), (s.tw.cur = none) ∧ (s.tw.stuck = false) ∧ (s.boot.phase = 
      .image)) ∧
    (∃ (s : State), (live s = true) ∧ ∃ t, ∃ f, ∃ u, (s.boot.phase ≠ .image) ∧ (s.tw.polls = [(t, some f, u)]) ∧ 
      (expired s f 10000000 = true) ∧ (t.attempts < 3)) ∧
    (∃ (s : State), (live s = true) ∧ ∃ t, (s.tw.cur = some t) ∧ (t.attempts < 3)) ∧
    (∃ (s : State), (live s = true) ∧ ∃ u, (s.tw.stretch = some u) ∧ (expired s u 10000000 = true) ∧ (s.tw.stuck = 
      false)) ∧
    (∃ (s : State), (live s = true) ∧ ∃ t, ∃ u, ∃ t0, (s.tw.cur = some t) ∧ (s.tw.idleSince = some (u, t0))) ∧
    (∃ (s : State), (live s = true) ∧ ∃ t, ∃ u, ∃ t0, (s.tw.cur = some t) ∧ (s.tw.idleSince = some (u, t0)) ∧ (waited 
      s u 100000 = true) ∧ (t.attempts < 4)) ∧
    (∃ (s : State), (live s = true) ∧ ∃ t, ∃ u, ∃ t0, (s.tw.cur = some t) ∧ (s.tw.idleSince = some (u, t0)) ∧ 
      (expired s t0 10000000 = true) ∧ (t.attempts < 4)) ∧
    (∃ (s : State), (live s = true) ∧ (s.tw.alertC0 = none)) :=
  ⟨⟨twUp (fun w => { w with waiting := [twT .statusWord .stack] }), by decide +kernel, twT .statusWord .stack, 0, by decide +kernel⟩,
   ⟨twUp (fun w => { w with cur := some (twT (.eeRead 0 4) .larder) }), by decide +kernel, twT (.eeRead 0 4) .larder, by decide +kernel⟩,
   ⟨twUp (fun w => { w with polls := [(twT (.eeWrite 0x10000 [1, 2]) .larder, none, 0)] }), by decide +kernel, twT (.eeWrite 0x10000 [1, 2]) .larder, 0x10000, [1, 2], 0, by decide +kernel⟩,
   ⟨twUp (fun w => { w with cur := some (twT .statusWord .stack) }), by decide +kernel, twT .statusWord .stack, by decide +kernel⟩,
   ⟨twUp (fun w => { w with cur := some (twT .readVout .stack), voutMode := some 0x18 }), by decide +kernel, twT .readVout .stack, [184, 0], 719, by decide +kernel⟩,
   ⟨twUp (fun w => { w with cur := some (twT .statusWord .stack) }), by decide +kernel, twT .statusWord .stack, [], by decide +kernel⟩,
   ⟨up, by decide +kernel⟩,
   ⟨twUp (fun w => { w with polls := [(twT .statusWord .stack, none, 0)] }), by decide +kernel, twT .statusWord .stack, 0, by decide +kernel⟩,
   ⟨{ up with boot := { up.boot with phase := .image } }, by decide +kernel, true, by decide +kernel⟩,
   ⟨twUp (fun w => { w with polls := [(twT .statusWord .stack, some 0, 0)] }), by decide +kernel, twT .statusWord .stack, 0, 0, by decide +kernel⟩,
   ⟨twUp (fun w => { w with cur := some (twT .statusWord .stack) }), by decide +kernel, twT .statusWord .stack, by decide +kernel⟩,
   ⟨twUp (fun w => { w with stretch := some 0 }), by decide +kernel, 0, by decide +kernel⟩,
   ⟨twUp (fun w => { w with cur := some (twT .statusWord .stack), idleSince := some (0, 0) }), by decide +kernel, twT .statusWord .stack, 0, 0, by decide +kernel⟩,
   ⟨twUp (fun w => { w with cur := some (twT .statusWord .stack), idleSince := some (0, 0) }), by decide +kernel, twT .statusWord .stack, 0, 0, by decide +kernel⟩,
   ⟨twUp (fun w => { w with cur := some (twT .statusWord .stack), idleSince := some (0, 0) }), by decide +kernel, twT .statusWord .stack, 0, 0, by decide +kernel⟩,
   ⟨up, by decide +kernel⟩⟩

/-- Every clause of TwoWireRequests has a case. -/
theorem wit_TwoWireRequests :
    (∃ (s : State), (live s = true) ∧ ∃ (mv : Nat), ∃ (m : Nat), (s.boot.larder = .running) ∧ (s.tw.regEn = true) ∧ 
      (mantissa s mv = some m)) ∧
    (∃ (s : State), (live s = true) ∧ ∃ (mv : Nat), (s.boot.larder = .running) ∧ (mantissa s mv = none)) ∧
    (∃ (s : State), (live s = true) ∧ (s.tw.regEn = true) ∧ (waited s s.tw.lastPoll 100000000 = true)) ∧
    (∃ (s : State), (live s = true) ∧ ∃ (i : Nat), ∃ (bs : List (BitVec 8)), ∃ (rd : Nat), (i < 4) ∧ (bs.length + rd 
      ≤ 16) ∧ (s.boot.larder = .running) ∧ (s.tw.sensorEn.getLsbD i = true)) ∧
    (∃ (s : State), (live s = true) ∧ ∃ (addr : Nat), ∃ (bs : List (BitVec 8)), (0x10000 ≤ addr) ∧ (addr + bs.length 
      ≤ 0x20000) ∧ (bs ≠ []) ∧ (s.boot.larder = .running)) ∧
    (∃ (s : State), (live s = true) ∧ ∃ (addr : Nat), ∃ (rd : Nat), (0x10000 ≤ addr) ∧ (addr + rd ≤ 0x20000) ∧ (rd ≠ 
      0) ∧ (s.boot.larder = .running)) ∧
    (∃ (s : State), (live s = true) ∧ (s.store.unsaved = true) ∧ (s.store.saving = none) ∧ (s.heat.storeOk = true) ∧ 
      (twBusyFor s .storeRoom = false)) ∧
    (∃ (s : State), (live s = true) ∧ (s.cal.moved = true) ∧ (s.heat.storeOk = true) ∧ (s.cal.lastWrite = 0) ∧ 
      (twBusyFor s .calibration = false)) :=
  ⟨⟨twUp (fun w => { w with voutMode := some 0x18 }), by decide +kernel, 720, 184, by decide +kernel⟩,
   ⟨up, by decide +kernel, 0, by decide +kernel⟩,
   ⟨up, by decide +kernel⟩,
   ⟨{ twUp (fun w => { w with sensorEn := 8 }) with free := 0 }, by decide +kernel, 3, [1], 15, by decide +kernel⟩,
   ⟨up, by decide +kernel, 0x1FFFF, [1], by decide +kernel⟩,
   ⟨up, by decide +kernel, 0x10000, 1, by decide +kernel⟩,
   ⟨{ heatUp (fun h => { h with storeOk := true }) with store := { up.store with unsaved := true } }, by decide +kernel⟩,
   ⟨{ heatUp (fun h => { h with storeOk := true }) with cal := { up.cal with moved := true } }, by decide +kernel⟩⟩

/-- Every clause of HatchBuffersAndRings has a case. -/
theorem wit_HatchBuffersAndRings :
    (∃ (s : State), ∃ (h : Nat), ∃ (node : Node), (live s = true) ∧ (h < 16) ∧ (hatchOn s h = true) ∧ ∃ (off : Nat), 
      ∃ (bs : List (BitVec 8)), (node = hatchNode s h) ∧ (off + bs.length ≤ 4096)) ∧
    (∃ (s : State), ∃ (h : Nat), ∃ (node : Node), (live s = true) ∧ (h < 16) ∧ (hatchOn s h = true) ∧ ∃ (off : Nat), 
      ∃ (bs : List (BitVec 8)), (node ≠ hatchNode s h) ∧ (off + bs.length ≤ 4096)) ∧
    (∃ (s : State), ∃ (h : Nat), ∃ (node : Node), (live s = true) ∧ (h < 16) ∧ (hatchOn s h = true) ∧ (node = 
      hatchNode s h) ∧ (((hatch s h).st = .idle ∨ (hatch s h).st = .done))) ∧
    (∃ (s : State), ∃ (h : Nat), ∃ (node : Node), (live s = true) ∧ (h < 16) ∧ (hatchOn s h = true) ∧ ((node ≠ 
      hatchNode s h ∨ (hatch s h).st = .busy)) ∧ ((hatch s h).st ≠ .frozen)) :=
  ⟨⟨up, 15, 0xFFF, by decide +kernel, by decide +kernel, by decide +kernel, 4090, [1, 2, 3, 4, 5, 6], by decide +kernel⟩,
   ⟨up, 15, 0xFF0, by decide +kernel, by decide +kernel, by decide +kernel, 0, [], by decide +kernel⟩,
   ⟨up, 0, 0xFF0, by decide +kernel⟩,
   ⟨up, 0, 0, by decide +kernel⟩⟩

/-- Every clause of HatchRequestChecks has a case. -/
theorem wit_HatchRequestChecks :
    (∃ (s : State), ∃ (h : Nat), (live s = true) ∧ (h < 16) ∧ (hatchOn s h = true) ∧ (((hatch s h).st = .idle ∨ 
      (hatch s h).st = .done)) ∧ (1016 < (leNat (bmRead (hatch s h).req 4 2)))) ∧
    (∃ (s : State), ∃ (h : Nat), (live s = true) ∧ (h < 16) ∧ (hatchOn s h = true) ∧ (((hatch s h).st = .idle ∨ 
      (hatch s h).st = .done)) ∧ ((leNat (bmRead (hatch s h).req 4 2)) ≤ 1016) ∧ (2 ≤ (leNat (bmRead (hatch s h).req 7 
      1)))) ∧
    (∃ (s : State), ∃ (h : Nat), (live s = true) ∧ (h < 16) ∧ (hatchOn s h = true) ∧ (((hatch s h).st = .idle ∨ 
      (hatch s h).st = .done)) ∧ ((leNat (bmRead (hatch s h).req 4 2)) ≤ 1016) ∧ ((leNat (bmRead (hatch s h).req 7 1)) 
      < 2) ∧ (leNat (bmRead (hatch s h).req 8 24) ≠ 0)) ∧
    (∃ (s : State), ∃ (h : Nat), (live s = true) ∧ (h < 16) ∧ (hatchOn s h = true) ∧ (((hatch s h).st = .idle ∨ 
      (hatch s h).st = .done)) ∧ ((leNat (bmRead (hatch s h).req 4 2)) ≤ 1016) ∧ ((leNat (bmRead (hatch s h).req 7 1)) 
      < 2) ∧ (leNat (bmRead (hatch s h).req 8 24) = 0) ∧ ((leNat (bmRead (hatch s h).req 6 1) ≠ 3 ∨ opListed (leNat 
      (bmRead (hatch s h).req 0 2)) = false))) ∧
    (∃ (s : State), ∃ (h : Nat), (live s = true) ∧ (h < 16) ∧ (hatchOn s h = true) ∧ (((hatch s h).st = .idle ∨ 
      (hatch s h).st = .done)) ∧ ((leNat (bmRead (hatch s h).req 4 2)) ≤ 1016) ∧ ((leNat (bmRead (hatch s h).req 7 1)) 
      < 2) ∧ (leNat (bmRead (hatch s h).req 8 24) = 0) ∧ (leNat (bmRead (hatch s h).req 6 1) = 3) ∧ (opListed (leNat 
      (bmRead (hatch s h).req 0 2)) = true) ∧ (opStrong (leNat (bmRead (hatch s h).req 0 2)) = false) ∧ (s.boot.larder 
      = .stopped)) ∧
    (∃ (s : State), ∃ (h : Nat), (live s = true) ∧ (h < 16) ∧ (hatchOn s h = true) ∧ (((hatch s h).st = .idle ∨ 
      (hatch s h).st = .done)) ∧ ((leNat (bmRead (hatch s h).req 4 2)) ≤ 1016) ∧ ((leNat (bmRead (hatch s h).req 7 1)) 
      < 2) ∧ (leNat (bmRead (hatch s h).req 8 24) = 0) ∧ (leNat (bmRead (hatch s h).req 6 1) = 3) ∧ (opListed (leNat 
      (bmRead (hatch s h).req 0 2)) = true) ∧ (opStrong (leNat (bmRead (hatch s h).req 0 2)) = false) ∧ (s.boot.larder 
      ≠ .stopped) ∧ (s.boot.larder ≠ .running)) ∧
    (∃ (s : State), ∃ (h : Nat), (live s = true) ∧ (h < 16) ∧ (hatchOn s h = true) ∧ (((hatch s h).st = .idle ∨ 
      (hatch s h).st = .done)) ∧ ((leNat (bmRead (hatch s h).req 4 2)) ≤ 1016) ∧ ((leNat (bmRead (hatch s h).req 7 1)) 
      < 2) ∧ (leNat (bmRead (hatch s h).req 8 24) = 0) ∧ (leNat (bmRead (hatch s h).req 6 1) = 3) ∧ (opListed (leNat 
      (bmRead (hatch s h).req 0 2)) = true) ∧ ((opStrong (leNat (bmRead (hatch s h).req 0 2)) = true ∨ s.boot.larder = 
      .running)) ∧ ((leNat (bmRead (hatch s h).req 0 2)) = 0x0202) ∧ (h ≠ s.acc.fmHatch.toNat)) ∧
    (∃ (s : State), ∃ (h : Nat), (live s = true) ∧ (h < 16) ∧ (hatchOn s h = true) ∧ (((hatch s h).st = .idle ∨ 
      (hatch s h).st = .done)) ∧ ((leNat (bmRead (hatch s h).req 4 2)) ≤ 1016) ∧ ((leNat (bmRead (hatch s h).req 7 1)) 
      < 2) ∧ (leNat (bmRead (hatch s h).req 8 24) = 0) ∧ (leNat (bmRead (hatch s h).req 6 1) = 3) ∧ (opListed (leNat 
      (bmRead (hatch s h).req 0 2)) = true) ∧ ((opStrong (leNat (bmRead (hatch s h).req 0 2)) = true ∨ s.boot.larder = 
      .running)) ∧ ((leNat (bmRead (hatch s h).req 0 2)) = 0x0304) ∧ ((leNat (bmRead (hatch s h).req 4 2)) = 0)) :=
  ⟨⟨asks up 0 0x0304 1017 0 0 3, 0, by decide +kernel⟩,
   ⟨asks up 0 0x0304 1016 2 0 3, 0, by decide +kernel⟩,
   ⟨asks up 0 0x0304 1016 1 1 3, 0, by decide +kernel⟩,
   ⟨asks up 0 0x0304 0 0 0 4, 0, by decide +kernel⟩,
   ⟨asks { up with boot := { up.boot with larder := .stopped } } 0 0x0304 0 0 0 3, 0, by decide +kernel⟩,
   ⟨asks { up with boot := { up.boot with larder := .notStarted } } 0 0x0304 0 0 0 3, 0, by decide +kernel⟩,
   ⟨asks up 1 0x0202 0 0 0 3, 1, by decide +kernel⟩,
   ⟨asks up 0 0x0304 0 0 0 3, 0, by decide +kernel⟩⟩

/-- Every clause of HatchAnswerAndInjection has a case. -/
theorem wit_HatchAnswerAndInjection :
    (∃ (s : State), ∃ (h : Nat), (live s = true) ∧ (h < 16) ∧ ∃ (st : Nat), ∃ (p : List (BitVec 8)), ∃ (done : Nat), 
      ∃ (errAt : Nat), ((hatch s h).st = .busy) ∧ (st < 256) ∧ (p.length ≤ 4064) ∧ ((hatch s h).result = some (st, p, 
      done, errAt)) ∧ ((hatch s h).notify = false)) ∧
    (∃ (s : State), ∃ (h : Nat), (live s = true) ∧ (h < 16) ∧ ((hatch s h).result = none)) ∧
    (∃ (s : State), ∃ (h : Nat), (live s = true) ∧ (h < 16) ∧ (hatchReady s h 0x03F0 0x03FF = true)) :=
  ⟨⟨putHatch up 0 { st := .busy, result := some (255, [], 0, 0) }, 0, by decide +kernel, by decide +kernel, 255, [], 0, 0, by decide +kernel⟩,
   ⟨up, 15, by decide +kernel⟩,
   ⟨ring 0x03FF [], 0, by decide +kernel⟩⟩

/-- Every clause of LiveConfiguration has a case. -/
theorem wit_LiveConfiguration :
    (∃ (s : State), ∃ (h : Nat), (live s = true) ∧ (h < 16) ∧ (hatchReady s h 0x0201 0x0201 = true) ∧ (reservedBad s 
      h [(0, 4)] = []) ∧ (cfgGet s (pl s h 0 2) (pl s h 2 1) (pl s h 3 1) = none)) ∧
    (∃ (s : State), ∃ (h : Nat), (live s = true) ∧ (h < 16) ∧ (hatchReady s h 0x0201 0x0201 = true) ∧ (reservedBad s 
      h [(0, 4)] = []) ∧ ∃ old, (cfgGet s (pl s h 0 2) (pl s h 2 1) (pl s h 3 1) = some old) ∧ (cfgIndexBad (pl s h 0 
      2) (pl s h 3 1) = true)) ∧
    (∃ (s : State), ∃ (h : Nat), (live s = true) ∧ (h < 16) ∧ (hatchReady s h 0x0201 0x0201 = true) ∧ (reservedBad s 
      h [(0, 4)] = []) ∧ ∃ old, (cfgGet s (pl s h 0 2) (pl s h 2 1) (pl s h 3 1) = some old) ∧ (cfgIndexBad (pl s h 0 
      2) (pl s h 3 1) = false)) ∧
    (∃ (s : State), ∃ (h : Nat), (live s = true) ∧ (h < 16) ∧ (hatchReady s h 0x0202 0x0202 = true) ∧ (reservedBad s 
      h [(0, 4), (8, 8)] = []) ∧ (cfgGet s (pl s h 0 2) (pl s h 2 1) (pl s h 3 1) = none)) ∧
    (∃ (s : State), ∃ (h : Nat), (live s = true) ∧ (h < 16) ∧ (hatchReady s h 0x0202 0x0202 = true) ∧ (reservedBad s 
      h [(0, 4), (8, 8)] = []) ∧ ∃ old, (cfgGet s (pl s h 0 2) (pl s h 2 1) (pl s h 3 1) = some old) ∧ (cfgIndexBad 
      (pl s h 0 2) (pl s h 3 1) = false) ∧ (cfgPut s (pl s h 0 2) (pl s h 2 1) (pl s h 3 1) (pl s h 8 8) = none)) ∧
    (∃ (s : State), ∃ (h : Nat), (live s = true) ∧ (h < 16) ∧ (hatchReady s h 0x0202 0x0202 = true) ∧ (reservedBad s 
      h [(0, 4), (8, 8)] = []) ∧ ∃ old, ∃ u, (cfgGet s (pl s h 0 2) (pl s h 2 1) (pl s h 3 1) = some old) ∧ 
      (cfgIndexBad (pl s h 0 2) (pl s h 3 1) = false) ∧ (cfgPut s (pl s h 0 2) (pl s h 2 1) (pl s h 3 1) (pl s h 8 8) 
      = some u)) ∧
    (∃ (s : State), ∃ (h : Nat), (live s = true) ∧ (h < 16) ∧ (hatchReady s h 0x0202 0x0202 = true) ∧ (reservedBad s 
      h [(0, 4), (8, 8)] = []) ∧ ∃ old, ∃ u, (cfgGet s (pl s h 0 2) (pl s h 2 1) (pl s h 3 1) = some old) ∧ 
      (cfgIndexBad (pl s h 0 2) (pl s h 3 1) = false) ∧ (cfgPut s (pl s h 0 2) (pl s h 2 1) (pl s h 3 1) (pl s h 8 8) 
      = some u) ∧ ((pl s h 0 2) ≠ 2) ∧ ((pl s h 0 2) ≠ 7)) ∧
    (∃ (s : State), ∃ (h : Nat), (live s = true) ∧ (h < 16) ∧ (hatchReady s h 0x0202 0x0202 = true) ∧ (reservedBad s 
      h [(0, 4), (8, 8)] = []) ∧ ∃ old, ∃ u, (cfgGet s (pl s h 0 2) (pl s h 2 1) (pl s h 3 1) = some old) ∧ 
      (cfgIndexBad (pl s h 0 2) (pl s h 3 1) = false) ∧ (cfgPut s (pl s h 0 2) (pl s h 2 1) (pl s h 3 1) (pl s h 8 8) 
      = some u) ∧ ((pl s h 0 2) = 2) ∧ (s.wp.allot - s.wp.allotFree ≤ (pl s h 8 8))) :=
  ⟨⟨ring 0x0201 [2, 0, 0, 0], 0, by decide +kernel⟩,
   ⟨ring 0x0201 [2, 0, 4, 1], 0, by decide +kernel, by decide +kernel, by decide +kernel, by decide +kernel, 4096, by decide +kernel⟩,
   ⟨ring 0x0201 [2, 0, 4, 0], 0, by decide +kernel, by decide +kernel, by decide +kernel, by decide +kernel, 4096, by decide +kernel⟩,
   ⟨ring 0x0202 ([2, 0, 0, 0] ++ List.replicate 12 0), 0, by decide +kernel⟩,
   ⟨ring 0x0202 ([2, 0, 4, 0, 0, 0, 0, 0, 63] ++ List.replicate 7 0), 0, by decide +kernel, by decide +kernel, by decide +kernel, by decide +kernel, 4096, by decide +kernel⟩,
   ⟨ring 0x0202 ([2, 0, 4, 0, 0, 0, 0, 0, 64] ++ List.replicate 7 0), 0, by decide +kernel, by decide +kernel, by decide +kernel, by decide +kernel, 4096, (cfgPut (ring 0x0202 ([2, 0, 4, 0, 0, 0, 0, 0, 64] ++ List.replicate 7 0)) 2 4 0 64).getD up, by decide +kernel⟩,
   ⟨ring 0x0202 ([15, 0, 2, 0, 0, 0, 0, 0, 2] ++ List.replicate 7 0), 0, by decide +kernel, by decide +kernel, by decide +kernel, by decide +kernel, 1, (cfgPut (ring 0x0202 ([15, 0, 2, 0, 0, 0, 0, 0, 2] ++ List.replicate 7 0)) 15 2 0 2).getD up, by decide +kernel⟩,
   ⟨ring 0x0202 ([2, 0, 4, 0, 0, 0, 0, 0, 64] ++ List.replicate 7 0), 0, by decide +kernel, by decide +kernel, by decide +kernel, by decide +kernel, 4096, (cfgPut (ring 0x0202 ([2, 0, 4, 0, 0, 0, 0, 0, 64] ++ List.replicate 7 0)) 2 4 0 64).getD up, by decide +kernel⟩⟩

/-- Every clause of TableCommands has a case. -/
theorem wit_TableCommands :
    (∃ (s : State), ∃ (h : Nat), (live s = true) ∧ (h < 16) ∧ (hatchReady s h 0x0210 0x0210 = true) ∧ (reservedBad s 
      h [(0, 1), (2, 4), (8, (pl s h 4 2) * (tblSize (pl s h 0 1)))] = []) ∧ ((pl s h 0 1) < 5) ∧ (1 ≤ (pl s h 4 2)) ∧ 
      ((pl s h 2 2) + (pl s h 4 2) ≤ tblCount (pl s h 0 1)) ∧ (8 + (pl s h 4 2) * (tblSize (pl s h 0 1)) ≤ 4064) ∧ ((∀ 
      i < (pl s h 4 2), tblPad (pl s h 0 1) (pl s h (8 + i * (tblSize (pl s h 0 1))) (tblSize (pl s h 0 1))) = false)) 
      ∧ (((pl s h 0 1) ≤ 1 → s.fab.committing = false))) ∧
    (∃ (s : State), ∃ (h : Nat), (live s = true) ∧ (h < 16) ∧ (hatchReady s h 0x0211 0x0211 = true) ∧ (reservedBad s 
      h [(0, 6)] = []) ∧ ((pl s h 0 1) < 5) ∧ ((pl s h 1 1) < 2) ∧ (1 ≤ (pl s h 4 2)) ∧ ((pl s h 2 2) + (pl s h 4 2) ≤ 
      tblCount (pl s h 0 1)) ∧ (8 + (pl s h 4 2) * (tblSize (pl s h 0 1)) ≤ 4064)) :=
  ⟨⟨ring 0x0210 [0, 0, 0xFF, 0x0F, 1, 0, 0, 0, 0x36, 0], 0, by decide +kernel⟩,
   ⟨ring 0x0211 [4, 1, 0, 0, 1, 0, 0, 0], 0, by decide +kernel⟩⟩

/-- Every clause of AccessTableCommands has a case. -/
theorem wit_AccessTableCommands :
    (∃ (s : State), ∃ (h : Nat), (live s = true) ∧ (h < 16) ∧ (hatchReady s h 0x0230 0x0230 = true) ∧ (reservedBad s 
      h [(0, 1), (2, 4), (8, (pl s h 4 2) * (accSize (pl s h 0 1)))] = []) ∧ ((pl s h 0 1) < 23) ∧ (1 ≤ (pl s h 4 2)) 
      ∧ ((pl s h 2 2) + (pl s h 4 2) ≤ accCount (pl s h 0 1)) ∧ (8 + (pl s h 4 2) * (accSize (pl s h 0 1)) ≤ 4064) ∧ 
      (s.acc.commit.isSome = true)) ∧
    (∃ (s : State), ∃ (h : Nat), (live s = true) ∧ (h < 16) ∧ (hatchReady s h 0x0230 0x0230 = true) ∧ (reservedBad s 
      h [(0, 1), (2, 4), (8, (pl s h 4 2) * (accSize (pl s h 0 1)))] = []) ∧ ((pl s h 0 1) < 23) ∧ (1 ≤ (pl s h 4 2)) 
      ∧ ((pl s h 2 2) + (pl s h 4 2) ≤ accCount (pl s h 0 1)) ∧ (8 + (pl s h 4 2) * (accSize (pl s h 0 1)) ≤ 4064) ∧ 
      (s.acc.commit = none)) ∧
    (∃ (s : State), ∃ (h : Nat), (live s = true) ∧ (h < 16) ∧ (hatchReady s h 0x0231 0x0231 = true) ∧ (reservedBad s 
      h [(0, 6)] = []) ∧ ((pl s h 0 1) < 23) ∧ ((pl s h 1 1) < 2) ∧ (1 ≤ (pl s h 4 2)) ∧ ((pl s h 2 2) + (pl s h 4 2) 
      ≤ accCount (pl s h 0 1)) ∧ (8 + (pl s h 4 2) * (accSize (pl s h 0 1)) ≤ 4064)) ∧
    (∃ (s : State), ∃ (h : Nat), (live s = true) ∧ (h < 16) ∧ (hatchReady s h 0x0233 0x0233 = true)) ∧
    (∃ (s : State), ∃ (h : Nat), (live s = true) ∧ (h < 16) ∧ (hatchReady s h 0x0234 0x0234 = true) ∧ (reservedBad s 
      h [(0, 1)] = []) ∧ ((pl s h 0 1) < 22)) ∧
    (∃ (s : State), ∃ (h : Nat), (live s = true) ∧ (h < 16) ∧ (hatchReady s h 0x0235 0x0235 = true) ∧ (reservedBad s 
      h [(0, 1)] = []) ∧ (((pl s h 0 1) < 22 ∨ (pl s h 0 1) = 0xFF))) :=
  ⟨⟨ringOn { up with acc := { up.acc with commit := some { hatch := none, bulkEnd := false, narrowed := [] } } } 0 0x0230 [0, 0, 0xFF, 0x0F, 1, 0, 0, 0, 1], 0, by decide +kernel⟩,
   ⟨ring 0x0230 [0, 0, 0xFF, 0x0F, 1, 0, 0, 0, 1], 0, by decide +kernel⟩,
   ⟨ring 0x0231 [22, 1, 0xFF, 0, 1, 0, 0, 0], 0, by decide +kernel⟩,
   ⟨ring 0x0233 [], 0, by decide +kernel⟩,
   ⟨ring 0x0234 [21, 0, 0, 0], 0, by decide +kernel⟩,
   ⟨ring 0x0235 [0xFF, 0, 0, 0], 0, by decide +kernel⟩⟩

/-- Every clause of RouteCommitAndMapSwitch has a case. -/
theorem wit_RouteCommitAndMapSwitch :
    (∃ (s : State), ∃ (h : Nat), (live s = true) ∧ (h < 16) ∧ (hatchReady s h 0x0212 0x0212 = true) ∧ 
      (s.fab.committing = true)) ∧
    (∃ (s : State), ∃ (h : Nat), (live s = true) ∧ (h < 16) ∧ (hatchReady s h 0x0212 0x0212 = true) ∧ ∃ (i : Nat), 
      (s.fab.committing = false) ∧ (routeErr s = some i)) ∧
    (∃ (s : State), ∃ (h : Nat), (live s = true) ∧ (h < 16) ∧ (hatchReady s h 0x0212 0x0212 = true) ∧ 
      (s.fab.committing = false) ∧ (routeErr s = none) ∧ (recallRanges s = []) ∧ ((bulkRanges s = [] ∨ s.uc.tags = 
      [])) ∧ (s.trowel.scans.any (fun c => c.owner == .routeCommit) = false) ∧ ((hatch s h).notify = false)) ∧
    (∃ (s : State), ∃ (h : Nat), (live s = true) ∧ (h < 16) ∧ (s.fab.committing = true) ∧ ((bulkRanges s = [] ∨ 
      s.uc.tags = [])) ∧ (s.trowel.scans.any (fun c => c.owner == .routeCommit) = false) ∧ (s.mg.routeCommit = some h) 
      ∧ ((hatch s h).st = .busy) ∧ ((hatch s h).notify = false)) ∧
    (∃ (s : State), ∃ (h : Nat), (live s = true) ∧ (h < 16) ∧ (s.trowel.scans.any (fun c => c.owner == .routeCommit) 
      = true)) :=
  ⟨⟨ringOn { up with fab := { up.fab with committing := true } } 0 0x0212 [], 0, by decide +kernel⟩,
   ⟨ringOn { up with fab := { up.fab with routesSh := [(0, 0x3F)] } } 0 0x0212 [], 0, by decide +kernel, by decide +kernel, by decide +kernel, 0, by decide +kernel⟩,
   ⟨ring 0x0212 [], 0, by decide +kernel⟩,
   ⟨{ putHatch up 0 { st := .busy } with fab := { up.fab with committing := true }, mg := { (putHatch up 0 { st := .busy }).mg with routeCommit := some 0 } }, 0, by decide +kernel⟩,
   ⟨{ up with trowel := { up.trowel with scans := [{ owner := .routeCommit, region := 0, first := 0, last := 0, inv := true }] } }, 0, by decide +kernel⟩⟩

/-- Every clause of RegulatorCommit has a case. -/
theorem wit_RegulatorCommit :
    (∃ (s : State), ∃ (h : Nat), (live s = true) ∧ (h < 16) ∧ (hatchReady s h 0x0213 0x0213 = true) ∧ (classCommit s 
      = true)) ∧
    (∃ (s : State), ∃ (h : Nat), (live s = true) ∧ (h < 16) ∧ (hatchReady s h 0x0213 0x0213 = true) ∧ ∃ (i : Nat), 
      (classCommit s = false) ∧ ((regErr s.fab.windows s.reg.mastersSh s.reg.wclassSh s.reg.bulkSh) = some i)) ∧
    (∃ (s : State), ∃ (h : Nat), (live s = true) ∧ (h < 16) ∧ (hatchReady s h 0x0213 0x0213 = true) ∧ (classCommit s 
      = false) ∧ ((regErr s.fab.windows s.reg.mastersSh s.reg.wclassSh s.reg.bulkSh) = none) ∧ (admitted (sumOf 
      s.reg.mastersSh s.reg.bulkSh) (dfNow s) = false)) ∧
    (∃ (s : State), ∃ (h : Nat), (live s = true) ∧ (h < 16) ∧ (hatchReady s h 0x0213 0x0213 = true) ∧ (classCommit s 
      = false) ∧ ((regErr s.fab.windows s.reg.mastersSh s.reg.wclassSh s.reg.bulkSh) = none) ∧ (admitted (sumOf 
      s.reg.mastersSh s.reg.bulkSh) (dfNow s) = true)) :=
  ⟨⟨ringOn { up with fab := { up.fab with committing := true, windowsSh := [(0, 0x1FE00000000305)] } } 0 0x0213 [], 0, by decide +kernel⟩,
   ⟨ringOn { up with reg := { up.reg with wclassSh := [(0, 3)] } } 0 0x0213 [], 0, by decide +kernel, by decide +kernel, by decide +kernel, 4096, by decide +kernel⟩,
   ⟨ringOn { up with reg := { up.reg with bulkSh := { up.reg.bulkSh with min := 14401, depth := 255 } } } 0 0x0213 [], 0, by decide +kernel⟩,
   ⟨ring 0x0213 [], 0, by decide +kernel⟩⟩

/-- Every clause of AccessCommitAndSwitch has a case. -/
theorem wit_AccessCommitAndSwitch :
    (∃ (s : State), ∃ (h : Nat), (live s = true) ∧ (h < 16) ∧ (hatchReady s h 0x0232 0x0232 = true) ∧ (reservedBad s 
      h [(0, 1)] = []) ∧ (pl s h 0 1 < 2) ∧ (s.acc.commit.isSome = true)) ∧
    (∃ (s : State), ∃ (h : Nat), (live s = true) ∧ (h < 16) ∧ (hatchReady s h 0x0232 0x0232 = true) ∧ (reservedBad s 
      h [(0, 1)] = []) ∧ (pl s h 0 1 < 2) ∧ ∃ (i : Nat), (s.acc.commit = none) ∧ (accErr (nRegions s) s.acc.groupsSh 
      s.acc.rulesSh = some i)) ∧
    (∃ (s : State), ∃ (h : Nat), (live s = true) ∧ (h < 16) ∧ (hatchReady s h 0x0232 0x0232 = true) ∧ (reservedBad s 
      h [(0, 1)] = []) ∧ (pl s h 0 1 < 2) ∧ (s.acc.commit = none) ∧ (accErr (nRegions s) s.acc.groupsSh s.acc.rulesSh 
      = none)) ∧
    (∃ (s : State), ∃ (h : Nat), (live s = true) ∧ (h < 16) ∧ (s.acc.commit = none)) ∧
    (∃ (s : State), ∃ (h : Nat), (live s = true) ∧ (h < 16) ∧ ∃ c, (s.acc.commit = some c) ∧ (c.hatch = some h) ∧ 
      (s.trowel.scans.any (fun x => x.owner == .accessCommit) = false) ∧ (s.trowel.ops = []) ∧ (s.trowel.extWait = []) 
      ∧ (s.trowel.intWait = []) ∧ ((hatch s h).st = .busy) ∧ ((hatch s h).notify = false)) :=
  ⟨⟨ringOn { up with acc := { up.acc with commit := some { hatch := none, bulkEnd := false, narrowed := [] } } } 0 0x0232 [1, 0, 0, 0], 0, by decide +kernel⟩,
   ⟨ringOn { up with acc := { up.acc with groupsSh := [(7, 0xFE)] } } 0 0x0232 [0, 0, 0, 0], 0, by decide +kernel, by decide +kernel, by decide +kernel, by decide +kernel, by decide +kernel, 7, by decide +kernel⟩,
   ⟨ringOn { up with acc := { up.acc with groupsSh := [], rulesSh := [] } } 0 0x0232 [0, 0, 0, 0], 0, by decide +kernel⟩,
   ⟨up, 0, by decide +kernel⟩,
   ⟨{ putHatch up 0 { st := .busy } with acc := { up.acc with commit := some { hatch := some 0, bulkEnd := false, narrowed := [] } } }, 0, by decide +kernel, by decide +kernel, { hatch := some 0, bulkEnd := false, narrowed := [] }, by decide +kernel⟩⟩

/-- Every clause of FaultAcknowledgement has a case. -/
theorem wit_FaultAcknowledgement :
    (∃ (s : State), (live s = true) ∧ (((allRecs s).map FaultRec.fid).Nodup) ∧ ((∀ x ∈ s.faults.slots, 
      s.faults.log.any (fun e => e.r.fid = x.fid) = true))) ∧
    (∃ (s : State), (live s = true) ∧ (((allRecs s).map FaultRec.fid).Nodup) ∧ ((∀ x ∈ s.faults.slots, 
      s.faults.log.any (fun e => e.r.fid = x.fid) = true))) :=
  ⟨⟨faultUp (fun f => { f with slots := [rec0 .c1 0 5], log := [{ r := rec0 .c1 0 5, copy := true }] }), by decide +kernel⟩,
   ⟨faultUp (fun f => { f with slots := [rec0 .c1 0 5], log := [{ r := rec0 .c1 0 5, copy := true }] }), by decide +kernel⟩⟩

/-- Every clause of FaultRecordsAreCreated has a case. -/
theorem wit_FaultRecordsAreCreated :
    (∃ (s : State), ∃ (cls : FClass), ∃ (el : Nat), ∃ (code : Nat), ∃ (detail : Nat), (s.faults.halted = false) ∧ 
      ((cls = .c1 ∨ cls = .c2)) ∧ (s.faults.autoAck = 0) ∧ (s.faults.log.length < 64) ∧ ((∀ x ∈ chipRecs s, x.cls = 
      cls → x.acked = true))) ∧
    (∃ (s : State), ∃ (cls : FClass), ∃ (el : Nat), ∃ (code : Nat), ∃ (detail : Nat), (s.faults.halted = false) ∧ 
      ((cls = .c1 ∨ cls = .c2)) ∧ (s.faults.autoAck = 0) ∧ (s.faults.log.length < 64) ∧ (el < 36) ∧ (regionStopped s 
      (el / 9) = false) ∧ ((s.faults.slots.filter (fun x => x.level == .block && x.element.toNat = el)).length < 8) ∧ 
      ((∀ x ∈ s.faults.slots, x.level = .block → x.element.toNat = el → x.cls = cls → x.acked = true))) :=
  ⟨⟨faultUp (fun f => { f with autoAck := 0 }), .c2, 0, 0, 0, by decide +kernel⟩,
   ⟨faultUp (fun f => { f with autoAck := 0 }), .c1, 35, 0, 0, by decide +kernel⟩⟩

/-- Every clause of SecondFaultsAndReactions has a case. -/
theorem wit_SecondFaultsAndReactions :
    (∃ (s : State), ∃ (code : Nat), ∃ (detail : Nat), (s.faults.halted = false) ∧ ∃ (b : Nat), ∃ (x : FaultRec), (b < 
      36) ∧ (regionStopped s (b / 9) = false) ∧ (s.faults.slots = [x]) ∧ (s.faults.log = [{ r := x, copy := true }]) ∧ 
      (x.level = .block) ∧ (x.element = BitVec.ofNat 16 b) ∧ (x.cls = .c1) ∧ (x.acked = false)) ∧
    (∃ (s : State), ∃ (code : Nat), ∃ (detail : Nat), (s.faults.halted = false) ∧ ∃ (r : Nat), (r < 4) ∧ 
      (regionStopped s r = false) ∧ (s.faults.slots = []) ∧ (s.faults.log = []) ∧ (s.tx.held = []) ∧ (s.tx.waiting = 
      []) ∧ (s.tx.ctxs = []) ∧ (s.test.runs = []) ∧ ((migr s r).st = .idle)) ∧
    (∃ (s : State), ∃ (code : Nat), ∃ (detail : Nat), (s.faults.halted = false) ∧ ∃ (r : Nat), (r < 4) ∧ 
      (regionStopped s r = false) ∧ (s.faults.slots = []) ∧ (s.faults.log = []) ∧ (s.tx.held = []) ∧ (s.tx.waiting = 
      []) ∧ (s.tx.ctxs = []) ∧ (s.test.runs = []) ∧ ((migr s r).st = .idle) ∧ ∃ q, (q < 4) ∧ (q ≠ r)) ∧
    (∃ (s : State), ∃ (code : Nat), ∃ (detail : Nat), (s.faults.halted = false) ∧ ∃ (r : Nat), (r < 4) ∧ 
      (regionStopped s r = false) ∧ (s.faults.slots = []) ∧ (s.faults.log = []) ∧ (s.tx.held = []) ∧ (s.tx.waiting = 
      []) ∧ (s.tx.ctxs = []) ∧ (s.test.runs = []) ∧ ((migr s r).st = .idle) ∧ ∃ (b : Nat), (b < 36) ∧ (b / 9 = r) ∧ 
      ((blk s b).st = .serving)) ∧
    (∃ (s : State), ∃ (code : Nat), ∃ (detail : Nat), (s.faults.halted = false) ∧ ∃ (r : Nat), (r < 4) ∧ 
      (regionStopped s r = false) ∧ (s.faults.slots = []) ∧ (s.faults.log = []) ∧ (s.tx.held = []) ∧ (s.tx.waiting = 
      []) ∧ (s.tx.ctxs = []) ∧ (s.test.runs = []) ∧ ((migr s r).st = .idle) ∧ ∃ (b : Nat), (b / 9 ≠ r)) ∧
    (∃ (s : State), ∃ (code : Nat), ∃ (detail : Nat), (s.faults.halted = false)) ∧
    (∃ (s : State), ∃ (code : Nat), ∃ (detail : Nat), (s.faults.halted = false) ∧ ∃ (unit : Nat), ∃ (b : Nat), (b < 
      36)) ∧
    (∃ (s : State), ∃ (code : Nat), ∃ (detail : Nat), (s.faults.halted = false) ∧ ∃ (unit : Nat), ∃ h, (h < 16)) :=
  ⟨⟨faultUp (fun f => { f with slots := [rec0 .c1 0 35], log := [{ r := rec0 .c1 0 35, copy := true }] }), 0x0702, 0, by decide +kernel, 35, rec0 .c1 0 35, by decide +kernel⟩,
   ⟨up, 0x0702, 0, by decide +kernel, 3, by decide +kernel⟩,
   ⟨up, 0x0702, 0, by decide +kernel, 3, by decide +kernel, by decide +kernel, by decide +kernel, by decide +kernel, by decide +kernel, by decide +kernel, by decide +kernel, by decide +kernel, by decide +kernel, 0, by decide +kernel⟩,
   ⟨up, 0x0702, 0, by decide +kernel, 3, by decide +kernel, by decide +kernel, by decide +kernel, by decide +kernel, by decide +kernel, by decide +kernel, by decide +kernel, by decide +kernel, by decide +kernel, 35, by decide +kernel⟩,
   ⟨up, 0x0702, 0, by decide +kernel, 3, by decide +kernel, by decide +kernel, by decide +kernel, by decide +kernel, by decide +kernel, by decide +kernel, by decide +kernel, by decide +kernel, by decide +kernel, 26, by decide +kernel⟩,
   ⟨up, 0, 0, by decide +kernel⟩,
   ⟨up, 0x0702, 0, by decide +kernel, 0, 35, by decide +kernel⟩,
   ⟨up, 0x0702, 0, by decide +kernel, 0, 15, by decide +kernel⟩⟩

/-- Every clause of EventQueuesOfTheHost has a case. -/
theorem wit_EventQueuesOfTheHost :
    (∃ (s : State), ∃ (t : Nat), (live s = true) ∧ (t < 8) ∧ ∃ (v : BitVec 16), ((v - (evtT s t).tail).toNat ≤ ((evtT 
      s t).head - (evtT s t).tail).toNat)) ∧
    (∃ (s : State), ∃ (t : Nat), (live s = true) ∧ (t < 8) ∧ ∃ (v : BitVec 16), (((evtT s t).head - (evtT s 
      t).tail).toNat < (v - (evtT s t).tail).toNat)) ∧
    (∃ (s : State), ∃ (t : Nat), (live s = true) ∧ (t < 8)) ∧
    (∃ (s : State), ∃ (t : Nat), (live s = true) ∧ (t < 8) ∧ ((evtT s t).push = none)) ∧
    (∃ (s : State), ∃ (t : Nat), (live s = true) ∧ (t < 8) ∧ ∃ (r : EvtRec), ((evtT s t).push = some r) ∧ (evtMaySend 
      s ((evtT s t).cfg.extractLsb' 8 12 : Node) = false)) ∧
    (∃ (s : State), ∃ (t : Nat), (live s = true) ∧ (t < 8) ∧ ∃ (r : EvtRec), ((evtT s t).push = some r) ∧ (evtMaySend 
      s ((evtT s t).cfg.extractLsb' 8 12 : Node) = true) ∧ (hasEgress s ((evtT s t).cfg.extractLsb' 8 12 : Node) = 
      true)) :=
  ⟨⟨putEvt up 7 { head := 3, tail := 0xFFFE }, 7, by decide +kernel, by decide +kernel, 3, by decide +kernel⟩,
   ⟨putEvt up 7 { head := 3, tail := 0xFFFE }, 7, by decide +kernel, by decide +kernel, 4, by decide +kernel⟩,
   ⟨up, 7, by decide +kernel⟩,
   ⟨up, 7, by decide +kernel⟩,
   ⟨putEvt { up with wp := { up.wp with st := .active } } 7 { cfg := 0xFF000, push := some default }, 7, by decide +kernel, by decide +kernel, default, by decide +kernel⟩,
   ⟨putEvt (wpOn up) 7 { cfg := 0xFF000, push := some default }, 7, by decide +kernel, by decide +kernel, default, by decide +kernel⟩⟩

/-- Every clause of RegisterWrites has a case. -/
theorem wit_RegisterWrites :
    (∃ (s : State), ∃ (node : Node), ∃ (v : BitVec 64), (live s = true)) ∧
    (∃ (s : State), ∃ (node : Node), ∃ (v : BitVec 64), (live s = true) ∧ ∃ h, (h < 16) ∧ (v.getLsbD 0 = true)) ∧
    (∃ (s : State), ∃ (node : Node), ∃ (v : BitVec 64), (live s = true) ∧ ∃ h, (h < 16) ∧ (v.getLsbD 0 = false)) ∧
    (∃ (s : State), ∃ (node : Node), ∃ (v : BitVec 64), (live s = true) ∧ ∃ t, (t < 8)) ∧
    (∃ (s : State), ∃ (node : Node), ∃ (v : BitVec 64), (live s = true) ∧ ∃ t, (t < 8) ∧ (v.getLsbD 48 = false)) ∧
    (∃ (s : State), ∃ (node : Node), ∃ (v : BitVec 64), (live s = true) ∧ (v.toNat < 2 ^ 32)) ∧
    (∃ (s : State), ∃ (node : Node), ∃ (v : BitVec 64), (live s = true) ∧ ∃ off, (off % 8 = 0) ∧ ((off < 0x18 ∨ (0x28 
      ≤ off ∧ off < 0x100) ∨ (0x180 ≤ off ∧ off < 0x200) ∨ (0x310 ≤ off ∧ off < 0x400) ∨ (0x500 ≤ off ∧ off < 0x1000) 
      ∨ (0x1900 ≤ off ∧ off < 0x10000)))) :=
  ⟨⟨up, 0, 0, by decide +kernel⟩,
   ⟨up, 0, 1, by decide +kernel, 15, by decide +kernel⟩,
   ⟨up, 0, 2, by decide +kernel, 15, by decide +kernel⟩,
   ⟨up, 0, 0, by decide +kernel, 7, by decide +kernel⟩,
   ⟨up, 0, 0, by decide +kernel, 7, by decide +kernel⟩,
   ⟨up, 0, 0xFFFFFFFF, by decide +kernel⟩,
   ⟨up, 0, 0, by decide +kernel, 0x1900, by decide +kernel⟩⟩

/-- Every clause of HaltResponder has a case. -/
theorem wit_HaltResponder :
    (∃ (s : State), ∃ (ing : Nat), ∃ (m : Msg), (ing < 5) ∧ (s.faults.halted = false)) ∧
    (∃ (s : State), ∃ (ing : Nat), ∃ (m : Msg), (ing < 5) ∧ (s.faults.halted = true) ∧ (hDst m.h0 = s.fab.stackNode) 
      ∧ (hasEgress s (hSrc m.h0) = true) ∧ (hOp m.h0 = opMgRd) ∧ (hMoff m.h0 = 0x300) ∧ (hSize m.h0 = 0)) ∧
    (∃ (s : State), ∃ (ing : Nat), ∃ (m : Msg), (ing < 5) ∧ (s.faults.halted = true) ∧ (hDst m.h0 = s.fab.stackNode) 
      ∧ (hasEgress s (hSrc m.h0) = true) ∧ ((hOp m.h0 = opMgWr ∨ (hOp m.h0 = opMgRd ∧ hMoff m.h0 < 0x300)))) ∧
    (∃ (s : State), ∃ (ing : Nat), ∃ (m : Msg), (ing < 5) ∧ (s.faults.halted = true) ∧ ((hDst m.h0 ≠ s.fab.stackNode 
      ∨ (hOp m.h0 ≠ opMgRd ∧ hOp m.h0 ≠ opMgWr)))) :=
  ⟨⟨up, 4, default, by decide +kernel⟩,
   ⟨halted, 4, msg opMgRd 0xFF0 0 1 0x300, by decide +kernel⟩,
   ⟨halted, 4, msg opMgWr 0xFF0 0 1 0x300, by decide +kernel⟩,
   ⟨halted, 4, msg 0 0xFF0 0 1 0, by decide +kernel⟩⟩

/-- Every clause of ScrubAndRetirement has a case. -/
theorem wit_ScrubAndRetirement :
    (∃ (s : State), ∃ (h : Nat), (live s = true) ∧ (h < 16) ∧ (hatchReady s h 0x0301 0x0301 = true) ∧ (reservedBad s 
      h [(0, 18)] = []) ∧ (pl s h 0 8 % 64 = 0) ∧ (pl s h 0 8 < 2 ^ 38) ∧ (1 ≤ pl s h 8 8) ∧ (pl s h 8 8 ≤ 2 ^ 32) ∧ 
      (pl s h 0 8 + 64 * pl s h 8 8 ≤ capacity s) ∧ (1 ≤ pl s h 16 1) ∧ (pl s h 17 1 < 2) ∧ (s.store.scrub.running = 
      true)) ∧
    (∃ (s : State), ∃ (h : Nat), (live s = true) ∧ (h < 16) ∧ (hatchReady s h 0x0301 0x0301 = true) ∧ (reservedBad s 
      h [(0, 18)] = []) ∧ (pl s h 0 8 % 64 = 0) ∧ (pl s h 0 8 < 2 ^ 38) ∧ (1 ≤ pl s h 8 8) ∧ (pl s h 8 8 ≤ 2 ^ 32) ∧ 
      (pl s h 0 8 + 64 * pl s h 8 8 ≤ capacity s) ∧ (1 ≤ pl s h 16 1) ∧ (pl s h 17 1 < 2) ∧ (s.store.scrub.running = 
      false)) ∧
    (∃ (s : State), ∃ (h : Nat), (live s = true) ∧ (h < 16) ∧ (hatchReady s h 0x0302 0x0302 = true)) ∧
    (∃ (s : State), ∃ (h : Nat), (live s = true) ∧ (h < 16) ∧ (hatchReady s h 0x0303 0x0303 = true) ∧ (reservedBad s 
      h [(0, 3)] = []) ∧ ∃ (u : RetUnit), ((u = .block (pl s h 1 1) ∧ pl s h 0 1 = 2 ∧ pl s h 2 1 = 0 ∨ u = .bank (pl 
      s h 1 1) (pl s h 2 1) ∧ pl s h 0 1 = 1 ∧ pl s h 2 1 < 64 ∧ isRetiredBank s (pl s h 1 1) (pl s h 2 1) = false)) ∧ 
      (pl s h 1 1 < 36) ∧ ((logicalOf s (pl s h 1 1)).isSome = true) ∧ (isQueued s u = true)) ∧
    (∃ (s : State), ∃ (h : Nat), (live s = true) ∧ (h < 16) ∧ (hatchReady s h 0x0303 0x0303 = true) ∧ (reservedBad s 
      h [(0, 3)] = []) ∧ ∃ (u : RetUnit), ((u = .block (pl s h 1 1) ∧ pl s h 0 1 = 2 ∧ pl s h 2 1 = 0 ∨ u = .bank (pl 
      s h 1 1) (pl s h 2 1) ∧ pl s h 0 1 = 1 ∧ pl s h 2 1 < 64 ∧ isRetiredBank s (pl s h 1 1) (pl s h 2 1) = false)) ∧ 
      (pl s h 1 1 < 36) ∧ ((logicalOf s (pl s h 1 1)).isSome = true) ∧ (isQueued s u = false) ∧ (spareLeft s u = 
      false)) ∧
    (∃ (s : State), ∃ (h : Nat), (live s = true) ∧ (h < 16) ∧ (hatchReady s h 0x0303 0x0303 = true) ∧ (reservedBad s 
      h [(0, 3)] = []) ∧ ∃ (u : RetUnit), ((u = .block (pl s h 1 1) ∧ pl s h 0 1 = 2 ∧ pl s h 2 1 = 0 ∨ u = .bank (pl 
      s h 1 1) (pl s h 2 1) ∧ pl s h 0 1 = 1 ∧ pl s h 2 1 < 64 ∧ isRetiredBank s (pl s h 1 1) (pl s h 2 1) = false)) ∧ 
      (pl s h 1 1 < 36) ∧ ((logicalOf s (pl s h 1 1)).isSome = true) ∧ (isQueued s u = false) ∧ (spareLeft s u = true)) ∧
    (∃ (s : State), ∃ (h : Nat), (live s = true) ∧ (h < 16) ∧ (hatchReady s h 0x0304 0x0304 = true)) :=
  ⟨⟨ringOn { up with store := { up.store with scrub := { up.store.scrub with running := true } } } 0 0x0301 [0, 0, 0, 0, 0, 0, 0, 0, 1, 0, 0, 0, 0, 0, 0, 0, 1, 1], 0, by decide +kernel⟩,
   ⟨ring 0x0301 [0, 0, 0, 0, 0, 0, 0, 0, 1, 0, 0, 0, 0, 0, 0, 0, 1, 1], 0, by decide +kernel⟩,
   ⟨ring 0x0302 [], 0, by decide +kernel⟩,
   ⟨ringOn (enqueueUnit up (.block 34)) 0 0x0303 [2, 34, 0], 0, by decide +kernel, by decide +kernel, by decide +kernel, by decide +kernel, .block 34, by decide +kernel⟩,
   ⟨ringOn (putSr up 35 { st := .retired }) 0 0x0303 [2, 34, 0], 0, by decide +kernel, by decide +kernel, by decide +kernel, by decide +kernel, .block 34, by decide +kernel⟩,
   ⟨ring 0x0303 [1, 34, 63], 0, by decide +kernel, by decide +kernel, by decide +kernel, by decide +kernel, .bank 34 63, by decide +kernel⟩,
   ⟨ring 0x0304 [], 0, by decide +kernel⟩⟩

/-- Every clause of RegionAndUndercoatResets has a case. -/
theorem wit_RegionAndUndercoatResets :
    (∃ (s : State), ∃ (h : Nat), ∃ (r : Nat), (live s = true) ∧ (h < 16) ∧ (r < 4) ∧ (hatchReady s h 0x0305 0x0305 = 
      true) ∧ (reservedBad s h [(0, 1)] = []) ∧ (pl s h 0 1 = r) ∧ (r < nRegions s) ∧ ((regionStopped s r = false ∨ 
      s.heat.stop ≠ .running))) ∧
    (∃ (s : State), ∃ (h : Nat), ∃ (r : Nat), (live s = true) ∧ (h < 16) ∧ (r < 4) ∧ (hatchReady s h 0x0305 0x0305 = 
      true) ∧ (reservedBad s h [(0, 1)] = []) ∧ (pl s h 0 1 = r) ∧ (r < nRegions s) ∧ (regionStopped s r = true) ∧ 
      (s.heat.stop = .running) ∧ (resetting s r = true)) ∧
    (∃ (s : State), ∃ (h : Nat), ∃ (r : Nat), (live s = true) ∧ (h < 16) ∧ (r < 4) ∧ (hatchReady s h 0x0305 0x0305 = 
      true) ∧ (reservedBad s h [(0, 1)] = []) ∧ (pl s h 0 1 = r) ∧ (r < nRegions s) ∧ (regionStopped s r = true) ∧ 
      (s.heat.stop = .running) ∧ (resetting s r = false)) ∧
    (∃ (s : State), ∃ (h : Nat), ∃ (r : Nat), (live s = true) ∧ (h < 16) ∧ (r < 4) ∧ ∃ x, (x ∈ (clearCollectors s 
      r).faults.slots)) ∧
    (∃ (s : State), ∃ (h : Nat), ∃ (r : Nat), (live s = true) ∧ (h < 16) ∧ (r < 4) ∧ (resetReady s r = false)) ∧
    (∃ (s : State), ∃ (h : Nat), ∃ (r : Nat), (live s = true) ∧ (h < 16) ∧ (r < 4) ∧ (resetReady s r = true) ∧ (smGet 
      [] s.faults.lostWrites r = []) ∧ ((ucReg s r).secondLoss = false) ∧ (s.uc.frames = []) ∧ (s.uc.tags = []) ∧ 
      (waitingFor s 0x0305 = [])) ∧
    (∃ (s : State), ∃ (h : Nat), ∃ (r : Nat), (live s = true) ∧ (h < 16) ∧ (r < 4) ∧ (hatchReady s h 0x0306 0x0306 = 
      true) ∧ (s.cfg.ucEnable = false)) ∧
    (∃ (s : State), ∃ (h : Nat), ∃ (r : Nat), (live s = true) ∧ (h < 16) ∧ (r < 4) ∧ (hatchReady s h 0x0306 0x0306 = 
      true) ∧ (s.cfg.ucEnable = true)) :=
  ⟨⟨ring 0x0305 [3], 0, 3, by decide +kernel⟩,
   ⟨ringOn (faultUp (fun f => { f with stopped := 15, resets := [(3, some 0)] })) 0 0x0305 [3], 0, 3, by decide +kernel⟩,
   ⟨ringOn (faultUp (fun f => { f with stopped := 15 })) 0 0x0305 [3], 0, 3, by decide +kernel⟩,
   ⟨faultUp (fun f => { f with slots := [rec0 .c1 0 5] }), 0, 3, by decide +kernel, by decide +kernel, by decide +kernel, rec0 .c1 0 5, by decide +kernel⟩,
   ⟨up, 0, 3, by decide +kernel⟩,
   ⟨faultUp (fun f => { f with stopped := 8, resets := [(3, some 0)] }), 0, 3, by decide +kernel⟩,
   ⟨ringOn { up with cfg := { up.cfg with ucEnable := false } } 0 0x0306 [], 0, 0, by decide +kernel⟩,
   ⟨ringOn { up with cfg := { up.cfg with ucEnable := true } } 0 0x0306 [], 0, 0, by decide +kernel⟩⟩

/-- Every clause of StatusRecords has a case. -/
theorem wit_StatusRecords :
    (∃ (s : State), ∃ (h : Nat), (live s = true) ∧ (h < 16) ∧ (hatchReady s h 0x0307 0x0307 = true) ∧ (reservedBad s 
      h [(0, 4)] = []) ∧ (pl s h 0 1 = 0)) ∧
    (∃ (s : State), ∃ (h : Nat), (live s = true) ∧ (h < 16) ∧ (hatchReady s h 0x0307 0x0307 = true) ∧ (reservedBad s 
      h [(0, 4)] = []) ∧ (pl s h 0 1 = 1) ∧ (pl s h 1 1 = 1) ∧ (pl s h 2 2 < 36)) ∧
    (∃ (s : State), ∃ (h : Nat), (live s = true) ∧ (h < 16) ∧ (hatchReady s h 0x0601 0x0601 = true)) ∧
    (∃ (s : State), ∃ (h : Nat), (live s = true) ∧ (h < 16) ∧ (hatchReady s h 0x0604 0x0604 = true) ∧ (reservedBad s 
      h [(0, 1)] = []) ∧ (pl s h 0 1 < nRegions s)) ∧
    (∃ (s : State), ∃ (h : Nat), (live s = true) ∧ (h < 16) ∧ (hatchReady s h 0x0605 0x0605 = true) ∧ (reservedBad s 
      h [(0, 1)] = []) ∧ (pl s h 0 1 < 36)) ∧
    (∃ (s : State), ∃ (h : Nat), (live s = true) ∧ (h < 16) ∧ (hatchReady s h 0x0606 0x0606 = true)) ∧
    (∃ (s : State), ∃ (h : Nat), (live s = true) ∧ (h < 16) ∧ (hatchReady s h 0x0608 0x0608 = true) ∧ (reservedBad s 
      h [(0, 2)] = []) ∧ (pl s h 0 2 < 4096)) :=
  ⟨⟨ring 0x0307 [0, 0, 0, 0], 0, by decide +kernel⟩,
   ⟨ring 0x0307 [1, 1, 35, 0], 0, by decide +kernel⟩,
   ⟨ring 0x0601 [], 0, by decide +kernel⟩,
   ⟨ring 0x0604 [3], 0, by decide +kernel⟩,
   ⟨ring 0x0605 [35], 0, by decide +kernel⟩,
   ⟨ring 0x0606 [], 0, by decide +kernel⟩,
   ⟨ring 0x0608 [0xFF, 0x0F], 0, by decide +kernel⟩⟩

/-- Every clause of IdentityCommands has a case. -/
theorem wit_IdentityCommands :
    (∃ (s : State), ∃ (h : Nat), (live s = true) ∧ (h < 16) ∧ (hatchReady s h 0x0101 0x0101 = true)) ∧
    (∃ (s : State), ∃ (h : Nat), (live s = true) ∧ (h < 16) ∧ (hatchReady s h 0x0102 0x0102 = true) ∧ (identOk s = 
      false)) ∧
    (∃ (s : State), ∃ (h : Nat), (live s = true) ∧ (h < 16) ∧ (hatchReady s h 0x0102 0x0102 = true) ∧ (identOk s = 
      true) ∧ (s.boot.identReady = false)) ∧
    (∃ (s : State), ∃ (h : Nat), (live s = true) ∧ (h < 16) ∧ (hatchReady s h 0x0102 0x0102 = true) ∧ (identOk s = 
      true) ∧ (s.boot.identReady = true)) ∧
    (∃ (s : State), ∃ (h : Nat), (live s = true) ∧ (h < 16) ∧ (hatchReady s h 0x0103 0x0103 = true) ∧ (reservedBad s 
      h [(0, 8)] = []) ∧ (pl s h 0 4 ≤ chainLen s) ∧ (1 ≤ pl s h 4 4) ∧ (pl s h 4 4 ≤ 4056) ∧ (pl s h 0 4 + pl s h 4 4 
      ≤ chainLen s) ∧ (s.boot.slot0Ok = false)) ∧
    (∃ (s : State), ∃ (h : Nat), (live s = true) ∧ (h < 16) ∧ (hatchReady s h 0x0103 0x0103 = true) ∧ (reservedBad s 
      h [(0, 8)] = []) ∧ (pl s h 0 4 ≤ chainLen s) ∧ (1 ≤ pl s h 4 4) ∧ (pl s h 4 4 ≤ 4056) ∧ (pl s h 0 4 + pl s h 4 4 
      ≤ chainLen s) ∧ (s.boot.slot0Ok = true)) ∧
    (∃ (s : State), ∃ (h : Nat), (live s = true) ∧ (h < 16) ∧ (hatchReady s h 0x0104 0x0104 = true) ∧ (reservedBad s 
      h [(0, 1)] = []) ∧ (1 ≤ pl s h 0 1) ∧ (pl s h 0 1 ≤ 5)) :=
  ⟨⟨ring 0x0101 [], 0, by decide +kernel⟩,
   ⟨ring 0x0102 [], 0, by decide +kernel⟩,
   ⟨ringOn (idUp id) 0 0x0102 [], 0, by decide +kernel⟩,
   ⟨ringOn (idUp (fun b => { b with identReady := true })) 0 0x0102 [], 0, by decide +kernel⟩,
   ⟨ringOn (bUp (fun b => { b with chain := some (4056, 0) })) 0 0x0103 [0, 0, 0, 0, 0xD8, 0x0F, 0, 0], 0, by decide +kernel⟩,
   ⟨ringOn (bUp (fun b => { b with chain := some (4057, 0), slot0Ok := true })) 0 0x0103 [1, 0, 0, 0, 0xD8, 0x0F, 0, 0], 0, by decide +kernel⟩,
   ⟨ring 0x0104 [5], 0, by decide +kernel⟩⟩

/-- Every clause of SpdmBuffer has a case. -/
theorem wit_SpdmBuffer :
    (∃ (s : State), ∃ (node : Node), ∃ (len : BitVec 13), (live s = true) ∧ (s.spdm.st = .idle) ∧ (4 ≤ len.toNat) ∧ 
      (len.toNat ≤ 4096)) ∧
    (∃ (s : State), ∃ (node : Node), ∃ (len : BitVec 13), (live s = true) ∧ (s.spdm.st = .idle) ∧ ((len.toNat < 4 ∨ 
      4096 < len.toNat))) ∧
    (∃ (s : State), ∃ (node : Node), ∃ (len : BitVec 13), (live s = true) ∧ (s.spdm.st ≠ .idle) ∧ (node ≠ 
      s.spdm.owner)) ∧
    (∃ (s : State), ∃ (node : Node), ∃ (len : BitVec 13), (live s = true) ∧ (s.spdm.st = .busy) ∧ (node = 
      s.spdm.owner)) ∧
    (∃ (s : State), ∃ (node : Node), ∃ (len : BitVec 13), (live s = true) ∧ (s.spdm.st ≠ .idle) ∧ (node = 
      s.spdm.owner)) ∧
    (∃ (s : State), ∃ (node : Node), ∃ (len : BitVec 13), (live s = true) ∧ ((s.spdm.st = .done ∨ s.spdm.st = 
      .rejected)) ∧ (expired s s.spdm.lastAccess 100000000 = true)) ∧
    (∃ (s : State), ∃ (node : Node), ∃ (len : BitVec 13), (live s = true) ∧ ((s.spdm.st = .idle ∨ s.spdm.st = .busy ∨ 
      expired s s.spdm.lastAccess 100000000 = false))) :=
  ⟨⟨up, 0, 4096, by decide +kernel⟩,
   ⟨up, 0, 4097, by decide +kernel⟩,
   ⟨sUp (fun x => { x with st := .done, owner := 1 }), 0, 4, by decide +kernel⟩,
   ⟨sUp (fun x => { x with st := .busy, owner := 1 }), 1, 4, by decide +kernel⟩,
   ⟨sUp (fun x => { x with st := .busy, owner := 1 }), 1, 4, by decide +kernel⟩,
   ⟨sUp (fun x => { x with st := .rejected }), 1, 4, by decide +kernel⟩,
   ⟨up, 0, 0, by decide +kernel⟩⟩

/-- Every clause of SpdmRequests has a case. -/
theorem wit_SpdmRequests :
    (∃ (s : State), (live s = true) ∧ (s.spdm.st = .busy)) ∧
    (∃ (s : State), (live s = true) ∧ (s.spdm.st = .busy) ∧ (s.boot.slot0Ok = false)) ∧
    (∃ (s : State), (live s = true) ∧ (s.spdm.st = .busy) ∧ (s.boot.slot0Ok = true) ∧ (identOk s = true)) ∧
    (∃ (s : State), (live s = true) ∧ (s.spdm.st = .busy) ∧ ∃ c, ∃ k, ((c, k) ∈ [(Instr.getDigests, 4), 
      (.getCertificate, 5), (.challenge, 6)]) ∧ (keyAwaited s = true)) ∧
    (∃ (s : State), (live s = true) ∧ (s.spdm.st = .busy) ∧ ∃ c, ∃ k, ((c, k) ∈ [(Instr.getDigests, 4), 
      (.getCertificate, 5), (.challenge, 6)]) ∧ (keyAwaited s = false) ∧ (signedOk s = false)) ∧
    (∃ (s : State), (live s = true) ∧ (s.spdm.st = .busy) ∧ ∃ c, ∃ k, ((c, k) ∈ [(Instr.getDigests, 4), 
      (.getCertificate, 5), (.challenge, 6)]) ∧ (keyAwaited s = false) ∧ (signedOk s = true)) ∧
    (∃ (s : State), (live s = true) ∧ (s.spdm.st = .busy) ∧ (keyAwaited s = false) ∧ (signedOk s = true)) :=
  ⟨⟨sUp (fun x => { x with st := .busy }), by decide +kernel⟩,
   ⟨sUp (fun x => { x with st := .busy }), by decide +kernel⟩,
   ⟨{ idUp (fun b => { b with slot0Ok := true }) with spdm := { up.spdm with st := .busy } }, by decide +kernel⟩,
   ⟨{ idUp id with spdm := { up.spdm with st := .busy } }, by decide +kernel, by decide +kernel, .challenge, 6, by decide +kernel⟩,
   ⟨sUp (fun x => { x with st := .busy }), by decide +kernel, by decide +kernel, .challenge, 6, by decide +kernel⟩,
   ⟨{ idUp (fun b => { b with slot0Ok := true, identReady := true }) with spdm := { up.spdm with st := .busy } }, by decide +kernel, by decide +kernel, .challenge, 6, by decide +kernel⟩,
   ⟨{ idUp (fun b => { b with slot0Ok := true, identReady := true }) with spdm := { up.spdm with st := .busy } }, by decide +kernel⟩⟩

/-- Every clause of FuseCommands has a case. -/
theorem wit_FuseCommands :
    (∃ (s : State), ∃ (h : Nat), ∃ (n : Nat), (live s = true) ∧ (h < 16) ∧ (n < 20) ∧ (pl s h 0 1 = n) ∧ (hatchReady 
      s h 0x0501 0x0501 = true)) ∧
    (∃ (s : State), ∃ (h : Nat), ∃ (n : Nat), (live s = true) ∧ (h < 16) ∧ (n < 20) ∧ (pl s h 0 1 = n) ∧ 
      (s.vault.fuseAll = true) ∧ (fieldRegion s n = false) ∧ (hatchReady s h 0x0503 0x0503 = true) ∧ (reservedBad s h 
      [(0, 1)] = [])) ∧
    (∃ (s : State), ∃ (h : Nat), ∃ (n : Nat), (live s = true) ∧ (h < 16) ∧ (n < 20) ∧ (pl s h 0 1 = n) ∧ 
      (s.vault.fuseAll = true) ∧ (fieldRegion s n = false) ∧ (hatchReady s h 0x0506 0x0506 = true) ∧ (reservedBad s h 
      [(0, 1)] = [])) ∧
    (∃ (s : State), ∃ (h : Nat), ∃ (n : Nat), (live s = true) ∧ (h < 16) ∧ (n < 20) ∧ (pl s h 0 1 = n) ∧ 
      ((s.vault.fuseAll = false ∨ fieldRegion s n = true)) ∧ (s.img.job = none) ∧ (hatchReady s h 0x0502 0x0502 = 
      true) ∧ (reservedBad s h [(0, 6), (8, 4 * pl s h 4 2)] = []) ∧ (pl s h 1 1 = 0) ∧ (1 ≤ pl s h 4 2) ∧ (pl s h 4 2 
      ≤ 124) ∧ ((s.vault.prog.getLsbD n = true ∨ vState s n = .committed))) ∧
    (∃ (s : State), ∃ (h : Nat), ∃ (n : Nat), (live s = true) ∧ (h < 16) ∧ (n < 20) ∧ (pl s h 0 1 = n) ∧ 
      ((s.vault.fuseAll = false ∨ fieldRegion s n = true)) ∧ (s.img.job = none) ∧ (hatchReady s h 0x0502 0x0502 = 
      true) ∧ (reservedBad s h [(0, 6), (8, 4 * pl s h 4 2)] = []) ∧ (pl s h 1 1 = 0) ∧ (1 ≤ pl s h 4 2) ∧ (pl s h 4 2 
      ≤ 124) ∧ (s.vault.prog.getLsbD n = false) ∧ (vState s n ≠ .committed) ∧ (hdrLegal (fuseHeader s n) = true) ∧ (pl 
      s h 2 2 + pl s h 4 2 ≤ hdrLen (fuseHeader s n)) ∧ (clashes s ((List.range (pl s h 4 2)).flatMap (fun i => 
      programWords n (hdrMode (fuseHeader s n)) (pl s h 2 2 + i) (fuseWord (pl s h (8 + 4 * i) 4)))) = false)) ∧
    (∃ (s : State), ∃ (h : Nat), ∃ (n : Nat), (live s = true) ∧ (h < 16) ∧ (n < 20) ∧ (pl s h 0 1 = n) ∧ 
      ((s.vault.fuseAll = false ∨ fieldRegion s n = true)) ∧ (s.img.job = none) ∧ (hatchReady s h 0x0503 0x0503 = 
      true) ∧ (reservedBad s h [(0, 1)] = []) ∧ ((s.vault.prog.getLsbD n = true ∨ vState s n = .committed))) ∧
    (∃ (s : State), ∃ (h : Nat), ∃ (n : Nat), (live s = true) ∧ (h < 16) ∧ (n < 20) ∧ (pl s h 0 1 = n) ∧ 
      ((s.vault.fuseAll = false ∨ fieldRegion s n = true)) ∧ (s.img.job = none) ∧ (hatchReady s h 0x0503 0x0503 = 
      true) ∧ (reservedBad s h [(0, 1)] = []) ∧ (s.vault.prog.getLsbD n = false) ∧ (vState s n ≠ .committed) ∧ 
      (fuseStop s = none)) ∧
    (∃ (s : State), ∃ (h : Nat), ∃ (n : Nat), (live s = true) ∧ (h < 16) ∧ (n < 20) ∧ (pl s h 0 1 = n) ∧ 
      ((s.vault.fuseAll = false ∨ fieldRegion s n = true)) ∧ (s.img.job = none) ∧ (hatchReady s h 0x0504 0x0504 = 
      true) ∧ (reservedBad s h [(0, 2)] = []) ∧ (pl s h 1 1 = 1) ∧ (fieldRegion s n = true)) ∧
    (∃ (s : State), ∃ (h : Nat), ∃ (n : Nat), (live s = true) ∧ (h < 16) ∧ (n < 20) ∧ (pl s h 0 1 = n) ∧ 
      ((s.vault.fuseAll = false ∨ fieldRegion s n = true)) ∧ (s.img.job = none) ∧ (hatchReady s h 0x0505 0x0505 = 
      true) ∧ (reservedBad s h [(0, 1)] = []) ∧ (n < 16) ∧ (mapEntry s n = 0) ∧ ((vState s n = .lockedIncomplete ∨ 
      vState s n = .defective)) ∧ (freeSpareRegion s = none)) ∧
    (∃ (s : State), ∃ (h : Nat), ∃ (n : Nat), (live s = true) ∧ (h < 16) ∧ (n < 20) ∧ (pl s h 0 1 = n) ∧ 
      ((s.vault.fuseAll = false ∨ fieldRegion s n = true)) ∧ (s.img.job = none) ∧ (hatchReady s h 0x0505 0x0505 = 
      true) ∧ (reservedBad s h [(0, 1)] = []) ∧ (n < 16) ∧ (mapEntry s n = 0) ∧ ((vState s n = .lockedIncomplete ∨ 
      vState s n = .defective)) ∧ ∃ k, (freeSpareRegion s = some k)) ∧
    (∃ (s : State), ∃ (h : Nat), ∃ (n : Nat), (live s = true) ∧ (h < 16) ∧ (n < 20) ∧ (pl s h 0 1 = n) ∧ 
      ((s.vault.fuseAll = false ∨ fieldRegion s n = true)) ∧ (s.img.job = none) ∧ (hatchReady s h 0x0506 0x0506 = 
      true) ∧ (reservedBad s h [(0, 1)] = []) ∧ (s.vault.read.getLsbD n = true)) ∧
    (∃ (s : State), ∃ (h : Nat), ∃ (n : Nat), (live s = true) ∧ (h < 16) ∧ (n < 20) ∧ (pl s h 0 1 = n) ∧ 
      ((s.vault.fuseAll = false ∨ fieldRegion s n = true)) ∧ (s.img.job = none) ∧ (hatchReady s h 0x0506 0x0506 = 
      true) ∧ (reservedBad s h [(0, 1)] = []) ∧ (s.vault.read.getLsbD n = false)) :=
  ⟨⟨ring 0x0501 [19], 0, 19, by decide +kernel⟩,
   ⟨ringOn (vUp (fun v => { v with fuseAll := true })) 0 0x0503 [5], 0, 5, by decide +kernel⟩,
   ⟨ringOn (vUp (fun v => { v with fuseAll := true })) 0 0x0506 [19], 0, 19, by decide +kernel⟩,
   ⟨ringOn (vUp (fun v => { v with prog := 0x80000 })) 0 0x0502 [19, 0, 0, 0, 1, 0, 0, 0, 1, 0, 0, 0], 0, 19, by decide +kernel⟩,
   ⟨ringOn hdr4 0 0x0502 [4, 0, 3, 0, 1, 0, 0, 0, 1, 0, 0, 0], 0, 4, by decide +kernel⟩,
   ⟨ringOn (vUp (fun v => { v with prog := 0x80000 })) 0 0x0503 [19], 0, 19, by decide +kernel⟩,
   ⟨ringOn hdr4 0 0x0503 [4], 0, 4, by decide +kernel⟩,
   ⟨ring 0x0504 [11, 1], 0, 11, by decide +kernel⟩,
   ⟨ringOn (vUp (fun v => { v with states := [(15, .defective), (16, .openR), (17, .openR), (18, .openR), (19, .openR)] })) 0 0x0505 [15], 0, 15, by decide +kernel⟩,
   ⟨ringOn (vUp (fun v => { v with states := [(15, .defective), (16, .openR), (17, .openR), (18, .openR)] })) 0 0x0505 [15], 0, 15, by decide +kernel, by decide +kernel, by decide +kernel, by decide +kernel, by decide +kernel, by decide +kernel, by decide +kernel, by decide +kernel, by decide +kernel, by decide +kernel, by decide +kernel, 3, by decide +kernel⟩,
   ⟨ringOn (vUp (fun v => { v with read := 0x80000 })) 0 0x0506 [19], 0, 19, by decide +kernel⟩,
   ⟨ring 0x0506 [19], 0, 19, by decide +kernel⟩⟩

/-- Every clause of FuseWordsBurn has a case. -/
theorem wit_FuseWordsBurn :
    (∃ (s : State), ∃ (h : Nat), ∃ (word : BitVec 32), (live s = true) ∧ (h < 16) ∧ ((hatch s h).st = .busy) ∧ ∃ (op 
      : Nat), ∃ (n : Nat), ∃ (w : Nat), ∃ (v : BitVec 32), ∃ (l : List (Nat × BitVec 32 × Bool)), ∃ (e : Bool), (fuseT 
      s w ≠ v) ∧ (fuseStop s = none)) ∧
    (∃ (s : State), ∃ (h : Nat), ∃ (word : BitVec 32), (live s = true) ∧ (h < 16) ∧ ((hatch s h).st = .busy) ∧ ∃ (j : 
      FuseJob), ∃ (w : Nat), ∃ (v : BitVec 32), ∃ (e : Bool), ∃ (l : List (Nat × BitVec 32 × Bool)), (s.img.job = some 
      j) ∧ (j.words = (w, v, e) :: l) ∧ (j.hatch = h) ∧ (j.region < 20) ∧ (j.opcode = 0x0502 ∨ j.opcode = 0x0503)) ∧
    (∃ (s : State), ∃ (h : Nat), ∃ (word : BitVec 32), (live s = true) ∧ (h < 16) ∧ ((hatch s h).st = .busy) ∧ 
      (s.img.job = none)) ∧
    (∃ (s : State), ∃ (h : Nat), ∃ (word : BitVec 32), (live s = true) ∧ (h < 16) ∧ ((hatch s h).st = .busy) ∧ ∃ st, 
      (fuseStop s = some st)) :=
  ⟨⟨putHatch up 0 { st := .busy }, 0, 1, by decide +kernel, by decide +kernel, by decide +kernel, 0x0502, 4, 768, 1, [], false, by decide +kernel⟩,
   ⟨putHatch (iUp (fun x => { x with job := some { hatch := 0, opcode := 0x0503, region := 4, words := [(958, 1, false), (959, 1, true)], burned := 0 } })) 0 { st := .busy }, 0, 1, by decide +kernel, by decide +kernel, by decide +kernel, { hatch := 0, opcode := 0x0503, region := 4, words := [(958, 1, false), (959, 1, true)], burned := 0 }, 958, 1, false, [(959, 1, true)], by decide +kernel⟩,
   ⟨putHatch up 0 { st := .busy }, 0, 1, by decide +kernel⟩,
   ⟨putHatch (heatUp (fun x => { x with fuseOk := false })) 0 { st := .busy }, 0, 1, by decide +kernel, by decide +kernel, by decide +kernel, 6, by decide +kernel⟩⟩

/-- Every clause of ImageCommands has a case. -/
theorem wit_ImageCommands :
    (∃ (s : State), ∃ (h : Nat), (live s = true) ∧ (h < 16) ∧ (s.img.eeJob = none) ∧ (s.heat.stop = .running) ∧ 
      (s.heat.storeOk = true) ∧ (hatchReady s h 0x0510 0x0510 = true) ∧ (s.img.session = none)) ∧
    (∃ (s : State), ∃ (h : Nat), (live s = true) ∧ (h < 16) ∧ (s.img.eeJob = none) ∧ (s.heat.stop = .running) ∧ 
      (s.heat.storeOk = true) ∧ (hatchReady s h 0x0511 0x0511 = true) ∧ (reservedBad s h [(0, 8), (8, (pl s h 4 4))] = 
      []) ∧ ((pl s h 0 4) % 4 = 0) ∧ ((pl s h 0 4) + (pl s h 4 4) ≤ slotSize s) ∧ (4 ≤ (pl s h 4 4)) ∧ ((pl s h 4 4) ≤ 
      4032) ∧ ((pl s h 4 4) % 4 = 0) ∧ (64 ≤ (pl s h 0 4)) ∧ (sessionOf s h = true)) ∧
    (∃ (s : State), ∃ (h : Nat), (live s = true) ∧ (h < 16) ∧ (s.img.eeJob = none) ∧ (s.heat.stop = .running) ∧ 
      (s.heat.storeOk = true) ∧ (hatchReady s h 0x0512 0x0512 = true) ∧ (sessionOf s h = true)) ∧
    (∃ (s : State), ∃ (h : Nat), (live s = true) ∧ (h < 16) ∧ (s.img.eeJob = none) ∧ (hatchReady s h 0x0513 0x0513 = 
      true)) ∧
    (∃ (s : State), ∃ (h : Nat), (live s = true) ∧ (h < 16) ∧ (s.img.eeJob = none) ∧ (hatchReady s h 0x0514 0x0514 = 
      true) ∧ (reservedBad s h [(0, 1), (4, 8)] = []) ∧ (pl s h 0 1 < 2) ∧ ((pl s h 4 4) % 4 = 0) ∧ ((pl s h 4 4) + pl 
      s h 8 4 ≤ slotSize s) ∧ (4 ≤ pl s h 8 4) ∧ (pl s h 8 4 ≤ 4032) ∧ (pl s h 8 4 % 4 = 0)) ∧
    (∃ (s : State), ∃ (h : Nat), (live s = true) ∧ (h < 16) ∧ (s.img.eeJob.isSome = true) ∧ (hatchReady s h 0x0513 
      0x0513 = true)) ∧
    (∃ (s : State), ∃ (h : Nat), (live s = true) ∧ (h < 16) ∧ (sessionOf s h = false) ∧ (hatchReady s h 0x0512 0x0512 
      = true)) :=
  ⟨⟨ring 0x0510 [], 0, by decide +kernel⟩,
   ⟨ringOn (iUp (fun x => { x with session := some { hatch := 0, written := 0 } })) 0 0x0511 [64, 0, 0, 0, 4, 0, 0, 0, 1, 2, 3, 4], 0, by decide +kernel⟩,
   ⟨ringOn (iUp (fun x => { x with session := some { hatch := 0, written := 0 } })) 0 0x0512 [], 0, by decide +kernel⟩,
   ⟨ring 0x0513 [], 0, by decide +kernel⟩,
   ⟨ring 0x0514 [1, 0, 0, 0, 0, 0, 0, 0, 0xC0, 0x0F, 0, 0], 0, by decide +kernel⟩,
   ⟨ringOn (iUp (fun x => { x with eeJob := some { hatch := 1, opcode := 0x0513, done := 0, total := 128 } })) 0 0x0513 [], 0, by decide +kernel⟩,
   ⟨ring 0x0512 [], 0, by decide +kernel⟩⟩

/-- Every clause of FirmwareLoads has a case. -/
theorem wit_FirmwareLoads :
    (∃ (s : State), ∃ (h : Nat), (live s = true) ∧ (h < 16) ∧ (hatchReady s h 0x0801 0x0801 = true) ∧ (reservedBad s 
      h [(0, 4)] = []) ∧ (8192 ≤ (pl s h 0 4)) ∧ ((pl s h 0 4) ≤ 2097152) ∧ (s.boot.staged = .open_)) ∧
    (∃ (s : State), ∃ (h : Nat), (live s = true) ∧ (h < 16) ∧ (hatchReady s h 0x0801 0x0801 = true) ∧ (reservedBad s 
      h [(0, 4)] = []) ∧ (8192 ≤ (pl s h 0 4)) ∧ ((pl s h 0 4) ≤ 2097152) ∧ (s.boot.staged ≠ .open_)) ∧
    (∃ (s : State), ∃ (h : Nat), (live s = true) ∧ (h < 16) ∧ (hatchReady s h 0x0802 0x0802 = true) ∧ (reservedBad s 
      h [(0, 8 + (pl s h 4 4))] = []) ∧ ((pl s h 0 4) % 4 = 0) ∧ (s.boot.staged = .open_) ∧ ((pl s h 0 4) + (pl s h 4 
      4) ≤ s.boot.total) ∧ ((pl s h 4 4) % 4 = 0) ∧ (4 ≤ (pl s h 4 4)) ∧ ((pl s h 4 4) ≤ 4032)) ∧
    (∃ (s : State), ∃ (h : Nat), (live s = true) ∧ (h < 16) ∧ (hatchReady s h 0x0803 0x0803 = true) ∧ (reservedBad s 
      h [] = []) ∧ (s.boot.staged ≠ .open_)) ∧
    (∃ (s : State), ∃ (h : Nat), (live s = true) ∧ (h < 16) ∧ (hatchReady s h 0x0803 0x0803 = true) ∧ (reservedBad s 
      h [] = []) ∧ (s.boot.staged = .open_) ∧ (fwReceived s ≠ s.boot.total)) ∧
    (∃ (s : State), ∃ (h : Nat), (live s = true) ∧ (h < 16) ∧ (hatchReady s h 0x0803 0x0803 = true) ∧ (reservedBad s 
      h [] = []) ∧ (s.boot.staged = .open_) ∧ (fwReceived s = s.boot.total) ∧ (fwLegal (fwStage s) = false)) ∧
    (∃ (s : State), ∃ (h : Nat), (live s = true) ∧ (h < 16) ∧ (hatchReady s h 0x0803 0x0803 = true) ∧ (reservedBad s 
      h [] = []) ∧ (s.boot.staged = .open_) ∧ (fwReceived s = s.boot.total) ∧ (fwLegal (fwStage s) = true) ∧ 
      (s.boot.fwDecided = true)) ∧
    (∃ (s : State), ∃ (h : Nat), (live s = true) ∧ (h < 16) ∧ (hatchReady s h 0x0804 0x0804 = true) ∧ (reservedBad s 
      h [] = []) ∧ (s.boot.staged ≠ .accepted)) ∧
    (∃ (s : State), ∃ (h : Nat), (live s = true) ∧ (h < 16) ∧ (hatchReady s h 0x0804 0x0804 = true) ∧ (reservedBad s 
      h [] = []) ∧ (s.boot.staged = .accepted) ∧ ((hatch s h).exec = true)) ∧
    (∃ (s : State), ∃ (h : Nat), (live s = true) ∧ (h < 16) ∧ (hatchReady s h 0x0805 0x0805 = true) ∧ (reservedBad s 
      h [] = [])) ∧
    (∃ (s : State), ∃ (h : Nat), (live s = true) ∧ (h < 16) ∧ (s.boot.staged = .open_) ∧ (expired s s.boot.lastData 
      1000000000 = true)) ∧
    (∃ (s : State), ∃ (h : Nat), (live s = true) ∧ (h < 16) ∧ ((s.boot.staged ≠ .open_ ∨ expired s s.boot.lastData 
      1000000000 = false))) ∧
    (∃ (s : State), ∃ (h : Nat), (live s = true) ∧ (h < 16) ∧ (s.boot.larder = .running)) ∧
    (∃ (s : State), ∃ (h : Nat), (live s = true) ∧ (h < 16) ∧ (s.boot.larder = .running) ∧ (expired s s.boot.signalAt 
      100000000 = true)) ∧
    (∃ (s : State), ∃ (h : Nat), (live s = true) ∧ (h < 16) ∧ (s.boot.fwDecided = true)) ∧
    (∃ (s : State), ∃ (h : Nat), (live s = true) ∧ (h < 16) ∧ (s.boot.fwDecided = false) ∧ (portsOn s = true) ∧ 
      (waited s s.boot.fwFrom (s.boot.fwWait.toNat * 1000000) = true) ∧ (s.boot.fallback = none)) :=
  ⟨⟨ringOn (fwUp id) 0 0x0801 [0, 0, 0x20, 0], 0, by decide +kernel⟩,
   ⟨ring 0x0801 [0, 0x20, 0, 0], 0, by decide +kernel⟩,
   ⟨ringOn (fwUp id) 0 0x0802 [0xFC, 0x1F, 0, 0, 4, 0, 0, 0, 1, 2, 3, 4], 0, by decide +kernel⟩,
   ⟨ring 0x0803 [], 0, by decide +kernel⟩,
   ⟨ringOn (fwUp (fun b => { b with got := [(0, 8188)] })) 0 0x0803 [], 0, by decide +kernel⟩,
   ⟨ringOn (fwUp (fun b => { b with half1 := {} })) 0 0x0803 [], 0, by decide +kernel⟩,
   ⟨ringOn (fwUp id) 0 0x0803 [], 0, by decide +kernel⟩,
   ⟨ringOn (fwUp id) 0 0x0804 [], 0, by decide +kernel⟩,
   ⟨ringOn (fwUp (fun b => { b with staged := .accepted })) 0 0x0804 [], 0, by decide +kernel⟩,
   ⟨ring 0x0805 [], 0, by decide +kernel⟩,
   ⟨fwUp id, 0, by decide +kernel⟩,
   ⟨up, 0, by decide +kernel⟩,
   ⟨up, 0, by decide +kernel⟩,
   ⟨up, 0, by decide +kernel⟩,
   ⟨fwUp id, 0, by decide +kernel⟩,
   ⟨bUp (fun b => { b with fwDecided := false }), 0, by decide +kernel⟩⟩

/-- Every clause of StartUpSequence has a case. -/
theorem wit_StartUpSequence :
    (∃ (s : State), (live s = true) ∧ (s.boot.phase = .pll) ∧ (expired s s.boot.t0 100000000 = false)) ∧
    (∃ (s : State), (live s = true) ∧ (s.boot.phase = .pll) ∧ (expired s s.boot.t0 100000000 = true)) ∧
    (∃ (s : State), (live s = true)) ∧
    (∃ (s : State), (live s = true) ∧ (s.boot.phase = .bist)) ∧
    (∃ (s : State), (live s = true) ∧ ∃ (k : Nat), ∃ (a : Bool), ∃ (b : Bool), ∃ (bad : List Nat), (s.boot.phase ≠ 
      .image)) ∧
    (∃ (s : State), (live s = true) ∧ ∃ (k : Nat), ∃ (a : Bool), ∃ (b : Bool), ∃ (bad : List Nat), (s.boot.phase = 
      .image) ∧ (k ≤ 3) ∧ ((∀ c ∈ bad, c < 6))) ∧
    (∃ (s : State), (live s = true) ∧ ∃ (a : Bool), ∃ (b : Bool), ((chooseSlot s a b).2 ≠ [])) ∧
    (∃ (s : State), (live s = true) ∧ ∃ (taps : Nat), ∃ (scales : List (BitVec 16)), (700 ≤ taps) ∧ (taps ≤ 1400) ∧ 
      (scales.length = 18) ∧ (s.boot.phase = .calibration) ∧ (calRuns s = true)) ∧
    (∃ (s : State), (live s = true) ∧ (s.boot.identReady = false) ∧ (portsOn s = true) ∧ (identOk s = true) ∧ 
      (chainLen s = 0)) ∧
    (∃ (s : State), (live s = true) ∧ (s.primer.st = .clones) ∧ (128400000 ≤ s.primer.ran + (s.now - s.primer.since)) 
      ∧ ((∀ b, ∀ x ∈ (srBlk s b).rowRep, x.2.1 < 65536))) ∧
    (∃ (s : State), (live s = true) ∧ (s.primer.st = .check) ∧ (130000000 ≤ s.primer.ran + (s.now - s.primer.since))) :=
  ⟨⟨bUp (fun b => { b with phase := .pll, t0 := 9999900000001 }), by decide +kernel⟩,
   ⟨bUp (fun b => { b with phase := .pll, t0 := 9999900000000 }), by decide +kernel⟩,
   ⟨up, by decide +kernel⟩,
   ⟨bUp (fun b => { b with phase := .bist }), by decide +kernel⟩,
   ⟨up, by decide +kernel, 4, true, false, [6], by decide +kernel⟩,
   ⟨bUp (fun b => { b with phase := .image }), by decide +kernel, 3, false, false, [0, 5], by decide +kernel⟩,
   ⟨eeUp, by decide +kernel, true, false, by decide +kernel⟩,
   ⟨bUp (fun b => { b with phase := .calibration }), by decide +kernel, 700, List.replicate 18 0x8000, by decide +kernel⟩,
   ⟨idUp id, by decide +kernel⟩,
   ⟨{ up with primer := { up.primer with st := .clones, ran := 128400000 } }, ⟨by decide +kernel, by decide +kernel, by decide +kernel, fun b x h => by have e : x ∈ [] := h; cases e⟩⟩,
   ⟨{ up with primer := { up.primer with st := .check, ran := 130000000 } }, by decide +kernel⟩⟩

/-- Every clause of PowerAndStackReset has a case. -/
theorem wit_PowerAndStackReset :
    (∃ (s : State), (s.img.job = none) ∧ (s.tw.cur = none) ∧ (s.tw.polls = [])) ∧
    (∃ (s : State), (s.img.job = none) ∧ (s.tw.cur = none) ∧ (s.tw.polls = []) ∧ (s.boot.pwrGood = true)) ∧
    (∃ (s : State), (s.img.job = none) ∧ (s.tw.cur = none) ∧ (s.tw.polls = []) ∧ (s.boot.pwrGood = false) ∧ 
      (s.boot.stackRstN = true)) ∧
    (∃ (s : State), (s.img.job = none) ∧ (s.tw.cur = none) ∧ (s.tw.polls = []) ∧ (s.boot.pwrGood = false) ∧ 
      (s.boot.stackRstN = false)) ∧
    (∃ (s : State), (s.img.job = none) ∧ (s.tw.cur = none) ∧ (s.tw.polls = []) ∧ (s.boot.pwrGood = true) ∧ 
      (s.faults.halted = true)) ∧
    (∃ (s : State), (s.img.job = none) ∧ (s.tw.cur = none) ∧ (s.tw.polls = []) ∧ (s.faults.halted = false) ∧ 
      (s.boot.phase ≠ .halt) ∧ (s.boot.phase ≠ .off)) ∧
    (∃ (s : State), (s.img.job = none) ∧ (s.tw.cur = none) ∧ (s.tw.polls = []) ∧ (s.boot.stackRstN = true)) ∧
    (∃ (s : State), (s.img.job = none) ∧ (s.tw.cur = none) ∧ (s.tw.polls = []) ∧ (s.boot.stackRstN = false) ∧ 
      (s.boot.pwrGood = true) ∧ (s.boot.phase = .off) ∧ (s.boot.stackLowAt ≠ 0)) :=
  ⟨⟨up, by decide +kernel⟩,
   ⟨up, by decide +kernel⟩,
   ⟨State.reset, by decide +kernel⟩,
   ⟨{ State.reset with boot := { State.reset.boot with stackRstN := false } }, by decide +kernel⟩,
   ⟨halted, by decide +kernel⟩,
   ⟨up, by decide +kernel⟩,
   ⟨up, by decide +kernel⟩,
   ⟨{ State.reset with boot := { State.reset.boot with stackRstN := false, pwrGood := true, stackLowAt := 1 } }, by decide +kernel⟩⟩

/-- Every clause of TestPortAndRails has a case. -/
theorem wit_TestPortAndRails :
    (∃ (s : State), (s.boot.pwrGood = true) ∧ ∃ (die : Nat), ∃ (ir : BitVec 8), (die < 18) ∧ (entersScan die ir = 
      true)) ∧
    (∃ (s : State), (s.boot.pwrGood = true) ∧ ∃ (ir : BitVec 8), (entersScan 0 ir = false)) ∧
    (∃ (s : State), (s.boot.pwrGood = true) ∧ ∃ (die : Nat), ∃ (ir : BitVec 8), (0 < die) ∧ (die < 18) ∧ (entersScan 
      die ir = false)) ∧
    (∃ (s : State), (s.boot.pwrGood = true)) ∧
    (∃ (s : State), (s.boot.pwrGood = true) ∧ (wired s = true) ∧ ∃ rail, (rail < 5) ∧ (smGet false s.pins.railOut 
      rail = true)) ∧
    (∃ (s : State), (s.boot.pwrGood = true) ∧ (wired s = true) ∧ ∃ rail, (rail < 5) ∧ (smGet false s.pins.railOut 
      rail = false) ∧ (rail < 2)) ∧
    (∃ (s : State), (s.boot.pwrGood = true) ∧ (wired s = true) ∧ ∃ rail, (rail < 5) ∧ (smGet false s.pins.railOut 
      rail = false) ∧ (rail = 2) ∧ ∃ (v : State), (v = chipFault ({ s with pins := { s.pins with railOut := smSet false s.pins.railOut rail true } } 
      : State) .c1 0 0x1602 0) ∧ (v.wp.st = .off ∨ v.wp.st = .failed)) ∧
    (∃ (s : State), (s.boot.pwrGood = true) ∧ (wired s = true) ∧ ∃ rail, (rail < 5) ∧ (smGet false s.pins.railOut 
      rail = false) ∧ (rail = 2) ∧ ∃ (v : State), (v = chipFault ({ s with pins := { s.pins with railOut := smSet false s.pins.railOut rail true } } 
      : State) .c1 0 0x1602 0) ∧ (v.wp.st ≠ .off) ∧ (v.wp.st ≠ .failed) ∧ (v.wp.dead = false)) ∧
    (∃ (s : State), (s.boot.pwrGood = true) ∧ (wired s = true) ∧ ∃ rail, (rail < 5) ∧ (smGet false s.pins.railOut 
      rail = false) ∧ (2 < rail)) ∧
    (∃ (s : State), (s.boot.pwrGood = true) ∧ (wired s = true) ∧ ∃ rail, (rail < 3) ∧ (smGet false s.pins.railOut 
      rail = true)) ∧
    (∃ (s : State), (s.boot.pwrGood = true) ∧ (wired s = true) ∧ ∃ rail, (rail < 5) ∧ (smGet false s.pins.railOut 
      rail = false)) :=
  ⟨⟨up, by decide +kernel, 17, 0x03, by decide +kernel⟩,
   ⟨up, by decide +kernel, 0xFF, by decide +kernel⟩,
   ⟨up, by decide +kernel, 17, 2, by decide +kernel⟩,
   ⟨up, by decide +kernel⟩,
   ⟨{ up with pins := { up.pins with railOut := [(4, true)] } }, by decide +kernel, by decide +kernel, 4, by decide +kernel⟩,
   ⟨up, by decide +kernel, by decide +kernel, 1, by decide +kernel⟩,
   ⟨up, by decide +kernel, by decide +kernel, 2, by decide +kernel, by decide +kernel, by decide +kernel, chipFault { up with pins := { up.pins with railOut := [(2, true)] } } .c1 0 0x1602 0, by decide +kernel⟩,
   ⟨wu (fun w => { w with st := .active }), by decide +kernel, by decide +kernel, 2, by decide +kernel, by decide +kernel, by decide +kernel, chipFault { wu (fun w => { w with st := .active }) with pins := { up.pins with railOut := [(2, true)] } } .c1 0 0x1602 0, by decide +kernel⟩,
   ⟨up, by decide +kernel, by decide +kernel, 4, by decide +kernel⟩,
   ⟨{ up with pins := { up.pins with railOut := [(2, true)] } }, by decide +kernel, by decide +kernel, 2, by decide +kernel⟩,
   ⟨up, by decide +kernel, by decide +kernel, 4, by decide +kernel⟩⟩

/-- Every clause of RetainingResetCommands has a case. -/
theorem wit_RetainingResetCommands :
    (∃ (s : State), (live s = true) ∧ (s.boot.phase ≠ .released)) ∧
    (∃ (s : State), (live s = true) ∧ (s.boot.phase = .released)) ∧
    (∃ (s : State), (live s = true) ∧ ((s.boot.phase ≠ .retaining ∨ waited s s.boot.retLowAt 20000 = false))) ∧
    (∃ (s : State), (live s = true) ∧ (s.boot.phase = .retaining) ∧ (waited s s.boot.retLowAt 20000 = true)) ∧
    (∃ (s : State), (live s = true) ∧ (teReady s = false)) ∧
    (∃ (s : State), (live s = true) ∧ (teReady s = true) ∧ (s.boot.retRose = false)) ∧
    (∃ (s : State), (live s = true) ∧ (s.boot.phase = .retaining)) ∧
    (∃ (s : State), (live s = true) ∧ (s.boot.phase = .retHeld)) :=
  ⟨⟨bUp (fun b => { b with phase := .primer }), by decide +kernel⟩,
   ⟨up, by decide +kernel⟩,
   ⟨bUp (fun b => { b with phase := .retaining, retLowAt := 9999999980001 }), by decide +kernel⟩,
   ⟨bUp (fun b => { b with phase := .retaining, retLowAt := 9999999980000 }), by decide +kernel⟩,
   ⟨up, by decide +kernel⟩,
   ⟨retUp (fun b => { b with phase := .retaining }), by decide +kernel⟩,
   ⟨bUp (fun b => { b with phase := .retaining }), by decide +kernel⟩,
   ⟨bUp (fun b => { b with phase := .retHeld }), by decide +kernel⟩⟩

/-- Every clause of EveryCommandCompletes has a case. -/
theorem wit_EveryCommandCompletes :
    (∃ (i : Instr), ∃ (s : State), (i.wf = false)) :=
  ⟨.evtTailWrite 8 0, up, by decide +kernel⟩

/-- Every clause of HaltedStackHearsOnlyItsPorts has a case. -/
theorem wit_HaltedStackHearsOnlyItsPorts :
    (∃ (c : Instr), ∃ (s : State), (s.faults.halted = true) ∧ (heardInHalt c = false)) :=
  ⟨.pllLock, halted, by decide +kernel⟩

/-- Every clause of BootHaltHolds has a case. -/
theorem wit_BootHaltHolds :
    (∃ (s : State), (s.boot.pwrGood = true)) ∧
    (∃ (s : State), ∃ (t : State), (BootHalted s) ∧ (s.pending.head? ≠ some .powerRemoved) ∧ (step s = .next t)) :=
  ⟨⟨up, by decide +kernel⟩,
   ⟨haltBoot { up with pending := [.pllLock] }, haltBoot up, ⟨by unfold BootHalted; decide +kernel, by decide +kernel, by rfl⟩⟩⟩

/-- Every clause of ResetState has a case. -/
theorem wit_ResetState :
    (∃ p, (p < 4)) ∧
    (∃ t, (t < 8) ∧ (0 < t)) ∧
    (∃ h, (h < 16)) :=
  ⟨⟨3, by decide +kernel⟩,
   ⟨7, by decide +kernel⟩,
   ⟨15, by decide +kernel⟩⟩

/-- Every clause of HeatAndCalibrationRecords has a case. -/
theorem wit_HeatAndCalibrationRecords :
    (∃ (s : State), ∃ (h : Nat), (live s = true) ∧ (h < 16) ∧ (hatchReady s h 0x0401 0x0401 = true)) ∧
    (∃ (s : State), ∃ (h : Nat), (live s = true) ∧ (h < 16) ∧ (hatchReady s h 0x0402 0x0402 = true)) ∧
    (∃ (s : State), ∃ (h : Nat), (live s = true) ∧ (h < 16) ∧ (hatchReady s h 0x0403 0x0403 = true)) ∧
    (∃ (s : State), ∃ (h : Nat), (live s = true) ∧ (h < 16) ∧ (hatchReady s h 0x0607 0x0607 = true)) :=
  ⟨⟨ring 0x0401 [], 0, by decide +kernel⟩,
   ⟨ring 0x0402 [], 0, by decide +kernel⟩,
   ⟨ring 0x0403 [], 0, by decide +kernel⟩,
   ⟨ring 0x0607 [], 0, by decide +kernel⟩⟩

/-- Every clause of CountersAndSampling has a case. -/
theorem wit_CountersAndSampling :
    (∃ (s : State), ∃ (h : Nat), (live s = true) ∧ (h < 16) ∧ ∃ (k : Nat), ∃ (v : BitVec 64), (k < 128)) ∧
    (∃ (s : State), ∃ (h : Nat), (live s = true) ∧ (h < 16)) ∧
    (∃ (s : State), ∃ (h : Nat), (live s = true) ∧ (h < 16)) ∧
    (∃ (s : State), ∃ (h : Nat), (live s = true) ∧ (h < 16) ∧ ∃ k, (k < 128)) ∧
    (∃ (s : State), ∃ (h : Nat), (live s = true) ∧ (h < 16) ∧ ∃ k, (k < 64) ∧ (s.perf.occ = [])) ∧
    (∃ (s : State), ∃ (h : Nat), (live s = true) ∧ (h < 16) ∧ (s.perf.due = [])) ∧
    (∃ (s : State), ∃ (h : Nat), (live s = true) ∧ (h < 16) ∧ ∃ (x : Sample), ∃ (l : List Sample), (s.perf.due = x :: 
      l)) ∧
    (∃ (s : State), ∃ (h : Nat), (live s = true) ∧ (h < 16) ∧ (hatchReady s h 0x0701 0x0701 = true) ∧ (reservedBad s 
      h [(0, 4), (4, 1)] = []) ∧ (pl s h 0 4 ≠ 0) ∧ ((pl s h 4 1).testBit 4 = false)) ∧
    (∃ (s : State), ∃ (h : Nat), (live s = true) ∧ (h < 16) ∧ (hatchReady s h 0x0702 0x0702 = true)) ∧
    (∃ (s : State), ∃ (h : Nat), (live s = true) ∧ (h < 16) ∧ (hatchReady s h 0x0703 0x0703 = true)) :=
  ⟨⟨up, 0, by decide +kernel, by decide +kernel, 127, 1, by decide +kernel⟩,
   ⟨up, 15, by decide +kernel⟩,
   ⟨up, 15, by decide +kernel⟩,
   ⟨up, 0, by decide +kernel, by decide +kernel, 127, by decide +kernel⟩,
   ⟨up, 0, by decide +kernel, by decide +kernel, 63, by decide +kernel⟩,
   ⟨up, 0, by decide +kernel⟩,
   ⟨{ up with perf := { up.perf with due := [default] } }, 0, by decide +kernel, by decide +kernel, default, [], by decide +kernel⟩,
   ⟨ring 0x0701 [1, 0, 0, 0, 1], 0, by decide +kernel⟩,
   ⟨ring 0x0702 [], 0, by decide +kernel⟩,
   ⟨ring 0x0703 [], 0, by decide +kernel⟩⟩

/-- Every clause of SelfTestRuns has a case. -/
theorem wit_SelfTestRuns :
    (∃ (s : State), ∃ (h : Nat), (live s = true) ∧ (h < 16) ∧ ∃ pb, (hatchReady s h 0x0609 0x0609 = true) ∧ 
      (reservedBad s h [(0, 5)] = []) ∧ (pl s h 0 1 = 1) ∧ (pl s h 1 1 = pb) ∧ (pb < 36) ∧ (pl s h 2 1 = 0) ∧ (pl s h 
      3 1 = 0) ∧ (pl s h 4 1 = 0) ∧ ((srBlk s pb).st ≠ .retired)) ∧
    (∃ (s : State), ∃ (h : Nat), (live s = true) ∧ (h < 16) ∧ ∃ pb, (hatchReady s h 0x0609 0x0609 = true) ∧ 
      (reservedBad s h [(0, 5)] = []) ∧ (pl s h 0 1 = 1) ∧ (pl s h 1 1 = pb) ∧ (pb < 36) ∧ (pl s h 2 1 = 0) ∧ (pl s h 
      3 1 = 0) ∧ (pl s h 4 1 = 0) ∧ ((srBlk s pb).st = .retired) ∧ (testBusy s 1 pb 0 = true)) ∧
    (∃ (s : State), ∃ (h : Nat), (live s = true) ∧ (h < 16) ∧ ∃ pb, (hatchReady s h 0x0609 0x0609 = true) ∧ 
      (reservedBad s h [(0, 5)] = []) ∧ (pl s h 0 1 = 1) ∧ (pl s h 1 1 = pb) ∧ (pb < 36) ∧ (pl s h 2 1 = 0) ∧ (pl s h 
      3 1 = 0) ∧ (pl s h 4 1 = 0) ∧ ((srBlk s pb).st = .retired) ∧ (testBusy s 1 pb 0 = false) ∧ (condsHeld s = false)) ∧
    (∃ (s : State), ∃ (h : Nat), (live s = true) ∧ (h < 16) ∧ ∃ (r : TestRun), (hatchReady s h 0x060A 0x060A = true) 
      ∧ (reservedBad s h [(0, 4)] = []) ∧ (pl s h 0 4 ≠ 0) ∧ (runGet s (pl s h 0 4) = some r)) ∧
    (∃ (s : State), ∃ (h : Nat), (live s = true) ∧ (h < 16) ∧ (condsHeld s = true)) ∧
    (∃ (s : State), ∃ (h : Nat), (live s = true) ∧ (h < 16) ∧ (condsHeld s = false)) ∧
    (∃ (s : State), ∃ (h : Nat), (live s = true) ∧ (h < 16) ∧ ∃ (id : Nat), ∃ (d : Nat), ∃ (r : TestRun), (runGet s 
      id = some r) ∧ (r.deferSince = some d) ∧ (runOpen r = true) ∧ (s.test.deferLimit.toNat * 1000000000 < 
      r.deferTotal + (s.now - d))) ∧
    (∃ (s : State), ∃ (h : Nat), (live s = true) ∧ (h < 16) ∧ ∃ (g : Nat), ∃ (r : TestRun), (g < 4) ∧ (s.test.runs = 
      [r]) ∧ (r.kind = 2) ∧ (r.pblock / 9 = g) ∧ (r.phase = .waitUnit) ∧ (r.result = .running) ∧ (inService s = true) 
      ∧ (regionStopped s g = false) ∧ ((blk s r.pblock).st = .serving) ∧ (1 ≤ s.test.istMax.toNat) ∧ (holdsNoData s 
      r.pblock r.bank = true)) ∧
    (∃ (s : State), ∃ (h : Nat), (live s = true) ∧ (h < 16) ∧ ∃ (id : Nat), ∃ (u : Nat), ∃ (r : TestRun), (runGet s 
      id = some r) ∧ (r.phase = .copyIn) ∧ (r.unit = some u) ∧ (mayRun s r.pblock 10 32768 r.stepAt = true)) ∧
    (∃ (s : State), ∃ (h : Nat), (live s = true) ∧ (h < 16) ∧ ∃ (r : TestRun), (s.test.runs = [r]) ∧ (r.phase = 
      .march) ∧ (r.result = .running) ∧ (r.endWith = none) ∧ (r.saStep < 1024) ∧ ((srBlk s r.pblock).colRep = []) ∧ 
      (mayRun s r.pblock 10 32 r.stepAt = true)) ∧
    (∃ (s : State), ∃ (h : Nat), (live s = true) ∧ (h < 16) ∧ ∃ (r : TestRun), (s.test.runs = [r]) ∧ (r.phase = 
      .bist) ∧ (r.result = .running) ∧ (r.endWith = none) ∧ (r.steps + 1 < 65536) ∧ (r.expected = 44635136)) ∧
    (∃ (s : State), ∃ (h : Nat), (live s = true) ∧ (h < 16) ∧ ∃ (id : Nat), ∃ (u : Nat), ∃ (r : TestRun), (runGet s 
      id = some r) ∧ (r.phase = .restore) ∧ (r.unit = some u) ∧ (repairsOwed s r = false) ∧ (regionStopped s (r.pblock 
      / 9) = false) ∧ ((blk s r.pblock).st = .serving) ∧ (mayRun s r.pblock (if r.forced then 8 else 10) 32768 
      r.stepAt = true)) :=
  ⟨⟨ring 0x0609 [1, 34, 0, 0, 0], 0, by decide +kernel, by decide +kernel, 34, by decide +kernel⟩,
   ⟨ringOn { retired 0 with test := { up.test with runs := [run0 1 0 0 .bist] }, store := { up.store with blocks := [(0, { st := .retired })] } } 0 0x0609 [1, 0, 0, 0, 0], 0, by decide +kernel, by decide +kernel, 0, by decide +kernel⟩,
   ⟨ringOn { up with store := { up.store with blocks := [(0, { st := .retired })] } } 0 0x0609 [1, 0, 0, 0, 0], 0, by decide +kernel, by decide +kernel, 0, by decide +kernel⟩,
   ⟨ringOn (testUp (fun x => { x with runs := [run0 1 0 0 .bist] })) 0 0x060A [1, 0, 0, 0], 0, by decide +kernel, by decide +kernel, run0 1 0 0 .bist, by decide +kernel⟩,
   ⟨testUp (fun x => { x with condSince := some 9999990000000 }), 0, by decide +kernel⟩,
   ⟨up, 0, by decide +kernel⟩,
   ⟨testUp (fun x => { x with deferLimit := 1, runs := [{ run0 1 0 0 .bist with deferSince := some 9998999999999 }] }), 0, by decide +kernel, by decide +kernel, 1, 9998999999999, { run0 1 0 0 .bist with deferSince := some 9998999999999 }, by decide +kernel⟩,
   ⟨testUp (fun x => { x with istMax := 1, runs := [run0 2 34 67 .waitUnit] }), 0, by decide +kernel, by decide +kernel, 3, run0 2 34 67 .waitUnit, by decide +kernel⟩,
   ⟨testUp (fun x => { x with runs := [{ run0 2 34 0 .copyIn with unit := some 1 }] }), 0, by decide +kernel, by decide +kernel, 1, 1, { run0 2 34 0 .copyIn with unit := some 1 }, by decide +kernel⟩,
   ⟨testUp (fun x => { x with runs := [run0 2 34 67 .march] }), 0, by decide +kernel, by decide +kernel, run0 2 34 67 .march, by decide +kernel⟩,
   ⟨testUp (fun x => { x with runs := [{ run0 1 0 0 .bist with steps := 65534 }] }), 0, by decide +kernel, by decide +kernel, { run0 1 0 0 .bist with steps := 65534 }, by decide +kernel⟩,
   ⟨testUp (fun x => { x with runs := [{ run0 2 34 0 .restore with unit := some 1 }] }), 0, by decide +kernel, by decide +kernel, 1, 1, { run0 2 34 0 .restore with unit := some 1 }, by decide +kernel⟩⟩

/-- Every clause of RegulatorCommands has a case. -/
theorem wit_RegulatorCommands :
    (∃ (s : State), (live s = true) ∧ ∃ (ing : Nat), ∃ (w : Waiting), ∃ (rel : RelClass), (s.tx.held = [w]) ∧ (w.ing 
      = ing) ∧ (w.step = none) ∧ (s.reg.upTo = s.now) ∧ (guarRelease s w = some rel)) ∧
    (∃ (s : State), (live s = true) ∧ ∃ (ing : Nat), ∃ (w : Waiting), (s.tx.held = [w]) ∧ (w.ing = ing) ∧ (w.step = 
      none) ∧ (s.reg.upTo = s.now) ∧ (contends s w = true) ∧ (backlogOk s w = true)) ∧
    (∃ (s : State), (live s = true) ∧ ∃ (ing : Nat), ∃ (master : Nat), (s.tx.held = [])) ∧
    (∃ (s : State), (live s = true) ∧ ∃ (ing : Nat), (holdDue s ing = true) ∧ (limitOk s (smGet none s.reg.satLast 
      ing) 1000000 = true)) ∧
    (∃ (s : State), (live s = true) ∧ ∃ (ing : Nat), (holdDue s ing = true) ∧ (limitOk s (smGet none s.reg.satLast 
      ing) 1000000 = false)) ∧
    (∃ (s : State), (live s = true) ∧ ∃ (ing : Nat), (holdDue s ing = false)) ∧
    (∃ (s : State), (live s = true) ∧ (s.reg.winStart + 10000 ≤ s.now) ∧ (s.reg.masters = []) ∧ (bulkMinEff s = 0)) ∧
    (∃ (s : State), (live s = true) ∧ (s.now < s.reg.winStart + 10000)) ∧
    (∃ (s : State), (live s = true) ∧ ∃ (v : BitVec 16), (s.boot.larder ≠ .running)) ∧
    (∃ (s : State), (live s = true) ∧ ∃ (v : BitVec 16), (s.boot.larder = .running)) :=
  ⟨⟨{ up with reg := { up.reg with upTo := up.now, scale := 4096, masters := [(5, 0x8080000064)], st := [(5, { guar := 1000 })] }, tx := { up.tx with held := [heldAt 4 (msg opRdCur 5 0 0 0)] } }, by decide +kernel, 4, heldAt 4 (msg opRdCur 5 0 0 0), .guaranteed, by decide +kernel⟩,
   ⟨{ up with reg := { up.reg with upTo := up.now, masters := [(0, 0x8080000064)] }, tx := { up.tx with held := [heldAt 4 (msg opRdCur 0 0 0 0)] } }, by decide +kernel, 4, heldAt 4 (msg opRdCur 0 0 0 0), by decide +kernel⟩,
   ⟨up, by decide +kernel, 0, 0, by decide +kernel⟩,
   ⟨{ up with tx := { up.tx with held := List.replicate 512 (heldAt 3 (msg 0 0 0 0 0)) }, reg := { up.reg with satSince := [(3, some 9999999990000)], satLast := [(3, some 9999998999999)] } }, by decide +kernel, 3, by decide +kernel⟩,
   ⟨{ up with tx := { up.tx with held := List.replicate 512 (heldAt 3 (msg 0 0 0 0 0)) }, reg := { up.reg with satSince := [(3, some 9999999990000)], satLast := [(3, some 9999999000001)] } }, by decide +kernel, 3, by decide +kernel⟩,
   ⟨up, by decide +kernel, 4, by decide +kernel⟩,
   ⟨up, by decide +kernel⟩,
   ⟨{ up with reg := { up.reg with winStart := 9999999990001 } }, by decide +kernel⟩,
   ⟨bUp (fun b => { b with larder := .stopped }), by decide +kernel, 0, by decide +kernel⟩,
   ⟨up, by decide +kernel, 1, by decide +kernel⟩⟩

/-- Every clause of MessagesAtTheirPort has a case. -/
theorem wit_MessagesAtTheirPort :
    (∃ (s : State), ∃ (ing : Nat), ∃ (m : Msg), ∃ (c : Instr), ∃ (op : Nat), ((c, op) ∈ [(Instr.rdShared ing m, 
      opRdShared), (.rdOwn ing m, opRdOwn), (.claim ing m, opClaim), (.rdCur ing m, opRdCur), (.rdLong ing m, 
      opRdLong), (.evictClean ing m, opEvictClean), (.wr ing m, opWr), (.wrLong ing m, opWrLong), (.wrback ing m, 
      opWrback), (.atomic ing m, opAtomic), (.bulkOp ing m, opBulk), (.snpRsp ing m, opSnpRsp), (.snpRspd ing m, 
      opSnpRspd), (.gack ing m, opGack), (.mgRd ing m, opMgRd), (.mgWr ing m, opMgWr)]) ∧ (ing < 5) ∧ (hOp m.h0 = op) 
      ∧ (m.data.length = dataLines m.h0) ∧ (wired s = true) ∧ (ingressOpen s ing = false)) ∧
    (∃ (s : State), ∃ (ing : Nat), ∃ (m : Msg), ∃ (c : Instr), ∃ (op : Nat), ((c, op) ∈ [(Instr.rdShared ing m, 
      opRdShared), (.rdOwn ing m, opRdOwn), (.claim ing m, opClaim), (.rdCur ing m, opRdCur), (.rdLong ing m, 
      opRdLong), (.evictClean ing m, opEvictClean), (.wr ing m, opWr), (.wrLong ing m, opWrLong), (.wrback ing m, 
      opWrback), (.atomic ing m, opAtomic), (.bulkOp ing m, opBulk), (.snpRsp ing m, opSnpRsp), (.snpRspd ing m, 
      opSnpRspd), (.gack ing m, opGack), (.mgRd ing m, opMgRd), (.mgWr ing m, opMgWr)]) ∧ (ing < 5) ∧ (hOp m.h0 = op) 
      ∧ (m.data.length = dataLines m.h0) ∧ (wired s = true) ∧ (ingressOpen s ing = true) ∧ (s.faults.halted = false) ∧ 
      (s.boot.phase ≠ .retHeld) ∧ (mapAgent s ing m = none)) ∧
    (∃ (s : State), ∃ (ing : Nat), ∃ (m : Msg), ∃ (c : Instr), ∃ (op : Nat), ((c, op) ∈ [(Instr.rdShared ing m, 
      opRdShared), (.rdOwn ing m, opRdOwn), (.claim ing m, opClaim), (.rdCur ing m, opRdCur), (.rdLong ing m, 
      opRdLong), (.evictClean ing m, opEvictClean), (.wr ing m, opWr), (.wrLong ing m, opWrLong), (.wrback ing m, 
      opWrback), (.atomic ing m, opAtomic), (.bulkOp ing m, opBulk), (.snpRsp ing m, opSnpRsp), (.snpRspd ing m, 
      opSnpRspd), (.gack ing m, opGack), (.mgRd ing m, opMgRd), (.mgWr ing m, opMgWr)]) ∧ (ing < 5) ∧ (hOp m.h0 = op) 
      ∧ (m.data.length = dataLines m.h0) ∧ (wired s = true) ∧ (ingressOpen s ing = true) ∧ (s.faults.halted = false) ∧ 
      (s.boot.phase ≠ .retHeld) ∧ ∃ (m1 : Msg), (mapAgent s ing m = some m1) ∧ (decodeIng s ing m1 = none)) ∧
    (∃ (s : State), ∃ (ing : Nat), ∃ (m : Msg), ∃ (c : Instr), ∃ (op : Nat), ((c, op) ∈ [(Instr.rdShared ing m, 
      opRdShared), (.rdOwn ing m, opRdOwn), (.claim ing m, opClaim), (.rdCur ing m, opRdCur), (.rdLong ing m, 
      opRdLong), (.evictClean ing m, opEvictClean), (.wr ing m, opWr), (.wrLong ing m, opWrLong), (.wrback ing m, 
      opWrback), (.atomic ing m, opAtomic), (.bulkOp ing m, opBulk), (.snpRsp ing m, opSnpRsp), (.snpRspd ing m, 
      opSnpRspd), (.gack ing m, opGack), (.mgRd ing m, opMgRd), (.mgWr ing m, opMgWr)]) ∧ (ing < 5) ∧ (hOp m.h0 = op) 
      ∧ (m.data.length = dataLines m.h0) ∧ (wired s = true) ∧ (ingressOpen s ing = true) ∧ (s.faults.halted = false) ∧ 
      (s.boot.phase ≠ .retHeld) ∧ ∃ (m1 : Msg), ∃ (m2 : Msg), (mapAgent s ing m = some m1) ∧ (decodeIng s ing m1 = 
      some m2) ∧ (hDst m2.h0 ≠ s.fab.stackNode)) ∧
    (∃ (s : State), ∃ (ing : Nat), ∃ (m : Msg), ∃ (c : Instr), ∃ (op : Nat), ((c, op) ∈ [(Instr.rdShared ing m, 
      opRdShared), (.rdOwn ing m, opRdOwn), (.claim ing m, opClaim), (.rdCur ing m, opRdCur), (.rdLong ing m, 
      opRdLong), (.evictClean ing m, opEvictClean), (.wr ing m, opWr), (.wrLong ing m, opWrLong), (.wrback ing m, 
      opWrback), (.atomic ing m, opAtomic), (.bulkOp ing m, opBulk), (.snpRsp ing m, opSnpRsp), (.snpRspd ing m, 
      opSnpRspd), (.gack ing m, opGack), (.mgRd ing m, opMgRd), (.mgWr ing m, opMgWr)]) ∧ (ing < 5) ∧ (hOp m.h0 = op) 
      ∧ (m.data.length = dataLines m.h0) ∧ (wired s = true) ∧ (ingressOpen s ing = true) ∧ (s.faults.halted = false) ∧ 
      (s.boot.phase ≠ .retHeld) ∧ ∃ (m1 : Msg), ∃ (m2 : Msg), (mapAgent s ing m = some m1) ∧ (decodeIng s ing m1 = 
      some m2) ∧ (hDst m2.h0 = s.fab.stackNode)) ∧
    (∃ (s : State), ∃ (ing : Nat), ∃ (m : Msg), ∃ (c : Instr), ∃ (op : Nat), ((c, op) ∈ [(Instr.rdShared ing m, 
      opRdShared), (.rdOwn ing m, opRdOwn), (.claim ing m, opClaim), (.rdCur ing m, opRdCur), (.rdLong ing m, 
      opRdLong), (.evictClean ing m, opEvictClean), (.wr ing m, opWr), (.wrLong ing m, opWrLong), (.wrback ing m, 
      opWrback), (.atomic ing m, opAtomic), (.bulkOp ing m, opBulk), (.snpRsp ing m, opSnpRsp), (.snpRspd ing m, 
      opSnpRspd), (.gack ing m, opGack), (.mgRd ing m, opMgRd), (.mgWr ing m, opMgWr)]) ∧ (ing < 5) ∧ (hOp m.h0 = op) 
      ∧ (m.data.length = dataLines m.h0) ∧ (wired s = true) ∧ (ing ≠ 4)) ∧
    (∃ (s : State), ∃ (ing : Nat), ∃ (m : Msg), ∃ (c : Instr), ∃ (op : Nat), ((c, op) ∈ [(Instr.rdShared ing m, 
      opRdShared), (.rdOwn ing m, opRdOwn), (.claim ing m, opClaim), (.rdCur ing m, opRdCur), (.rdLong ing m, 
      opRdLong), (.evictClean ing m, opEvictClean), (.wr ing m, opWr), (.wrLong ing m, opWrLong), (.wrback ing m, 
      opWrback), (.atomic ing m, opAtomic), (.bulkOp ing m, opBulk), (.snpRsp ing m, opSnpRsp), (.snpRspd ing m, 
      opSnpRspd), (.gack ing m, opGack), (.mgRd ing m, opMgRd), (.mgWr ing m, opMgWr)]) ∧ (ing < 5) ∧ (hOp m.h0 = op) 
      ∧ (m.data.length = dataLines m.h0) ∧ (wired s = true) ∧ (ingressOpen s ing = true) ∧ (s.boot.phase = .retHeld) ∧ 
      (ing ≠ 4)) :=
  ⟨⟨up, 3, msg opGack 0 0 1 0, .gack 3 (msg opGack 0 0 1 0), opGack, by decide +kernel⟩,
   ⟨wpOn up, 4, msg opGack 16 0 1 0, .gack 4 (msg opGack 16 0 1 0), opGack, by decide +kernel⟩,
   ⟨wpOn up, 4, msg opRdCur 15 0 1 (2 ^ 47 - 1), .rdCur 4 (msg opRdCur 15 0 1 (2 ^ 47 - 1)), opRdCur, by decide +kernel, by decide +kernel, by decide +kernel, by decide +kernel, by decide +kernel, by decide +kernel, by decide +kernel, by decide +kernel, (mapAgent (wpOn up) 4 (msg opRdCur 15 0 1 (2 ^ 47 - 1))).getD default, by decide +kernel⟩,
   ⟨portUp, 0, msg opRdCur 1 2 1 0, .rdCur 0 (msg opRdCur 1 2 1 0), opRdCur, by decide +kernel, by decide +kernel, by decide +kernel, by decide +kernel, by decide +kernel, by decide +kernel, by decide +kernel, by decide +kernel, msg opRdCur 1 2 1 0, msg opRdCur 1 2 1 0, by decide +kernel⟩,
   ⟨portUp, 0, msg opRdCur 1 0 1 0, .rdCur 0 (msg opRdCur 1 0 1 0), opRdCur, by decide +kernel, by decide +kernel, by decide +kernel, by decide +kernel, by decide +kernel, by decide +kernel, by decide +kernel, by decide +kernel, msg opRdCur 1 0 1 0, msg opRdCur 1 0 1 0, by decide +kernel⟩,
   ⟨up, 3, msg opMgRd 1 0 1 0, .mgRd 3 (msg opMgRd 1 0 1 0), opMgRd, by decide +kernel⟩,
   ⟨bUp (fun b => { b with phase := .retHeld }), 3, msg opMgRd 1 0 1 0, .mgRd 3 (msg opMgRd 1 0 1 0), opMgRd, by decide +kernel⟩⟩

/-- Every clause of MessagesServed has a case. -/
theorem wit_MessagesServed :
    (∃ (s : State), ∃ (ing : Nat), ∃ (m : Msg), (ing < 5) ∧ (s.faults.halted = false) ∧ (opIsRequest (hOp m.h0) = 
      true) ∧ ((hOp m.h0) ≠ opMgRd) ∧ ((hOp m.h0) ≠ opMgWr) ∧ ((hOp m.h0) ≠ opBulk) ∧ (retriesNow s (hOp m.h0) = 
      false) ∧ (openCtx s (hSrc m.h0) (hTag m.h0) = none) ∧ (m.data.length = dataLines m.h0)) ∧
    (∃ (s : State), ∃ (ing : Nat), ∃ (m : Msg), (ing < 5) ∧ (s.faults.halted = false) ∧ (opIsRequest (hOp m.h0) = 
      true) ∧ ((hOp m.h0) ≠ opMgRd) ∧ ((hOp m.h0) ≠ opMgWr) ∧ ((hOp m.h0) ≠ opBulk) ∧ (retriesNow s (hOp m.h0) = 
      false) ∧ ((openCtx s (hSrc m.h0) (hTag m.h0)).isSome = true)) ∧
    (∃ (s : State), ∃ (ing : Nat), ∃ (m : Msg), (ing < 5) ∧ (s.faults.halted = false) ∧ (retriesNow s (hOp m.h0) = 
      true)) ∧
    (∃ (s : State), ∃ (ing : Nat), ∃ (m : Msg), (ing < 5) ∧ (s.faults.halted = false) ∧ ((hOp m.h0) = opBulk) ∧ 
      (retriesNow s (hOp m.h0) = false)) ∧
    (∃ (s : State), ∃ (ing : Nat), ∃ (m : Msg), (ing < 5) ∧ (s.faults.halted = false) ∧ (isMgmt (hOp m.h0) = true) ∧ 
      (retriesNow s (hOp m.h0) = false) ∧ (openCtx s (hSrc m.h0) (hTag m.h0) = none) ∧ (s.tx.mgWait = []) ∧ (poolFree 
      s ing = true) ∧ (fieldsOk m = true) ∧ (moffListed (hMoff m.h0) = true) ∧ (mgmtDenied (leaveIngress (if moffQuiet 
      (hMoff m.h0) then s else occ (passIngress s ing m) 0x104 7 0xF 1) ing m) ing (hSrc m.h0) (hMoff m.h0) (hSize 
      m.h0 + 1) (opRights (hOp m.h0)) = none) ∧ ((hOp m.h0) = opMgRd) ∧ (hasEgress (moffTouch (leaveIngress (if 
      moffQuiet (hMoff m.h0) then s else occ (passIngress s ing m) 0x104 7 0xF 1) ing m) (hSrc m.h0) (hMoff m.h0)) 
      (hSrc m.h0) = true)) ∧
    (∃ (s : State), ∃ (ing : Nat), ∃ (m : Msg), (ing < 5) ∧ (s.faults.halted = false) ∧ (isMgmt (hOp m.h0) = true) ∧ 
      (retriesNow s (hOp m.h0) = false) ∧ (openCtx s (hSrc m.h0) (hTag m.h0) = none) ∧ (s.tx.mgWait = []) ∧ (poolFree 
      s ing = true) ∧ (fieldsOk m = true) ∧ (moffListed (hMoff m.h0) = true) ∧ (mgmtDenied (leaveIngress (if moffQuiet 
      (hMoff m.h0) then s else occ (passIngress s ing m) 0x104 7 0xF 1) ing m) ing (hSrc m.h0) (hMoff m.h0) (hSize 
      m.h0 + 1) (opRights (hOp m.h0)) = none) ∧ ((hOp m.h0) = opMgWr) ∧ (hasEgress (moffWrite (moffTouch (leaveIngress 
      (if moffQuiet (hMoff m.h0) then s else occ (passIngress s ing m) 0x104 7 0xF 1) ing m) (hSrc m.h0) (hMoff m.h0)) 
      (hSrc m.h0) (hMoff m.h0) ((lineBytes ((m.data.head?).getD 0)).take (8 * (hSize m.h0 + 1)))) (hSrc m.h0) = true)) ∧
    (∃ (s : State), ∃ (ing : Nat), ∃ (m : Msg), (ing < 5) ∧ (s.faults.halted = false) ∧ (((hOp m.h0) = opSnpRsp ∨ 
      (hOp m.h0) = opSnpRspd))) ∧
    (∃ (s : State), ∃ (ing : Nat), ∃ (m : Msg), (ing < 5) ∧ (s.faults.halted = false) ∧ ((hOp m.h0) = opGack)) ∧
    (∃ (s : State), ∃ (ing : Nat), ∃ (m : Msg), (ing < 5) ∧ (s.faults.halted = false) ∧ ∃ (c : Ctx), ∃ (it : 
      ChainItem), ((hOp m.h0) = opGack) ∧ (h0Clean m.h0 = true) ∧ (s.tx.ctxs = [c]) ∧ (c.kind = .request) ∧ (c.src = 
      (hSrc m.h0)) ∧ (c.tag = hTag m.h0) ∧ (gackItem s c.idx = some it)) :=
  ⟨⟨up, 4, msg opEvictClean 1 0 1 0, by decide +kernel⟩,
   ⟨txUp (fun t => { t with ctxs := [{ ctx0 1 0 opRdCur with src := 1, tag := 1 }] }), 4, msg opEvictClean 1 0 1 0, by decide +kernel⟩,
   ⟨bUp (fun b => { b with phase := .retaining }), 4, msg opRdCur 1 0 1 0, by decide +kernel⟩,
   ⟨up, 4, msg opBulk 1 0 1 0, by decide +kernel⟩,
   ⟨wpOn up, 4, msg opMgRd 0xFF0 0 1 0x300, by decide +kernel⟩,
   ⟨wpOn up, 4, { msg opMgWr 0xFF0 0 1 0x300 with data := [0] }, by decide +kernel⟩,
   ⟨up, 4, msg opSnpRspd 1 0 1 0, by decide +kernel⟩,
   ⟨up, 4, msg opGack 1 0 1 0, by decide +kernel⟩,
   ⟨txUp (fun t => { t with ctxs := [{ ctx0 1 0 opRdCur with src := 1, tag := 1 }], chain := [item0 (.gack none)] }), 4, msg opGack 1 0 1 0, by decide +kernel, by decide +kernel, { ctx0 1 0 opRdCur with src := 1, tag := 1 }, item0 (.gack none), by decide +kernel⟩⟩

set_option maxRecDepth 1000000 in
/-- Every clause of RequestAcceptance has a case. -/
theorem wit_RequestAcceptance :
    (∃ (s : State), ∃ (region : Nat), ∃ (ing : Nat), (live s = true) ∧ ∃ (bad : List Nat), (pipesOpen s = false)) ∧
    (∃ (s : State), ∃ (region : Nat), ∃ (ing : Nat), (live s = true) ∧ ∃ (bad : List Nat), (pipesOpen s = true)) ∧
    (∃ (s : State), ∃ (region : Nat), ∃ (ing : Nat), (live s = true) ∧ (nextPart s region ing = none) ∧ (nextFor s 
      region ing = none)) ∧
    (∃ (s : State), ∃ (region : Nat), ∃ (ing : Nat), (live s = true) ∧ ∃ (w : Waiting), (nextPart s region ing = 
      none) ∧ (nextFor s region ing = some w) ∧ (leadRegion s w.msg.h0 ≠ region)) ∧
    (∃ (s : State), ∃ (region : Nat), ∃ (ing : Nat), (live s = true) ∧ ∃ (w : Waiting), ∃ (m : Mapped), ∃ (u : 
      State), ∃ (e : Bool), (nextPart s region ing = none) ∧ (nextFor s region ing = some w) ∧ (leadRegion s w.msg.h0 
      = region) ∧ (openCtx s (hSrc w.msg.h0) (hTag w.msg.h0) = none) ∧ (verdict s w = (u, .accept e)) ∧ (mapFa 
      s.fab.windows (hAddr w.msg.h0 * 64) = some m) ∧ (poolFree s ing = false)) ∧
    (∃ (s : State), ∃ (region : Nat), ∃ (ing : Nat), (live s = true) ∧ ∃ (w : Waiting), ∃ (m : Mapped), ∃ (u : 
      State), ∃ (e : Bool), (nextPart s region ing = none) ∧ (nextFor s region ing = some w) ∧ (leadRegion s w.msg.h0 
      = region) ∧ (openCtx s (hSrc w.msg.h0) (hTag w.msg.h0) = none) ∧ (verdict s w = (u, .accept e)) ∧ (mapFa 
      s.fab.windows (hAddr w.msg.h0 * 64) = some m) ∧ (poolFree s ing = true) ∧ (isWriteOp (hOp w.msg.h0) = false)) ∧
    (∃ (s : State), ∃ (region : Nat), ∃ (ing : Nat), (live s = true) ∧ ∃ (w : Waiting), ∃ (u : State), ∃ (st : Nat), 
      ∃ (a : Nat), (nextPart s region ing = none) ∧ (nextFor s region ing = some w) ∧ (leadRegion s w.msg.h0 = region) 
      ∧ (openCtx s (hSrc w.msg.h0) (hTag w.msg.h0) = none) ∧ (verdict s w = (u, .refuse st a))) ∧
    (∃ (s : State), ∃ (region : Nat), ∃ (ing : Nat), (live s = true) ∧ ∃ (c : Ctx), (nextPart s region ing = some c) 
      ∧ (nextFor s region ing = none) ∧ (isWriteOp c.op = false)) ∧
    (∃ (s : State), ∃ (region : Nat), ∃ (ing : Nat), (live s = true) ∧ ∃ (w : Waiting), (fieldsOk w.msg = false)) ∧
    (∃ (s : State), ∃ (region : Nat), ∃ (ing : Nat), (live s = true) ∧ ∃ (w : Waiting), (fieldsOk w.msg = true) ∧ 
      (rangeOk s w.msg.h0 = false)) ∧
    (∃ (s : State), ∃ (region : Nat), ∃ (ing : Nat), (live s = true) ∧ ∃ (w : Waiting), (fieldsOk w.msg = true) ∧ 
      (rangeOk s w.msg.h0 = true) ∧ ((reqRegions s w.msg.h0).any (regionStopped s) = true)) ∧
    (∃ (s : State), ∃ (region : Nat), ∃ (ing : Nat), (live s = true) ∧ ∃ (w : Waiting), ∃ (m : Mapped), ∃ (e : Bool), 
      (isWriteOp (hOp w.msg.h0) = false) ∧ (w.ing < 5)) :=
  ⟨⟨bUp (fun b => { b with phase := .retHeld }), 0, 0, by decide +kernel, [], by decide +kernel⟩,
   ⟨up, 0, 0, by decide +kernel, [], by decide +kernel⟩,
   ⟨up, 3, 4, by decide +kernel⟩,
   ⟨openUp (fun t => { t with waiting := [heldAt 0 (msg opRdLong 1 0 1 (63 * 2 ^ 47))] }), 3, 0, by decide +kernel, heldAt 0 (msg opRdLong 1 0 1 (63 * 2 ^ 47)), by decide +kernel⟩,
   ⟨openUp (fun t => { t with waiting := [heldAt 0 (msg opRdCur 1 0 1 0)], ctxs := List.replicate 6144 (ctx0 0 0 opRdCur) }), 0, 0, by decide +kernel, heldAt 0 (msg opRdCur 1 0 1 0), ((mapFa up.fab.windows 0).getD default), (verdict (openUp (fun t => { t with waiting := [heldAt 0 (msg opRdCur 1 0 1 0)], ctxs := List.replicate 6144 (ctx0 0 0 opRdCur) })) (heldAt 0 (msg opRdCur 1 0 1 0))).1, false, ⟨by decide +kernel, by decide +kernel, by decide +kernel, by decide +kernel, Prod.ext rfl (by decide +kernel), by decide +kernel, by decide +kernel⟩⟩,
   ⟨openUp (fun t => { t with waiting := [heldAt 0 (msg opRdCur 1 0 1 0)], ctxs := List.replicate 3 (ctx0 0 0 opRdCur) }), 0, 0, by decide +kernel, heldAt 0 (msg opRdCur 1 0 1 0), ((mapFa up.fab.windows 0).getD default), (verdict (openUp (fun t => { t with waiting := [heldAt 0 (msg opRdCur 1 0 1 0)], ctxs := List.replicate 3 (ctx0 0 0 opRdCur) })) (heldAt 0 (msg opRdCur 1 0 1 0))).1, false, ⟨by decide +kernel, by decide +kernel, by decide +kernel, by decide +kernel, Prod.ext rfl (by decide +kernel), by decide +kernel, by decide +kernel, by decide +kernel⟩⟩,
   ⟨txUp (fun t => { t with waiting := [heldAt 0 (msg opRdCur 1 0 1 0)] }), 0, 0, by decide +kernel, heldAt 0 (msg opRdCur 1 0 1 0), (verdict (txUp (fun t => { t with waiting := [heldAt 0 (msg opRdCur 1 0 1 0)] })) (heldAt 0 (msg opRdCur 1 0 1 0))).1, 3, 0, by decide +kernel⟩,
   ⟨txUp (fun t => { t with ctxs := [{ ctx0 1 0 opRdLong with lines := [{ (default : CtxLine) with region := 3 }] }] }), 3, 0, by decide +kernel, { ctx0 1 0 opRdLong with lines := [{ (default : CtxLine) with region := 3 }] }, by decide +kernel⟩,
   ⟨up, 0, 0, by decide +kernel, heldAt 0 (msg opRdCur 1 0 1 (2 ^ 63)), by decide +kernel⟩,
   ⟨up, 0, 0, by decide +kernel, heldAt 0 (msg opRdCur 1 0 1 (2 ^ 47 - 1)), by decide +kernel⟩,
   ⟨faultUp (fun f => { f with stopped := 1 }), 0, 0, by decide +kernel, heldAt 0 (msg opRdCur 1 0 1 0), by decide +kernel⟩,
   ⟨up, 0, 0, by decide +kernel, heldAt 0 (msg opEvictClean 1 0 1 0), default, false, by decide +kernel⟩⟩

/-- Every clause of DataSnoopsAndTimeouts has a case. -/
theorem wit_DataSnoopsAndTimeouts :
    (∃ (s : State), (live s = true) ∧ ∃ (c : Ctx), ∃ (data : List Line), (s.tx.ctxs = [c]) ∧ (c.kind = .request) ∧ 
      (c.phase = .working) ∧ (isWriteOp c.op = true) ∧ (c.dataOk = false) ∧ (c.lines.length = data.length)) ∧
    (∃ (s : State), (live s = true) ∧ ∃ (c : Ctx), ∃ (i : Nat), (ctxGet s i = some c) ∧ (c.kind = .request) ∧ 
      (isWriteOp c.op = true) ∧ (c.phase = .working) ∧ (c.dataOk = false) ∧ (expired s c.acceptedAt 
      (s.cfg.dataTimeout.toNat * 1000) = true)) ∧
    (∃ (s : State), (live s = true) ∧ ∃ (c : Ctx), ∃ (i : Nat), (ctxGet s i = some c) ∧ (c.kind = .request) ∧ 
      (isWriteOp c.op = true) ∧ (c.phase = .working) ∧ (c.dataOk = false) ∧ (expired s c.acceptedAt 
      (s.cfg.dataTimeout.toNat * 1000) = false)) ∧
    (∃ (s : State), (live s = true) ∧ ∃ (a : AllotReq), ∃ (l : List AllotReq), (s.wp.allotQ = a :: l) ∧ 
      (s.wp.allotNext = none) ∧ (a.lines ≤ s.wp.allotFree)) ∧
    (∃ (s : State), (live s = true) ∧ ∃ (a : AllotReq), ∃ (l : List AllotReq), (s.wp.allotQ = a :: l) ∧ 
      (s.wp.allotNext = none) ∧ (s.wp.allotFree < a.lines)) ∧
    (∃ (s : State), (live s = true) ∧ ∃ p, (p < 4) ∧ ((port s p).allotQ = [])) ∧
    (∃ (s : State), (live s = true)) ∧
    (∃ (s : State), (live s = true) ∧ ∃ (r : Nat), ∃ (w : ResWait), (s.tx.resWait = [w]) ∧ (w.region = r) ∧ 
      (reserveFree s (physBlock s w.lblock) = true) ∧ (budgetRank s r 5 = true)) ∧
    (∃ (s : State), (live s = true) ∧ ∃ (r : Nat), ((∀ it ∈ chainHeads s, it.region ≠ r))) ∧
    (∃ (s : State), (live s = true) ∧ ∃ (r : Nat), ∃ (it : ChainItem), ∃ (c : Ctx), (chainHeads s = [it]) ∧ 
      (it.region = r) ∧ (snoopsOver s it = true) ∧ (ctxGet s it.ctx = some c) ∧ (c.kind = .backInv)) ∧
    (∃ (s : State), (live s = true) ∧ ∃ (n : Snoop), ∃ (t : Nat), (s.tx.snoops = [n]) ∧ (n.answered = false) ∧ 
      (n.sent = some t) ∧ (expired s t (s.cfg.snoopTimeout.toNat * 1000) = true)) ∧
    (∃ (s : State), (live s = true) ∧ ∃ (n : Snoop), ∃ (t : Nat), (s.tx.snoops = [n]) ∧ (n.answered = false) ∧ 
      (n.sent = some t) ∧ (expired s t (s.cfg.snoopTimeout.toNat * 1000) = false)) ∧
    (∃ (s : State), (live s = true) ∧ ∃ (i : Nat), ∃ (t : Nat), ∃ (it : ChainItem), ∃ (c : Ctx), (gackItem s i = some 
      it) ∧ (ctxGet s i = some c) ∧ (it.phase = .gack (some t)) ∧ (expired s t (s.cfg.snoopTimeout.toNat * 1000) = 
      true)) ∧
    (∃ (s : State), (live s = true) ∧ ∃ (i : Nat), ∃ (t : Nat), ∃ (it : ChainItem), ∃ (c : Ctx), (gackItem s i = some 
      it) ∧ (ctxGet s i = some c) ∧ (it.phase = .gack (some t)) ∧ (expired s t (s.cfg.snoopTimeout.toNat * 1000) = 
      false)) ∧
    (∃ (s : State), (live s = true) ∧ ∃ (n : Snoop), (s.tx.snoops = [n]) ∧ (n.answered = true) ∧ (n.wbp ≠ 0) ∧ 
      (expired s n.wbpSince (s.cfg.snoopTimeout.toNat * 1000) = false)) ∧
    (∃ (s : State), (live s = true) ∧ ∃ (n : Snoop), (s.tx.snoops = [n]) ∧ (n.answered = true) ∧ (n.wbp ≠ 0) ∧ 
      (expired s n.wbpSince (s.cfg.snoopTimeout.toNat * 1000) = true)) ∧
    (∃ (s : State), (live s = true) ∧ ∃ (i : Nat), ∃ (t : Nat), ∃ (c : Ctx), (ctxGet s i = some c) ∧ (c.quarantine = 
      some t) ∧ (t ≤ s.now)) ∧
    (∃ (s : State), (live s = true) ∧ ∃ (i : Nat), ∃ (t : Nat), ∃ (c : Ctx), (ctxGet s i = some c) ∧ (c.quarantine = 
      some t) ∧ (s.now < t)) :=
  ⟨⟨txUp (fun t => { t with ctxs := [{ ctx0 1 0 opWr with lines := [default] }] }), by decide +kernel, { ctx0 1 0 opWr with lines := [default] }, [0], by decide +kernel⟩,
   ⟨txUp (fun t => { t with ctxs := [ctx0 1 0 opWr] }), by decide +kernel, ctx0 1 0 opWr, 1, by decide +kernel⟩,
   ⟨txUp (fun t => { t with ctxs := [{ ctx0 1 0 opWr with acceptedAt := 10000000000000 }] }), by decide +kernel, { ctx0 1 0 opWr with acceptedAt := 10000000000000 }, 1, by decide +kernel⟩,
   ⟨{ up with wp := { up.wp with allotQ := [{ ctx := 1, lines := 64 }], allotFree := 64 } }, by decide +kernel, { ctx := 1, lines := 64 }, [], by decide +kernel⟩,
   ⟨{ up with wp := { up.wp with allotQ := [{ ctx := 1, lines := 64 }], allotFree := 63 } }, by decide +kernel, { ctx := 1, lines := 64 }, [], by decide +kernel⟩,
   ⟨up, by decide +kernel, 3, by decide +kernel⟩,
   ⟨up, by decide +kernel⟩,
   ⟨txUp (fun t => { t with resWait := [{ region := 3, lblock := 24, key := 0, ord := 0, data := 0, poison := false, ctx := 1 }] }), by decide +kernel, 3, { region := 3, lblock := 24, key := 0, ord := 0, data := 0, poison := false, ctx := 1 }, by decide +kernel⟩,
   ⟨txUp (fun t => { t with chain := [item0 .slot] }), by decide +kernel, 2, by decide +kernel⟩,
   ⟨txUp (fun t => { t with chain := [item0 .snoop], ctxs := [{ ctx0 1 5 0 with kind := .backInv }] }), by decide +kernel, 3, item0 .snoop, { ctx0 1 5 0 with kind := .backInv }, by decide +kernel⟩,
   ⟨txUp (fun t => { t with snoops := [{ snoop0 with sent := some 0 }] }), by decide +kernel, { snoop0 with sent := some 0 }, 0, by decide +kernel⟩,
   ⟨txUp (fun t => { t with snoops := [{ snoop0 with sent := some 10000000000000 }] }), by decide +kernel, { snoop0 with sent := some 10000000000000 }, 10000000000000, by decide +kernel⟩,
   ⟨txUp (fun t => { t with chain := [item0 (.gack (some 0))], ctxs := [ctx0 1 0 opRdOwn] }), by decide +kernel, 1, 0, item0 (.gack (some 0)), ctx0 1 0 opRdOwn, by decide +kernel⟩,
   ⟨txUp (fun t => { t with chain := [item0 (.gack (some 10000000000000))], ctxs := [ctx0 1 0 opRdOwn] }), by decide +kernel, 1, 10000000000000, item0 (.gack (some 10000000000000)), ctx0 1 0 opRdOwn, by decide +kernel⟩,
   ⟨txUp (fun t => { t with snoops := [{ snoop0 with answered := true, wbp := 8, wbpSince := 10000000000000 }] }), by decide +kernel, { snoop0 with answered := true, wbp := 8, wbpSince := 10000000000000 }, by decide +kernel⟩,
   ⟨txUp (fun t => { t with snoops := [{ snoop0 with answered := true, wbp := 8 }] }), by decide +kernel, { snoop0 with answered := true, wbp := 8 }, by decide +kernel⟩,
   ⟨txUp (fun t => { t with ctxs := [{ ctx0 1 0 opRdCur with quarantine := some 10000000000000 }] }), by decide +kernel, 1, 10000000000000, { ctx0 1 0 opRdCur with quarantine := some 10000000000000 }, by decide +kernel⟩,
   ⟨txUp (fun t => { t with ctxs := [{ ctx0 1 0 opRdCur with quarantine := some 10000000000001 }] }), by decide +kernel, 1, 10000000000001, { ctx0 1 0 opRdCur with quarantine := some 10000000000001 }, by decide +kernel⟩⟩

/-- Every clause of UndercoatCommands has a case. -/
theorem wit_UndercoatCommands :
    (∃ (s : State), (live s = true) ∧ ∃ (r : Nat), ∃ (set : Nat), ∃ (way : Nat), ∃ (hl : Bool), ∃ (errs : List (Nat × 
      Nat × BitVec 8)), (r < 4) ∧ (way < 16) ∧ (errs.all (fun e => e.1 < 32 && e.2.1 < 72) = true) ∧ (ucUsable s r = 
      true) ∧ (set < cSets s)) ∧
    (∃ (s : State), (live s = true) ∧ ∃ (r : Nat), ∃ (set : Nat), ∃ (way : Nat), ∃ (hl : Bool), ∃ (errs : List (Nat × 
      Nat × BitVec 8)), (r < 4) ∧ (way < 16) ∧ (errs.all (fun e => e.1 < 32 && e.2.1 < 72) = true) ∧ (ucUsable s r = 
      true) ∧ (set < cSets s) ∧ ((tagGet (errs.foldl (flipFrame r set way) (ucRegPut s r { ucReg s r with walk := set * 16 + way })) 
      r set way).hdr = none)) ∧
    (∃ (s : State), (live s = true) ∧ ∃ (r : Nat), ∃ (set : Nat), ∃ (way : Nat), ∃ (hl : Bool), ∃ (errs : List (Nat × 
      Nat × BitVec 8)), (r < 4) ∧ (way < 16) ∧ (errs.all (fun e => e.1 < 32 && e.2.1 < 72) = true) ∧ (ucUsable s r = 
      true) ∧ (set < cSets s) ∧ ∃ rid, ((tagGet (errs.foldl (flipFrame r set way) (ucRegPut s r { ucReg s r with walk := set * 16 + way })) 
      r set way).hdr = some rid)) ∧
    (∃ (s : State), (live s = true) ∧ ∃ (r : Nat), ∃ (set : Nat), ∃ (way : Nat), ∃ (hl : Bool), ∃ (errs : List (Nat × 
      Nat × BitVec 8)), (r < 4) ∧ (way < 16) ∧ (errs.all (fun e => e.1 < 32 && e.2.1 < 72) = true) ∧ (ucUsable s r = 
      true) ∧ (set < cSets s) ∧ ((tagGet (errs.foldl (flipFrame r set way) (ucRegPut s r { ucReg s r with walk := set * 16 + way })) 
      r set way).wstate = .retired)) ∧
    (∃ (s : State), (live s = true) ∧ ∃ (r : Nat), ∃ (set : Nat), ∃ (way : Nat), ∃ (hl : Bool), ∃ (errs : List (Nat × 
      Nat × BitVec 8)), (r < 4) ∧ (way < 16) ∧ (errs.all (fun e => e.1 < 32 && e.2.1 < 72) = true) ∧ (ucUsable s r = 
      true) ∧ (set < cSets s) ∧ ((tagGet (errs.foldl (flipFrame r set way) (ucRegPut s r { ucReg s r with walk := set * 16 + way })) 
      r set way).wstate ≠ .retired) ∧ (retiredIn (sliceFault (storeChanged (retireFrame (errs.foldl (flipFrame r set 
      way) (ucRegPut s r { ucReg s r with walk := set * 16 + way })) r set way true)) .c1 (sliceOf r set way) 0x0602 
      (b2n ((ucReg (errs.foldl (flipFrame r set way) (ucRegPut s r { ucReg s r with walk := set * 16 + way })) 
      r).noSpare.length < (ucReg (storeChanged (retireFrame (errs.foldl (flipFrame r set way) (ucRegPut s r { ucReg s r with walk := set * 16 + way })) 
      r set way true)) r).noSpare.length))) (sliceOf r set way) ≤ 64)) ∧
    (∃ (s : State), (live s = true) ∧ ∃ (r : Nat), ∃ (set : Nat), ∃ (way : Nat), ∃ (hl : Bool), ∃ (errs : List (Nat × 
      Nat × BitVec 8)), (r < 4) ∧ (way < 16) ∧ (errs.all (fun e => e.1 < 32 && e.2.1 < 72) = true) ∧ (ucUsable s r = 
      true) ∧ (set < cSets s) ∧ ((tagGet (errs.foldl (flipFrame r set way) (ucRegPut s r { ucReg s r with walk := set * 16 + way })) 
      r set way).wstate ≠ .retired) ∧ (64 < retiredIn (sliceFault (storeChanged (retireFrame (errs.foldl (flipFrame r 
      set way) (ucRegPut s r { ucReg s r with walk := set * 16 + way })) r set way true)) .c1 (sliceOf r set way) 
      0x0602 (b2n ((ucReg (errs.foldl (flipFrame r set way) (ucRegPut s r { ucReg s r with walk := set * 16 + way })) 
      r).noSpare.length < (ucReg (storeChanged (retireFrame (errs.foldl (flipFrame r set way) (ucRegPut s r { ucReg s r with walk := set * 16 + way })) 
      r set way true)) r).noSpare.length))) (sliceOf r set way))) ∧
    (∃ (s : State), (live s = true) ∧ ∃ (r : Nat), ∃ (set : Nat), ∃ (way : Nat), ∃ (a : Bool), ∃ (b : Bool), ∃ (c : 
      Bool), (r < 4) ∧ (way < 16) ∧ ((ucUsable s r = false ∨ cSets s ≤ set))) ∧
    (∃ (s : State), (live s = true) ∧ ∃ (r : Nat), ∃ (p : Nat), (r < 4) ∧ (ucUsable s r = true) ∧ (regionStopped s r 
      = false) ∧ (s.heat.stop = .running) ∧ ((ucReg s r).sweep = some p) ∧ (nextUnknown s r p = none)) ∧
    (∃ (s : State), (live s = true) ∧ ∃ (r : Nat), ∃ (p : Nat), (r < 4) ∧ (ucUsable s r = true) ∧ (regionStopped s r 
      = false) ∧ (s.heat.stop = .running) ∧ ((ucReg s r).sweep = some p) ∧ ∃ sec, (nextUnknown s r p = some sec) ∧ ((∀ 
      c ∈ s.tx.chain, c.region = r → c.sector ≠ sec)) ∧ (sweepRoom s r = false)) ∧
    (∃ (s : State), (live s = true) ∧ ∃ (r : Nat), ∃ (p : Nat), (r < 4) ∧ (ucUsable s r = true) ∧ (regionStopped s r 
      = false) ∧ (s.heat.stop = .running) ∧ ((ucReg s r).sweep = some p) ∧ ∃ sec, (nextUnknown s r p = some sec) ∧ ((∀ 
      c ∈ s.tx.chain, c.region = r → c.sector ≠ sec)) ∧ (sweepRoom s r = true) ∧ (mayRun s (physBlock s (sectorLine r 
      sec 0).1) 8 4 (ucReg s r).sweepAt = true) ∧ (sectorHinted s r sec = false)) ∧
    (∃ (s : State), (live s = true) ∧ ∃ (r : Nat), ∃ (p : Nat), (r < 4) ∧ (ucUsable s r = true) ∧ (regionStopped s r 
      = false) ∧ (s.heat.stop = .running) ∧ ((ucReg s r).sweep = some p) ∧ ∃ sec, (nextUnknown s r p = some sec) ∧ ((∀ 
      c ∈ s.tx.chain, c.region = r → c.sector ≠ sec)) ∧ (sweepRoom s r = true) ∧ (mayRun s (physBlock s (sectorLine r 
      sec 0).1) 8 4 (ucReg s r).sweepAt = true) ∧ (sectorHinted s r sec = true) ∧ (poolFree s 5 = true)) ∧
    (∃ (s : State), (live s = true) ∧ ∃ (r : Nat), (r < 4) ∧ ((ucUsable s r = false ∨ s.heat.stop ≠ .running))) ∧
    (∃ (s : State), (live s = true) ∧ ∃ (k : Nat), ∃ (rd : Bool), (k < 64) ∧ (ucOn s (k / 16) = false)) ∧
    (∃ (s : State), (live s = true) ∧ ∃ (k : Nat), ∃ (rd : Bool), (k < 64) ∧ (ucOn s (k / 16) = true) ∧ (failedLately 
      s k = true)) ∧
    (∃ (s : State), (live s = true) ∧ ∃ (k : Nat), ∃ (rd : Bool), (k < 64) ∧ (ucOn s (k / 16) = true) ∧ (failedLately 
      s k = false) ∧ (s.uc.reset = .none)) ∧
    (∃ (s : State), (live s = true) ∧ ((s.uc.reset ≠ .none ∨ s.cfg.ucEnable = false))) ∧
    (∃ (s : State), (live s = true) ∧ (s.uc.reset = .none) ∧ (s.cfg.ucEnable = true) ∧ ((∀ r < 4, dirtyItems s r = 
      [])) ∧ (s.test.runs = [])) ∧
    (∃ (s : State), (live s = true) ∧ (s.uc.reset = .decided) ∧ (waited s s.uc.t0 500 = true)) ∧
    (∃ (s : State), (live s = true) ∧ (s.uc.reset = .held) ∧ (waited s s.uc.t0 5000 = true)) ∧
    (∃ (s : State), (live s = true) ∧ (s.uc.reset = .stable) ∧ (waited s s.uc.t0 11000 = true) ∧ (waitingFor s 0x0306 
      = []) ∧ (s.uc.tags = [])) ∧
    (∃ (s : State), (live s = true) ∧ (s.uc.reset = .none)) :=
  ⟨⟨up, by decide +kernel, 3, 0, 15, true, [(31, 71, 1)], by decide +kernel⟩,
   ⟨up, by decide +kernel, 3, 0, 15, true, [], by decide +kernel⟩,
   ⟨ucUp (fun u => { u with tags := [(196608, { hdr := some 7 })] }), by decide +kernel, 3, 0, 0, true, [], by decide +kernel, by decide +kernel, by decide +kernel, by decide +kernel, by decide +kernel, 7, by decide +kernel⟩,
   ⟨ucUp (fun u => { u with tags := [(196608, { wstate := .retired })] }), by decide +kernel, 3, 0, 0, true, [], by decide +kernel⟩,
   ⟨up, by decide +kernel, 3, 0, 15, true, [], by decide +kernel⟩,
   ⟨ucUp (fun u => { u with tags := (List.range 64).map (fun i => (196608 + 256 * (i + 1) + 15, { wstate := .retired })) }), by decide +kernel, 3, 0, 15, true, [], by decide +kernel⟩,
   ⟨up, by decide +kernel, 3, 4096, 15, true, true, true, by decide +kernel⟩,
   ⟨ucRegUp 3 (fun u => { u with sweep := some 0 }), by decide +kernel, 3, 0, by decide +kernel⟩,
   ⟨{ ucRegUp 3 (fun u => { u with sweep := some 0, sweepAll := true }) with cfg := { up.cfg with sweepShare := 0 } }, by decide +kernel, 3, 0, by decide +kernel, by decide +kernel, by decide +kernel, by decide +kernel, by decide +kernel, 0, by decide +kernel⟩,
   ⟨ucRegUp 3 (fun u => { u with sweep := some 0, sweepAll := true }), by decide +kernel, 3, 0, by decide +kernel, by decide +kernel, by decide +kernel, by decide +kernel, by decide +kernel, 0, by decide +kernel⟩,
   ⟨keyWrite (ucRegUp 3 (fun u => { u with sweep := some 0, sweepAll := true })) (physBlock up (sectorLine 3 0 0).1) (sectorLine 3 0 0).2 (valCw { d := 0, p := false, h := true }), by decide +kernel, 3, 0, by decide +kernel, by decide +kernel, by decide +kernel, by decide +kernel, by decide +kernel, 0, by decide +kernel⟩,
   ⟨{ up with cfg := { up.cfg with ucEnable := false } }, by decide +kernel, 3, by decide +kernel⟩,
   ⟨{ up with cfg := { up.cfg with ucEnable := false } }, by decide +kernel, 63, true, by decide +kernel⟩,
   ⟨ucUp (fun u => { u with lastReset := [(63, 9999000000001)] }), by decide +kernel, 63, true, by decide +kernel⟩,
   ⟨ucUp (fun u => { u with lastReset := [(63, 9999000000000)] }), by decide +kernel, 63, true, by decide +kernel⟩,
   ⟨ucUp (fun u => { u with reset := .held }), by decide +kernel⟩,
   ⟨up, by decide +kernel⟩,
   ⟨ucUp (fun u => { u with reset := .decided, t0 := 9999999999500 }), by decide +kernel⟩,
   ⟨ucUp (fun u => { u with reset := .held, t0 := 9999999995000 }), by decide +kernel⟩,
   ⟨ucUp (fun u => { u with reset := .stable, t0 := 9999999989000 }), by decide +kernel⟩,
   ⟨up, by decide +kernel⟩⟩

/-- Every clause of BlockCommands has a case. -/
theorem wit_BlockCommands :
    (∃ (s : State), (live s = true) ∧ ∃ (b : Nat), (b < 36) ∧ (slotFree (placeInternal (endBadRows s b) b) b = false)) ∧
    (∃ (s : State), (live s = true) ∧ ∃ (b : Nat), (b < 36) ∧ (slotFree (placeInternal (endBadRows s b) b) b = true) 
      ∧ ((blk (dropFills (placeInternal (endBadRows s b) b) b) b).st = .selfRefresh)) ∧
    (∃ (s : State), (live s = true) ∧ ∃ (b : Nat), (b < 36) ∧ (slotFree (placeInternal (endBadRows s b) b) b = true) 
      ∧ ((blk (dropFills (placeInternal (endBadRows s b) b) b) b).st = .serving) ∧ ((blk (setMode (dropFills 
      (placeInternal (endBadRows s b) b) b) b (nextMode (dropFills (placeInternal (endBadRows s b) b) b) b (blockItems 
      (dropFills (placeInternal (endBadRows s b) b) b) b))) b).st = .serving) ∧ (chooseCand (setMode (dropFills 
      (placeInternal (endBadRows s b) b) b) b (nextMode (dropFills (placeInternal (endBadRows s b) b) b) b (blockItems 
      (dropFills (placeInternal (endBadRows s b) b) b) b))) b = none)) ∧
    (∃ (s : State), (live s = true) ∧ ∃ (b : Nat), (b < 36) ∧ (slotFree (placeInternal (endBadRows s b) b) b = true) 
      ∧ ((blk (dropFills (placeInternal (endBadRows s b) b) b) b).st = .serving) ∧ ((blk (setMode (dropFills 
      (placeInternal (endBadRows s b) b) b) b (nextMode (dropFills (placeInternal (endBadRows s b) b) b) b (blockItems 
      (dropFills (placeInternal (endBadRows s b) b) b) b))) b).st = .serving) ∧ ∃ (c : Cand), (chooseCand (setMode 
      (dropFills (placeInternal (endBadRows s b) b) b) b (nextMode (dropFills (placeInternal (endBadRows s b) b) b) b 
      (blockItems (dropFills (placeInternal (endBadRows s b) b) b) b))) b = some c)) ∧
    (∃ (s : State), (live s = true) ∧ ∃ (b : Nat), (b < 36) ∧ ∃ (bank : Nat), ∃ (r : Nat), ∃ (db : BitVec 3), ∃ (row 
      : BitVec 16), ∃ (p : Bool), (bank < 68) ∧ ((bankOf (blk s b) bank).row = some r) ∧ ((bankOf (blk s b) 
      bank).echoOk = false) ∧ ((bankOf (blk s b) bank).actAt + tAECHO ≤ s.now) ∧ (parity (row.toNat + db.toNat * 65536 
      + b2n p * 2 ^ 19) 20 = false) ∧ (row.toNat = r) ∧ (db.toNat = dbankOf bank)) ∧
    (∃ (s : State), (live s = true) ∧ ∃ (b : Nat), (b < 36) ∧ ∃ (bank : Nat), ∃ (r : Nat), ∃ (db : BitVec 3), ∃ (row 
      : BitVec 16), ∃ (p : Bool), (bank < 68) ∧ ((bankOf (blk s b) bank).row = some r) ∧ ((bankOf (blk s b) 
      bank).echoOk = false) ∧ ((bankOf (blk s b) bank).actAt + tAECHO ≤ s.now) ∧ ((parity (row.toNat + db.toNat * 
      65536 + b2n p * 2 ^ 19) 20 = true ∨ row.toNat ≠ r ∨ db.toNat ≠ dbankOf bank))) ∧
    (∃ (s : State), (live s = true) ∧ ∃ (b : Nat), (b < 36) ∧ ∃ (key : Nat), ∃ (e : BitVec 4), ∃ (errs : List (Nat × 
      BitVec 8)), ((∀ p ∈ errs, p.1 < 72)) ∧ (readerOf s b key = none)) ∧
    (∃ (s : State), (live s = true) ∧ ∃ (b : Nat), (b < 36) ∧ ∃ (key : Nat), ∃ (e : BitVec 4), ∃ (errs : List (Nat × 
      BitVec 8)), ((∀ p ∈ errs, p.1 < 72)) ∧ ∃ (rd : Reader), (readerOf s b key = some rd) ∧ (e = 15)) ∧
    (∃ (s : State), (live s = true) ∧ ∃ (b : Nat), (b < 36) ∧ ∃ (key : Nat), ∃ (e : BitVec 4), ∃ (errs : List (Nat × 
      BitVec 8)), ((∀ p ∈ errs, p.1 < 72)) ∧ ∃ (rd : Reader), (readerOf s b key = some rd) ∧ (e ≠ 15) ∧ (e.toNat ≠ 
      (dbankOf (physBank s b (keyBank key)) * 65536 + keyRow key) % 15)) ∧
    (∃ (s : State), (live s = true) ∧ ∃ (b : Nat), (b < 36) ∧ ∃ (key : Nat), ∃ (e : BitVec 4), ∃ (errs : List (Nat × 
      BitVec 8)), ((∀ p ∈ errs, p.1 < 72)) ∧ ∃ (rd : Reader), (readerOf s b key = some rd) ∧ (e ≠ 15) ∧ (e.toNat = 
      (dbankOf (physBank s b (keyBank key)) * 65536 + keyRow key) % 15) ∧ ∃ (d : Line), ∃ (p : Bool), ∃ (h : Bool), ∃ 
      (o : Bool), ∃ (fx : List (Nat × BitVec 8)), (backOf (echoGood s b (physBank s b (keyBank key)) true) b rd = 
      none) ∧ (decodeLine (withErrs (keyRead (echoGood s b (physBank s b (keyBank key)) true) b key) errs) = .good d p 
      h o fx)) ∧
    (∃ (s : State), (live s = true) ∧ ∃ (b : Nat), (b < 36) ∧ ∃ (key : Nat), ∃ (e : BitVec 4), ∃ (errs : List (Nat × 
      BitVec 8)), ((∀ p ∈ errs, p.1 < 72)) ∧ ∃ (rd : Reader), (readerOf s b key = some rd) ∧ (e ≠ 15) ∧ (e.toNat = 
      (dbankOf (physBank s b (keyBank key)) * 65536 + keyRow key) % 15) ∧ (backOf (echoGood s b (physBank s b (keyBank 
      key)) true) b rd = none) ∧ (decodeLine (withErrs (keyRead (echoGood s b (physBank s b (keyBank key)) true) b 
      key) errs) = .bad)) ∧
    (∃ (s : State), (live s = true) ∧ ∃ (b : Nat), (b < 36) ∧ ∃ (key : Nat), ∃ (e : BitVec 4), ((∀ p ∈ (blk s 
      b).wrEcho, p.2.1 ≠ key))) ∧
    (∃ (s : State), (live s = true) ∧ ∃ (b : Nat), (b < 36) ∧ ∃ (key : Nat), ∃ (e : BitVec 4), ∃ (p : Nat × Nat × 
      Nat), ((blk s b).wrEcho = [p]) ∧ (p.2.1 = key) ∧ (p.2.2 + tECHO ≤ s.now) ∧ (e.toNat = (dbankOf (physBank s b 
      (keyBank key)) * 65536 + keyRow key) % 15) ∧ ∃ (w : WEnt), ((blk (echoGood (modBlk s b (fun k => { k with wrEcho := [] })) 
      b (physBank s b (keyBank key)) true) b).wq = [w]) ∧ (w.key = key) ∧ (w.ord = p.1)) ∧
    (∃ (s : State), (live s = true) ∧ ∃ (b : Nat), (b < 36) ∧ ∃ (key : Nat), ∃ (e : BitVec 4), ∃ (p : Nat × Nat × 
      Nat), ((blk s b).wrEcho = [p]) ∧ (p.2.1 = key) ∧ (p.2.2 + tECHO ≤ s.now) ∧ (e = 15)) ∧
    (∃ (s : State), (live s = true) ∧ ∃ (b : Nat), (b < 36) ∧ ∃ (key : Nat), ∃ (e : BitVec 4), ∃ (p : Nat × Nat × 
      Nat), ((blk s b).wrEcho = [p]) ∧ (p.2.1 = key) ∧ (p.2.2 + tECHO ≤ s.now) ∧ (e ≠ 15) ∧ (e.toNat ≠ (dbankOf 
      (physBank s b (keyBank key)) * 65536 + keyRow key) % 15)) ∧
    (∃ (s : State), (live s = true) ∧ ∃ (b : Nat), (b < 36) ∧ ∃ (bank : Nat), (bank < 68) ∧ ((bankOf (blk s b) 
      bank).row = none)) ∧
    (∃ (s : State), (live s = true) ∧ ∃ (b : Nat), (b < 36) ∧ ∃ (bank : Nat), (bank < 68) ∧ ((bankOf (blk s b) 
      bank).row.isSome = true) ∧ ((bankOf (blk s b) bank).idleAt + s.cfg.idleTimer.toNat ≤ s.now) ∧ (preOk (blk s b) b 
      bank s.now = true) ∧ (slotFree s b = true) ∧ ((∀ q ∈ queued s b, q.2.1 = bank → (bankOf (blk s b) bank).row ≠ 
      some q.2.2))) ∧
    (∃ (s : State), (live s = true) ∧ ∃ (b : Nat), (b < 36) ∧ ∃ (bank : Nat), (bank < 68) ∧ (s.now < dueTime (blk s 
      b) b bank)) ∧
    (∃ (s : State), (live s = true) ∧ ∃ (b : Nat), (b < 36) ∧ ∃ (bank : Nat), (bank < 68) ∧ (dueTime (blk s b) b bank 
      ≤ s.now) ∧ (isRetiredBank s b bank = false) ∧ ((blk s b).st = .serving) ∧ ((bankOf (blk s b) bank).debt < 8)) ∧
    (∃ (s : State), (live s = true) ∧ ∃ (b : Nat), (b < 36) ∧ ∃ (bank : Nat), (bank < 68) ∧ (dueTime (blk s b) b bank 
      ≤ s.now) ∧ (isRetiredBank s b bank = false) ∧ ((blk s b).st = .serving) ∧ (8 ≤ (bankOf (blk s b) bank).debt)) ∧
    (∃ (s : State), (live s = true) ∧ ∃ (b : Nat), (b < 36) ∧ ((blk s b).st ≠ .leaving)) ∧
    (∃ (s : State), (live s = true) ∧ ∃ (b : Nat), (b < 36) ∧ ((blk s b).st = .leaving) ∧ ((blk s b).rq = []) ∧ ((blk 
      s b).wq = []) ∧ ((blk s b).wrEcho = []) ∧ ((blk s b).rowOps = []) ∧ (s.test.runs = []) ∧ ∃ (lb : Nat), 
      (logicalOf s b = some lb) ∧ (bistWaits (ucWriteBack s lb) b = false)) ∧
    (∃ (s : State), (live s = true) ∧ ∃ (b : Nat), (b < 36) ∧ ((blk s b).st ≠ .returning)) ∧
    (∃ (s : State), (live s = true) ∧ ∃ (b : Nat), (b < 36) ∧ ((blk s b).st = .returning) ∧ (waited s (blk s b).t0 
      5800 = true)) ∧
    (∃ (s : State), (live s = true) ∧ ∃ (b : Nat), (b < 36) ∧ (starved s b = [])) ∧
    (∃ (s : State), (live s = true) ∧ ∃ (b : Nat), (b < 36) ∧ ∃ (r : Nat), ∃ (l : List Nat), (starved s b = r :: l)) :=
  ⟨⟨blkUp 35 (fun k => { k with caBusyTill := 30000000000000 }), by decide +kernel, 35, by decide +kernel⟩,
   ⟨blkUp 35 (fun k => { k with st := .selfRefresh }), by decide +kernel, 35, by decide +kernel⟩,
   ⟨up, by decide +kernel, 35, by decide +kernel⟩,
   ⟨bankUp 34 67 { forced := true, due := 1, debt := 8 }, by decide +kernel, 34, by decide +kernel, by decide +kernel, by decide +kernel, by decide +kernel, (chooseCand (bankUp 34 67 { forced := true, due := 1, debt := 8 }) 34).getD default, by decide +kernel⟩,
   ⟨bankUp 34 67 { row := some 65535, actAt := 9999999999970 }, by decide +kernel, 34, by decide +kernel, 67, 65535, BitVec.ofNat 3 (dbankOf 67), 0xFFFF, parity (65535 + dbankOf 67 * 65536) 20, by decide +kernel⟩,
   ⟨bankUp 34 67 { row := some 65535, actAt := 9999999999970 }, by decide +kernel, 34, by decide +kernel, 67, 65535, BitVec.ofNat 3 (dbankOf 67), 0xFFFE, true, by decide +kernel⟩,
   ⟨up, by decide +kernel, 34, by decide +kernel, 0, 0, [(71, 1)], by decide +kernel⟩,
   ⟨blkUp 34 (fun k => { k with rq := [rd0] }), by decide +kernel, 34, by decide +kernel, 0, 15, [], by decide +kernel, .read rd0, by decide +kernel⟩,
   ⟨blkUp 34 (fun k => { k with rq := [rd0] }), by decide +kernel, 34, by decide +kernel, 0, 14, [], by decide +kernel, .read rd0, by decide +kernel⟩,
   ⟨blkUp 34 (fun k => { k with rq := [rd0] }), by decide +kernel, 34, by decide +kernel, 0, 0, [], by decide +kernel, .read rd0, by decide +kernel, by decide +kernel, by decide +kernel, 0, false, false, false, [], by decide +kernel⟩,
   ⟨blkUp 34 (fun k => { k with rq := [rd0] }), by decide +kernel, 34, by decide +kernel, 0, 0, (List.range 5).map (fun i => (i, 1)), by decide +kernel, .read rd0, by decide +kernel⟩,
   ⟨up, by decide +kernel, 34, by decide +kernel, 0, 0, by decide +kernel⟩,
   ⟨blkUp 34 (fun k => { k with wrEcho := [(5, 0, 0)], wq := [wr0] }), by decide +kernel, 34, by decide +kernel, 0, 0, (5, 0, 0), by decide +kernel, by decide +kernel, by decide +kernel, by decide +kernel, wr0, by decide +kernel⟩,
   ⟨blkUp 34 (fun k => { k with wrEcho := [(5, 0, 0)], wq := [wr0] }), by decide +kernel, 34, by decide +kernel, 0, 15, (5, 0, 0), by decide +kernel⟩,
   ⟨blkUp 34 (fun k => { k with wrEcho := [(5, 0, 0)], wq := [wr0] }), by decide +kernel, 34, by decide +kernel, 0, 14, (5, 0, 0), by decide +kernel⟩,
   ⟨up, by decide +kernel, 34, by decide +kernel, 67, by decide +kernel⟩,
   ⟨bankUp 34 67 { row := some 65535 }, by decide +kernel, 34, by decide +kernel, 67, by decide +kernel⟩,
   ⟨bankUp 34 67 { due := 10000000000001 }, by decide +kernel, 34, by decide +kernel, 67, by decide +kernel⟩,
   ⟨bankUp 34 63 { due := 10000000000000, debt := 7 }, by decide +kernel, 34, by decide +kernel, 63, by decide +kernel⟩,
   ⟨bankUp 34 63 { due := 10000000000000, debt := 8 }, by decide +kernel, 34, by decide +kernel, 63, by decide +kernel⟩,
   ⟨up, by decide +kernel, 35, by decide +kernel⟩,
   ⟨blkUp 34 (fun k => { k with st := .leaving }), by decide +kernel, 34, by decide +kernel, by decide +kernel, by decide +kernel, by decide +kernel, by decide +kernel, by decide +kernel, by decide +kernel, 31, by decide +kernel⟩,
   ⟨up, by decide +kernel, 35, by decide +kernel⟩,
   ⟨blkUp 35 (fun k => { k with st := .returning, t0 := 9999999994200 }), by decide +kernel, 35, by decide +kernel⟩,
   ⟨up, by decide +kernel, 35, by decide +kernel⟩,
   ⟨blkUp 35 (fun k => { k with wq := [{ wr0 with rank := 11 }] }), by decide +kernel, 35, by decide +kernel, 11, [], by decide +kernel⟩⟩

/-- Every clause of TrowelCommands has a case. -/
theorem wit_TrowelCommands :
    (∃ (s : State), (live s = true) ∧ ∃ (id : Nat), (opGet s id = none)) ∧
    (∃ (s : State), (live s = true) ∧ ∃ (id : Nat), ∃ (o : BulkOp), (opGet s id = some o) ∧ (o.phase = .checking) ∧ 
      (rangeDenied s o = none) ∧ (rangePrivate s o = false)) ∧
    (∃ (s : State), (live s = true) ∧ ∃ (id : Nat), ∃ (o : BulkOp), (opGet s id = some o) ∧ (o.phase = .checking) ∧ 
      (rangeDenied s o = none) ∧ (rangePrivate s o = true)) ∧
    (∃ (s : State), (live s = true) ∧ ∃ (id : Nat), ∃ (o : BulkOp), (opGet s id = some o) ∧ (o.phase = .checking) ∧ ∃ 
      (r : Nat), ∃ a, ∃ (rule : Nat), ∃ (nm : Bool), ∃ (nr : Bool), (rangeDenied s o = some (r, a, .fail rule nm nr))) ∧
    (∃ (s : State), (live s = true) ∧ ∃ (id : Nat), ∃ (o : BulkOp), (opGet s id = some o) ∧ (opOver s o = false)) ∧
    (∃ (s : State), (live s = true) ∧ ∃ (id : Nat), ∃ (o : BulkOp), (opGet s id = some o) ∧ (opOver s o = true)) ∧
    (∃ (s : State), (live s = true) ∧ ∃ (r : Nat), ∃ (bad : List Nat), (s.trowel.scans = [])) ∧
    (∃ (s : State), (live s = true) ∧ ∃ (r : Nat), ∃ (c : Scan), (s.trowel.scans = [c]) ∧ (c.region = r) ∧ (scanOver 
      s c = true) ∧ (isOpScan c = true)) ∧
    (∃ (s : State), (live s = true) ∧ ((∀ o ∈ s.trowel.ops, o.phase ≠ .queued))) ∧
    (∃ (s : State), (live s = true) ∧ ∃ (o : BulkOp), (s.trowel.ops = [o]) ∧ (o.phase = .queued) ∧ (o.endWith = none) 
      ∧ ((s.trowel.maxActive = 0 ∨ pipesOpen s = false))) ∧
    (∃ (s : State), (live s = true) ∧ ∃ (o : BulkOp), (s.trowel.ops = [o]) ∧ (o.phase = .queued) ∧ (o.endWith = none) 
      ∧ (0 < s.trowel.maxActive) ∧ (pipesOpen s = true) ∧ (someTracked s o.dst o.count = false) ∧ ((srcLines o.bop 
      o.count = 0 ∨ someTracked s o.src (srcLines o.bop o.count) = false))) ∧
    (∃ (s : State), (live s = true) ∧ ∃ (o : BulkOp), (s.trowel.ops = [o]) ∧ (o.phase = .queued) ∧ (o.endWith = none) 
      ∧ (0 < s.trowel.maxActive) ∧ (pipesOpen s = true) ∧ (someTracked s o.dst o.count = true) ∧ (srcLines o.bop 
      o.count = 0)) ∧
    (∃ (s : State), (live s = true) ∧ ∃ (r : Nat), (headStep s r = none)) ∧
    (∃ (s : State), (live s = true) ∧ ∃ (r : Nat), ∃ (w : Waiting), ∃ (t : TStep), ∃ (o : BulkOp), (headStep s r = 
      some (w, t, o)) ∧ (65536 ≤ t.ctx) ∧ ((mayOpen s o t = false ∨ pipesOpen s = false))) ∧
    (∃ (s : State), (live s = true) ∧ ∃ (r : Nat), ∃ (w : Waiting), ∃ (t : TStep), ∃ (o : BulkOp), (headStep s r = 
      some (w, t, o)) ∧ (65536 ≤ t.ctx) ∧ (mayOpen s o t = true) ∧ (pipesOpen s = true) ∧ ((((partOf (linesOf s o t) 
      r).filterMap (fun i => (linesOf s o t)[i]?)).filter (fun l => l.wr)).all (fun l => (blk s (physBlock s 
      l.lblock)).st == .serving) = true) ∧ (slotsFree s (rankOf w.rel) ((((partOf (linesOf s o t) r).filterMap (fun i 
      => (linesOf s o t)[i]?)).filter (fun l => l.wr)).filter (fun l => !((rowMoves s o t (linesOf s o t)).map (fun m 
      => rowOf m.1.lblock m.1.key)).contains (rowOf l.lblock l.key))) = true) ∧ (((ctxGet (takeLines (openStep s w o 
      t).1 o (openStep s w o t).2 r) (openStep s w o t).2.ctx).all (fun c => c.lines.all (fun l => l.accepted || 
      l.done))) = true)) ∧
    (∃ (s : State), (live s = true) ∧ ∃ (r : Nat), ∃ (w : Waiting), ∃ (t : TStep), ∃ (o : BulkOp), (headStep s r = 
      some (w, t, o)) ∧ (65536 ≤ t.ctx) ∧ (mayOpen s o t = true) ∧ (pipesOpen s = true) ∧ ((((partOf (linesOf s o t) 
      r).filterMap (fun i => (linesOf s o t)[i]?)).filter (fun l => l.wr)).all (fun l => (blk s (physBlock s 
      l.lblock)).st == .serving) = true) ∧ (slotsFree s (rankOf w.rel) ((((partOf (linesOf s o t) r).filterMap (fun i 
      => (linesOf s o t)[i]?)).filter (fun l => l.wr)).filter (fun l => !((rowMoves s o t (linesOf s o t)).map (fun m 
      => rowOf m.1.lblock m.1.key)).contains (rowOf l.lblock l.key))) = true) ∧ (((ctxGet (takeLines (openStep s w o 
      t).1 o (openStep s w o t).2 r) (openStep s w o t).2.ctx).all (fun c => c.lines.all (fun l => l.accepted || 
      l.done))) = false)) ∧
    (∃ (s : State), (live s = true) ∧ ∃ (op : Nat), ∃ (lb : Nat), ∃ (errs : List (Nat × Nat × BitVec 8)), (lb < 32) ∧ 
      (checkRow s op lb = none)) ∧
    (∃ (s : State), (live s = true) ∧ ∃ (op : Nat), ∃ (lb : Nat), ∃ (errs : List (Nat × Nat × BitVec 8)), (lb < 32) ∧ 
      ∃ (t : TStep), ∃ (d : Nat), ∃ (c : Nat), ∃ (m : RowOp), (checkRow s op lb = some (t, (d, c), m)) ∧ ((blk s 
      (physBlock s lb)).st = .serving) ∧ (checkReady s t c (physBlock s lb) m = true) ∧ ∃ (k : Nat), (copyKind 
      (rowWriteBack s lb (c % 2 ^ 22 * 32)) (physBlock s lb) (d % 2 ^ 22 * 32) (c % 2 ^ 22 * 32) = some k) ∧ ((∀ n < 
      32, checkClean (rowWriteBack s lb (c % 2 ^ 22 * 32)) (physBlock s lb) ((c % 2 ^ 22 * 32) + n) errs = true))) ∧
    (∃ (s : State), (live s = true) ∧ ∃ (op : Nat), ∃ (lb : Nat), ∃ (errs : List (Nat × Nat × BitVec 8)), (lb < 32) ∧ 
      ∃ (t : TStep), ∃ (d : Nat), ∃ (c : Nat), ∃ (m : RowOp), (checkRow s op lb = some (t, (d, c), m)) ∧ ((blk s 
      (physBlock s lb)).st = .serving) ∧ (checkReady s t c (physBlock s lb) m = true) ∧ ((copyKind (rowWriteBack s lb 
      (c % 2 ^ 22 * 32)) (physBlock s lb) (d % 2 ^ 22 * 32) (c % 2 ^ 22 * 32) = none ∨ ∃ n < 32, checkClean 
      (rowWriteBack s lb (c % 2 ^ 22 * 32)) (physBlock s lb) ((c % 2 ^ 22 * 32) + n) errs = false))) ∧
    (∃ (s : State), (live s = true) ∧ ∃ (b : Nat), (b < 36) ∧ ((blk s b).rowOps = [])) ∧
    (∃ (s : State), (live s = true) ∧ ∃ (b : Nat), ∃ (r : RowOp), ∃ (k : Nat), (b < 36) ∧ ((blk s b).rowOps = [r]) ∧ 
      (r.issued = some k) ∧ (r.kind ≠ 1) ∧ (waited s k 45 = true) ∧ ((modBlk s b (fun k => { k with rowOps := [] })).trowel.steps 
      = [])) ∧
    (∃ (s : State), (live s = true) ∧ ∃ (b : Nat), ∃ (r : RowOp), ∃ (k : Nat), (b < 36) ∧ ((blk s b).rowOps = [r]) ∧ 
      (r.issued = some k) ∧ (r.kind ≠ 1) ∧ (waited s k 45 = true) ∧ ∃ (t : TStep), ∃ (q : Nat × Nat), ((modBlk s b 
      (fun k => { k with rowOps := [] })).trowel.steps = [t]) ∧ (t.rows = [q]) ∧ (r.op = some t.op) ∧ (physBlock 
      (modBlk s b (fun k => { k with rowOps := [] })) (q.1 / 2 ^ 22) = b) ∧ (q.1 % 65536 = r.dst) ∧ (physBank (modBlk 
      s b (fun k => { k with rowOps := [] })) b (q.1 / 65536 % 64) = r.dstBank)) ∧
    (∃ (s : State), (live s = true) ∧ ∃ (h : Nat), ∃ (h0 : Slot), ∃ (h1 : Slot), (h < 16) ∧ (hOp h0 = opBulk) ∧ 
      ((s.boot.larder ≠ .running ∨ pipesOpen s = false))) ∧
    (∃ (s : State), (live s = true) ∧ ∃ (h : Nat), ∃ (h0 : Slot), ∃ (h1 : Slot), (h < 16) ∧ (hOp h0 = opBulk) ∧ 
      (s.boot.larder = .running) ∧ (pipesOpen s = true) ∧ (internalOps s < 16) ∧ (s.trowel.intWait = [])) ∧
    (∃ (s : State), (live s = true) ∧ ∃ (h : Nat), ∃ (h0 : Slot), ∃ (h1 : Slot), (h < 16) ∧ (hOp h0 = opBulk) ∧ 
      (s.boot.larder = .running) ∧ (pipesOpen s = true) ∧ (16 ≤ internalOps s)) :=
  ⟨⟨up, by decide +kernel, 1, by decide +kernel⟩,
   ⟨trUp (fun t => { t with ops := [op0 0 .checking] }), by decide +kernel, 1, op0 0 .checking, by decide +kernel⟩,
   ⟨{ trUp (fun t => { t with ops := [{ op0 0 .checking with master := 5 }] }) with fab := { up.fab with windows := [(0, 0x1FE00000000303)] } }, by decide +kernel, 1, { op0 0 .checking with master := 5 }, by decide +kernel⟩,
   ⟨trUp (fun t => { t with ops := [{ op0 0 .checking with ing := 0 }] }), by decide +kernel, 1, { op0 0 .checking with ing := 0 }, by decide +kernel, by decide +kernel, 0, 0, 0, true, false, by decide +kernel⟩,
   ⟨trUp (fun t => { t with ops := [op0 0 .running] }), by decide +kernel, 1, op0 0 .running, by decide +kernel⟩,
   ⟨trUp (fun t => { t with ops := [{ op0 0 .running with nextLine := 1 }] }), by decide +kernel, 1, { op0 0 .running with nextLine := 1 }, by decide +kernel⟩,
   ⟨up, by decide +kernel, 0, [5], by decide +kernel⟩,
   ⟨trUp (fun t => { t with scans := [{ (default : Scan) with owner := .op 1, region := 3 }] }), by decide +kernel, 3, { (default : Scan) with owner := .op 1, region := 3 }, by decide +kernel⟩,
   ⟨up, by decide +kernel⟩,
   ⟨trUp (fun t => { t with ops := [op0 0 .queued], maxActive := 0 }), by decide +kernel, op0 0 .queued, by decide +kernel⟩,
   ⟨{ trUp (fun t => { t with ops := [op0 0 .queued], maxActive := 1 }) with fab := { up.fab with windows := [(0, 0x1FE00000000305)] } }, by decide +kernel, op0 0 .queued, by decide +kernel⟩,
   ⟨trUp (fun t => { t with ops := [{ op0 2 .queued with cls := .tracked }] }), by decide +kernel, { op0 2 .queued with cls := .tracked }, by decide +kernel⟩,
   ⟨up, by decide +kernel, 0, by decide +kernel⟩,
   ⟨stepUp (fun t => { t with credits := [(9999999999999, 2930)] }), by decide +kernel, 0, { heldAt 5 (msg opBulk 0 0 0 0) with step := some (1, 0) }, st0, op0 2 .running, by decide +kernel⟩,
   ⟨stepUp (fun t => { t with credits := [(9999999999999, 2929)] }), by decide +kernel, 0, { heldAt 5 (msg opBulk 0 0 0 0) with step := some (1, 0) }, st0, op0 2 .running, by decide +kernel⟩,
   ⟨{ stepUp id with trowel := { up.trowel with ops := [{ op0 0 .running with dpaSrc := 4 }], steps := [st0] } }, by decide +kernel, 0, { heldAt 5 (msg opBulk 0 0 0 0) with step := some (1, 0) }, st0, { op0 0 .running with dpaSrc := 4 }, by decide +kernel⟩,
   ⟨up, by decide +kernel, 1, 31, [], by decide +kernel⟩,
   ⟨rowUp 1, by decide +kernel, 1, 0, [], by decide +kernel, { st0 with kind := .rowGroup, rows := [(0, 1)], ctx := 7 }, 0, 1, rm 1, by decide +kernel, by decide +kernel, by decide +kernel, 0, by decide +kernel⟩,
   ⟨rowUp 1024, by decide +kernel, 1, 0, [], by decide +kernel, { st0 with kind := .rowGroup, rows := [(0, 1024)], ctx := 7 }, 0, 1024, rm 1024, by decide +kernel⟩,
   ⟨up, by decide +kernel, 35, by decide +kernel⟩,
   ⟨blkUp 35 (fun k => { k with rowOps := [ro0] }), by decide +kernel, 35, ro0, 0, by decide +kernel⟩,
   ⟨{ trUp (fun t => { t with steps := [{ st0 with kind := .rowGroup, rows := [(31 * 2 ^ 22, 0)] }] }) with blocks := (blkUp 34 (fun k => { k with rowOps := [ro0] })).blocks }, by decide +kernel, 34, ro0, 0, by decide +kernel, by decide +kernel, by decide +kernel, by decide +kernel, by decide +kernel, { st0 with kind := .rowGroup, rows := [(31 * 2 ^ 22, 0)] }, (31 * 2 ^ 22, 0), by decide +kernel⟩,
   ⟨bUp (fun b => { b with larder := .stopped }), by decide +kernel, 15, 0x20, 0, by decide +kernel⟩,
   ⟨up, by decide +kernel, 15, 0x20, 0, by decide +kernel⟩,
   ⟨trUp (fun t => { t with ops := List.replicate 16 { op0 0 .queued with ing := 5 } }), by decide +kernel, 15, 0x20, 0, by decide +kernel⟩⟩

/-- Every clause of IntegrityCommands has a case. -/
theorem wit_IntegrityCommands :
    (∃ (s : State), (live s = true) ∧ ∃ (b : Nat), (b < 36)) ∧
    (∃ (s : State), (live s = true) ∧ ∃ (b : Nat), (b < 36) ∧ ((srBlk s b).tsvDue = [])) ∧
    (∃ (s : State), (live s = true) ∧ ∃ (b : Nat), ∃ (p : Nat × Nat), ∃ (k : Nat), ∃ (l : List Nat), (b < 36) ∧ 
      (tsvReady s b = some p) ∧ (columnsDone (blk s b) = true) ∧ (freeTsvs s b = k :: l)) ∧
    (∃ (s : State), (live s = true) ∧ ∃ (b : Nat), (b < 36) ∧ ((srBlk s b).rowDue = [])) ∧
    (∃ (s : State), (live s = true) ∧ ∃ (b : Nat), ∃ (bank : Nat), ∃ (row : Nat), ∃ (rest : List (Nat × Nat)), (b < 
      36) ∧ ((srBlk s b).rowDue = (bank, row) :: rest)) ∧
    (∃ (s : State), (live s = true) ∧ ∃ (b : Nat), (b < 36) ∧ ((srBlk s b).colDue = [])) ∧
    (∃ (s : State), (live s = true) ∧ ∃ (b : Nat), ∃ (bank : Nat), ∃ (sa : Nat), ∃ (line : Nat), ∃ (rest : List (Nat 
      × Nat × Nat)), (b < 36) ∧ ((srBlk s b).colDue = (bank, sa, line) :: rest) ∧ (testOn s b bank (sa * 1024) = none) 
      ∧ ((ucUsable s (b / 9) = false ∨ (ucReg s (b / 9)).units ≤ unitsUsed (ucReg s (b / 9))))) ∧
    (∃ (s : State), (live s = true) ∧ ∃ (b : Nat), ∃ (bank : Nat), ∃ (sa : Nat), ∃ (line : Nat), ∃ (rest : List (Nat 
      × Nat × Nat)), (b < 36) ∧ ((srBlk s b).colDue = (bank, sa, line) :: rest) ∧ (testOn s b bank (sa * 1024) = none) 
      ∧ (ucUsable s (b / 9) = true) ∧ (unitsUsed (ucReg s (b / 9)) < (ucReg s (b / 9)).units)) ∧
    (∃ (s : State), (live s = true) ∧ ∃ (r : Nat), (r < 4) ∧ (((migr s r).st ≠ .idle ∨ (migr s r).queue = [] ∨ 
      pipesOpen s = false))) ∧
    (∃ (s : State), (live s = true) ∧ ∃ (r : Nat), (r < 4) ∧ ∃ (pb : Nat), ∃ (l : List RetUnit), ((migr s r).st = 
      .idle) ∧ ((migr s r).queue = .block pb :: l) ∧ (regionStopped s r = false) ∧ (pipesOpen s = true) ∧ (chargedRun 
      s (.block pb) = false) ∧ (freeBlock s r = none)) ∧
    (∃ (s : State), (live s = true) ∧ ∃ (r : Nat), (r < 4) ∧ ∃ (pb : Nat), ∃ (l : List RetUnit), ((migr s r).st = 
      .idle) ∧ ((migr s r).queue = .block pb :: l) ∧ (regionStopped s r = false) ∧ (pipesOpen s = true) ∧ (chargedRun 
      s (.block pb) = false) ∧ ∃ (k : Nat), (freeBlock s r = some k)) ∧
    (∃ (s : State), (live s = true) ∧ ∃ (r : Nat), (r < 4) ∧ ∃ (errs : List (Nat × Nat × BitVec 8)), ((migr s r).st ≠ 
      .copy)) ∧
    (∃ (s : State), (live s = true) ∧ ∃ (r : Nat), (r < 4) ∧ ∃ (errs : List (Nat × Nat × BitVec 8)), ∃ (u : RetUnit), 
      ∃ (l : List RetUnit), ∃ (src : Nat × Nat), ∃ (dst : Nat × Nat), (copyWaits s r = true) ∧ ((migr s r).queue = u 
      :: l) ∧ (copyPlace s (migr s r) = some (src, dst)) ∧ (runsOn s u = false) ∧ (oldWrites s src (migr s r).row = 
      false) ∧ ((migrBlocks (migr s r)).all (fun b => mayRun s b 8 (64 / (migrBlocks (migr s r)).length) (migr s 
      r).copyAt) = true)) ∧
    (∃ (s : State), (live s = true) ∧ ∃ (r : Nat), (r < 4) ∧ ((migr s r).st ≠ .switch)) ∧
    (∃ (s : State), (live s = true) ∧ ∃ (r : Nat), (r < 4) ∧ ∃ (u : RetUnit), ∃ (l : List RetUnit), ((migr s r).st = 
      .switch) ∧ ((migr s r).queue = u :: l) ∧ (unitBusy s u = true)) ∧
    (∃ (s : State), (live s = true) ∧ ∃ (r : Nat), (r < 4) ∧ ∃ (u : RetUnit), ∃ (l : List RetUnit), ((migr s r).st = 
      .switch) ∧ ((migr s r).queue = u :: l) ∧ (unitBusy s u = false) ∧ ∃ (pb : Nat), ∃ (old : Nat), ∃ (k : Nat), (u = 
      .bank pb old) ∧ ((List.range 64).find? (fun b => physBank s pb b = old) = some k)) ∧
    (∃ (s : State), (live s = true) ∧ ∃ (errs : List (Nat × BitVec 8)), ((s.store.scrub.running = false ∨ pipesOpen s 
      = false ∨ scrubDue s s.store.scrub = false))) ∧
    (∃ (s : State), (live s = true) ∧ ∃ (errs : List (Nat × BitVec 8)), (s.store.scrub.running = true) ∧ (pipesOpen s 
      = true) ∧ (scrubDue s s.store.scrub = true) ∧ (s.store.scrub.count ≤ s.store.scrub.pos) ∧ (s.store.scrub.spares 
      = false)) ∧
    (∃ (s : State), (live s = true) ∧ ∃ (errs : List (Nat × BitVec 8)), (s.store.scrub.running = true) ∧ (pipesOpen s 
      = true) ∧ (scrubDue s s.store.scrub = true) ∧ (s.store.scrub.pos < s.store.scrub.count) ∧ ((scrubLine s 
      errs).store.scrub.pos < (scrubLine s errs).store.scrub.count)) ∧
    (∃ (s : State), (live s = true) ∧ ∃ (errs : List (Nat × BitVec 8)), (s.store.scrub.running = true) ∧ (pipesOpen s 
      = true) ∧ (scrubDue s s.store.scrub = true) ∧ (s.store.scrub.pos + 1 < s.store.scrub.count) ∧ (regionStopped s 
      (decodeDpa (nRegions s) (s.store.scrub.start + 64 * s.store.scrub.pos)).region = false) ∧ ((blk s (physBlock s 
      (decodeDpa (nRegions s) (s.store.scrub.start + 64 * s.store.scrub.pos)).lblock)).st = .serving) ∧ ((blk s 
      (physBlock s (decodeDpa (nRegions s) (s.store.scrub.start + 64 * s.store.scrub.pos)).lblock)).wq = []) ∧ (mayRun 
      s (physBlock s (decodeDpa (nRegions s) (s.store.scrub.start + 64 * s.store.scrub.pos)).lblock) 11 1 
      s.store.scrub.lastAt = true) ∧ (retryOf (runLines s (physBlock s (decodeDpa (nRegions s) (s.store.scrub.start + 
      64 * s.store.scrub.pos)).lblock) 1) (physBlock s (decodeDpa (nRegions s) (s.store.scrub.start + 64 * 
      s.store.scrub.pos)).lblock) (decodeDpa (nRegions s) (s.store.scrub.start + 64 * s.store.scrub.pos)).key .scrub = 
      none) ∧ (frameOf (runLines s (physBlock s (decodeDpa (nRegions s) (s.store.scrub.start + 64 * 
      s.store.scrub.pos)).lblock) 1) (decodeDpa (nRegions s) (s.store.scrub.start + 64 * s.store.scrub.pos)).lblock 
      (decodeDpa (nRegions s) (s.store.scrub.start + 64 * s.store.scrub.pos)).key = none) ∧ ∃ (d : Line), ∃ (h : 
      Bool), (decodeLine (withErrs (keyRead (runLines s (physBlock s (decodeDpa (nRegions s) (s.store.scrub.start + 64 
      * s.store.scrub.pos)).lblock) 1) (physBlock s (decodeDpa (nRegions s) (s.store.scrub.start + 64 * 
      s.store.scrub.pos)).lblock) (decodeDpa (nRegions s) (s.store.scrub.start + 64 * s.store.scrub.pos)).key) errs) = 
      .good d false h false [])) ∧
    (∃ (s : State), (live s = true) ∧ ((s.store.scrubPeriod = 0 ∨ s.store.scrub.running = true ∨ pipesOpen s = 
      false))) ∧
    (∃ (s : State), (live s = true) ∧ (s.store.scrubPeriod ≠ 0) ∧ (s.boot.larder = .running) ∧ (pipesOpen s = true) ∧ 
      (s.store.scrub.running = false) ∧ (waited s s.store.scrub.lastAuto (s.store.scrubPeriod.toNat * 3600 * 
      1000000000) = true)) :=
  ⟨⟨up, by decide +kernel, 35, by decide +kernel⟩,
   ⟨up, by decide +kernel, 35, by decide +kernel⟩,
   ⟨srUp 34 (fun x => { x with tsvDue := [(144, 9999999999999)], tsvUsed := 0x7F }), by decide +kernel, 34, (144, 9999999999999), 7, [], by decide +kernel⟩,
   ⟨up, by decide +kernel, 35, by decide +kernel⟩,
   ⟨srUp 34 (fun x => { x with rowDue := [(67, 65535)] }), by decide +kernel, 34, 67, 65535, [], by decide +kernel⟩,
   ⟨up, by decide +kernel, 35, by decide +kernel⟩,
   ⟨{ srUp 34 (fun x => { x with colDue := [(67, 63, 31)] }) with cfg := { up.cfg with ucEnable := false } }, by decide +kernel, 34, 67, 63, 31, [], by decide +kernel⟩,
   ⟨ucRegPut (srUp 34 (fun x => { x with colDue := [(67, 63, 31)] })) 3 { ucReg up 3 with units := 1, reloc := 0 }, by decide +kernel, 34, 67, 63, 31, [], by decide +kernel⟩,
   ⟨up, by decide +kernel, 3, by decide +kernel⟩,
   ⟨putSr (migUp 3 { queue := [.block 34] }) 35 { st := .retired }, by decide +kernel, 3, by decide +kernel, 34, [], by decide +kernel⟩,
   ⟨migUp 3 { queue := [.block 34] }, by decide +kernel, 3, by decide +kernel, 34, [], by decide +kernel, by decide +kernel, by decide +kernel, by decide +kernel, by decide +kernel, 35, by decide +kernel⟩,
   ⟨up, by decide +kernel, 3, by decide +kernel, [], by decide +kernel⟩,
   ⟨migUp 3 { queue := [.block 34], st := .copy, ring := true, target := 35, row := 65535, bank := 63 }, by decide +kernel, 3, by decide +kernel, [], .block 34, [], (34, 63), (35, 63), by decide +kernel⟩,
   ⟨up, by decide +kernel, 3, by decide +kernel⟩,
   ⟨putMigr (blkUp 34 (fun k => { k with rq := [rd0] })) 3 { queue := [.block 34], st := .switch }, by decide +kernel, 3, by decide +kernel, .block 34, [], by decide +kernel⟩,
   ⟨migUp 3 { queue := [.bank 34 63], st := .switch, target := 64 }, by decide +kernel, 3, by decide +kernel, .bank 34 63, [], by decide +kernel, by decide +kernel, by decide +kernel, 34, 63, 63, by decide +kernel⟩,
   ⟨up, by decide +kernel, [], by decide +kernel⟩,
   ⟨scrubUp (fun c => { c with running := true, rate := 255 }), by decide +kernel, [], by decide +kernel⟩,
   ⟨scrubUp (fun c => { c with running := true, rate := 255, count := 2 }), by decide +kernel, [], by decide +kernel⟩,
   ⟨scrubUp (fun c => { c with running := true, rate := 255, count := 2 }), by decide +kernel, [], by decide +kernel, by decide +kernel, by decide +kernel, by decide +kernel, by decide +kernel, by decide +kernel, by decide +kernel, by decide +kernel, by decide +kernel, by decide +kernel, 0, false, by decide +kernel⟩,
   ⟨{ up with store := { up.store with scrubPeriod := 0 } }, by decide +kernel⟩,
   ⟨{ up with store := { up.store with scrubPeriod := 2, scrub := { up.store.scrub with lastAuto := 2800000000000 } } }, by decide +kernel⟩⟩

/-- Every clause of FailedWiresAndLostClocks has a case. -/
theorem wit_FailedWiresAndLostClocks :
    (∃ (s : State), (live s = true) ∧ (s.wp.st = .active ∨ s.wp.st = .init) ∧ (s.wp.dead = false)) ∧
    (∃ (s : State), (live s = true) ∧ (s.wp.st = .active ∨ s.wp.st = .init) ∧ (s.wp.dead = false) ∧ ∃ (wire : Nat), ∃ 
      t1, ∃ t2, ∃ t3, ∃ r1, ∃ r2, ∃ r3, (wire < 1088) ∧ (s.wp.charges = [(wire, t1, r1), (wire, t2, r2), (wire, t3, 
      r3)]) ∧ (r1 ≠ r2) ∧ (r1 ≠ r3) ∧ (r2 ≠ r3) ∧ (s.now ≤ t1 + 1000000) ∧ (s.now ≤ t2 + 1000000) ∧ (s.now ≤ t3 + 
      1000000) ∧ ((∀ x ∈ s.wp.subst, x.group ≠ (wireTarget wire).1)) ∧ ((∀ k < 4, s.wp.badSpares.getLsbD (4 * 
      (wireTarget wire).1 + k) = true ∨ s.wp.sparesIn.getLsbD (4 * (wireTarget wire).1 + k) = true))) ∧
    (∃ (s : State), (live s = true) ∧ (s.wp.st = .active ∨ s.wp.st = .init) ∧ (s.wp.dead = false) ∧ ∃ (f : WFlit), ∃ 
      (g : Nat), ∃ (t : Nat), (s.boot.phase ≠ .retHeld) ∧ ((g, t) ∈ s.wp.clockLost) ∧ (t + 32 ≤ s.now)) ∧
    (∃ (s : State), (live s = true) ∧ (s.wp.st = .active ∨ s.wp.st = .init) ∧ (s.wp.dead = false) ∧ ∃ (g : Nat), ∃ (t 
      : Nat), (g < 8) ∧ ((g, t) ∈ s.wp.clockLost) ∧ (expired s t 100000 = true)) ∧
    (∃ (s : State), (live s = true) ∧ (s.wp.st = .active ∨ s.wp.st = .init) ∧ (s.wp.dead = false) ∧ ∃ (g : Nat), (g < 
      8) ∧ ((∀ t, (g, t) ∈ s.wp.clockLost → expired s t 100000 = false))) ∧
    (∃ (s : State), (live s = true) ∧ (s.wp.st = .active ∨ s.wp.st = .init) ∧ (s.wp.dead = false) ∧ ∃ (g : Nat), (g < 
      8) ∧ ((∀ c ∈ s.wp.clockLost, c.1 ≠ g))) ∧
    (∃ (s : State), (live s = true) ∧ (s.wp.st = .active ∨ s.wp.st = .init) ∧ (s.wp.dead = false) ∧ ∃ (g : Nat), (g < 
      8)) :=
  ⟨⟨wu (fun w => { w with st := .init }), by decide +kernel⟩,
   ⟨wu (fun w => { w with st := .init, charges := [(1087, 9999999000000, 1), (1087, 9999999000000, 2), (1087, 9999999000000, 4)], badSpares := 0xF0000000 }), by decide +kernel, by decide +kernel, by decide +kernel, 1087, 9999999000000, 9999999000000, 9999999000000, 1, 2, 4, by decide +kernel⟩,
   ⟨wu (fun w => { w with st := .active, clockLost := [(7, 9999999999968)] }), by decide +kernel, by decide +kernel, by decide +kernel, default, 7, 9999999999968, by decide +kernel⟩,
   ⟨wu (fun w => { w with st := .active, clockLost := [(7, 9999999900000)] }), by decide +kernel, by decide +kernel, by decide +kernel, 7, 9999999900000, by decide +kernel⟩,
   ⟨wu (fun w => { w with st := .active, clockLost := [(7, 9999999900001)] }), by decide +kernel, by decide +kernel, by decide +kernel, 7, ⟨by decide, fun t h => by have e : t = 9999999900001 := (by simpa [wu] using h); subst e; decide +kernel⟩⟩,
   ⟨wu (fun w => { w with st := .init, clockLost := [(6, 9999999900001)] }), by decide +kernel, by decide +kernel, by decide +kernel, 7, by decide +kernel⟩,
   ⟨wu (fun w => { w with st := .init }), by decide +kernel, by decide +kernel, by decide +kernel, 7, by decide +kernel⟩⟩

set_option maxRecDepth 1000000 in
/-- Every clause of CodewordsOfAFabricPort has a case. -/
theorem wit_CodewordsOfAFabricPort :
    (∃ (s : State), ∃ (p : Nat), ∃ (cw : BitVec 3400), (wired s = true) ∧ (s.boot.phase ≠ .retHeld) ∧ (p < 4) ∧ 
      ((port s p).st = .init ∨ (port s p).st = .active) ∧ ((port s p).rxPower = .active) ∧ (fcwDecode cw = none)) ∧
    (∃ (s : State), ∃ (p : Nat), ∃ (cw : BitVec 3400), (wired s = true) ∧ (s.boot.phase ≠ .retHeld) ∧ (p < 4) ∧ 
      ((port s p).st = .init ∨ (port s p).st = .active) ∧ ((port s p).rxPower = .active) ∧ ∃ (v : BitVec 3200), ∃ (at_ 
      : List Nat), (fcwDecode cw = some (v, at_))) ∧
    (∃ (s : State), ∃ (p : Nat), ∃ (cw : BitVec 3400), (wired s = true) ∧ (s.boot.phase ≠ .retHeld) ∧ (p < 4) ∧ 
      ((port s p).st = .init ∨ (port s p).st = .active) ∧ ((port s p).rxPower = .active) ∧ ∃ (v : BitVec 3200), ∃ (at_ 
      : List Nat), (fcwDecode cw = some (v, at_)) ∧ (v.toNat >>> 3136 ≠ crc64 (leBytes (v.toNat % 2 ^ 3136) 392))) ∧
    (∃ (s : State), ∃ (p : Nat), ∃ (cw : BitVec 3400), (wired s = true) ∧ (s.boot.phase ≠ .retHeld) ∧ (p < 4) ∧ 
      ((port s p).st = .init ∨ (port s p).st = .active) ∧ ((port s p).rxPower = .active) ∧ ∃ (v : BitVec 3200), ∃ (at_ 
      : List Nat), (fcwDecode cw = some (v, at_)) ∧ (v.toNat >>> 3136 = crc64 (leBytes (v.toNat % 2 ^ 3136) 392))) ∧
    (∃ (s : State), ∃ (p : Nat), ∃ (cw : BitVec 3400), (wired s = true) ∧ (s.boot.phase ≠ .retHeld) ∧ (p < 4) ∧ 
      ((port s p).st = .init ∨ (port s p).st = .active) ∧ ((port s p).rxPower = .active)) ∧
    (∃ (s : State), ∃ (p : Nat), ∃ (cw : BitVec 3400), (wired s = true) ∧ (s.boot.phase ≠ .retHeld) ∧ (p < 4) ∧ 
      ((port s p).st = .init ∨ (port s p).st = .active) ∧ ((port s p).rxPower = .active) ∧ ((port s p).st = .active) ∧ 
      ((port s p).link.awaiting = false)) :=
  ⟨⟨puL .active id, 3, cwBad, ⟨by decide +kernel, by decide +kernel, by decide +kernel, by decide +kernel, by decide +kernel, cwBad_decodes⟩⟩,
   ⟨puL .active id, 3, 0, by decide +kernel, by decide +kernel, by decide +kernel, by decide +kernel, by decide +kernel, 0, [], cwZero_decodes⟩,
   ⟨puL .active id, 3, 0, by decide +kernel, by decide +kernel, by decide +kernel, by decide +kernel, by decide +kernel, 0, [], ⟨cwZero_decodes, fun h => absurd (h.trans zero_crc) (by decide)⟩⟩,
   ⟨puL .active id, 3, cwGood, by decide +kernel, by decide +kernel, by decide +kernel, by decide +kernel, by decide +kernel, BitVec.ofNat 3200 (2613208154074762624 * 2 ^ 3136), [], ⟨cwGood_decodes, zero_crc.symm⟩⟩,
   ⟨puL .init id, 3, 0, by decide +kernel⟩,
   ⟨puL .active id, 3, 0, by decide +kernel⟩⟩

set_option maxRecDepth 1000000 in
/-- Every clause of WidePortCommands has a case. -/
theorem wit_WidePortCommands :
    (∃ (s : State), (live s = true) ∧ ∃ (f : WFlit), (s.boot.phase ≠ .retHeld) ∧ ((s.wp).st = .off ∨ (s.wp).st = 
      .failed)) ∧
    (∃ (s : State), (live s = true) ∧ ∃ (f : WFlit), (s.boot.phase ≠ .retHeld) ∧ ((s.wp).st = .training)) ∧
    (∃ (s : State), (live s = true) ∧ ∃ (f : WFlit), (s.boot.phase ≠ .retHeld) ∧ ((s.wp).st = .active) ∧ 
      ((s.wp).clockLost = []) ∧ (wpParse f = none)) ∧
    (∃ (s : State), (live s = true) ∧ ∃ (f : WFlit), (s.boot.phase ≠ .retHeld) ∧ ((s.wp).st = .active) ∧ 
      ((s.wp).clockLost = []) ∧ ∃ (x : AFlit), (wpParse f = some x) ∧ (x.epoch ≠ (liveEpoch (s.wp).link).toNat)) ∧
    (∃ (s : State), (live s = true) ∧ ∃ (f : WFlit), (s.boot.phase ≠ .retHeld) ∧ ((s.wp).st = .active) ∧ 
      ((s.wp).clockLost = []) ∧ ∃ (x : AFlit), (wpParse f = some x) ∧ (x.epoch = (liveEpoch (s.wp).link).toNat)) ∧
    (∃ (s : State), (live s = true) ∧ ((s.wp).link.awaiting = true) ∧ ((s.wp).link.nakDue = false) ∧ (128 ≤ 
      (s.wp).link.nakFlits)) ∧
    (∃ (s : State), (live s = true) ∧ ((s.wp).link.awaiting = false)) ∧
    (∃ (s : State), (live s = true) ∧ ((s.wp).st = .active) ∧ (64 ≤ (s.wp).link.nakCount)) ∧
    (∃ (s : State), (live s = true) ∧ ((s.wp).link.nakCount < 64)) ∧
    (∃ (s : State), (live s = true) ∧ ((s.wp).st = .active) ∧ ((s.wp).link.reinitLeft = 0)) ∧
    (∃ (s : State), (live s = true) ∧ ((s.wp).link.reinitLeft ≠ 0)) ∧
    (∃ (s : State), (live s = true) ∧ ((s.wp).st = .off ∨ (s.wp).st = .failed)) ∧
    (∃ (s : State), (live s = true) ∧ ((s.wp).st = .active) ∧ (s.boot.phase ≠ .retHeld) ∧ ((s.wp).wakeAt = none)) ∧
    (∃ (s : State), (live s = true) ∧ ((s.wp).st = .training)) ∧
    (∃ (s : State), (live s = true) ∧ ((s.wp).st = .parked)) ∧
    (∃ (s : State), (live s = true) ∧ ((s.wp).st = .training) ∧ ((s.wp).dead = false) ∧ ((s.wp).hostClockSeen = 
      false) ∧ (expired s (s.wp).t0 100000000 = true)) ∧
    (∃ (s : State), (live s = true) ∧ ((s.wp).hostClockSeen = true)) ∧
    (∃ (s : State), (live s = true) ∧ ∃ (i : List (Nat × Nat)), ∃ (ok : Bool), (legalReport i = true) ∧ ((s.wp).dead 
      = false) ∧ ((s.wp).st ≠ .training)) ∧
    (∃ (s : State), (live s = true) ∧ ∃ (i : List (Nat × Nat)), ∃ (ok : Bool), (legalReport i = true) ∧ ((s.wp).dead 
      = false) ∧ ((s.wp).st = .training) ∧ (waited s (s.wp).phaseAt (phaseTime (s.wp).phase) = false)) ∧
    (∃ (s : State), (live s = true) ∧ ∃ (i : List (Nat × Nat)), ∃ (ok : Bool), (legalReport i = true) ∧ ((s.wp).dead 
      = false) ∧ ((s.wp).st = .training) ∧ (waited s (s.wp).phaseAt (phaseTime (s.wp).phase) = true) ∧ ((s.wp).phase = 
      .clockLock)) ∧
    (∃ (s : State), (live s = true) ∧ ∃ (i : List (Nat × Nat)), ∃ (ok : Bool), (legalReport i = true) ∧ ((s.wp).dead 
      = false) ∧ ((s.wp).st = .training) ∧ (waited s (s.wp).phaseAt (phaseTime (s.wp).phase) = true) ∧ ((s.wp).phase = 
      .prbs)) ∧
    (∃ (s : State), (live s = true) ∧ ∃ (i : List (Nat × Nat)), ∃ (ok : Bool), (legalReport i = true) ∧ ((s.wp).dead 
      = false) ∧ ((s.wp).st = .training) ∧ (waited s (s.wp).phaseAt (phaseTime (s.wp).phase) = true) ∧ ((s.wp).phase = 
      .qualify)) ∧
    (∃ (s : State), (live s = true) ∧ ∃ (i : List (Nat × Nat)), ∃ (ok : Bool), (legalReport i = true) ∧ ((s.wp).dead 
      = false) ∧ ((s.wp).st = .training) ∧ (waited s (s.wp).phaseAt (phaseTime (s.wp).phase) = true) ∧ ((s.wp).phase = 
      .train) ∧ (reportFails (s.wp).inFailed = true)) ∧
    (∃ (s : State), (live s = true) ∧ ∃ (i : List (Nat × Nat)), ∃ (ok : Bool), (legalReport i = true) ∧ ((s.wp).dead 
      = false) ∧ ((s.wp).st = .training) ∧ (waited s (s.wp).phaseAt (phaseTime (s.wp).phase) = true) ∧ ((s.wp).phase = 
      .train) ∧ ((∃ g < 8, 5 ≤ (recordFailed (s.wp) g).1))) ∧
    (∃ (s : State), (live s = true) ∧ ∃ (i : List (Nat × Nat)), ∃ (ok : Bool), (legalReport i = true) ∧ ((s.wp).dead 
      = false) ∧ ((s.wp).st = .training) ∧ (waited s (s.wp).phaseAt (phaseTime (s.wp).phase) = true) ∧ ((s.wp).phase = 
      .train) ∧ ((s.wp).inFailed = []) ∧ ((s.wp).trainRec = [])) ∧
    (∃ (s : State), (live s = true) ∧ ∃ (i : List (Nat × Nat)), ∃ (ok : Bool), (legalReport i = true) ∧ ((s.wp).dead 
      = false) ∧ ((s.wp).st = .training) ∧ (waited s (s.wp).phaseAt (phaseTime (s.wp).phase) = true) ∧ ((s.wp).phase = 
      .requalify)) ∧
    (∃ (s : State), (live s = true) ∧ ((s.wp).st = .init)) ∧
    (∃ (s : State), (live s = true) ∧ ((s.wp).st ≠ .init) ∧ ((s.wp).st ≠ .halted)) ∧
    (∃ (s : State), (live s = true) ∧ ((s.wp).st = .init) ∧ ((s.wp).link.initRcvd = true) ∧ (minimaMet 
      (s.wp).link.adv = false) ∧ ((s.wp).link.shortRaised = false) ∧ (expired s (s.wp).link.initRcvdAt 100000 = true)) ∧
    (∃ (s : State), (live s = true) ∧ (((s.wp).st ≠ .init ∨ (s.wp).link.shortRaised = true))) ∧
    (∃ (s : State), (live s = true) ∧ ((s.wp).st = .active) ∧ (s.fab.idleEn = true) ∧ ((s.wp).idleOut = false) ∧ 
      (linkBusy (s.wp).link = false) ∧ (waited s (s.wp).lastTx s.fab.idleTimer.toNat = true)) ∧
    (∃ (s : State), (live s = true) ∧ (linkBusy (s.wp).link = true)) ∧
    (∃ (s : State), (live s = true) ∧ ((s.wp).st = .active) ∧ ((s.wp).idleOut = true) ∧ ((s.wp).wakeAt = none) ∧ 
      (linkBusy (s.wp).link = true)) ∧
    (∃ (s : State), (live s = true) ∧ ((s.wp).idleOut = false)) ∧
    (∃ (s : State), (live s = true) ∧ ((s.wp).st = .active)) ∧
    (∃ (s : State), (live s = true) ∧ ((s.wp).st ≠ .active)) ∧
    (∃ (s : State), (live s = true) ∧ ((s.wp).st = .active) ∧ ((s.wp).parkAsked = true)) ∧
    (∃ (s : State), (live s = true) ∧ ((s.wp).parkAsked = true)) ∧
    (∃ (s : State), (live s = true) ∧ ((s.wp).parkAsked = false)) ∧
    (∃ (s : State), (live s = true) ∧ ((s.wp).st = .active) ∧ (s.fab.parkPolicy = 1) ∧ ((s.wp).parkAsked = false) ∧ 
      (wpDrained s = true) ∧ (waited s (s.wp).lastTraffic (s.fab.parkTimer.toNat * 1000) = true)) ∧
    (∃ (s : State), (live s = true) ∧ (s.fab.parkPolicy ≠ 1)) ∧
    (∃ (s : State), (live s = true) ∧ ((s.wp).st ≠ .parked)) ∧
    (∃ (s : State), (live s = true) ∧ ∃ (wire : Nat), ∃ (k : Nat), (wire < 1088) ∧ ((s.wp).st = .active) ∧ 
      (wireCharged s wire = true) ∧ ((∀ x ∈ (s.wp).subst, ¬(x.group = (wireTarget wire).1 ∧ x.target = (wireTarget 
      wire).2))) ∧ (freeSpare s (wireTarget wire).1 = some k)) ∧
    (∃ (s : State), (live s = true) ∧ ∃ (wire : Nat), (wire < 1088) ∧ (wireCharged s wire = false)) ∧
    (∃ (s : State), (live s = true) ∧ ∃ (g : Nat), ∃ (t : Nat), ∃ (k : Nat), ∃ (q : Nat), (g < 8) ∧ (t < 136) ∧ (k < 
      4) ∧ (q < 4096) ∧ (wpServes s = false)) ∧
    (∃ (s : State), (live s = true) ∧ ∃ (g : Nat), ∃ (t : Nat), ∃ (k : Nat), ∃ (q : Nat), (g < 8) ∧ (t < 136) ∧ (k < 
      4) ∧ (q < 4096) ∧ (wpServes s = true) ∧ ((s.wp).substOut = [])) ∧
    (∃ (s : State), (live s = true) ∧ ∃ (g : Nat), ∃ (t : Nat), ∃ (k : Nat), ∃ (q : Nat), (g < 8) ∧ (t < 136) ∧ (k < 
      4) ∧ (q < 4096) ∧ ((s.wp).subst = [{ group := g, target := t, spare := k, atSeq := none }])) ∧
    (∃ (s : State), (live s = true) ∧ ∃ (g : Nat), ∃ (t : Nat), ∃ (k : Nat), ∃ (q : Nat), (g < 8) ∧ (t < 136) ∧ (k < 
      4) ∧ (q < 4096) ∧ ((s.wp).subst = [])) ∧
    (∃ (s : State), (live s = true) ∧ ∃ (g : Nat), ∃ (t : Nat), ∃ (k : Nat), ∃ (q : Nat), (g < 8) ∧ (t < 136) ∧ (k < 
      4) ∧ (q < 4096) ∧ ((s.wp).substOut = []) ∧ ((s.wp).subst = [{ group := g, target := t, spare := k, atSeq := some q }]) 
      ∧ (seqGe 4 (nextSeq 4 (s.wp).link) q = false)) ∧
    (∃ (s : State), (live s = true) ∧ ∃ (g : Nat), ∃ (t : Nat), ∃ (k : Nat), ∃ (q : Nat), (g < 8) ∧ (t < 136) ∧ (k < 
      4) ∧ (q < 4096) ∧ ((s.wp).substOut = []) ∧ ((s.wp).subst = [{ group := g, target := t, spare := k, atSeq := some q }]) 
      ∧ (seqGe 4 (nextSeq 4 (s.wp).link) q = true) ∧ ((substDone ((fun x => { s with wp := x } : WidePort → State) { (s.wp) with subst := [], mapIn := mapPut (s.wp).mapIn g t k, sparesIn := setBit (s.wp).sparesIn (4 * g + k) true }) 
      g t).wp.substOut = [])) :=
  ⟨⟨up, by decide +kernel, nullFlit 0, by decide +kernel⟩,
   ⟨wu (fun w => { w with st := .training, phase := .train }), by decide +kernel, default, by decide +kernel⟩,
   ⟨wu (fun w => { w with st := .active }), by decide +kernel, default, by decide +kernel⟩,
   ⟨wu (fun w => { w with st := .active }), by decide +kernel, nullFlit 1, by decide +kernel, by decide +kernel, by decide +kernel, (wpParse (nullFlit 1)).getD default, by decide +kernel⟩,
   ⟨wu (fun w => { w with st := .active }), by decide +kernel, nullFlit 0, by decide +kernel, by decide +kernel, by decide +kernel, (wpParse (nullFlit 0)).getD default, by decide +kernel⟩,
   ⟨wuL .active (fun l => { l with awaiting := true, nakFlits := 128 }), by decide +kernel⟩,
   ⟨up, by decide +kernel⟩,
   ⟨wuL .active (fun l => { l with nakCount := 64 }), by decide +kernel⟩,
   ⟨wuL .active (fun l => { l with nakCount := 63 }), by decide +kernel⟩,
   ⟨wuL .active id, by decide +kernel⟩,
   ⟨wuL .active (fun l => { l with reinitLeft := 1 }), by decide +kernel⟩,
   ⟨up, by decide +kernel⟩,
   ⟨wuL .active id, by decide +kernel⟩,
   ⟨wu (fun w => { w with st := .training, phase := .train }), by decide +kernel⟩,
   ⟨wu (fun w => { w with st := .parked, parkLeft := 1 }), by decide +kernel⟩,
   ⟨wu (fun w => { w with st := .training, t0 := 9999900000000 }), by decide +kernel⟩,
   ⟨wu (fun w => { w with hostClockSeen := true }), by decide +kernel⟩,
   ⟨up, by decide +kernel, [(7, 139)], true, by decide +kernel⟩,
   ⟨wu (fun w => { w with st := .training, phase := .qualify, phaseAt := 9999998900001 }), by decide +kernel, [], true, by decide +kernel⟩,
   ⟨wu (fun w => { w with st := .training, phase := .clockLock, phaseAt := 9999999900000 }), by decide +kernel, [], true, by decide +kernel⟩,
   ⟨wu (fun w => { w with st := .training, phase := .prbs, phaseAt := 9999998100000 }), by decide +kernel, [], true, by decide +kernel⟩,
   ⟨wu (fun w => { w with st := .training, phase := .qualify, phaseAt := 9999998900000 }), by decide +kernel, [(7, 139)], true, by decide +kernel⟩,
   ⟨wu (fun w => { w with st := .training, phase := .train, phaseAt := 9999999800000, inFailed := [(7, 0), (7, 1), (7, 2), (7, 3), (7, 4)] }), by decide +kernel, [], true, by decide +kernel⟩,
   ⟨wu (fun w => { w with st := .training, phase := .train, phaseAt := 9999999800000, trainRec := [(7, 5)] }), by decide +kernel, [], true, by decide +kernel⟩,
   ⟨wu (fun w => { w with st := .training, phase := .train, phaseAt := 9999999800000 }), by decide +kernel, [], true, by decide +kernel⟩,
   ⟨wu (fun w => { w with st := .training, phase := .requalify, phaseAt := 9999998900000 }), by decide +kernel, [], true, by decide +kernel⟩,
   ⟨wuL .init id, by decide +kernel⟩,
   ⟨up, by decide +kernel⟩,
   ⟨wuL .init (fun l => { l with initRcvd := true, initRcvdAt := 9999999900000 }), by decide +kernel⟩,
   ⟨up, by decide +kernel⟩,
   ⟨wu (fun w => { w with st := .active, lastTx := 9999999999936 }), by decide +kernel⟩,
   ⟨wuL .active (fun l => { l with ackDue := true }), by decide +kernel⟩,
   ⟨wu (fun w => { w with st := .active, idleOut := true, link := { w.link with ackDue := true } }), by decide +kernel⟩,
   ⟨up, by decide +kernel⟩,
   ⟨wuL .active id, by decide +kernel⟩,
   ⟨up, by decide +kernel⟩,
   ⟨wu (fun w => { w with st := .active, parkAsked := true }), by decide +kernel⟩,
   ⟨wu (fun w => { w with parkAsked := true }), by decide +kernel⟩,
   ⟨up, by decide +kernel⟩,
   ⟨{ wu (fun w => { w with st := .active, lastTraffic := 9999999000000 }) with fab := { up.fab with parkPolicy := 1 } }, by decide +kernel⟩,
   ⟨up, by decide +kernel⟩,
   ⟨up, by decide +kernel⟩,
   ⟨wu (fun w => { w with st := .active, charges := [(1087, 9999999000000, 1), (1087, 9999999000000, 2), (1087, 9999999000000, 4)], sparesIn := 0x70000000 }), by decide +kernel, 1087, 3, by decide +kernel⟩,
   ⟨wu (fun w => { w with charges := List.replicate 3 (1087, 9999999000000, 1) }), by decide +kernel, 1087, by decide +kernel⟩,
   ⟨up, by decide +kernel, 7, 135, 3, 4095, by decide +kernel⟩,
   ⟨wuL .active id, by decide +kernel, 7, 135, 3, 4095, by decide +kernel⟩,
   ⟨wu (fun w => { w with subst := [{ group := 7, target := 135, spare := 3, atSeq := none }] }), by decide +kernel, 7, 135, 3, 4095, by decide +kernel⟩,
   ⟨up, by decide +kernel, 7, 135, 3, 4095, by decide +kernel⟩,
   ⟨wu (fun w => { w with subst := [{ group := 7, target := 135, spare := 3, atSeq := some 1 }] }), by decide +kernel, 7, 135, 3, 1, by decide +kernel⟩,
   ⟨wu (fun w => { w with subst := [{ group := 7, target := 135, spare := 3, atSeq := some 0 }] }), by decide +kernel, 7, 135, 3, 0, by decide +kernel⟩⟩

/-- Every clause of FabricLaneCommands has a case. -/
theorem wit_FabricLaneCommands :
    (∃ (s : State), ∃ (p : Nat), (live s = true) ∧ (p < 4) ∧ ∃ (l : Nat), ∃ (prof : Nat), ∃ (m : SyncSeen), (l < 5) ∧ 
      (prof < 4) ∧ (m.snr.length ≤ 128) ∧ (m.taps.length ≤ 128)) ∧
    (∃ (s : State), ∃ (p : Nat), (live s = true) ∧ (p < 4) ∧ ∃ (l : Nat), ∃ (prof : Nat), ∃ (m : SyncSeen), (l < 5) ∧ 
      (prof < 4) ∧ (m.snr.length ≤ 128) ∧ (m.taps.length ≤ 128) ∧ ((lane (port s p) l).st = .search) ∧ ((lane (port s 
      p) l).candProf = prof) ∧ ((lane (port s p) l).syncs = 2) ∧ ((lane (port s p) l).goodWords = 1) ∧ (m.wordOk = 
      true) ∧ (s.now = (lane (port s p) l).candAt + 2489)) ∧
    (∃ (s : State), ∃ (p : Nat), (live s = true) ∧ (p < 4) ∧ ∃ (l : Nat), ∃ (prof : Nat), ∃ (m : SyncSeen), (l < 5) ∧ 
      (prof < 4) ∧ (m.snr.length ≤ 128) ∧ (m.taps.length ≤ 128) ∧ ((lane (port s p) l).st = .qualified) ∧ ((lane (port 
      s p) l).prof ≠ prof)) ∧
    (∃ (s : State), ∃ (p : Nat), (live s = true) ∧ (p < 4) ∧ ∃ (l : Nat), ∃ (prof : Nat), ∃ (m : SyncSeen), (l < 5) ∧ 
      (prof < 4) ∧ (m.snr.length ≤ 128) ∧ (m.taps.length ≤ 128) ∧ ((lane (port s p) l).st = .off ∨ (lane (port s p) 
      l).st = .failed)) ∧
    (∃ (s : State), ∃ (p : Nat), (live s = true) ∧ (p < 4) ∧ ∃ (l : Nat), ∃ (w : BitVec 32), (l < 5) ∧ ((lane (port s 
      p) l).st = .failed)) ∧
    (∃ (s : State), ∃ (p : Nat), (live s = true) ∧ (p < 4) ∧ ∃ (l : Nat), ∃ (w : BitVec 32), (l < 5) ∧ ((lane (port s 
      p) l).st = .qualified) ∧ (wordCrc w = false)) ∧
    (∃ (s : State), ∃ (p : Nat), (live s = true) ∧ (p < 4) ∧ ∃ (l : Nat), ∃ (w : BitVec 32), (l < 5) ∧ ((lane (port s 
      p) l).st = .search) ∧ (wordGood w = true)) ∧
    (∃ (s : State), ∃ (p : Nat), (live s = true) ∧ (p < 4) ∧ ∃ (l : Nat), ∃ (n : Nat), ∃ (ok : Bool), (l < 5) ∧ (4 ≤ 
      n) ∧ (n ≤ 6) ∧ ((lane (port s p) l).st = .off)) ∧
    (∃ (s : State), ∃ (p : Nat), (live s = true) ∧ (p < 4) ∧ ∃ (l : Nat), ∃ (n : Nat), ∃ (ok : Bool), (l < 5) ∧ (4 ≤ 
      n) ∧ (n ≤ 6) ∧ ((lane (port s p) l).st = .qualified) ∧ ((lane (port s p) l).lastMarker ≠ n)) ∧
    (∃ (s : State), ∃ (p : Nat), (live s = true) ∧ (p < 4) ∧ ∃ (l : Nat), ∃ (n : Nat), ∃ (ok : Bool), (l < 5) ∧ (4 ≤ 
      n) ∧ (n ≤ 6) ∧ ((lane (port s p) l).st = .qualified) ∧ ((lane (port s p) l).lastMarker = n) ∧ ((lane (port s p) 
      l).copies < 4) ∧ (s.now ≤ (lane (port s p) l).markerAt + 8) ∧ ((lane (port s p) l).markers = 1)) ∧
    (∃ (s : State), ∃ (p : Nat), (live s = true) ∧ (p < 4) ∧ ∃ (l : Nat), ∃ (c : Nat), ∃ (fo : Int), (l < 5) ∧ (c < 
      3) ∧ ((lane (port s p) l).st = .qualified) ∧ ((lane (port s p) l).test = none) ∧ (c = 1) ∧ ((lane (port s p) 
      l).badWords < 8)) ∧
    (∃ (s : State), ∃ (p : Nat), (live s = true) ∧ (p < 4) ∧ ∃ (l : Nat), ∃ (c : Nat), ∃ (fo : Int), (l < 5) ∧ (c < 
      3) ∧ ((lane (port s p) l).st = .qualified) ∧ ((lane (port s p) l).test = none) ∧ ((c = 0 ∧ 4 ≤ (lane (port s p) 
      l).missed) ∨ (c = 1 ∧ 8 ≤ (lane (port s p) l).badWords) ∨ (c = 2 ∧ 40000 < fo.natAbs)) ∧ ((lane (port s p) 
      l).syncs < 3)) ∧
    (∃ (s : State), ∃ (p : Nat), (live s = true) ∧ (p < 4) ∧ ∃ (l : Nat), ∃ (c : Nat), ∃ (fo : Int), (l < 5) ∧ (c < 
      3) ∧ ((lane (port s p) l).st = .search)) ∧
    (∃ (s : State), ∃ (p : Nat), (live s = true) ∧ (p < 4) ∧ ∃ (l : Nat), (l < 5) ∧ ((lane (port s p) l).lostSince = 
      none)) ∧
    (∃ (s : State), ∃ (p : Nat), (live s = true) ∧ (p < 4) ∧ ∃ (l : Nat), (l < 5) ∧ ∃ (t : Nat), ((lane (port s p) 
      l).lostSince = some t) ∧ ((port s p).bring = .up) ∧ (laneQual (lane (port s p) l) = false) ∧ (expired s t 100000 
      = true)) ∧
    (∃ (s : State), ∃ (p : Nat), (live s = true) ∧ (p < 4) ∧ ∃ (l : Nat), (l < 5) ∧ ((lane (port s p) 
      l).degradedSince = none)) ∧
    (∃ (s : State), ∃ (p : Nat), (live s = true) ∧ (p < 4) ∧ ∃ (l : Nat), (l < 5) ∧ ∃ (t : Nat), ((lane (port s p) 
      l).degradedSince = some t) ∧ ((lane (port s p) l).st = .qualified) ∧ ((lane (port s p) l).degraded = false) ∧ 
      (waited s t 1000000 = true) ∧ (logicalOfLane (port s p) l = none)) ∧
    (∃ (s : State), ∃ (p : Nat), (live s = true) ∧ (p < 4) ∧ ∃ (t : Nat), ((port s p).stepAt = some t) ∧ ((port s 
      p).bring = .search) ∧ (expired s t 200000 = true) ∧ (acked (port s p) = false)) ∧
    (∃ (s : State), ∃ (p : Nat), (live s = true) ∧ (p < 4) ∧ ((port s p).bring ≠ .search)) ∧
    (∃ (s : State), ∃ (p : Nat), (live s = true) ∧ (p < 4) ∧ ∃ (t : Nat), ((port s p).restoreAt = some t) ∧ ((port s 
      p).bring = .restore) ∧ (expired s t 200000 = true)) ∧
    (∃ (s : State), ∃ (p : Nat), (live s = true) ∧ (p < 4) ∧ ((port s p).bring ≠ .restore)) ∧
    (∃ (s : State), ∃ (p : Nat), (live s = true) ∧ (p < 4) ∧ ((port s p).bring = .search) ∧ ((port s p).bringRaised = 
      false) ∧ (expired s (port s p).bringAt 2000000 = true)) ∧
    (∃ (s : State), ∃ (p : Nat), (live s = true) ∧ (p < 4) ∧ (((port s p).bringRaised = true ∨ (port s p).bring = 
      .up))) ∧
    (∃ (s : State), ∃ (p : Nat), (live s = true) ∧ (p < 4) ∧ ((port s p).quietEn = true) ∧ ((port s p).st = .active) 
      ∧ ((port s p).txPower = .active) ∧ (linkBusy (port s p).link = false) ∧ (testHolds (port s p) = false) ∧ (waited 
      s (port s p).lastTx (port s p).quietTimer.toNat = true)) ∧
    (∃ (s : State), ∃ (p : Nat), (live s = true) ∧ (p < 4) ∧ (linkBusy (port s p).link = true)) ∧
    (∃ (s : State), ∃ (p : Nat), (live s = true) ∧ (p < 4) ∧ ((port s p).st = .active) ∧ ((port s p).txPower = 
      .quiet) ∧ ((port s p).link.unacked = []) ∧ (testHolds (port s p) = false) ∧ ((port s p).darkEn = true) ∧ 
      (linkBusy (port s p).link = false) ∧ (waited s (port s p).quietSince ((port s p).darkTimer.toNat * 1000) = true)) ∧
    (∃ (s : State), ∃ (p : Nat), (live s = true) ∧ (p < 4) ∧ ((port s p).link.unacked ≠ [])) ∧
    (∃ (s : State), ∃ (p : Nat), (live s = true) ∧ (p < 4) ∧ ((port s p).st = .active) ∧ ((port s p).txPower = 
      .quiet) ∧ (linkBusy (port s p).link = true)) ∧
    (∃ (s : State), ∃ (p : Nat), (live s = true) ∧ (p < 4) ∧ ∃ (d : Nat), ∃ (t : Nat), ((port s p).st = .active) ∧ 
      ((port s p).txPower = .dark) ∧ (linkBusy (port s p).link = true) ∧ ((port s p).txChange = some (d, t)) ∧ (t + 60 
      ≤ s.now)) ∧
    (∃ (s : State), ∃ (p : Nat), (live s = true) ∧ (p < 4) ∧ ∃ (d : Nat), ∃ (t : Nat), ((port s p).st = .active) ∧ 
      ((port s p).txPower = .dark) ∧ (linkBusy (port s p).link = true) ∧ ((port s p).txChange = some (d, t)) ∧ (t + 10 
      ≤ s.now) ∧ (s.now < t + 60)) ∧
    (∃ (s : State), ∃ (p : Nat), (live s = true) ∧ (p < 4) ∧ (linkBusy (port s p).link = false)) ∧
    (∃ (s : State), ∃ (p : Nat), (live s = true) ∧ (p < 4) ∧ ((port s p).rxPower ≠ .dark)) ∧
    (∃ (s : State), ∃ (p : Nat), (live s = true) ∧ (p < 4) ∧ ((port s p).rxPower = .dark) ∧ (refLostSince s (port s 
      p).darkAt = true)) ∧
    (∃ (s : State), ∃ (p : Nat), (live s = true) ∧ (p < 4) ∧ ∃ (t : Nat), ((port s p).rxPower = .dark) ∧ 
      (refLostSince s (port s p).darkAt = false) ∧ ((port s p).retained = some t) ∧ ((s16 t - s16 (portTemp s 
      p)).natAbs ≤ 240) ∧ ((∀ l < 5, (lane (port s p) l).st ≠ .dark))) ∧
    (∃ (s : State), ∃ (p : Nat), (live s = true) ∧ (p < 4) ∧ ∃ (t : Nat), ((port s p).wakeAt = some t) ∧ (expired s t 
      8000 = true) ∧ ((∃ k < 5, laneInUse (lane (port s p) k) = true ∧ laneQual (lane (port s p) k) = false))) ∧
    (∃ (s : State), ∃ (p : Nat), (live s = true) ∧ (p < 4) ∧ ((port s p).wakeAt = none)) ∧
    (∃ (s : State), ∃ (p : Nat), (live s = true) ∧ (p < 4) ∧ ∃ (l : Nat), ∃ (n : Nat), ∃ (errs : List Nat), (l < 5) ∧ 
      (errsLegal n errs = true) ∧ ((lane (port s p) l).test = none)) ∧
    (∃ (s : State), ∃ (p : Nat), (live s = true) ∧ (p < 4) ∧ ∃ (l : Nat), ∃ (n : Nat), ∃ (errs : List Nat), (l < 5) ∧ 
      (errsLegal n errs = true) ∧ ∃ (t : LaneTest), ((lane (port s p) l).test = some t) ∧ (waited s t.start 
      (testMicros t * 1000) = true) ∧ ((byteAt t.params 1).toNat = 0)) ∧
    (∃ (s : State), ∃ (p : Nat), (live s = true) ∧ (p < 4) ∧ ∃ (l : Nat), ∃ (n : Nat), ∃ (errs : List Nat), (l < 5) ∧ 
      (errsLegal n errs = true) ∧ ∃ (t : LaneTest), ((lane (port s p) l).test = some t) ∧ (waited s t.start 
      (testMicros t * 1000) = true) ∧ ((byteAt t.params 1).toNat ≠ 0) ∧ ∃ (c : Checker), (c = checked (testBin (port s 
      p) t (lane (port s p) l).prof) n errs)) ∧
    (∃ (s : State), ∃ (p : Nat), (live s = true) ∧ (p < 4) ∧ ∃ (f : Nat → Nat), ∃ (n : Nat), (64 ≤ n)) ∧
    (∃ (s : State), ∃ (p : Nat), (live s = true) ∧ (p < 4) ∧ ∃ (h : Nat), (h < 16) ∧ (hatchReady s h 0x0602 0x0602 = 
      true) ∧ (reservedBad s h [(0, 1)] = []) ∧ (pl s h 0 1 < 4)) ∧
    (∃ (s : State), ∃ (p : Nat), (live s = true) ∧ (p < 4) ∧ ∃ (h : Nat), (h < 16) ∧ (hatchReady s h 0x0603 0x0603 = 
      true) ∧ (reservedBad s h [(0, 9), (12, 4)] = []) ∧ ((laneTestBad s h).filter (fun f => f.2) = [])) :=
  ⟨⟨up, 3, by decide +kernel, by decide +kernel, 4, 3, seen0, by decide +kernel⟩,
   ⟨lu (fun y => { y with st := .search, candProf := 3, syncs := 2, goodWords := 1, candAt := 9999999997511 }), 3, by decide +kernel, by decide +kernel, 4, 3, seen0, by decide +kernel⟩,
   ⟨lu (fun y => { y with st := .qualified, prof := 3 }), 3, by decide +kernel, by decide +kernel, 4, 2, seen0, by decide +kernel⟩,
   ⟨lu (fun y => { y with st := .failed }), 3, by decide +kernel, by decide +kernel, 4, 3, { seen0 with snr := List.replicate 128 0 }, by decide +kernel⟩,
   ⟨lu (fun y => { y with st := .failed }), 3, by decide +kernel, by decide +kernel, 4, 0, by decide +kernel⟩,
   ⟨lu (fun y => { y with st := .qualified }), 3, by decide +kernel, by decide +kernel, 4, 0, by decide +kernel⟩,
   ⟨lu (fun y => { y with st := .search }), 3, by decide +kernel, by decide +kernel, 4, BitVec.ofNat 32 (crc8 0xFF (leBytes 0 3) * 2 ^ 24), by decide +kernel⟩,
   ⟨up, 3, by decide +kernel, by decide +kernel, 4, 4, true, by decide +kernel⟩,
   ⟨lu (fun y => { y with st := .qualified, lastMarker := 5 }), 3, by decide +kernel, by decide +kernel, 4, 6, true, by decide +kernel⟩,
   ⟨lu (fun y => { y with st := .qualified, lastMarker := 6, copies := 3, markerAt := 9999999999992, markers := 1 }), 3, by decide +kernel, by decide +kernel, 4, 6, true, by decide +kernel⟩,
   ⟨lu (fun y => { y with st := .qualified, badWords := 7 }), 3, by decide +kernel, by decide +kernel, 4, 1, -1, by decide +kernel⟩,
   ⟨lu (fun y => { y with st := .qualified, syncs := 2 }), 3, by decide +kernel, by decide +kernel, 4, 2, -40001, by decide +kernel⟩,
   ⟨lu (fun y => { y with st := .search }), 3, by decide +kernel, by decide +kernel, 4, 0, 0, by decide +kernel⟩,
   ⟨up, 3, by decide +kernel, by decide +kernel, 4, by decide +kernel⟩,
   ⟨putPort up 3 { putLane (port up 3) 4 { lostSince := some 9999999900000 } with bring := .up }, 3, by decide +kernel, by decide +kernel, 4, by decide +kernel, 9999999900000, by decide +kernel⟩,
   ⟨up, 3, by decide +kernel, by decide +kernel, 4, by decide +kernel⟩,
   ⟨lu (fun y => { y with st := .qualified, degradedSince := some 9999999000000 }), 3, by decide +kernel, by decide +kernel, 4, by decide +kernel, 9999999000000, by decide +kernel⟩,
   ⟨pu (fun x => { x with stepAt := some 9999999800000, bring := .search, txProf := 3 }), 3, by decide +kernel, by decide +kernel, 9999999800000, by decide +kernel⟩,
   ⟨up, 3, by decide +kernel⟩,
   ⟨pu (fun x => { x with restoreAt := some 9999999800000, bring := .restore }), 3, by decide +kernel, by decide +kernel, 9999999800000, by decide +kernel⟩,
   ⟨up, 3, by decide +kernel⟩,
   ⟨pu (fun x => { x with bring := .search, bringAt := 9999998000000 }), 3, by decide +kernel⟩,
   ⟨pu (fun x => { x with bring := .up }), 3, by decide +kernel⟩,
   ⟨pu (fun x => { x with st := .active, lastTx := 9999999999744 }), 3, by decide +kernel⟩,
   ⟨puL .active (fun l => { l with ackDue := true }), 3, by decide +kernel⟩,
   ⟨pu (fun x => { x with st := .active, txPower := .quiet, darkEn := true, quietSince := 9999999000000 }), 3, by decide +kernel⟩,
   ⟨puL .active (fun l => { l with unacked := [default] }), 3, by decide +kernel⟩,
   ⟨pu (fun x => { x with st := .active, txPower := .quiet, link := { x.link with ackDue := true } }), 3, by decide +kernel⟩,
   ⟨pu (fun x => { x with st := .active, txPower := .dark, txChange := some (0, 9999999999940), link := { x.link with ackDue := true } }), 3, by decide +kernel, by decide +kernel, 0, 9999999999940, by decide +kernel⟩,
   ⟨pu (fun x => { x with st := .active, txPower := .dark, txChange := some (0, 9999999999990), link := { x.link with ackDue := true } }), 3, by decide +kernel, by decide +kernel, 0, 9999999999990, by decide +kernel⟩,
   ⟨up, 3, by decide +kernel⟩,
   ⟨up, 3, by decide +kernel⟩,
   ⟨{ pu (fun x => { x with rxPower := .dark, darkAt := 9999999999000 }) with cal := { up.cal with spans := [(9999999999000, some 9999999999001)] } }, 3, by decide +kernel⟩,
   ⟨pu (fun x => { x with rxPower := .dark, darkAt := 9999999999000, retained := some 240 }), 3, by decide +kernel, by decide +kernel, 240, by decide +kernel⟩,
   ⟨pu (fun x => { putLane x 4 { (default : Lane) with st := .patternSync } with wakeAt := some 9999999992000 }), 3, by decide +kernel, by decide +kernel, 9999999992000, by decide +kernel⟩,
   ⟨up, 3, by decide +kernel⟩,
   ⟨up, 3, by decide +kernel, by decide +kernel, 4, 0, [], by decide +kernel⟩,
   ⟨lu (fun y => { y with test := some { test0 with params := [19, 0] ++ List.replicate 10 0 ++ [1, 0, 0, 0], start := 9999999999000 } }), 3, by decide +kernel, by decide +kernel, 4, 0, [], by decide +kernel, by decide +kernel, { test0 with params := [19, 0] ++ List.replicate 10 0 ++ [1, 0, 0, 0], start := 9999999999000 }, by decide +kernel⟩,
   ⟨lu (fun y => { y with test := some { test0 with params := [19, 1] ++ List.replicate 10 0 ++ [1, 0, 0, 0], start := 9999999999000 } }), 3, by decide +kernel, by decide +kernel, 4, 70, [64, 65], by decide +kernel, by decide +kernel, { test0 with params := [19, 1] ++ List.replicate 10 0 ++ [1, 0, 0, 0], start := 9999999999000 }, by decide +kernel, by decide +kernel, by decide +kernel, checked (testBin (port (lu (fun y => y)) 3) { test0 with params := [19, 1] ++ List.replicate 10 0 ++ [1, 0, 0, 0] } 0) 70 [64, 65], by decide +kernel⟩,
   ⟨up, 3, by decide +kernel, by decide +kernel, (fun _ => 1), 64, by decide +kernel⟩,
   ⟨ring 0x0602 [3], 3, by decide +kernel, by decide +kernel, 0, by decide +kernel⟩,
   ⟨ring 0x0603 [19, 2, 4, 2, 1, 0, 0, 0, 1, 0, 0, 0, 1, 0, 0, 0], 3, by decide +kernel, by decide +kernel, 0, by decide +kernel⟩⟩

/-- Every clause of FabricLinkCommands has a case. -/
theorem wit_FabricLinkCommands :
    (∃ (s : State), ∃ (p : Nat), (live s = true) ∧ (p < 4) ∧ ∃ (s0 : Slot), ∃ (s1 : Slot), ((port s p).st ≠ .init)) ∧
    (∃ (s : State), ∃ (p : Nat), (live s = true) ∧ (p < 4) ∧ ∃ (s0 : Slot), ∃ (s1 : Slot), ((port s p).st = .init) ∧ 
      (minimaMet (initCredits s1) = true)) ∧
    (∃ (s : State), ∃ (p : Nat), (live s = true) ∧ (p < 4) ∧ ∃ (s0 : Slot), ∃ (s1 : Slot), ((port s p).st = .init) ∧ 
      (minimaMet (initCredits s1) = false) ∧ ((port s p).link.shortRaised = false)) ∧
    (∃ (s : State), ∃ (p : Nat), (live s = true) ∧ (p < 4) ∧ ((port s p).st = .init) ∧ ((port s p).sentSeen = true) ∧ 
      ((port s p).partnerSeen = true) ∧ (minimaMet (port s p).link.adv = true)) ∧
    (∃ (s : State), ∃ (p : Nat), (live s = true) ∧ (p < 4) ∧ ((port s p).st = .init) ∧ ((port s p).seen = false ∨ 
      minimaMet (port s p).link.adv = false) ∧ (expired s (port s p).link.initAt 100000 = true)) ∧
    (∃ (s : State), ∃ (p : Nat), (live s = true) ∧ (p < 4) ∧ ((port s p).st ≠ .init)) ∧
    (∃ (s : State), ∃ (p : Nat), (live s = true) ∧ (p < 4) ∧ ((port s p).link.reinitLeft ≠ 0)) ∧
    (∃ (s : State), ∃ (p : Nat), (live s = true) ∧ (p < 4) ∧ ((port s p).link.reinitLeft = 0) ∧ ((port s p).st = 
      .active) ∧ (3 ≤ reinitCount s (port s p).link)) ∧
    (∃ (s : State), ∃ (p : Nat), (live s = true) ∧ (p < 4) ∧ ((port s p).link.reinitLeft = 0) ∧ ((port s p).st = 
      .active) ∧ (reinitCount s (port s p).link < 3)) ∧
    (∃ (s : State), ∃ (p : Nat), (live s = true) ∧ (p < 4) ∧ ((port s p).st = .active)) ∧
    (∃ (s : State), ∃ (p : Nat), (live s = true) ∧ (p < 4) ∧ ((port s p).st = .down)) ∧
    (∃ (s : State), ∃ (p : Nat), (live s = true) ∧ (p < 4) ∧ ((port s p).st = .active) ∧ (16 ≤ (port s 
      p).link.badRun)) ∧
    (∃ (s : State), ∃ (p : Nat), (live s = true) ∧ (p < 4) ∧ ((port s p).link.badRun < 16)) ∧
    (∃ (s : State), ∃ (p : Nat), (live s = true) ∧ (p < 4) ∧ ((port s p).st = .active) ∧ ((port s p).link.awaiting = 
      true) ∧ ((port s p).link.nakDue = false) ∧ (64 ≤ (port s p).link.nakFlits)) ∧
    (∃ (s : State), ∃ (p : Nat), (live s = true) ∧ (p < 4) ∧ ((port s p).st ≠ .active)) ∧
    (∃ (s : State), ∃ (p : Nat), (live s = true) ∧ (p < 4) ∧ (64 ≤ (port s p).link.nakCount) ∧ ((port s p).st = 
      .active) ∧ (3 ≤ reinitCount s (port s p).link)) ∧
    (∃ (s : State), ∃ (p : Nat), (live s = true) ∧ (p < 4) ∧ ((port s p).link.nakCount < 64)) ∧
    (∃ (s : State), ∃ (p : Nat), (live s = true) ∧ (p < 4) ∧ ((port s p).st = .init) ∧ (s.boot.phase ≠ .retHeld) ∧ 
      (txOpen s (port s p) = true) ∧ ((port s p).link.reinitLeft = 0)) ∧
    (∃ (s : State), ∃ (p : Nat), (live s = true) ∧ (p < 4) ∧ (txOpen s (port s p) = false) ∧ ((port s p).st ≠ 
      .halted)) ∧
    (∃ (s : State), ∃ (p : Nat), (live s = true) ∧ (p < 4) ∧ ∃ (lg : Nat), ∃ (fl : Nat), ∃ (sp : Nat), (lg < 4) ∧ (fl 
      < 5) ∧ (sp < 5) ∧ ((port s p).st ≠ .active)) ∧
    (∃ (s : State), ∃ (p : Nat), (live s = true) ∧ (p < 4) ∧ ∃ (lg : Nat), ∃ (fl : Nat), ∃ (sp : Nat), (lg < 4) ∧ (fl 
      < 5) ∧ (sp < 5) ∧ ((port s p).st = .active) ∧ ((lane (port s p) sp).test = none)) ∧
    (∃ (s : State), ∃ (p : Nat), (live s = true) ∧ (p < 4) ∧ ((port s p).txSubst = none)) ∧
    (∃ (s : State), ∃ (p : Nat), (live s = true) ∧ (p < 4) ∧ ∃ (u : LaneSubst), ((port s p).txSubst = some u) ∧ 
      ((port s p).stream.marks = none) ∧ (txOpen s (port s p) = true)) ∧
    (∃ (s : State), ∃ (p : Nat), (live s = true) ∧ (p < 4) ∧ ∃ (u : LaneSubst), ((port s p).txSubst = some u) ∧ 
      ((port s p).stream.marks = none) ∧ (txOpen s (port s p) = false)) ∧
    (∃ (s : State), ∃ (p : Nat), (live s = true) ∧ (p < 4) ∧ ∃ (u : LaneSubst), ∃ v, ((port s p).txSubst = some u) ∧ 
      ((port s p).stream.marks = some (v, 0))) ∧
    (∃ (s : State), ∃ (p : Nat), (live s = true) ∧ (p < 4) ∧ ((port s p).subst = none)) ∧
    (∃ (s : State), ∃ (p : Nat), (live s = true) ∧ (p < 4) ∧ ∃ (u : LaneSubst), ((port s p).subst = some u) ∧ ((port 
      s p).st = .active) ∧ (expired s u.since 10000 = true)) ∧
    (∃ (s : State), ∃ (p : Nat), (live s = true) ∧ (p < 4) ∧ ∃ (m : OutMsg), ((port s p).link.txData = []) ∧ ((port s 
      p).link.outQ = [m]) ∧ (m.ing.isSome = true) ∧ (hSrc m.h0 ≠ s.fab.stackNode) ∧ (m.late = false) ∧ ((port s 
      p).link.held.hdr (msgClass m) = 0) ∧ (m.since + 1000000 < s.now)) ∧
    (∃ (s : State), ∃ (p : Nat), (live s = true) ∧ (p < 4) ∧ ((port s p).link.outQ = []) ∧ ((port s p).link.txData = 
      [])) ∧
    (∃ (s : State), ∃ (p : Nat), (live s = true) ∧ (p < 4) ∧ ∃ (n : Node), (smGet false s.fab.altUse n.toNat = false)) ∧
    (∃ (s : State), ∃ (p : Nat), (live s = true) ∧ (p < 4) ∧ ∃ (n : Node), (smGet false s.fab.altUse n.toNat = true) 
      ∧ (rRevert (routeGet s n) = true) ∧ (primaryBack s (rPrimary (routeGet s n)) = true) ∧ (heldFor s (rAlternate 
      (routeGet s n)) n = false)) :=
  ⟨⟨up, 3, by decide +kernel, by decide +kernel, 0, 0, by decide +kernel⟩,
   ⟨puL .init id, 3, by decide +kernel, by decide +kernel, 0, BitVec.ofNat 128 (16 + 32 * 2 ^ 16 + 64 * 2 ^ 32 + 64 * 2 ^ 48 + 4 * 2 ^ 64 + 4 * 2 ^ 80 + 64 * 2 ^ 96 + 64 * 2 ^ 112), by decide +kernel⟩,
   ⟨puL .init id, 3, by decide +kernel, by decide +kernel, 0, 0, by decide +kernel⟩,
   ⟨pu (fun x => { x with st := .init, sentSeen := true, partnerSeen := true, link := { x.link with adv := fat } }), 3, by decide +kernel⟩,
   ⟨puL .init (fun l => { l with initAt := 9999999900000 }), 3, by decide +kernel⟩,
   ⟨up, 3, by decide +kernel⟩,
   ⟨puL .active (fun l => { l with reinitLeft := 1 }), 3, by decide +kernel⟩,
   ⟨puL .active (fun l => { l with reinits := [9999990000001, 9999990000002] }), 3, by decide +kernel⟩,
   ⟨puL .active (fun l => { l with reinits := [9999990000000, 9999990000001] }), 3, by decide +kernel⟩,
   ⟨puL .active id, 3, by decide +kernel⟩,
   ⟨up, 3, by decide +kernel⟩,
   ⟨puL .active (fun l => { l with badRun := 16 }), 3, by decide +kernel⟩,
   ⟨puL .active (fun l => { l with badRun := 15 }), 3, by decide +kernel⟩,
   ⟨puL .active (fun l => { l with awaiting := true, nakFlits := 64 }), 3, by decide +kernel⟩,
   ⟨up, 3, by decide +kernel⟩,
   ⟨puL .active (fun l => { l with nakCount := 64, reinits := [9999990000001, 9999990000002] }), 3, by decide +kernel⟩,
   ⟨puL .active (fun l => { l with nakCount := 63 }), 3, by decide +kernel⟩,
   ⟨puL .init id, 3, by decide +kernel⟩,
   ⟨pu (fun x => { x with txPower := .dark }), 3, by decide +kernel⟩,
   ⟨up, 3, by decide +kernel, by decide +kernel, 3, 4, 0, by decide +kernel⟩,
   ⟨puL .active id, 3, by decide +kernel, by decide +kernel, 3, 3, 4, by decide +kernel⟩,
   ⟨up, 3, by decide +kernel⟩,
   ⟨pu (fun x => { x with txSubst := some sub0 }), 3, by decide +kernel, by decide +kernel, sub0, by decide +kernel⟩,
   ⟨pu (fun x => { x with txPower := .dark, txSubst := some sub0 }), 3, by decide +kernel, by decide +kernel, sub0, by decide +kernel⟩,
   ⟨pu (fun x => { x with txSubst := some sub0, stream := { x.stream with marks := some (4, 0) } }), 3, by decide +kernel, by decide +kernel, sub0, 4, by decide +kernel⟩,
   ⟨up, 3, by decide +kernel⟩,
   ⟨pu (fun x => { x with st := .active, subst := some { sub0 with since := 9999999990000 } }), 3, by decide +kernel, by decide +kernel, { sub0 with since := 9999999990000 }, by decide +kernel⟩,
   ⟨puL .active (fun l => { l with outQ := [{ out0 with since := 9999998999999, h0 := hdr opRdCur 1 0 1 0 }] }), 3, by decide +kernel, by decide +kernel, { out0 with since := 9999998999999, h0 := hdr opRdCur 1 0 1 0 }, by decide +kernel⟩,
   ⟨up, 3, by decide +kernel⟩,
   ⟨up, 3, by decide +kernel, by decide +kernel, 0xFFF, by decide +kernel⟩,
   ⟨{ up with wp := { up.wp with st := .active }, fab := { up.fab with altUse := [(0, true)], routes := [(0, 0x44)] } }, 3, by decide +kernel, by decide +kernel, 0, by decide +kernel⟩⟩

end Cases

end Sys2Proof.Tests
end

/-! # Writes to words of the Control Window (17 R471 to R473, 12 R360)

A write acts through `cwWrite`, which picks the register by the word's offset. Here each area of the Control Window has one
equation, and the number that `cwWrite` is given is read as the word that was written. -/

namespace Sys2Proof.Machine

/-! ## Offsets and written words -/

theorem inRange_iff {a lo hi : Nat} : inRange a lo hi = true ↔ lo ≤ a ∧ a ≤ hi := by
  simp [inRange]

theorem bit_toNat {n : Nat} (v : BitVec n) (i : Nat) : bit v.toNat i = v.getLsbD i := rfl

theorem ofNat_toNat_shiftRight {n : Nat} (v : BitVec n) (w lo : Nat) :
    BitVec.ofNat w (v.toNat >>> lo) = v.extractLsb' lo w := rfl

/-- The mask of `setField` covers the `w` bits from bit `lo` on. -/
theorem testBit_fieldMask (lo w i : Nat) :
    ((2 ^ w - 1) * 2 ^ lo).testBit i = (decide (lo ≤ i) && decide (i < lo + w)) := by
  rw [Nat.testBit_mul_two_pow, Nat.testBit_two_pow_sub_one]
  by_cases h : lo ≤ i
  · have e : i - lo < w ↔ i < lo + w := by omega
    simp [h, e]
  · simp [h]

/-- Zeroing a field keeps the bits outside it and clears those inside. -/
theorem getLsbD_setField_zero {n : Nat} (v : BitVec n) (lo w : Nat) {i : Nat} (h : i < n) :
    (setField v lo w 0).getLsbD i = (v.getLsbD i && !(decide (lo ≤ i) && decide (i < lo + w))) := by
  have hmask : (BitVec.ofNat n ((2 ^ w - 1) * 2 ^ lo)).getLsbD i = (decide (lo ≤ i) && decide (i < lo + w)) := by
    rw [BitVec.getLsbD_ofNat, testBit_fieldMask, decide_eq_true h, Bool.true_and]
  simp only [setField, Nat.zero_mod, Nat.zero_mul, BitVec.or_zero, BitVec.getLsbD_and,
    BitVec.getLsbD_not, hmask, decide_eq_true h, Bool.true_and]

/-! ## The register an offset names -/

theorem cwWrite_idBoot (s : State) (node : Node) (v : Nat) : cwWrite s node 0x18 v = writeIdBoot s v := rfl

theorem cwWrite_hatch (s : State) (node : Node) (v : Nat) {h : Nat} (hh : h < 16) :
    cwWrite s node (0x100 + 8 * h) v = if bit v 0 then ringHatch s h node else s := by
  have hr : inRange (0x100 + 8 * h) 0x100 0x17F = true := inRange_iff.mpr (by omega)
  have hi : (0x100 + 8 * h - 0x100) / 8 = h := by omega
  have h18 : 0x100 + 8 * h ≠ 0x18 := by omega
  have h20 : 0x100 + 8 * h ≠ 0x20 := by omega
  rw [cwWrite, if_neg h18, if_neg h20, if_pos hr, hi]

theorem cwWrite_evtCfg (s : State) (node : Node) (v : Nat) {t : Nat} (ht : t < 8) :
    cwWrite s node (0x200 + 8 * t) v = writeEvtCfg s t v := by
  have hh : ¬ inRange (0x200 + 8 * t) 0x100 0x17F = true := by rw [inRange_iff]; omega
  have hr : inRange (0x200 + 8 * t) 0x200 0x23F = true := inRange_iff.mpr (by omega)
  have hi : (0x200 + 8 * t - 0x200) / 8 = t := by omega
  have h18 : 0x200 + 8 * t ≠ 0x18 := by omega
  have h20 : 0x200 + 8 * t ≠ 0x20 := by omega
  rw [cwWrite, if_neg h18, if_neg h20, if_neg hh, if_pos hr, hi]

theorem cwWrite_evtPtr (s : State) (node : Node) (v : Nat) {t : Nat} (ht : t < 8) :
    cwWrite s node (0x240 + 8 * t) v = writeEvtPtr s t v := by
  have hh : ¬ inRange (0x240 + 8 * t) 0x100 0x17F = true := by rw [inRange_iff]; omega
  have hc : ¬ inRange (0x240 + 8 * t) 0x200 0x23F = true := by rw [inRange_iff]; omega
  have hr : inRange (0x240 + 8 * t) 0x240 0x27F = true := inRange_iff.mpr (by omega)
  have hi : (0x240 + 8 * t - 0x240) / 8 = t := by omega
  have h18 : 0x240 + 8 * t ≠ 0x18 := by omega
  have h20 : 0x240 + 8 * t ≠ 0x20 := by omega
  rw [cwWrite, if_neg h18, if_neg h20, if_neg hh, if_neg hc, if_pos hr, hi]

theorem cwWrite_faultSummary (s : State) (node : Node) (v : Nat) :
    cwWrite s node 0x300 v = writeFaultSummary s v := rfl

theorem cwWrite_faultAck (s : State) (node : Node) (v : Nat) : cwWrite s node 0x308 v = writeFaultAck s v := rfl

/-- An offset of no register that takes a write is ignored. -/
theorem cwWrite_unlisted (s : State) (node : Node) (v : Nat) {off : Nat}
    (h : off < 0x18 ∨ (0x28 ≤ off ∧ off < 0x100) ∨ (0x180 ≤ off ∧ off < 0x200) ∨ (0x310 ≤ off ∧ off < 0x400) ∨
      (0x500 ≤ off ∧ off < 0x1000) ∨ (0x1900 ≤ off ∧ off < 0x10000)) : cwWrite s node off v = s := by
  have hword : off ≠ 0x18 ∧ off ≠ 0x20 ∧ off ≠ 0x300 ∧ off ≠ 0x308 ∧ off ≠ 0x400 ∧ off ≠ 0x408 := by omega
  have harea : ¬ (0x100 ≤ off ∧ off ≤ 0x17F) ∧ ¬ (0x200 ≤ off ∧ off ≤ 0x23F) ∧ ¬ (0x240 ≤ off ∧ off ≤ 0x27F) ∧
      ¬ (0x1000 ≤ off ∧ off ≤ 0x18FF) := by omega
  obtain ⟨h18, h20, h300, h308, h400, h408⟩ := hword
  obtain ⟨hHatch, hCfg, hPtr, hPerf⟩ := harea
  simp only [cwWrite, inRange_iff, if_neg h18, if_neg h20, if_neg h300, if_neg h308, if_neg h400, if_neg h408,
    if_neg hHatch, if_neg hCfg, if_neg hPtr, if_neg hPerf]

/-! ## What each register takes -/

theorem writeIdBoot_toNat (s : State) (v : BitVec 64) :
    writeIdBoot s v.toNat = { s with boot := { s.boot with
      lastReset := v.extractLsb' 16 3, retCount := v.extractLsb' 32 16, wdog := v.extractLsb' 48 16 } } := by
  simp only [writeIdBoot, ofNat_toNat_shiftRight]

/-- The configuration takes the written bits but the reserved ones, bits 20 to 23 (17 R473). -/
theorem writeEvtCfg_cfg (s : State) (t : Nat) (v : BitVec 64) {i : Nat} (hi : i < 46) :
    (evtT (writeEvtCfg s t v.toNat) t).cfg.getLsbD i = (v.getLsbD i && !(20 ≤ i && i < 24)) := by
  have hv : (BitVec.ofNat 46 v.toNat).getLsbD i = v.getLsbD i := by
    rw [BitVec.getLsbD_ofNat, decide_eq_true hi, Bool.true_and, BitVec.getLsbD]
  rw [writeEvtCfg, evtT_putEvt_same, getLsbD_setField_zero _ _ _ hi, hv]

/-- Without DROP_CLEAR the pointers' register takes TAIL alone. -/
theorem writeEvtPtr_tail (s : State) (t : Nat) {v : BitVec 64} (h : v.getLsbD 48 = false) :
    writeEvtPtr s t v.toNat = writeTail s t (v.extractLsb' 16 16) := by
  rw [writeEvtPtr, bit_toNat, ofNat_toNat_shiftRight, if_neg (Bool.eq_false_iff.mp h)]

theorem writeFaultSummary_toNat (s : State) (v : BitVec 64) :
    writeFaultSummary s v.toNat = { s with faults := { s.faults with
      logOverflow := s.faults.logOverflow && !v.getLsbD 21, lost := 0 } } := rfl

/-- A FID written without the two all-bits, bits 32 and 33, acknowledges that record alone (12 R360). -/
theorem writeFaultAck_fid (s : State) {v : BitVec 64} (h : v.toNat < 2 ^ 32) :
    writeFaultAck s v.toNat = ackRec s (v.extractLsb' 0 32) := by
  have h32 : bit v.toNat 32 = false := Nat.testBit_lt_two_pow h
  have h33 : bit v.toNat 33 = false := Nat.testBit_lt_two_pow (by omega)
  have hfid : BitVec.ofNat 32 v.toNat = v.extractLsb' 0 32 := ofNat_toNat_shiftRight v 32 0
  simp [writeFaultAck, h32, h33, hfid]

/-! ## The commands on a stack that acts -/

section
variable {s : State} (hl : live s = true)
include hl

theorem exec_registerWrite (node : Node) (v : BitVec 64) {off : Nat} (ha : off % 8 = 0) (ho : off < 0x10000) :
    exec (.registerWrite node off v) s = .next (cwWrite s node off v.toNat) := by
  change execRegisterWrite node off v s = _
  rw [execRegisterWrite, if_pos ⟨ha, ho⟩, whenLive_live _ hl]

theorem exec_hatchRing (node : Node) {h : Nat} (hh : h < 16) :
    exec (.hatchRing h node) s = .next (ringHatch s h node) := by
  change execHatchRing h node s = _
  rw [execHatchRing, if_pos hh, whenLive_live _ hl]

theorem exec_evtTailWrite (v : BitVec 16) {t : Nat} (ht : t < 8) :
    exec (.evtTailWrite t v) s = .next (writeTail s t v) := by
  change execEvtTailWrite t v s = _
  rw [execEvtTailWrite, if_pos ht, whenLive_live _ hl]

theorem exec_faultAck (fid : BitVec 32) : exec (.faultAck fid) s = .next (ackRec s fid) := by
  change execFaultAck fid s = _
  rw [execFaultAck, whenLive_live _ hl]

theorem exec_registerWrite_hatch (node : Node) (v : BitVec 64) {h : Nat} (hh : h < 16) :
    exec (.registerWrite node (0x100 + 8 * h) v) s = .next (if v.getLsbD 0 then ringHatch s h node else s) := by
  rw [exec_registerWrite hl node v (by omega) (by omega), cwWrite_hatch s node _ hh, bit_toNat]

end

/-- Settles O24: a write completes at once with `cwWrite` of the word, and each area's equation says which register that
is; where another command names the same effect, both answer the same next state. -/
theorem registerWrites : Obligations.RegisterWrites := by
  unfold Obligations.RegisterWrites
  intro s node v hl
  refine ⟨?idBoot, ?ring, ?noRing, ?evtCfg, ?evtPtr, ?summary, ?ack, ?unlisted⟩
  case idBoot =>
    rw [exec_registerWrite hl node v (by omega) (by omega), cwWrite_idBoot, writeIdBoot_toNat]
  case ring =>
    intro h hh hv
    rw [exec_registerWrite_hatch hl node v hh, exec_hatchRing hl node hh, if_pos hv]
  case noRing =>
    intro h hh hv
    rw [exec_registerWrite_hatch hl node v hh, if_neg (Bool.eq_false_iff.mp hv)]
  case evtCfg =>
    intro t ht
    refine ⟨writeEvtCfg s t v.toNat, ?_, fun i hi => writeEvtCfg_cfg s t v hi, ?_, ?_, rfl⟩
    · rw [exec_registerWrite hl node v (by omega) (by omega), cwWrite_evtCfg s node _ ht]
    · rw [writeEvtCfg, evtT_putEvt_same]
    · rw [writeEvtCfg, evtT_putEvt_same]
  case evtPtr =>
    intro t ht hv
    rw [exec_registerWrite hl node v (by omega) (by omega), cwWrite_evtPtr s node _ ht, writeEvtPtr_tail s t hv,
      exec_evtTailWrite hl _ ht]
  case summary =>
    rw [exec_registerWrite hl node v (by omega) (by omega), cwWrite_faultSummary, writeFaultSummary_toNat]
  case ack =>
    intro hv
    rw [exec_registerWrite hl node v (by omega) (by omega), cwWrite_faultAck, writeFaultAck_fid s hv, exec_faultAck hl]
  case unlisted =>
    intro off ha ho
    rw [exec_registerWrite hl node v ha (by omega), cwWrite_unlisted s node _ ho]

end Sys2Proof.Machine

/-! # Events (12 R341; 17 R473 to R476)

Posting an event touches the event queues, the fault bookkeeping and the counters alone, whatever queues take it and
whatever records are dropped. -/

namespace Sys2Proof.Machine

/-- `t` is `s` but for its event queues, its fault bookkeeping and its counters. -/
def OnlyEvents (s t : State) : Prop :=
  ∃ (m : Mgmt) (f : Faults) (p : Perf), t = { s with mg := m, faults := f, perf := p }

theorem OnlyEvents.refl (s : State) : OnlyEvents s s := ⟨s.mg, s.faults, s.perf, rfl⟩

theorem OnlyEvents.trans {s t u : State} (h : OnlyEvents s t) (k : OnlyEvents t u) : OnlyEvents s u := by
  obtain ⟨_, _, _, rfl⟩ := h
  obtain ⟨m, f, p, rfl⟩ := k
  exact ⟨m, f, p, rfl⟩

theorem OnlyEvents.foldl {α : Type} {f : State → α → State} (hf : ∀ u a, OnlyEvents u (f u a)) {s t : State}
    (h : OnlyEvents s t) (l : List α) : OnlyEvents s (l.foldl f t) := by
  induction l generalizing t with
  | nil => exact h
  | cons a l ih => exact ih (h.trans (hf t a))

theorem onlyEvents_mg (s : State) (m : Mgmt) : OnlyEvents s { s with mg := m } := ⟨m, s.faults, s.perf, rfl⟩

theorem onlyEvents_counts (s : State) (m : Mgmt) (f : Faults) : OnlyEvents s { s with mg := m, faults := f } :=
  ⟨m, f, s.perf, rfl⟩

theorem onlyEvents_putEvt (s : State) (t : Nat) (x : EvtTarget) : OnlyEvents s (putEvt s t x) := onlyEvents_mg s _

theorem onlyEvents_occ (s : State) (ev grp qual n : Nat) : OnlyEvents s (occ s ev grp qual n) := by
  obtain ⟨p, h⟩ := occ_eq s ev grp qual n
  exact ⟨s.mg, s.faults, p, h⟩

theorem onlyEvents_postTo (s : State) (r : EvtRec) (cls srcs : List Nat) (n : Bool) :
    OnlyEvents s (postTo s r cls srcs n).1 := by
  refine List.foldlRecOn (motive := fun acc : State × List Nat => OnlyEvents s acc.1) _ _ ?counted
    (fun acc h t _ => ?placed)
  case counted => exact (onlyEvents_mg s _).trans (onlyEvents_occ _ _ _ _ _)
  case placed =>
    dsimp only
    split
    · exact h.trans (onlyEvents_putEvt _ _ _)
    · exact h

theorem onlyEvents_dropEvent (s : State) (t : Nat) : OnlyEvents s (dropEvent s t) := by
  have hocc := onlyEvents_occ s 0x107 7 0xF 1
  unfold dropEvent
  extract_lets x ok key n u
  split
  · exact hocc
  · split
    · refine OnlyEvents.foldl (fun u n => ?_) ?_ _
      · dsimp only
        split
        · exact onlyEvents_putEvt _ _ _
        · exact .refl _
      · exact ((hocc.trans (onlyEvents_counts _ _ _)).trans (onlyEvents_putEvt _ _ _)).trans (onlyEvents_mg _ _)
    · exact hocc.trans (onlyEvents_counts _ _ _)

theorem onlyEvents_post (s : State) (r : EvtRec) (cls srcs : List Nat) (n : Bool) :
    OnlyEvents s (post s r cls srcs n) :=
  (onlyEvents_postTo s r cls srcs n).foldl onlyEvents_dropEvent _

theorem onlyEvents_raiseC0At (s : State) (time : Nat) (level : FLevel) (region elem code detail lim : Nat) :
    OnlyEvents s (raiseC0At s time level region elem code detail lim) := by
  unfold raiseC0At
  split
  · exact .refl s
  · dsimp only
    split
    · exact (onlyEvents_counts s _ _).trans (onlyEvents_post _ _ _ _ _)
    · exact onlyEvents_counts s _ _

theorem onlyEvents_c0 (s : State) (elem code detail lim : Nat) : OnlyEvents s (c0 s elem code detail lim) :=
  onlyEvents_raiseC0At s s.now .chip 0 elem code detail lim

end Sys2Proof.Machine

/-! # The pace monitor and its registers (01 R28 to R30) -/

namespace Sys2Proof.Machine

@[simp] theorem c0_pace (s : State) (elem code detail lim : Nat) : (c0 s elem code detail lim).pace = s.pace := by
  obtain ⟨m, f, p, h⟩ := onlyEvents_c0 s elem code detail lim
  rw [h]

@[simp] theorem occ_pace (s : State) (ev grp qual n : Nat) : (occ s ev grp qual n).pace = s.pace := by
  obtain ⟨p, h⟩ := occ_eq s ev grp qual n
  rw [h]

/-! ## The lowest reading -/

theorem argMin_le {α : Type} (f : α → Nat) {l : List α} (h : l ≠ []) :
    ∃ a ∈ l, argMin f l = some a ∧ ∀ b ∈ l, f a ≤ f b := by
  induction l with
  | nil => exact absurd rfl h
  | cons x l ih =>
    by_cases hl : l = []
    · exact ⟨x, by simp, by simp [hl, argMin], by simp [hl]⟩
    · obtain ⟨a, ha, hmin, hle⟩ := ih hl
      by_cases hx : f a < f x
      · refine ⟨a, List.mem_cons_of_mem x ha, by simp [argMin, hmin, hx], ?_⟩
        exact List.forall_mem_cons.mpr ⟨hx.le, hle⟩
      · refine ⟨x, List.mem_cons_self, by simp [argMin, hmin, hx], ?_⟩
        exact List.forall_mem_cons.mpr ⟨le_rfl, fun b hb => (not_lt.mp hx).trans (hle b hb)⟩

/-- The lowest reading is one of the readings, at the place it names, and none is below it (01 R28). -/
theorem lowestReading_spec {rs : List (BitVec 16)} (h : rs ≠ []) :
    ∃ v i, lowestReading rs = (v.toNat, i) ∧ rs[i]? = some v ∧ ∀ r ∈ rs, v.toNat ≤ r.toNat := by
  have hz : rs.zipIdx ≠ [] := by simpa using h
  obtain ⟨⟨v, i⟩, hmem, hmin, hle⟩ := argMin_le (fun p : BitVec 16 × Nat => p.1.toNat) hz
  refine ⟨v, i, by simp [lowestReading, hmin], List.mem_zipIdx_iff_getElem?.mp hmem, fun r hr => ?_⟩
  obtain ⟨k, hk⟩ := List.mem_iff_getElem?.mp hr
  exact hle (r, k) (List.mem_zipIdx_iff_getElem?.mpr hk)

/-- Of eight equal readings the first loop's is reported. -/
theorem lowestReading_replicate (v : BitVec 16) : lowestReading (List.replicate 8 v) = (v.toNat, 0) := by
  simp [lowestReading, List.replicate, argMin]

/-! ## What a sample does (01 R29) -/

theorem outOfRange_clear {s : State} (h : s.pace.outOfRange = false) :
    outOfRange s =
      chipFault { s with pace := { s.pace with outOfRange := true } } .c1 7 0x0102 (paceDetail s.pace) := by
  simp [outOfRange, h]

theorem outOfRange_set {s : State} (h : s.pace.outOfRange = true) : outOfRange s = s := by
  simp [outOfRange, h]

theorem paceReact_above_warn (s : State) (p : Pace) {v : Nat} (hw : p.warn.toNat < v) (hv : 0x1000 ≤ v)
    (hr : p.lowRun = 0) : paceReact { s with pace := p } v = { s with pace := { p with armed := true } } := by
  simp [paceReact, hw.not_ge, hv.not_gt, hr]

theorem paceReact_at_warn (s : State) (p : Pace) {v : Nat} (hw : v ≤ p.warn.toNat) (hv : 0x1000 ≤ v)
    (hr : p.lowRun = 0) :
    paceReact { s with pace := p } v = if p.armed then
      c0 { s with pace := { p with armed := false } } 7 0x0101 (paceDetail p) 0 else { s with pace := p } := by
  by_cases ha : p.armed = true
  · simp [paceReact, hw, hv.not_gt, ha, hr, paceDetail]
  · simp [paceReact, hw, hv.not_gt, ha, hr]

/-- The third sample running below 0x1000, the event of PACE_WARN already raised, is counted and raises the fault. -/
theorem paceReact_third (s : State) (p : Pace) {v : Nat} (hw : v ≤ p.warn.toNat) (hv : v < 0x1000)
    (ha : p.armed = false) (h3 : 3 ≤ p.lowRun) (hc : p.outOfRange = false) :
    paceReact { s with pace := p } v =
      chipFault { occ { s with pace := p } 0x10C 7 0xF 1 with pace := { p with outOfRange := true } }
        .c1 7 0x0102 (paceDetail p) := by
  simp [paceReact, hw, hv, ha, h3, outOfRange_clear, hc]

/-- With OUT_OF_RANGE set, such a sample is counted and no more. -/
theorem paceReact_again (s : State) (p : Pace) {v : Nat} (hw : v ≤ p.warn.toNat) (hv : v < 0x1000)
    (ha : p.armed = false) (hc : p.outOfRange = true) :
    paceReact { s with pace := p } v = occ { s with pace := p } 0x10C 7 0xF 1 := by
  simp [paceReact, hw, hv, ha, outOfRange_set, hc]

theorem clearOutOfRange_lasting {p : Pace} (h : p.vddOut = true ∨ p.hot = true ∨ p.okRun < 100) :
    clearOutOfRange p = p := by
  have hc : rangeCondition p = true := by simpa [rangeCondition, or_assoc] using h
  rw [clearOutOfRange, if_pos hc]

theorem clearOutOfRange_over {p : Pace} (hv : p.vddOut = false) (hh : p.hot = false) (hk : 100 ≤ p.okRun) :
    clearOutOfRange p = { p with outOfRange := false } := by
  simp [clearOutOfRange, rangeCondition, hv, hh, hk]

/-- A sample is due at the first, or 10 µs after the latest. -/
theorem paceDue_of_waited {s : State} (h : ∀ t0, s.pace.sampledAt = some t0 → waited s t0 10000 = true) :
    paceDue s = true := by
  unfold paceDue
  cases ht : s.pace.sampledAt with
  | none => rfl
  | some t0 => exact h t0 ht

/-- The pace registers after a sample whose lowest reading is `v`, at loop `i`. -/
def paceSampled (s : State) (v i : Nat) : Pace := { paceRecord s.pace v i with sampledAt := some s.now }

theorem paceSampled_above {v : BitVec 16} (s : State) (i : Nat) (hv : 0x1000 ≤ v.toNat) :
    paceSampled s v.toNat i = { s.pace with
      now := v, min := BitVec.ofNat 16 (min s.pace.min.toNat v.toNat), minSource := BitVec.ofNat 3 i,
      sampledAt := some s.now, lowRun := 0, okRun := s.pace.okRun + 1 } := by
  simp [paceSampled, paceRecord, hv.not_gt]

theorem paceSampled_below {v : BitVec 16} (s : State) (i : Nat) (hv : v.toNat < 0x1000) :
    paceSampled s v.toNat i = { s.pace with
      now := v, min := BitVec.ofNat 16 (min s.pace.min.toNat v.toNat), minSource := BitVec.ofNat 3 i,
      sampledAt := some s.now, lowRun := s.pace.lowRun + 1, okRun := 0,
      lowSamples := BitVec.ofNat 16 (min (s.pace.lowSamples.toNat + 1) 0xFFFF) } := by
  simp [paceSampled, paceRecord, hv, satAdd]

/-! ## The commands on a stack that acts -/

section
variable {s : State} (hl : live s = true)
include hl

theorem exec_paceSample_due {rs : List (BitVec 16)} (h8 : rs.length = 8) (hd : paceDue s = true) {v i : Nat}
    (hlow : lowestReading rs = (v, i)) :
    exec (.paceSample rs) s = .next (checkConds (paceReact { s with pace := paceSampled s v i } v)) := by
  change execPaceSample rs s = _
  rw [execPaceSample, if_pos h8, whenLive_live _ hl, if_pos hd, hlow, paceSampled]

theorem exec_paceSample_early {rs : List (BitVec 16)} (h8 : rs.length = 8) (hd : paceDue s = false) :
    exec (.paceSample rs) s = .next s := by
  change execPaceSample rs s = _
  rw [execPaceSample, if_pos h8, whenLive_live _ hl, if_neg (Bool.eq_false_iff.mp hd)]

theorem exec_outOfRangeClear :
    exec .outOfRangeClear s = .next { s with pace := clearOutOfRange s.pace } :=
  whenLive_live (fun s => { s with pace := clearOutOfRange s.pace }) hl

theorem exec_paceWarnWrite (v : BitVec 16) :
    exec (.paceWarnWrite v) s = .next { s with pace := writePaceWarn s.pace v } :=
  whenLive_live (fun s => { s with pace := writePaceWarn s.pace v }) hl

theorem exec_minClear : exec .minClear s = .next { s with pace := { s.pace with min := 0xFFFF } } :=
  whenLive_live (fun s => { s with pace := { s.pace with min := 0xFFFF } }) hl

theorem exec_lowSamplesReset : exec .lowSamplesReset s = .next { s with pace := { s.pace with lowSamples := 0 } } :=
  whenLive_live (fun s => { s with pace := { s.pace with lowSamples := 0 } }) hl

theorem exec_vddCoreOutOfRange_back (since : Nat) :
    exec (.vddCoreOutOfRange since false) s = .next { s with pace := { s.pace with vddOut := false } } := by
  change execVddCoreOutOfRange since false s = _
  rw [execVddCoreOutOfRange, whenLive_live _ hl]
  simp

theorem exec_vddCoreOutOfRange_late {since : Nat} (h : since + 100000 < s.now) :
    exec (.vddCoreOutOfRange since true) s =
      .next (outOfRange { s with pace := { s.pace with vddOut := true } }) := by
  change execVddCoreOutOfRange since true s = _
  rw [execVddCoreOutOfRange, whenLive_live _ hl, if_pos ⟨rfl, h⟩]

end

/-- Settles O2: the record of the lowest reading, with the event armed again, is the next state's; a sample that is not
due leaves the state. -/
theorem paceSampleTakesTheLowestReading : Obligations.PaceSampleTakesTheLowestReading := by
  unfold Obligations.PaceSampleTakesTheLowestReading
  intro s rs hl h8
  refine ⟨exec_paceSample_early hl h8, fun hdue hwarn habove => ?_⟩
  have hne : rs ≠ [] := by rintro rfl; simp at h8
  obtain ⟨v, i, hlow, hat, hle⟩ := lowestReading_spec hne
  have hmem : v ∈ rs := List.mem_of_getElem? hat
  have hi : i < 8 := h8 ▸ (List.getElem?_eq_some_iff.mp hat).1
  have hok : 0x1000 ≤ v.toNat := hwarn.trans (habove v hmem).le
  have hmin : min s.pace.min.toNat v.toNat < 2 ^ 16 := (min_le_right _ _).trans_lt v.isLt
  have hrun := exec_paceSample_due hl h8 (paceDue_of_waited hdue) hlow
  rw [paceReact_above_warn s (paceSampled s v.toNat i) (habove v hmem) hok (if_neg hok.not_gt),
    paceSampled_above s i hok] at hrun
  refine ⟨_, hrun, hmem, hle, ?source, Nat.mod_eq_of_lt hmin, rfl, rfl, rfl, rfl, rfl, rfl, rfl⟩
  case source => rw [BitVec.toNat_ofNat, Nat.mod_eq_of_lt hi, hat]

/-- Settles O3, by the cases of a low sample and the equation of each register's write. -/
theorem paceReactions : Obligations.PaceReactions := by
  unfold Obligations.PaceReactions
  refine ⟨fun s v hl hd hw => ?sample, fun s hl => ?registers⟩
  case sample =>
    have hrun := exec_paceSample_due hl (List.length_replicate ..) hd (lowestReading_replicate v)
    refine ⟨fun hok => ?warned, fun hlow ha h2 hclear => ?third, fun hlow ha hset => ?again⟩
    case warned =>
      rw [hrun, paceReact_at_warn s (paceSampled s v.toNat 0) hw hok (if_neg hok.not_gt), paceSampled_above s 0 hok]
      cases ha : s.pace.armed <;> simp [paceDetail, ha]
    case third =>
      have h3 : 3 ≤ (paceSampled s v.toNat 0).lowRun := by simp [paceSampled_below s 0 hlow, h2]
      rw [hrun, paceReact_third s (paceSampled s v.toNat 0) hw hlow ha h3 hclear, paceSampled_below s 0 hlow]
      simp [paceDetail, ha]
    case again =>
      rw [hrun, paceReact_again s (paceSampled s v.toNat 0) hw hlow ha hset, paceSampled_below s 0 hlow]
      simp [ha]
  case registers =>
    refine ⟨fun h => ?lasting, fun hv hh hk => ?ended, exec_minClear hl, exec_lowSamplesReset hl,
      fun v h1 h2 => ?taken, fun v h => ?ignored, fun since h hclear => ?vdd, exec_vddCoreOutOfRange_back hl⟩
    case lasting => rw [exec_outOfRangeClear hl, clearOutOfRange_lasting h]
    case ended => rw [exec_outOfRangeClear hl, clearOutOfRange_over hv hh hk]
    case taken => rw [exec_paceWarnWrite hl, writePaceWarn, if_pos ⟨h1, h2⟩]
    case ignored => rw [exec_paceWarnWrite hl, writePaceWarn, if_neg (by omega)]
    case vdd =>
      have hc := outOfRange_clear (s := { s with pace := { s.pace with vddOut := true } }) hclear
      rw [exec_vddCoreOutOfRange_late hl h, hc, paceDetail]

end Sys2Proof.Machine

/-! # The step (01 R25; log entry 1)

A tick adds one to `now` and leaves the queue: nothing that a tick brings, from the requests that wait at an ingress to
the counters, moves the clock or queues a command.  Each lemma below carries that along one operation. -/

namespace Sys2Proof.Machine

/-- `t` has the clock and the queue of `s`. -/
structure SameClock (s t : State) : Prop where
  now : t.now = s.now
  pending : t.pending = s.pending

namespace SameClock

theorem refl (s : State) : SameClock s s := ⟨rfl, rfl⟩

theorem trans {s t u : State} (h : SameClock s t) (k : SameClock t u) : SameClock s u :=
  ⟨k.now.trans h.now, k.pending.trans h.pending⟩

theorem ite {s t u : State} {c : Prop} [Decidable c] (ht : SameClock s t) (hu : SameClock s u) :
    SameClock s (if c then t else u) := by
  split
  · exact ht
  · exact hu

theorem foldl {α : Type} {f : State → α → State} (hf : ∀ u a, SameClock u (f u a)) {s t : State}
    (h : SameClock s t) (l : List α) : SameClock s (l.foldl f t) := by
  induction l generalizing t with
  | nil => exact h
  | cons a l ih => exact ih (h.trans (hf t a))

theorem of_onlyEvents {s t u : State} (k : OnlyEvents t u) (h : SameClock s t) : SameClock s u := by
  obtain ⟨m, f, p, rfl⟩ := k
  exact ⟨h.now, h.pending⟩

/-! ## Credits, events and messages -/

section
variable {s t : State} (h : SameClock s t)
include h

theorem occ (ev grp qual n : Nat) : SameClock s (occ t ev grp qual n) :=
  of_onlyEvents (onlyEvents_occ t ev grp qual n) h

theorem c0 (elem code detail lim : Nat) : SameClock s (c0 t elem code detail lim) :=
  of_onlyEvents (onlyEvents_c0 t elem code detail lim) h

theorem modPort (p : Nat) (f : FabPort → FabPort) : SameClock s (modPort t p f) := ⟨h.now, h.pending⟩

theorem modLink (p : Nat) (f : Link → Link) : SameClock s (modLink t p f) :=
  ite ⟨h.now, h.pending⟩ (h.modPort _ _)

theorem retLine (ing k n : Nat) : SameClock s (retLine t ing k n) := ite h (h.modLink _ _)

theorem retHdr (ing k n : Nat) : SameClock s (retHdr t ing k n) := ite h (h.modLink _ _)

theorem leaveIngress (ing : Nat) (m : Msg) : SameClock s (leaveIngress t ing m) := (h.retHdr _ _ _).retLine _ _ _

theorem sampReady (node : Node) (tag : Tag) (snoop : Bool) : SameClock s (sampReady t node tag snoop) :=
  ⟨h.now, h.pending⟩

theorem wpDiscard (n : Node) : SameClock s (wpDiscard t n) := by
  refine c0 ?_ 0 0x0202 n.toNat 0
  exact ⟨h.now, h.pending⟩

theorem unreachable (p : Nat) (n : Node) (isReq : Bool) : SameClock s (unreachable t p n isReq) := by
  refine c0 ?_ _ 0x0406 n.toNat (ms 1)
  exact ⟨h.now, h.pending⟩

theorem enqueue (p : Nat) (m : OutMsg) : SameClock s (enqueue t p m) := h.modLink _ _

/-- A message is placed in its egress queue, or discarded with a C0 event. -/
theorem sendTo (dst : Node) (m : OutMsg) : SameClock s (sendTo t dst m).1 := by
  unfold Machine.sendTo
  dsimp only
  split
  · exact h.wpDiscard dst
  · split
    · exact h.enqueue _ _
    · exact h.unreachable _ _ _

theorem answerNoCtx (ing : Nat) (m : Msg) (status addr : Nat) : SameClock s (answerNoCtx t ing m status addr) :=
  ite h ((h.sampReady _ _ _).sendTo _ _)

theorem violation (n : Node) (op target rule : Nat) (noMatch narrowed : Bool) (ing addr : Nat) :
    SameClock s (violation t n op target rule noMatch narrowed ing addr) := by
  unfold Machine.violation
  extract_lets v r due u w
  have hu : SameClock s u := ⟨h.now, h.pending⟩
  exact ite ((hu.occ _ _ _ _).c0 _ _ _ _) (hu.occ _ _ _ _)

/-! ## Samples and contexts -/

theorem sampTake : SameClock s (sampTake t) := by
  unfold Machine.sampTake
  split
  · exact h
  · refine ite (occ ?_ _ _ _ _) (occ ?_ _ _ _ _)
    · exact ⟨h.now, h.pending⟩
    · exact ⟨h.now, h.pending⟩

theorem traceWrite (x : Sample) (status : Nat) : SameClock s (traceWrite t x status) := ite h ⟨h.now, h.pending⟩

theorem sampEnd (node : Node) (tag : Tag) (snoop : Bool) (status : Nat) :
    SameClock s (sampEnd t node tag snoop status) := by
  unfold Machine.sampEnd
  extract_lets u
  have hu : SameClock s u := by
    dsimp only [u]
    split
    · exact foldl (fun u _ => (refl u).sampTake) h _
    · exact h
  split
  · refine traceWrite ?_ _ _
    exact ⟨hu.now, hu.pending⟩
  · exact hu

theorem ctxPlaced (i : Nat) : SameClock s (ctxPlaced t i) := ⟨h.now, h.pending⟩

/-! ## Fault records -/

theorem logWrite (e : LogEnt) : SameClock s (logWrite t e).1 := by
  unfold Machine.logWrite
  split
  · exact ⟨h.now, h.pending⟩
  · split
    · refine ite ⟨h.now, h.pending⟩ (c0 ?_ _ _ _ _)
      exact ⟨h.now, h.pending⟩
    · exact h

theorem setLast (r : FaultRec) : SameClock s (setLast t r) := ite h ⟨h.now, h.pending⟩

theorem modRec (fid : BitVec 32) (f : FaultRec → FaultRec) : SameClock s (modRec t fid f) := by
  unfold Machine.modRec
  split
  · exact h
  · refine setLast (ite ?_ (logWrite ?_ _)) _
    · exact ⟨h.now, h.pending⟩
    · exact ⟨h.now, h.pending⟩

theorem ackRec (fid : BitVec 32) : SameClock s (ackRec t fid) := by
  unfold Machine.ackRec
  split
  · exact ite h (h.modRec _ _)
  · exact h

theorem ackClass (c : FClass) : SameClock s (ackClass t c) :=
  foldl (fun u (r : FaultRec) => (refl u).ackRec r.fid) h _

theorem writeFaultAck (v : Nat) : SameClock s (writeFaultAck t v) :=
  have hc1 : SameClock s (if bit v 32 then Machine.ackClass (Machine.ackRec t (BitVec.ofNat 32 v)) .c1 else _) :=
    ite ((h.ackRec _).ackClass _) (h.ackRec _)
  ite (hc1.ackClass _) hc1

/-! ## The management space -/

theorem mgmtAnswer (ing : Nat) (m : Msg) (op : Nat) (data : List Line) : SameClock s (mgmtAnswer t ing m op data) := by
  unfold Machine.mgmtAnswer
  extract_lets c _ u r
  have hu : SameClock s u := ⟨h.now, h.pending⟩
  have hr : SameClock s r.1 := (hu.sampReady _ _ _).sendTo _ _
  exact ite hr ((hr.sampEnd _ _ _ _).ctxPlaced _)

theorem moffTouch (node : Node) (a : Nat) : SameClock s (moffTouch t node a) := ite (ite ⟨h.now, h.pending⟩ h) h

theorem spdmGo (node : Node) (len : Nat) : SameClock s (spdmGo t node len) :=
  have hx (x : Spdm) : SameClock s { t with spdm := x } := ⟨h.now, h.pending⟩
  ite (ite (ite (hx _) (ite (hx _) (hx _))) (hx _)) (ite h (hx _))

theorem spdmRelease (node : Node) : SameClock s (spdmRelease t node) := ite ⟨h.now, h.pending⟩ h

theorem spdmCtlWrite (node : Node) (v : Nat) : SameClock s (spdmCtlWrite t node v) := by
  unfold Machine.spdmCtlWrite
  extract_lets _ u
  have hu : SameClock s u := ite (h.spdmGo _ _) ⟨h.now, h.pending⟩
  exact ite (hu.spdmRelease _) hu

theorem putHatch (i : Nat) (x : Hatch) : SameClock s (putHatch t i x) := ⟨h.now, h.pending⟩

theorem hatchResult (i st : Nat) (pay : List (BitVec 8)) (done at_ : Nat) :
    SameClock s (hatchResult t i st pay done at_) := ite (h.putHatch _ _) h

theorem ringHatch (i : Nat) (node : Node) : SameClock s (ringHatch t i node) := by
  unfold Machine.ringHatch
  refine ite h (ite (h.putHatch _ _) ?_)
  dsimp only
  split
  · exact ((h.putHatch _ _).putHatch _ _).hatchResult _ _ _ _ _
  · exact (h.putHatch _ _).putHatch _ _

theorem hatchWrite (i : Nat) (node : Node) (off : Nat) (bs : List (BitVec 8)) :
    SameClock s (hatchWrite t i node off bs) := ite h (ite (h.putHatch _ _) (h.putHatch _ _))

theorem writeTail (i : Nat) (v : BitVec 16) : SameClock s (writeTail t i v) := ite ⟨h.now, h.pending⟩ h

theorem writeEvtPtr (i v : Nat) : SameClock s (writeEvtPtr t i v) :=
  have ht := h.writeTail i (BitVec.ofNat 16 (v >>> 16))
  ite ⟨ht.now, ht.pending⟩ ht

theorem perfWrite (off v : Nat) : SameClock s (perfWrite t off v) :=
  have hx (x : Perf) : SameClock s { t with perf := x } := ⟨h.now, h.pending⟩
  ite (hx _) (ite (hx _) (ite (ite (hx _) (hx _)) (ite (hx _) (ite (hx _) h))))

theorem cwWrite (node : Node) (off v : Nat) : SameClock s (cwWrite t node off v) := by
  unfold Machine.cwWrite
  refine ite ?idBoot (ite (h.spdmCtlWrite _ _) (ite (ite (h.ringHatch _ _) h) (ite ?evtCfg (ite (h.writeEvtPtr _ _)
    (ite ?summary (ite (h.writeFaultAck _) (ite ?status (ite ?warn (ite (h.perfWrite _ _) h)))))))))
  all_goals exact ⟨h.now, h.pending⟩

theorem moffWrite (node : Node) (a : Nat) (bs : List (BitVec 8)) : SameClock s (moffWrite t node a bs) :=
  ite (foldl (fun u _ => (refl u).cwWrite _ _ _) h _)
    (ite (ite h ⟨h.now, h.pending⟩) (ite (h.hatchWrite _ _ _ _) h))

theorem mgmtServe (ing : Nat) (m : Msg) : SameClock s (mgmtServe t ing m) :=
  have ht := h.moffTouch (hSrc m.h0) (hMoff m.h0)
  ite (ht.mgmtAnswer _ _ _ _) ((ht.moffWrite _ _ _).mgmtAnswer _ _ _ _)

theorem mgmtRefuse (ing : Nat) (m : Msg) (status : Nat) : SameClock s (mgmtRefuse t ing m status) := by
  refine answerNoCtx ?_ ing m status 0
  exact ⟨h.now, h.pending⟩

theorem mgmtAccept (ing : Nat) (m : Msg) : SameClock s (mgmtAccept t ing m) := by
  unfold Machine.mgmtAccept
  have hl := h.leaveIngress ing m
  refine ite (hl.mgmtRefuse _ _ _) (ite (hl.mgmtRefuse _ _ _) ?_)
  split
  · exact (hl.violation _ _ _ _ _ _ _ _).mgmtRefuse _ _ _
  · exact hl.mgmtServe _ _

theorem admitMgmt : SameClock s (admitMgmt t) := by
  unfold Machine.admitMgmt
  split
  · refine mgmtAccept ?_ _ _
    exact ⟨h.now, h.pending⟩
  · exact h

/-! ## Descriptors -/

theorem bulkRefuse (ing : Nat) (m : Msg) (status : Nat) : SameClock s (bulkRefuse t ing m status) := by
  unfold Machine.bulkRefuse
  extract_lets _ u a
  have hu : SameClock s u := ⟨h.now, h.pending⟩
  have hsent := (hu.sampReady (hSrc m.h0) (hTag m.h0) false).sendTo (hSrc m.h0)
    { outMsg a 0 [] none true false with ing := some ing }
  exact ite hu (ite hsent (hsent.retHdr _ _ _))

theorem acceptBulk (ing : Nat) (m : Msg) (src : Node) : SameClock s (acceptBulk t ing m src) := by
  unfold Machine.acceptBulk
  refine ite (h.bulkRefuse _ _ _) (ite (h.bulkRefuse _ _ _) ?_)
  split
  · refine ite (h.bulkRefuse _ _ _) ?_
    split
    · exact (h.violation _ _ _ _ _ _ _ _).bulkRefuse _ _ _
    · exact ⟨h.now, h.pending⟩
  · refine bulkRefuse (c0 ?_ _ _ _ _) _ _ _
    exact ⟨h.now, h.pending⟩

theorem admitExt : SameClock s (admitExt t) := by
  unfold Machine.admitExt
  split
  · refine acceptBulk ?_ _ _ _
    exact ⟨h.now, h.pending⟩
  · exact h

theorem admitIngress : SameClock s (admitIngress t) :=
  foldl (fun u _ => (refl u).admitExt) (foldl (fun u _ => (refl u).admitMgmt) h _) _

/-! ## The regulator and the counters -/

theorem satObserve (ing : Nat) : SameClock s (satObserve t ing) := by
  refine ite ?_ ⟨h.now, h.pending⟩
  split
  · exact h
  · exact ⟨h.now, h.pending⟩

theorem backlogObserve : SameClock s (backlogObserve t) := ⟨h.now, h.pending⟩

theorem regTick : SameClock s (regTick t) :=
  (foldl (fun u ing => (refl u).satObserve ing) h _).backlogObserve

theorem regAdvance : SameClock s (regAdvance t) := ite h ⟨h.now, h.pending⟩

theorem regRescale : SameClock s (regRescale t) := by
  unfold Machine.regRescale
  refine ite h (c0 ?_ _ _ _ _)
  exact ⟨h.regAdvance.now, h.regAdvance.pending⟩

theorem unitsTick : SameClock s (unitsTick t) := by
  unfold Machine.unitsTick
  exact ite h.regTick h.regTick.regRescale

theorem addCnt (k n : Nat) : SameClock s (addCnt t k n).1 := by
  unfold Machine.addCnt
  dsimp only
  split
  · exact ⟨h.now, h.pending⟩
  · exact ite ⟨h.now, h.pending⟩ ⟨h.now, h.pending⟩

theorem countPair (l : List (Nat × Nat × Nat × Nat)) (m : Nat) : SameClock s (countPair l t m) :=
  ite h ((h.addCnt _ _).addCnt _ _)

theorem perfFlush : SameClock s (perfFlush t) := by
  refine ite h (foldl (fun u m => (refl u).countPair _ m) ?_ _)
  exact ⟨h.now, h.pending⟩

theorem putSel (k : Nat) (v : BitVec 16) : SameClock s (putSel t k v) := ⟨h.now, h.pending⟩

theorem perfChanges : SameClock s (perfChanges t) := by
  unfold Machine.perfChanges
  extract_lets _ u v
  have hu : SameClock s u := ite ⟨h.now, h.pending⟩ h
  have hv : SameClock s v := foldl (fun a (x : Nat × BitVec 16) => (refl a).putSel x.1 x.2) hu _
  exact ⟨hv.now, hv.pending⟩

theorem perfTick : SameClock s (perfTick t) := by
  unfold Machine.perfTick
  refine perfChanges (perfFlush ?_)
  exact ⟨h.now, h.pending⟩

theorem darkFall (p : Nat) : SameClock s (darkFall t p) := by
  unfold Machine.darkFall
  split
  · exact ite (h.modPort _ _) h
  · exact h

end

end SameClock

/-! ## The tick -/

/-- A tick passes: the clock goes on by one and the queue is as it was. -/
theorem sameClock_tick (s : State) : SameClock { s with now := s.now + 1 } (tick s) := by
  unfold tick
  extract_lets a b c d
  have ha : SameClock s a := .ite (SameClock.refl s).admitIngress (.refl s)
  have hb : SameClock s b := .ite ha.unitsTick ha
  have hc : SameClock s c := .ite hb.perfTick hb
  have hd : SameClock { s with now := s.now + 1 } d := ⟨congrArg (· + 1) hc.now, hc.pending⟩
  exact .ite (.foldl (fun u p => (SameClock.refl u).darkFall p) hd _) hd

/-- Settles O1: a command at the front runs; on an empty queue a tick passes, by `sameClock_tick`. -/
theorem stepRunsTheFrontCommand : Obligations.StepRunsTheFrontCommand := by
  unfold Obligations.StepRunsTheFrontCommand
  refine ⟨fun c rest s => step_front { s with pending := c :: rest } c rest rfl, fun s hs => ?_⟩
  have ht := sameClock_tick s
  exact ⟨tick s, by rw [step, hs], ht.now, ht.pending.trans hs⟩

end Sys2Proof.Machine

/-! # Every command completes (01 R25; log entry 2) -/

namespace Sys2Proof.Machine

/-- The outcome `o` of a command is a next state, and the state itself where an operand is outside its range. -/
def Completes (i : Instr) (s : State) (o : Host.Outcome State Fault Refusal) : Prop :=
  (∃ t, o = .next t) ∧ (i.wf = false → o = .next s)

/-- A command none of whose operands can be ill-formed has only to answer. -/
theorem completes_of_wf {i : Instr} {s : State} {o : Host.Outcome State Fault Refusal} (hw : i.wf = true)
    (ho : ∃ t, o = .next t) : Completes i s o :=
  ⟨ho, fun h => absurd hw (Bool.eq_false_iff.mp h)⟩

/-- A command whose operands are checked first runs `o` only where they are well-formed. -/
theorem completes_of_guard {i : Instr} {s : State} {c : Prop} [Decidable c] {o : Host.Outcome State Fault Refusal}
    (hc : c → i.wf = true) (ho : ∃ t, o = .next t) : Completes i s (if c then o else .next s) := by
  by_cases h : c
  · rw [if_pos h]
    exact completes_of_wf (hc h) ho
  · rw [if_neg h]
    exact ⟨⟨s, rfl⟩, fun _ => rfl⟩

theorem exists_next (t : State) : ∃ u, (.next t : Host.Outcome State Fault Refusal) = .next u := ⟨t, rfl⟩

theorem execFuseWordBurned_next (word : BitVec 32) (s : State) : ∃ t, execFuseWordBurned word s = .next t := by
  unfold execFuseWordBurned
  split
  · exact exists_next _
  · exact whenLive_next s _

/-- Every command completes: the split is by what a command's operands are checked for and by when it acts. -/
theorem completes (i : Instr) (s : State) : Completes i s (exec i s) := by
  cases i with
  -- no operand is checked; the stack acts, or hears its ports, or is always heard
  | vddCoreOutOfRange | paceWarnWrite | routeRevert | regulatorRelease | requestAccept | evictionQueueFree
    | snoopSectorAdmit | snoopTimeout | gackTimeout | wrbackWaitTimeout | contextQuarantineEnd | writeDataComplete
    | dataTimeout | snoopReservePlace | bulkAccessCheckComplete | rangeScanComplete | trowelStepAccept
    | trowelOpComplete | scrubRead | holdSaturated | dfWrite | faultAck | fwWaitExpiry | spdmGo | spdmRelease
    | testDeferLimit | testCopyInComplete | testRestoreComplete | perfOvfClear | twTransactionComplete | twAckPoll
    | voltageRequest | outOfRangeClear | minClear | lowSamplesReset | wpHostClockTimeout
    | wpCreditShortfallTimeout | wpParkTimer | mapSwitch | ucOscFault | ucResetHold | ucResetOscStable
    | ucResetSlicesReturn | trowelOpStart | storeroomSave | scrubAutoStart | regulationWindowEnd | accessSwitch
    | faultAckC1All | faultAckC2All | logOverflowClear | lostReset | orderlyStopWriteback | thermalResume
    | bondWearSave | referenceLost | referenceRelock | calRecordWrite | pllLock | identityKeyReady
    | larderWatchdog | fwLoadTimeout | retainingReset | retainingResetTe | retainingResetRelease | spdmIdleTimeout
    | getVersion | getCapabilities | negotiateAlgorithms | getDigests | getCertificate | challenge
    | getMeasurements | testConditionsHeld | perfClearAll | sampleTrigger | twTransactionStart | twPollTimeout
    | twStretchTimeout | twBusStuck | twBusUnstuck | twBusConflict | twIdleWaitEnd | readVoutPoll | twAlert
    | retainingResetWriteback | twIdleWaitTimeout | larderWatchdogSignal =>
    unfold exec
    exact completes_of_wf rfl (whenLive_next s _)
  | wpFlitReceive | wpNakRepeat | wpNakLimit | wpInitDoneReceived | wpIdleEnter | wpIdleWake | wpParkReqReceived
    | wpParkAckReceived | wpParkNakReceived | wpParkWake | wpReinitReceived =>
    unfold exec
    exact completes_of_wf rfl (whenWired_next s _)
  | powerOn | wpFlitSend | fullStackReset | powerRemoved | stackRstNRising | trstNAsserted =>
    unfold exec
    exact completes_of_wf rfl (exists_next _)
  -- the operands are checked first
  | paceSample | wpTrainingPhaseEnd | forwardHoldTimeout | allotReserve | tagWalk | hintSweepRead
    | ucSliceTimeout | blockCaSlot | dramReadData | actEchoReceived | bankIdleTimeout | refreshDue
    | blockDrainComplete | blockPlacementOpen | rowCheckReadComplete | rowOpComplete | primerClonesComplete
    | primerComplete | errorHistoryExpire | tsvSubstitution | rowRepair | columnRepair | migrationStart
    | migrationRowCopy | migrationSwitch | evtPush | throttleStepDown | throttleStepUp | tdcMeasure
    | sensorScaleMeasure | walkStart | walkTake | walkGive | walkLate | bootHalt | startupBistComplete
    | imageLoadComplete | coldCalibrationComplete | hatchBufferWrite | hatchRing | hatchAnswer | idGet | idPubkey
    | idCert | idMeasure | cfgGet | cfgSet | tblWrite | tblRead | routeCommit | regCommit | accWrite | accRead
    | accCommit | accStatus | accLog | accLogClear | scrubStart | scrubStatus | retire | storeroom | regionReset
    | regionResetAdmissionsOpen | ucReset | faultLog | faultInjection | thermStatus | wearRead | powerStatus
    | vaultStatus | fuseProgram | fuseCommit | fuseLock | fuseRemap | fuseRead | imageBegin | imageWrite
    | imageCommit | imageStatus | imageRead | wpStatus | fpLanes | laneTest | ucStatus | blockStatus
    | trowelStatus | calStatus | regStatus | testStart | testResult | testUnitGrant | testMarchStep | perfSelWrite
    | perfCntWrite | perfCounterWrap | sampleSet | sampleStatus | traceClear | evtTailWrite | evtDropClear
    | registerWrite | boardSensorAccess | progressStarvation | fwBegin | fwData | fwEnd | fwActivate | fwStatus
    | wrColumnEcho | larderAreaAccess | internalBulkOp =>
    unfold exec
    exact completes_of_guard (by simp [Instr.wf, Instr.checks]) (whenLive_next s _)
  | wpWireFailed | wpSubstReqReceived | wpSubstAckReceived | wpSpareTakeover | wpClockLoss | wpClockLossTimeout
    | laneSyncSymbolReceived | laneStatusWordReceived | laneMarkerReceived | laneQualificationLost
    | laneRequalifyTimeout | laneDegraded | bringupStepTimer | bringupRestoreTimer | bringupTimer | fpQuietEnter
    | fpDarkEnter | fpQuietExit | fpDarkExit | fpEnergyWake | fpWakeQualifyTimeout | fpFlitReceive
    | fpBadFlitLimit | fpNakRepeat | fpNakLimit | fpInitReceived | fpInitTimeout | fpReinitReceived
    | fpNodeDownReceived | fpSubstReqReceived | fpSubstMarkersSend | fpSubstTimeout | rdShared | rdOwn | claim
    | rdCur | rdLong | evictClean | wr | wrLong | wrback | atomic | bulkOp | snpRsp | snpRspd | gack | mgRd | mgWr
    | thermalSample | laneTestComplete | railOutOfRange | railRestored =>
    unfold exec
    exact completes_of_guard (by simp [Instr.wf, Instr.checks]) (whenWired_next s _)
  | fpFlitSend | scanEntry | testPortInstruction =>
    unfold exec
    exact completes_of_guard (by simp [Instr.wf, Instr.checks]) (exists_next _)
  -- a chip halt decides
  | haltResponderRequest =>
    unfold exec
    exact completes_of_guard (fun _ => rfl) (exists_next _)
  | fuseWordBurned =>
    unfold exec
    exact completes_of_wf rfl (execFuseWordBurned_next _ s)

/-- Settles O40, by the split of `completes`. -/
theorem everyCommandCompletes : Obligations.EveryCommandCompletes := fun i s => completes i s

end Sys2Proof.Machine

/-! # The state at reset (02 R70; 11 R328; 12 R360; 17 R473) -/

namespace Sys2Proof.Machine

theorem evtInit_cfg_of_pos {t : Nat} (h : 0 < t) : (evtInit t).cfg = 0 := by
  rw [evtInit, if_neg h.ne']

/-- Settles O43: the values are read off the state; the memories are `reset_memoriesWf`, the event targets `evtInit`. -/
theorem resetState : Obligations.ResetState := by
  unfold Obligations.ResetState
  exact ⟨rfl, rfl, rfl, rfl, fun _ _ => rfl, rfl, reset_memoriesWf, rfl, rfl, rfl, rfl, rfl,
    fun _ _ h0 => evtInit_cfg_of_pos h0, fun _ _ => ⟨rfl, rfl⟩, rfl, rfl, rfl⟩

end Sys2Proof.Machine

/-! # Records of fields, little-endian (00 R9)

A status record is its fields in order.  A field is read back where it stands, modulo its width. -/

namespace Sys2Proof

theorem leAt_append_left {l m : List (BitVec 8)} {i n : Nat} (h : i + n ≤ l.length) : leAt (l ++ m) i n = leAt l i n := by
  have hd : (l ++ m).drop i = l.drop i ++ m := List.drop_append_of_le_length (by omega)
  rw [leAt, hd, List.take_append_of_le_length (by rw [List.length_drop]; omega), leAt]

theorem leAt_append_right {l m : List (BitVec 8)} {i n : Nat} (h : l.length ≤ i) :
    leAt (l ++ m) i n = leAt m (i - l.length) n := by
  rw [leAt, List.drop_append, List.drop_eq_nil_of_le h, List.nil_append, leAt]

theorem leAt_leBytes (v n : Nat) : leAt (leBytes v n) 0 n = v % 256 ^ n := by
  rw [leAt, List.drop_zero, List.take_of_length_le (leBytes_length n v).le, leNat_leBytes]

end Sys2Proof

/-! # The status commands (02 R71; 06 R214; 07 R244; 08 R272, R273; 10 R317; 12 R343) -/

namespace Sys2Proof.Machine

/-! ## Fault records -/

theorem recBytes_length (r : FaultRec) : (recBytes r).length = 32 := by
  simp only [recBytes, List.length_append, leBytes_length]

/-- Slot `i` of 32-byte slots holds the `i`-th record. -/
theorem slot_flatMap_recBytes (l : List FaultRec) (t : List (BitVec 8)) {i : Nat} {r : FaultRec} (h : l[i]? = some r) :
    ((l.flatMap recBytes ++ t).drop (32 * i)).take 32 = recBytes r := by
  induction l generalizing i with
  | nil => simp at h
  | cons a l ih =>
    have hlen := recBytes_length a
    cases i with
    | zero =>
      obtain rfl : a = r := by simpa using h
      rw [List.flatMap_cons, List.append_assoc, Nat.mul_zero, List.drop_zero, List.take_left' hlen]
    | succ i =>
      have hi : 32 * (i + 1) = (recBytes a).length + 32 * i := by rw [hlen]; ring
      rw [List.flatMap_cons, List.append_assoc, hi, List.drop_append, List.drop_eq_nil_of_le (by omega), List.nil_append,
        Nat.add_sub_cancel_left]
      exact ih (by simpa using h)

theorem slot_recsBytes (l : List FaultRec) {n i : Nat} {r : FaultRec} (hi : i < n) (h : l[i]? = some r) :
    ((recsBytes l n).drop (32 * i)).take 32 = recBytes r :=
  slot_flatMap_recBytes _ _ (by rw [List.getElem?_take_of_lt hi, h])

/-! ## The commands on a stack that acts -/

section
variable {s : State} {h : Nat} (hl : live s = true) (hh : h < 16)
include hl hh

theorem exec_wpStatus (hr : hatchReady s h 0x0601 0x0601 = true) :
    exec (.wpStatus h) s = .next (ansOk s h (wpRecord s)) :=
  hatchRun_ready _ hh hl hr

theorem exec_trowelStatus (hr : hatchReady s h 0x0606 0x0606 = true) :
    exec (.trowelStatus h) s = .next (ansOk s h (trowelRecord s ++ primerRecord s)) :=
  hatchRun_ready _ hh hl hr

theorem exec_faultLog_chip (hr : hatchReady s h 0x0307 0x0307 = true) (hf : reservedBad s h [(0, 4)] = [])
    (hsel : pl s h 0 1 = 0) :
    exec (.faultLog h) s = .next (ansOk s h (recsBytes (s.faults.log.map LogEnt.r) 64)) := by
  change hatchRun h 0x0307 0x0307 s (fun s => faultLog s h) = _
  rw [hatchRun_ready _ hh hl hr, faultLog, withFields_legal _ hf (by simp [hsel]), if_pos hsel]

theorem exec_faultLog_block (hr : hatchReady s h 0x0307 0x0307 = true) (hf : reservedBad s h [(0, 4)] = [])
    (hsel : pl s h 0 1 = 1) (hlv : pl s h 1 1 = 1) (hel : pl s h 2 2 < 36) :
    exec (.faultLog h) s = .next (ansOk s h (recsBytes (collRecs s .block (pl s h 2 2)) 8)) := by
  have hc : collectors 1 = 36 := rfl
  change hatchRun h 0x0307 0x0307 s (fun s => faultLog s h) = _
  rw [hatchRun_ready _ hh hl hr, faultLog, withFields_legal _ hf (by simp [hsel, hlv, hc, hel]), if_neg (by omega), hlv]
  rfl

theorem exec_ucStatus (hr : hatchReady s h 0x0604 0x0604 = true) (hf : reservedBad s h [(0, 1)] = [])
    (hreg : pl s h 0 1 < nRegions s) : exec (.ucStatus h) s = .next (ansOk s h (ucRecord s (pl s h 0 1))) := by
  change hatchRun h 0x0604 0x0604 s (fun s => ucStatus s h) = _
  rw [hatchRun_ready _ hh hl hr, ucStatus, withFields_legal _ hf (by simp [hreg])]

theorem exec_blockStatus (hr : hatchReady s h 0x0605 0x0605 = true) (hf : reservedBad s h [(0, 1)] = [])
    (hpb : pl s h 0 1 < 36) : exec (.blockStatus h) s = .next (ansOk s h (blockRecord s (pl s h 0 1))) := by
  change hatchRun h 0x0605 0x0605 s (fun s => blockStatus s h) = _
  rw [hatchRun_ready _ hh hl hr, blockStatus, withFields_legal _ hf (by simp; omega)]

theorem exec_regStatus_summary (hr : hatchReady s h 0x0608 0x0608 = true) (hf : reservedBad s h [(0, 2)] = [])
    (hv : pl s h 0 2 < 4096) : exec (.regStatus h) s = .next (ansOk s h (regRecord s)) := by
  change hatchRun h 0x0608 0x0608 s (fun s => regStatus s h) = _
  rw [hatchRun_ready _ hh hl hr, regStatus, withFields_legal _ hf (by simp [Nat.div_eq_of_lt hv]), if_neg (by omega)]

end

/-! ## Their records -/

/-! ## Their records -/

theorem wpRecord_fields (s : State) : (wpRecord s).length = 40 ∧ leAt (wpRecord s) 1 1 = s.wp.link.epoch.toNat ∧
    leAt (wpRecord s) 2 2 = s.wp.allot % 65536 ∧ leAt (wpRecord s) 8 8 = s.wp.crcErr % 2 ^ 64 ∧
    leAt (wpRecord s) 24 8 = s.wp.sparesIn.toNat ∧ leAt (wpRecord s) 32 4 = s.wp.sparesOut.toNat := by
  have hIn : s.wp.sparesIn.toNat < 2 ^ 64 := s.wp.sparesIn.isLt.trans (by decide)
  simpa [wpRecord, leBytes_length, leAt_append_left, leAt_append_right, leAt_leBytes] using
    And.intro s.wp.link.epoch.isLt (And.intro hIn s.wp.sparesOut.isLt)

theorem b2n_le (b : Bool) : b2n b ≤ 1 := by cases b <;> decide

/-- The region stands in bits 0 and 1 of the first byte. -/
theorem ucRecord_fields (s : State) {r : Nat} (hr : r < 4) : (ucRecord s r).length = 32 ∧
    leAt (ucRecord s r) 2 1 = s.cfg.dirSize.toNat ∧ leAt (ucRecord s r) 0 1 % 4 = r ∧
    leAt (ucRecord s r) 28 4 = min (ucReg s r).broadcasts 0xFFFFFFFF := by
  have hRegion : (r + 4 * ucCode s r + 16 * b2n (ucReg s r).sliceLost.isSome) % 4 = r := by omega
  have hDir : s.cfg.dirSize.toNat < 256 := s.cfg.dirSize.isLt.trans (by decide)
  simpa [ucRecord, leBytes_length, leAt_append_left, leAt_append_right, leAt_leBytes] using And.intro hDir hRegion

theorem blockCode_lt (b : BState) : blockCode b < 8 := by cases b <;> decide

/-- The state stands in bits 0 to 2 of the third byte. -/
theorem blockRecord_fields (s : State) {pb : Nat} (hpb : pb < 36) : (blockRecord s pb).length = 48 ∧
    leAt (blockRecord s pb) 0 1 = pb ∧ leAt (blockRecord s pb) 2 1 % 8 = blockCode (blk s pb).st ∧
    leAt (blockRecord s pb) 3 1 = (blkEpoch s pb).toNat ∧ leAt (blockRecord s pb) 16 8 = (blk s pb).rowHits % 2 ^ 64 := by
  have hState : (blockCode (blk s pb).st + 8 * b2n (blk s pb).wmode + 16 * b2n (blk s pb).povf) % 8 =
      blockCode (blk s pb).st := by
    have := blockCode_lt (blk s pb).st
    omega
  have hBlock : pb < 256 := by omega
  simpa [blockRecord, leBytes_length, leAt_append_left, leAt_append_right, leAt_leBytes] using
    And.intro hBlock (And.intro hState (blkEpoch s pb).isLt)

theorem trowelRecord_fields (s : State) : (trowelRecord s).length = 40 ∧
    leAt (trowelRecord s) 1 1 = s.trowel.steps.length % 256 ∧ leAt (trowelRecord s) 8 8 = s.trowel.opsDone % 2 ^ 64 := by
  simp [trowelRecord, leBytes_length, leAt_append_left, leAt_append_right, leAt_leBytes]

theorem primerRecord_fields (s : State) : (primerRecord s).length = 16 ∧
    leAt (primerRecord s) 0 4 = b2n (s.primer.st == .done) := by
  have hDone : b2n (s.primer.st == .done) < 2 ^ 32 := (b2n_le _).trans_lt (by decide)
  simpa [primerRecord, leBytes_length, leAt_append_left, leAt_leBytes] using hDone

theorem regRecord_fields (s : State) : (regRecord s).length = 32 ∧ leAt (regRecord s) 4 2 = s.reg.scale % 65536 ∧
    leAt (regRecord s) 8 4 = s.reg.missed.toNat ∧ leAt (regRecord s) 16 4 = s.reg.commits.toNat := by
  simpa [regRecord, leBytes_length, leAt_append_left, leAt_append_right, leAt_leBytes] using
    And.intro s.reg.missed.isLt s.reg.commits.isLt

theorem nRegions_le (s : State) : nRegions s ≤ 4 := by
  unfold nRegions
  split_ifs <;> omega

/-- Settles O28: each command answers its record, whose fields are read back where they stand. -/
theorem statusRecords : Obligations.StatusRecords := by
  unfold Obligations.StatusRecords
  intro s h hl hh
  refine ⟨fun hr hf hsel => ?chip, fun hr hf hsel hlv hel => ?block, fun hr => ?wp, fun hr hf hreg => ?uc,
    fun hr hf hpb => ?blk, fun hr => ?trowel, fun hr hf hv => ?reg⟩
  case chip =>
    refine ⟨_, exec_faultLog_chip hl hh hr hf hsel, fun i e hi he => slot_recsBytes _ hi ?_⟩
    rw [List.getElem?_map, he, Option.map_some]
  case block => exact ⟨_, exec_faultLog_block hl hh hr hf hsel hlv hel, fun i r hi he => slot_recsBytes _ hi he⟩
  case wp => exact ⟨_, exec_wpStatus hl hh hr, wpRecord_fields s⟩
  case uc => exact ⟨_, exec_ucStatus hl hh hr hf hreg, ucRecord_fields s (hreg.trans_le (nRegions_le s))⟩
  case blk => exact ⟨_, exec_blockStatus hl hh hr hf hpb, blockRecord_fields s hpb⟩
  case trowel =>
    obtain ⟨hLen, hSteps, hOps⟩ := trowelRecord_fields s
    obtain ⟨hLen', hDone⟩ := primerRecord_fields s
    refine ⟨_, exec_trowelStatus hl hh hr, by rw [List.length_append, hLen, hLen'], ?_, ?_, ?_⟩
    · rw [leAt_append_left (by omega), hSteps]
    · rw [leAt_append_left (by omega), hOps]
    · rw [leAt_append_right (by omega), hLen, hDone]
  case reg => exact ⟨_, exec_regStatus_summary hl hh hr hf hv, regRecord_fields s⟩

end Sys2Proof.Machine

/-! # Messages at their port (02 R49, R50; 04 R138, R139, R141; 16 R450) -/

namespace Sys2Proof.Machine

/-! ## The sixteen rows -/

/-- The commands that bring a message to an ingress, each with its opcode. -/
def messageRows (ing : Nat) (m : Msg) : List (Instr × Nat) :=
  [(.rdShared ing m, opRdShared), (.rdOwn ing m, opRdOwn), (.claim ing m, opClaim), (.rdCur ing m, opRdCur),
    (.rdLong ing m, opRdLong), (.evictClean ing m, opEvictClean), (.wr ing m, opWr), (.wrLong ing m, opWrLong),
    (.wrback ing m, opWrback), (.atomic ing m, opAtomic), (.bulkOp ing m, opBulk), (.snpRsp ing m, opSnpRsp),
    (.snpRspd ing m, opSnpRspd), (.gack ing m, opGack), (.mgRd ing m, opMgRd), (.mgWr ing m, opMgWr)]

theorem exec_messageRow (s : State) {ing : Nat} {m : Msg} {c : Instr} {op : Nat} (h : (c, op) ∈ messageRows ing m) :
    exec c s = arrive op ing m s := by
  have hrows : ∀ r ∈ messageRows ing m, exec r.1 s = arrive r.2 ing m s := by
    simp only [messageRows, List.forall_mem_cons]
    exact ⟨rfl, rfl, rfl, rfl, rfl, rfl, rfl, rfl, rfl, rfl, rfl, rfl, rfl, rfl, rfl, rfl, by simp⟩
  exact hrows (c, op) h

/-- A well-formed message at an ingress that takes messages has arrived whole; at a closed one nothing follows. -/
theorem arrive_wired {s : State} {op ing : Nat} {m : Msg} (hing : ing < 5) (hop : hOp m.h0 = op)
    (hdata : m.data.length = dataLines m.h0) (hw : wired s = true) :
    arrive op ing m s = .next (if ingressOpen s ing then arriveWhole s ing m else s) := by
  rw [arrive, if_pos ⟨hing, hop, hdata⟩, whenWired_wired _ hw]

/-! ## What a whole message meets -/

section
variable {s : State} {ing : Nat} {m m1 m2 : Msg}

/-- A fabric port's messages name nodes, not agents. -/
theorem mapAgent_fabric (h : ing ≠ 4) : mapAgent s ing m = some m := if_pos h

/-- Addresses are decoded at the Wide Port alone. -/
theorem decodeIng_fabric (h : ing ≠ 4) : decodeIng s ing m = some m := by simp [decodeIng, h]

theorem arriveWhole_recorded (ha : mapAgent s ing m = some m1) (hp : s.boot.phase = .retHeld) :
    arriveWhole s ing m = recordReq s m1 := by simp [arriveWhole, ha, hp]

theorem arriveWhole_noAgent (hp : s.boot.phase ≠ .retHeld) (ha : mapAgent s ing m = none) :
    arriveWhole s ing m = agentDiscard (leaveIngress s ing m) (hSrc m.h0) := by simp [arriveWhole, ha, hp]

section
variable (hp : s.boot.phase ≠ .retHeld) (hh : s.faults.halted = false) (ha : mapAgent s ing m = some m1)
include hp hh ha

theorem arriveWhole_unmapped (hd : decodeIng s ing m1 = none) :
    arriveWhole s ing m = addrErrIng (retLine s ing (opClass (hOp m1.h0)) m1.data.length) ing m1 := by
  simp [arriveWhole, ha, hp, hh, hd]

theorem arriveWhole_elsewhere (hd : decodeIng s ing m1 = some m2) (hn : hDst m2.h0 ≠ s.fab.stackNode) :
    arriveWhole s ing m = (forward (leaveIngress s ing m2) ing m2 m2.data.length).1 := by
  simp [arriveWhole, ha, hp, hh, hd, hn]

theorem arriveWhole_here (hd : decodeIng s ing m1 = some m2) (hn : hDst m2.h0 = s.fab.stackNode) :
    arriveWhole s ing m = serve s ing m2 := by
  simp [arriveWhole, ha, hp, hh, hd, hn]

end

end

/-- Settles O48: every row is `arrive` of its opcode, and a whole message meets the agents, the decode and the route in
this order. -/
theorem messagesAtTheirPort : Obligations.MessagesAtTheirPort := by
  unfold Obligations.MessagesAtTheirPort
  intro s ing m c op hc hing hop hdata hw
  have hrun := (exec_messageRow s hc).trans (arrive_wired hing hop hdata hw)
  have hopen (ho : ingressOpen s ing = true) : exec c s = .next (arriveWhole s ing m) := by rw [hrun, if_pos ho]
  refine ⟨fun ho => ?closed, fun ho hh hp => ⟨fun ha => ?noAgent, fun m1 ha hd => ?unmapped,
    fun m1 m2 ha hd hn => ?elsewhere, fun m1 m2 ha hd hn => ?here⟩,
    fun hi => ⟨mapAgent_fabric hi, decodeIng_fabric hi⟩, fun ho hp hi => ?recorded⟩
  case closed => rw [hrun, if_neg (Bool.eq_false_iff.mp ho)]
  case noAgent => rw [hopen ho, arriveWhole_noAgent hp ha]
  case unmapped => rw [hopen ho, arriveWhole_unmapped hp hh ha hd]
  case elsewhere => rw [hopen ho, arriveWhole_elsewhere hp hh ha hd hn]
  case here => rw [hopen ho, arriveWhole_here hp hh ha hd hn]
  case recorded => rw [hopen ho, arriveWhole_recorded (mapAgent_fabric hi) hp]

end Sys2Proof.Machine

/-! # What settles on a stack at rest -/

namespace Sys2Proof.Machine

/-- Nothing is under way that a round would advance: no context, chain, block in use, victim, ring wanted, step, scan or
operation. -/
structure AtRest (s : State) : Prop where
  ctxs : s.tx.ctxs = []
  chain : s.tx.chain = []
  blocks : s.blocks = []
  victims : s.uc.victims = []
  rings : ∀ r, (ucReg s r).ringWait = []
  steps : s.trowel.steps = []
  scans : s.trowel.scans = []
  ops : s.trowel.ops = []

namespace AtRest

variable {s : State} (h : AtRest s)
include h

theorem busyBatches : busyBatches (pruneMirrors s) = s := by
  simp [Machine.busyBatches, pruneMirrors, h.blocks, h.victims]

theorem placeReads : placeReads s = s :=
  List.foldl_fixed' (fun _ => by simp [waitReads, h.ctxs, placeInOrder]) _

theorem advanceChains : advanceChains s = s := by
  simp [Machine.advanceChains, chainHeads, h.chain]

theorem giveRings : giveRings s = s :=
  List.foldl_fixed' (fun r => by simp [h.rings r]) _

theorem presentSteps : presentSteps (finishSteps (s.trowel.steps.foldl feedStep s)) = s := by
  simp [Machine.presentSteps, finishSteps, h.steps, h.ops]

theorem settleRound : settleRound s = s := by
  rw [Machine.settleRound]
  simp only [h.busyBatches, h.placeReads, h.blocks, h.advanceChains, h.scans, h.giveRings, h.presentSteps, h.ctxs,
    List.map_nil, List.foldl_nil]

theorem settleN (n : Nat) : settleN n s = s := by
  induction n with
  | zero => rfl
  | succ n ih => rw [Machine.settleN, h.settleRound, ih]

theorem settle : settle s = s := by
  rw [Machine.settle, h.settleN, ite_self]

end AtRest

end Sys2Proof.Machine

/-! # A snoop that is to be sent again (02 R69; 05 R177) -/

namespace Sys2Proof.Machine

/-- While its one snoop is to be sent again, no snoop of the stack times out. -/
theorem exec_snoopTimeout_again {s : State} (hl : live s = true) {n : Snoop} (hs : s.tx.snoops = [n]) (ha : n.again = true)
    (i : Nat) (node : Node) : exec (.snoopTimeout i node) s = .next s := by
  change execSnoopTimeout i node s = _
  rw [execSnoopTimeout, whenLive_live _ hl]
  simp [lateSnoop, hs, ha]

/-- A snoop that an initialisation has called back, to be placed again: its SNOOP_TIMEOUT has not restarted. -/
def calledBackSnoop : Snoop :=
  { ctx := 0, region := 0, sector := 0, node := 0, inv := false, backInv := false, lmask := 0, owner := false, sent := some 0,
    answered := false, wbp := 0, wbpSince := 0, again := true }

/-- A released stack at 1 s whose one snoop, sent at 0, is to be sent again. -/
def calledBackState : State :=
  { State.reset with now := 1000000000, boot := { phase := .released }, tx := { snoops := [calledBackSnoop] } }

theorem atRest_resolveSnoop_calledBack : AtRest (resolveSnoop calledBackState calledBackSnoop) :=
  ⟨rfl, rfl, rfl, rfl, fun _ => rfl, rfl, rfl, rfl⟩

/-- Refutes O51: its clause of SNOOP_TIMEOUT leaves out that a snoop which is to be sent again after an initialisation does
not time out until it is placed again.  `calledBackState` is left as it is, its snoop unanswered; a snoop that is resolved
is answered. -/
theorem not_dataSnoopsAndTimeouts : ¬ Obligations.DataSnoopsAndTimeouts := by
  unfold Obligations.DataSnoopsAndTimeouts
  intro h
  have hl : live calledBackState = true := by decide
  obtain ⟨_, _, _, _, _, _, _, _, hTimeout, _⟩ := h calledBackState hl
  have hResolved := (hTimeout calledBackSnoop 0 rfl rfl rfl).1 (by decide)
  rw [exec_snoopTimeout_again hl rfl rfl, atRest_resolveSnoop_calledBack.settle] at hResolved
  have hAnswered : (resolveSnoop calledBackState calledBackSnoop).tx.snoops.map Snoop.answered = [true] := rfl
  rw [← Host.Outcome.next.inj hResolved] at hAnswered
  exact absurd hAnswered (by decide)

end Sys2Proof.Machine

/-! # The Wide Port (02 R54 to R69) -/

namespace Sys2Proof.Machine

/-! ## When the port serves, and when a clock is absent -/

theorem wpServes_active {s : State} (h : s.wp.st = .active) : wpServes s = true := by simp [wpServes, h]

theorem wpServes_init {s : State} (h : s.wp.st = .init) : wpServes s = true := by simp [wpServes, h]

theorem clockBad_nil {s : State} (h : s.wp.clockLost = []) : clockBad s = false := by simp [clockBad, h]

theorem clockBad_of_absent {s : State} {g t : Nat} (h : (g, t) ∈ s.wp.clockLost) (ht : t + 32 ≤ s.now) :
    clockBad s = true :=
  List.any_eq_true.mpr ⟨(g, t), h, decide_eq_true ht⟩

/-- A port in training serves nothing. -/
theorem not_training_of_wpServes {s : State} (hs : wpServes s = true) : s.wp.st ≠ .training := by
  intro h
  simp [wpServes, h] at hs

/-! ## Flits received (R57, R58, R63) -/

section
variable {s : State} (f : WFlit) (hp : s.boot.phase ≠ .retHeld)
include hp

theorem wpReceive_off (h : s.wp.st = .off ∨ s.wp.st = .failed) : wpReceive s f = s := by
  obtain h | h := h <;> simp [wpReceive, wpServes, hp, h]

theorem wpReceive_training (h : s.wp.st = .training) :
    wpReceive s f = if s.wp.phase = .train then modWp s (trainReceived f) else s := by
  simp [wpReceive, hp, h]

section
variable (hs : wpServes s = true)
include hs

/-- While a group clock is absent, and where a half fails its CRC, a flit is bad. -/
theorem wpReceive_bad (hb : clockBad s = true ∨ wpParse f = none) : wpReceive s f = badFlit s f := by
  have ht := not_training_of_wpServes hs
  obtain hb | hb := hb <;> simp [wpReceive, hp, hs, ht, hb]

theorem wpReceive_good (hc : clockBad s = false) {x : AFlit} (hx : wpParse f = some x) :
    wpReceive s f = goodFlit s f x := by
  have ht := not_training_of_wpServes hs
  simp [wpReceive, hp, hs, ht, hc, hx]

end

end

theorem goodFlit_oldEpoch {s : State} (f : WFlit) {x : AFlit} (h : x.epoch ≠ (liveEpoch s.wp.link).toNat) :
    goodFlit s f x = s := by rw [goodFlit, if_pos h]

/-! ## NAKs and re-initialisation (R56, R58, R69) -/

section
variable {s : State}

theorem repeatNak_due (ha : s.wp.link.awaiting = true) (hn : s.wp.link.nakDue = false) (h : 128 ≤ s.wp.link.nakFlits) :
    repeatNak s 4 = { s with wp := { s.wp with
      link := { s.wp.link with nakDue := true, nakFlits := 0 }, replayNo := s.wp.replayNo + 1 } } := by
  simp [repeatNak, linkOf, putLink, modWp, lNak, ha, hn, h]

theorem repeatNak_idle (ha : s.wp.link.awaiting = false) : repeatNak s 4 = s := by simp [repeatNak, linkOf, ha]

theorem wpReinit_active (h : s.wp.st = .active) :
    wpReinit s = resendSnoops (resolveEpoch (modWp (requeueCut (chipFault s .c1 0 0x0205 0) 4) (fun _ =>
      { wideInit (requeueCut (chipFault s .c1 0 0x0205 0) 4) 64 with st := .init })) 4) 4 := by
  simp [wpReinit, wpServes_active h]

/-! ## Flits sent (R43, R54, R62, R67, R68) -/

theorem wpSend_off (h : s.wp.st = .off ∨ s.wp.st = .failed) : wpSend s = s := by
  obtain h | h := h <;> simp [wpSend, h]

theorem wpSend_training (h : s.wp.st = .training) : wpSend s = modWp s sendTraining := by simp [wpSend, h]

theorem wpSend_parked (h : s.wp.st = .parked) : wpSend s = if s.wp.parkLeft = 0 then s
    else driveNext (modWp s (fun w => { w with parkLeft := w.parkLeft - 1 })) := by simp [wpSend, h]

theorem wpSend_active (h : s.wp.st = .active) (hp : s.boot.phase ≠ .retHeld) (hw : s.wp.wakeAt = none) :
    wpSend s = if s.wp.idleOut then s else driveNext s := by simp [wpSend, h, hp, hw]

/-! ## Idle-clocked and Parked (R67, R68) -/

theorem wpIdleEnter_due (h : s.wp.st = .active) (he : s.fab.idleEn = true) (ho : s.wp.idleOut = false)
    (hb : linkBusy s.wp.link = false) (hw : waited s s.wp.lastTx s.fab.idleTimer.toNat = true) :
    wpIdleEnter s = modWp (driveCtl s wpIdle) (fun w => { w with idleOut := true }) := by
  simp [wpIdleEnter, h, he, ho, hb, hw]

theorem wpIdleEnter_busy (hb : linkBusy s.wp.link = true) : wpIdleEnter s = s := by simp [wpIdleEnter, hb]

theorem wpIdleWake_due (h : s.wp.st = .active) (ho : s.wp.idleOut = true) (hw : s.wp.wakeAt = none)
    (hb : linkBusy s.wp.link = true) : wpIdleWake s = modWp s (fun w => { w with wakeAt := some (s.now + 36) }) := by
  simp [wpIdleWake, h, ho, hw, hb]

theorem wpIdleWake_clocked (ho : s.wp.idleOut = false) : wpIdleWake s = s := by simp [wpIdleWake, ho]

theorem parkReq_active (h : s.wp.st = .active) : parkReq s =
    if s.fab.parkPolicy ≠ 2 ∧ wpDrained s = true then enterParked (pushCtl s wpParkAck []) 65
    else pushCtl s wpParkNak [] := by simp [parkReq, h]

theorem parkReq_other (h : s.wp.st ≠ .active) : parkReq s = s := by simp [parkReq, h]

theorem parkAck_asked (h : s.wp.st = .active) (ha : s.wp.parkAsked = true) : parkAck s = enterParked s 64 := by
  simp [parkAck, h, ha]

theorem parkAck_unasked (ha : s.wp.parkAsked = false) : parkAck s = s := by simp [parkAck, ha]

theorem parkNak_asked (ha : s.wp.parkAsked = true) :
    parkNak s = modWp s (fun w => { w with parkAsked := false, lastTraffic := s.now }) := if_pos ha

theorem parkNak_unasked (ha : s.wp.parkAsked = false) : parkNak s = s := if_neg (Bool.eq_false_iff.mp ha)

theorem parkTimer_due (h : s.wp.st = .active) (hp : s.fab.parkPolicy = 1) (ha : s.wp.parkAsked = false)
    (hd : wpDrained s = true) (hw : waited s s.wp.lastTraffic (us s.fab.parkTimer.toNat) = true) :
    parkTimer s = modWp (pushCtl s wpParkReq []) (fun w => { w with parkAsked := true }) := by
  simp [parkTimer, h, hp, ha, hd, hw]

theorem parkTimer_policy (hp : s.fab.parkPolicy ≠ 1) : parkTimer s = s := by
  have hn : ¬s.fab.parkPolicy = 1#2 := hp
  simp [parkTimer, hn]

theorem parkWake_parked (h : s.wp.st = .parked) :
    parkWake s = modWp s (fun _ => { wideInit s 0 with st := .init, wakeAt := some (s.now + 1200) }) := by
  simp [parkWake, h]

theorem parkWake_other (h : s.wp.st ≠ .parked) : parkWake s = s := by simp [parkWake, h]

/-! ## Link initialisation (R53, R54) -/

theorem initDone_init (h : s.wp.st = .init) : initDone s =
    wpTryActive (modWp s (fun w => { w with link := { w.link with initRcvd := true, initRcvdAt := s.now } })) := by
  simp [initDone, h]

theorem initDone_other (hi : s.wp.st ≠ .init) (hh : s.wp.st ≠ .halted) : initDone s = s := by simp [initDone, hi, hh]

theorem creditShort_due (h : s.wp.st = .init) (hr : s.wp.link.initRcvd = true) (hm : minimaMet s.wp.link.adv = false)
    (hq : s.wp.link.shortRaised = false) (he : expired s s.wp.link.initRcvdAt (us 100) = true) :
    creditShort s = c0 (modWp s (fun w => { w with link := { w.link with shortRaised := true } })) 0 0x0203 0 0 := by
  simp [creditShort, h, hr, hm, hq, he]

theorem creditShort_none (h : s.wp.st ≠ .init ∨ s.wp.link.shortRaised = true) : creditShort s = s := by
  obtain h | h := h <;> simp [creditShort, h]

/-! ## Failed wires and lost clocks (R57, R65, R66) -/

theorem wpFail_serving (h : s.wp.st = .active ∨ s.wp.st = .init) (hd : s.wp.dead = false) :
    wpFail s = wpOut (chipFault s .c1 0 0x0206 0) := by
  obtain h | h := h <;> simp [wpFail, h, hd]

/-- Three charges of different replays within 1 ms are what fails a wire. -/
theorem wireCharged_three {wire t1 t2 t3 r1 r2 r3 : Nat}
    (hc : s.wp.charges = [(wire, t1, r1), (wire, t2, r2), (wire, t3, r3)]) (h12 : r1 ≠ r2) (h13 : r1 ≠ r3) (h23 : r2 ≠ r3)
    (h1 : s.now ≤ t1 + ms 1) (h2 : s.now ≤ t2 + ms 1) (h3 : s.now ≤ t3 + ms 1) : wireCharged s wire = true := by
  have hd : [r1, r2, r3].eraseDups = [r1, r2, r3] := by
    simp [List.eraseDups_cons, h12.symm, h13.symm, h23.symm]
  simp [wireCharged, hc, h1, h2, h3, hd]

theorem freeSpare_none {g : Nat}
    (h : ∀ k < 4, s.wp.badSpares.getLsbD (4 * g + k) = true ∨ s.wp.sparesIn.getLsbD (4 * g + k) = true) :
    freeSpare s g = none := by
  refine List.find?_eq_none.mpr fun k hk => ?_
  obtain hb | hb := h k (List.mem_range.mp hk) <;> simp [spareBit, hb]

/-- No substitution of the wire is under way. -/
theorem subst_unasked {g t : Nat} (hs : ∀ x ∈ s.wp.subst, ¬(x.group = g ∧ x.target = t)) :
    ¬s.wp.subst.any (fun x => x.group = g && x.target = t) = true := by
  simpa using hs

theorem wireFailed_noSpare {g t : Nat} (hs : ∀ x ∈ s.wp.subst, ¬(x.group = g ∧ x.target = t))
    (hf : freeSpare s g = none) : wireFailed s g t = wpFail s := by
  rw [wireFailed, if_neg (subst_unasked hs), hf]

theorem wireFailed_spare {g t k : Nat} (hs : ∀ x ∈ s.wp.subst, ¬(x.group = g ∧ x.target = t))
    (hf : freeSpare s g = some k) : wireFailed s g t = pushCtl (modWp s (fun w => { w with
      subst := w.subst ++ [{ group := g, target := t, spare := k, atSeq := none }],
      charges := w.charges.filter (fun c => c.1 ≠ targetWire g t) }))
      wpSubstReq [BitVec.ofNat 128 (g + t * 256 + k * 65536)] := by
  rw [wireFailed, if_neg (subst_unasked hs), hf]

theorem clockDead_expired {g t : Nat} (h : (g, t) ∈ s.wp.clockLost) (he : expired s t (us 100) = true) :
    clockDead s g = wpFail s :=
  if_pos (List.any_eq_true.mpr ⟨(g, t), h, by simp [he]⟩)

theorem clockDead_early {g : Nat} (h : ∀ t, (g, t) ∈ s.wp.clockLost → expired s t (us 100) = false) :
    clockDead s g = s := by
  refine if_neg fun ha => ?_
  obtain ⟨⟨g', t⟩, hm, ht⟩ := List.any_eq_true.mp ha
  obtain ⟨rfl, he⟩ : g' = g ∧ expired s t (us 100) = true := by simpa using ht
  rw [h t hm] at he
  contradiction

theorem clockLoss_lost {g : Nat} (h : ∀ c ∈ s.wp.clockLost, c.1 ≠ g) :
    clockLoss s g true = modWp s (fun w => { w with clockLost := w.clockLost ++ [(g, s.now)] }) := by
  have hr : s.wp.clockLost.filter (fun c => c.1 ≠ g) = s.wp.clockLost :=
    List.filter_eq_self.mpr fun c hc => decide_eq_true (h c hc)
  have ht : s.wp.clockLost.filter (fun c => c.1 = g) = [] :=
    List.filter_eq_nil_iff.mpr fun c hc => by simpa using h c hc
  simp only [clockLoss, hr, ht, modWp]
  rfl

theorem clockLoss_back (g : Nat) : clockLoss s g false =
    modWp s (fun w => { w with clockLost := w.clockLost.filter (fun c => c.1 ≠ g) }) := rfl

/-! ## Substitutions (R65) -/

theorem substReq_serving (h : wpServes s = true) (hn : s.wp.substOut = []) (g t k : Nat) :
    substReq s g t k = pushCtl (modWp s (fun w => { w with
      substOut := [{ group := g, target := t, spare := k, atSeq := none }] }))
      wpSubstAck [BitVec.ofNat 128 (g + t * 256 + k * 65536)] := by
  simp [substReq, h, modWp, hn]

theorem substReq_other (h : wpServes s = false) (g t k : Nat) : substReq s g t k = s :=
  if_neg (Bool.eq_false_iff.mp h)

theorem substAck_named {g t k : Nat} (h : s.wp.subst = [{ group := g, target := t, spare := k, atSeq := none }]) (q : Nat) :
    substAck s g t k q = modWp s (fun w => { w with subst := [{ group := g, target := t, spare := k, atSeq := some q }] }) := by
  simp [substAck, modWp, h]

theorem substAck_none (h : s.wp.subst = []) (g t k q : Nat) : substAck s g t k q = s := by
  simp only [substAck, modWp, h, List.map_nil]
  rw [← h]

section
variable {g t k q : Nat} (ho : s.wp.substOut = [])
  (hs : s.wp.subst = [{ group := g, target := t, spare := k, atSeq := some q }])
include ho hs

theorem spareTakeover_early (hq : seqGe 4 (nextSeq 4 s.wp.link) q = false) : spareTakeover s g t k = s := by
  simp [spareTakeover, substDue, ho, hs, hq]

theorem spareTakeover_due (hq : seqGe 4 (nextSeq 4 s.wp.link) q = true) :
    spareTakeover s g t k = substDone (modWp s (fun w => { w with
      subst := [], mapIn := mapPut w.mapIn g t k, sparesIn := setBit w.sparesIn (spareBit g k) true })) g t := by
  simp [spareTakeover, substDue, ho, hs, hq, modWp]

end

/-! ## Training (R62 to R64) -/

theorem hostClockLate_due (h : s.wp.st = .training) (hc : s.wp.hostClockSeen = false)
    (he : expired s s.wp.t0 (ms 100) = true) : hostClockLate s = wpFail s := by simp [hostClockLate, h, hc, he]

theorem hostClockLate_seen (hc : s.wp.hostClockSeen = true) : hostClockLate s = s := by simp [hostClockLate, hc]

section
variable (i : List (Nat × Nat)) (ok : Bool)

theorem phaseEnd_other (h : s.wp.st ≠ .training) : phaseEnd s i ok = s := by simp [phaseEnd, h]

theorem phaseEnd_early (h : waited s s.wp.phaseAt (phaseTime s.wp.phase) = false) : phaseEnd s i ok = s := by
  simp [phaseEnd, h]

section
variable (h : s.wp.st = .training) (hw : waited s s.wp.phaseAt (phaseTime s.wp.phase) = true)
include h hw

theorem phaseEnd_clockLock (hp : s.wp.phase = .clockLock) : phaseEnd s i ok = if ok then
    { s with wp := { s.wp with hostClockSeen := true, prbs := prbsSeeds, phase := .prbs, phaseAt := s.now } }
    else wpFail s := by
  rw [hp] at hw
  simp [phaseEnd, wpPhase, modWp, h, hw, hp]

theorem phaseEnd_prbs (hp : s.wp.phase = .prbs) : phaseEnd s i ok = wpPhase s .qualify := by
  rw [hp] at hw
  simp [phaseEnd, h, hw, hp]

theorem phaseEnd_qualify (hp : s.wp.phase = .qualify) : phaseEnd s i ok = qualified s i := by
  rw [hp] at hw
  simp [phaseEnd, h, hw, hp]

theorem phaseEnd_train (hp : s.wp.phase = .train) : phaseEnd s i ok = reported s := by
  rw [hp] at hw
  simp [phaseEnd, h, hw, hp]

theorem phaseEnd_requalify (hp : s.wp.phase = .requalify) : phaseEnd s i ok = if ok then beginLink s
    else if s.wp.requalFails ≠ 0 then wpFail s
    else wpPhase (modWp s (fun w => { w with requalFails := 1 })) .requalify := by
  rw [hp] at hw
  simp [phaseEnd, h, hw, hp]

end

end

/-- More than four failed wires in a group, on either side, fail the training. -/
theorem reported_failed (h : reportFails s.wp.inFailed = true ∨ ∃ g < 8, 5 ≤ (recordFailed s.wp g).1) :
    reported s = wpFail s := by
  have hc : (reportFails s.wp.inFailed || ((List.range 8).map (recordFailed s.wp)).any (fun r => 5 ≤ r.1)) = true := by
    simpa using h
  rw [reported, if_pos hc]

theorem recordFailed_none {w : WidePort} (h : w.trainRec = []) (g : Nat) : recordFailed w g = (0, []) := by
  rw [recordFailed, h]
  rfl

/-- With nothing to report on either side no spare is used, and the wires are qualified again. -/
theorem reported_clean (hi : s.wp.inFailed = []) (hr : s.wp.trainRec = []) : reported s = { s with wp := { s.wp with
    mapIn := [], sparesIn := 0, mapOut := [], sparesOut := 0, prbs := prbsSeeds, phase := .requalify, phaseAt := s.now } } := by
  have hf : recordFailed s.wp = fun _ => (0, []) := funext (recordFailed_none hr)
  have hSpares : assignSpares [] = [] := rfl
  have hBits : spareBits [] = 0 := rfl
  have hReport : reportFails [] = false := rfl
  simp [reported, hf, hi, hSpares, hBits, hReport, wpPhase, modWp]

end

end Sys2Proof.Machine

/-! # The Wide Port's commands on a stack that acts (02 R54 to R69) -/

namespace Sys2Proof.Machine

theorem exec_wpFlitSend (s : State) : exec .wpFlitSend s = .next (wpSend s) := rfl

section
variable {s : State} (hl : live s = true)
include hl

theorem exec_wpFlitReceive (f : WFlit) : exec (.wpFlitReceive f) s = .next (wpReceive s f) :=
  whenWired_live (fun s => wpReceive s f) hl

theorem exec_wpNakRepeat : exec .wpNakRepeat s = .next (repeatNak s 4) :=
  whenWired_live (fun s => repeatNak s 4) hl

theorem exec_wpNakLimit : exec .wpNakLimit s = .next (if 64 ≤ s.wp.link.nakCount then wpReinit s else s) :=
  whenWired_live _ hl

theorem exec_wpReinitReceived :
    exec .wpReinitReceived s = .next (if s.wp.link.reinitLeft ≠ 0 then s else wpReinit s) := whenWired_live _ hl

theorem exec_wpHostClockTimeout : exec .wpHostClockTimeout s = .next (hostClockLate s) := whenLive_live _ hl

theorem exec_wpTrainingPhaseEnd {i : List (Nat × Nat)} (hi : legalReport i = true) (ok : Bool) :
    exec (.wpTrainingPhaseEnd i ok) s = .next (phaseEnd s i ok) := by
  change execWpTrainingPhaseEnd i ok s = _
  rw [execWpTrainingPhaseEnd, if_pos hi, whenLive_live _ hl]

theorem exec_wpInitDoneReceived : exec .wpInitDoneReceived s = .next (initDone s) := whenWired_live _ hl

theorem exec_wpCreditShortfallTimeout : exec .wpCreditShortfallTimeout s = .next (creditShort s) := whenLive_live _ hl

theorem exec_wpIdleEnter : exec .wpIdleEnter s = .next (wpIdleEnter s) := whenWired_live _ hl

theorem exec_wpIdleWake : exec .wpIdleWake s = .next (wpIdleWake s) := whenWired_live _ hl

theorem exec_wpParkReqReceived : exec .wpParkReqReceived s = .next (parkReq s) := whenWired_live _ hl

theorem exec_wpParkAckReceived : exec .wpParkAckReceived s = .next (parkAck s) := whenWired_live _ hl

theorem exec_wpParkNakReceived : exec .wpParkNakReceived s = .next (parkNak s) := whenWired_live _ hl

theorem exec_wpParkTimer : exec .wpParkTimer s = .next (parkTimer s) := whenLive_live _ hl

theorem exec_wpParkWake : exec .wpParkWake s = .next (parkWake s) := whenWired_live _ hl

theorem exec_wpWireFailed_charged {wire : Nat} (hw : wire < 1088) (hs : wpServes s = true)
    (hc : wireCharged s wire = true) :
    exec (.wpWireFailed wire) s = .next (wireFailed s (wireTarget wire).1 (wireTarget wire).2) := by
  change execWpWireFailed wire s = _
  rw [execWpWireFailed, if_pos hw, whenWired_live _ hl, hs, hc, Bool.and_self, if_pos rfl]

theorem exec_wpWireFailed_uncharged {wire : Nat} (hw : wire < 1088) (hc : wireCharged s wire = false) :
    exec (.wpWireFailed wire) s = .next s := by
  change execWpWireFailed wire s = _
  rw [execWpWireFailed, if_pos hw, whenWired_live _ hl, hc, Bool.and_false, if_neg Bool.false_ne_true]

theorem exec_wpClockLoss {g : Nat} (hg : g < 8) (lost : Bool) (hs : wpServes s = true) (hk : s.wp.st ≠ .parked) :
    exec (.wpClockLoss g lost) s = .next (clockLoss s g lost) := by
  have ht := not_training_of_wpServes hs
  change execWpClockLoss g lost s = _
  rw [execWpClockLoss, if_pos hg, whenWired_live _ hl, if_neg (by simp [ht, hk])]

theorem exec_wpClockLossTimeout {g : Nat} (hg : g < 8) : exec (.wpClockLossTimeout g) s = .next (clockDead s g) := by
  change execWpClockLossTimeout g s = _
  rw [execWpClockLossTimeout, if_pos hg, whenWired_live _ hl]

section
variable {g t k : Nat} (hg : g < 8) (ht : t < 136) (hk : k < 4)
include hg ht hk

theorem exec_wpSubstReqReceived : exec (.wpSubstReqReceived g t k) s = .next (substReq s g t k) := by
  change execWpSubstReqReceived g t k s = _
  rw [execWpSubstReqReceived, if_pos ⟨hg, ht, hk⟩, whenWired_live _ hl]

theorem exec_wpSubstAckReceived {q : Nat} (hq : q < 4096) :
    exec (.wpSubstAckReceived g t k q) s = .next (substAck s g t k q) := by
  change execWpSubstAckReceived g t k q s = _
  rw [execWpSubstAckReceived, if_pos ⟨hg, ht, hk, hq⟩, whenWired_live _ hl]

theorem exec_wpSpareTakeover : exec (.wpSpareTakeover g t k) s = .next (spareTakeover s g t k) := by
  change execWpSpareTakeover g t k s = _
  rw [execWpSpareTakeover, if_pos ⟨hg, ht, hk⟩, whenWired_live _ hl]

end

end

theorem next_of_eq {o : Host.Outcome State Fault Refusal} {t u : State} (h : o = .next t) (e : t = u) : o = .next u := e ▸ h

/-- Settles O56: a wire with no spare and a clock lost for long end in `wpFail`, which on a serving port is `wpOut` after
the C1 fault. -/
theorem failedWiresAndLostClocks : Obligations.FailedWiresAndLostClocks := by
  unfold Obligations.FailedWiresAndLostClocks
  intro s hl hst hdead failed
  have hs : wpServes s = true := hst.elim wpServes_active wpServes_init
  have hk : s.wp.st ≠ .parked := by obtain h | h := hst <;> simp [h]
  have hfail : wpFail s = failed := wpFail_serving hst hdead
  refine ⟨fun u => rfl, fun wire t1 t2 t3 r1 r2 r3 hw hc h12 h13 h23 h1 h2 h3 hsub hspare => ?wire,
    fun f g t hp hm ht => ?flit, fun g t hg hm he => ?dead, fun g hg he => ?early, fun g hg hc => ?lost, fun g hg => ?back⟩
  case wire =>
    rw [exec_wpWireFailed_charged hl hw hs (wireCharged_three hc h12 h13 h23 h1 h2 h3),
      wireFailed_noSpare (fun x hx hg => hsub x hx hg.1) (freeSpare_none hspare), hfail]
  case flit => rw [exec_wpFlitReceive hl, wpReceive_bad f hp hs (.inl (clockBad_of_absent hm ht))]
  case dead => rw [exec_wpClockLossTimeout hl hg, clockDead_expired hm he, hfail]
  case early => rw [exec_wpClockLossTimeout hl hg, clockDead_early he]
  case lost => rw [exec_wpClockLoss hl hg true hs hk, clockLoss_lost hc, modWp]
  case back => rw [exec_wpClockLoss hl hg false hs hk, clockLoss_back, modWp]

/-- Settles O58: each command runs one operation of the port, whose equation says what it does under its condition and
that it does nothing outside it. -/
theorem widePortCommands : Obligations.WidePortCommands := by
  unfold Obligations.WidePortCommands
  intro s hl w link anew
  refine ⟨fun f hp => ⟨fun h => next_of_eq (exec_wpFlitReceive hl f) (wpReceive_off f hp h),
      fun h => next_of_eq (exec_wpFlitReceive hl f) (wpReceive_training f hp h), fun h hc => ?receive⟩,
    fun ha hn h => next_of_eq (exec_wpNakRepeat hl) (repeatNak_due ha hn h),
    fun ha => next_of_eq (exec_wpNakRepeat hl) (repeatNak_idle ha),
    fun h hn => next_of_eq (exec_wpNakLimit hl) ((if_pos hn).trans (wpReinit_active h)),
    fun hn => next_of_eq (exec_wpNakLimit hl) (if_neg hn.not_ge),
    fun h hr => next_of_eq (exec_wpReinitReceived hl) ((if_neg (not_not.mpr hr)).trans (wpReinit_active h)),
    fun hr => next_of_eq (exec_wpReinitReceived hl) (if_pos hr),
    fun h => next_of_eq (exec_wpFlitSend s) (wpSend_off h),
    fun h hp hw => next_of_eq (exec_wpFlitSend s) (wpSend_active h hp hw),
    fun h => next_of_eq (exec_wpFlitSend s) (wpSend_training h),
    fun h => next_of_eq (exec_wpFlitSend s) (wpSend_parked h),
    fun h _ hc he => next_of_eq (exec_wpHostClockTimeout hl) (hostClockLate_due h hc he),
    fun hc => next_of_eq (exec_wpHostClockTimeout hl) (hostClockLate_seen hc),
    fun i ok hi _ => ?training,
    fun h => next_of_eq (exec_wpInitDoneReceived hl) (initDone_init h),
    fun hi hh => next_of_eq (exec_wpInitDoneReceived hl) (initDone_other hi hh),
    fun h hr hm hq he => next_of_eq (exec_wpCreditShortfallTimeout hl) (creditShort_due h hr hm hq he),
    fun h => next_of_eq (exec_wpCreditShortfallTimeout hl) (creditShort_none h),
    fun h he ho hb hw => next_of_eq (exec_wpIdleEnter hl) (wpIdleEnter_due h he ho hb hw),
    fun hb => next_of_eq (exec_wpIdleEnter hl) (wpIdleEnter_busy hb),
    fun h ho hw hb => next_of_eq (exec_wpIdleWake hl) (wpIdleWake_due h ho hw hb),
    fun ho => next_of_eq (exec_wpIdleWake hl) (wpIdleWake_clocked ho),
    fun h => next_of_eq (exec_wpParkReqReceived hl) (parkReq_active h),
    fun h => next_of_eq (exec_wpParkReqReceived hl) (parkReq_other h),
    fun h ha => next_of_eq (exec_wpParkAckReceived hl) (parkAck_asked h ha),
    fun ha => next_of_eq (exec_wpParkNakReceived hl) (parkNak_asked ha),
    fun ha => ⟨next_of_eq (exec_wpParkAckReceived hl) (parkAck_unasked ha),
      next_of_eq (exec_wpParkNakReceived hl) (parkNak_unasked ha)⟩,
    fun h hp ha hd hw => next_of_eq (exec_wpParkTimer hl) (parkTimer_due h hp ha hd hw),
    fun hp => next_of_eq (exec_wpParkTimer hl) (parkTimer_policy hp),
    fun h => next_of_eq (exec_wpParkWake hl) (parkWake_parked h),
    fun h => next_of_eq (exec_wpParkWake hl) (parkWake_other h),
    fun wire k hw h hc hn hf =>
      next_of_eq (exec_wpWireFailed_charged hl hw (wpServes_active h) hc) (wireFailed_spare hn hf),
    fun wire hw hc => exec_wpWireFailed_uncharged hl hw hc,
    fun g t k q hg ht hk hq => ?substitution⟩
  case receive =>
    have hs := wpServes_active h
    have hb := clockBad_nil hc
    exact ⟨fun hx => next_of_eq (exec_wpFlitReceive hl f) (wpReceive_bad f hp hs (.inr hx)),
      fun x hx he => next_of_eq (exec_wpFlitReceive hl f) ((wpReceive_good f hp hs hb hx).trans (goodFlit_oldEpoch f he)),
      fun x hx _ => next_of_eq (exec_wpFlitReceive hl f) (wpReceive_good f hp hs hb hx)⟩
  case training =>
    have hrun := exec_wpTrainingPhaseEnd hl hi ok
    refine ⟨fun h => next_of_eq hrun (phaseEnd_other i ok h), fun h => ⟨fun hw => next_of_eq hrun (phaseEnd_early i ok hw),
      fun hw => ⟨fun hp => next_of_eq hrun (phaseEnd_clockLock i ok h hw hp),
        fun hp => next_of_eq hrun (phaseEnd_prbs i ok h hw hp), fun hp => next_of_eq hrun (phaseEnd_qualify i ok h hw hp),
        fun hp hf => ?failedHere, fun hp hf => ?failedThere, fun hp hf hr => ?clean,
        fun hp => next_of_eq hrun (phaseEnd_requalify i ok h hw hp)⟩⟩⟩
    all_goals rw [phaseEnd_train i ok h hw hp] at hrun
    case failedHere => exact next_of_eq hrun (reported_failed (.inl hf))
    case failedThere => exact next_of_eq hrun (reported_failed (.inr hf))
    case clean => exact next_of_eq hrun (reported_clean hf hr)
  case substitution =>
    have hReq := exec_wpSubstReqReceived hl hg ht hk
    have hAck := exec_wpSubstAckReceived hl hg ht hk hq
    have hTake := exec_wpSpareTakeover hl hg ht hk
    exact ⟨fun h => next_of_eq hReq (substReq_other h g t k), fun h hn => next_of_eq hReq (substReq_serving h hn g t k),
      fun hs => next_of_eq hAck (substAck_named hs q), fun hs => next_of_eq hAck (substAck_none hs g t k q),
      fun ho hs => ⟨fun hd => next_of_eq hTake (spareTakeover_early ho hs hd),
        fun hd _ => next_of_eq hTake (spareTakeover_due ho hs hd)⟩⟩

end Sys2Proof.Machine

/-! # Fabric lanes: sync, status words, markers, qualification, Quiet and Dark (03 R88 to R112) -/

namespace Sys2Proof.Machine

/-- Steps that each leave a value as it is leave it together. -/
theorem foldl_fixed_of_mem {α β : Type} {f : α → β → α} {a : α} {l : List β} (h : ∀ b ∈ l, f a b = a) :
    l.foldl f a = a :=
  List.foldlRecOn (motive := (· = a)) l f rfl fun x hx b hb => by rw [hx, h b hb]

/-! ## Changes of one lane -/

@[simp] theorem lane_modLane_same (s : State) (p l : Nat) (f : Lane → Lane) :
    lane (port (modLane s p l f) p) l = f (lane (port s p) l) := by simp [modLane]

/-- A change of a lane is told by what it makes of the lane as it stands. -/
theorem modLane_congr {s : State} {p l : Nat} {f g : Lane → Lane} (h : f (lane (port s p) l) = g (lane (port s p) l)) :
    modLane s p l f = modLane s p l g := by simp [modLane, modPort, h]

/-- A lane without pattern sync does not qualify. -/
theorem tryQualify_unsynced {s : State} {p l : Nat} (h : (lane (port s p) l).st ≠ .patternSync) :
    tryQualify s p l = s := by
  have hn : noteTag s p l = s := by simp [noteTag, h]
  simp [tryQualify, hn, h]

section
variable {s : State} {p l : Nat}

/-! ## Sync symbols (R90, R92, R93) -/

/-- The third sync symbol of a profile at its spacing, with the second good status word. -/
theorem noteCand_third {y : Lane} {prof : Nat} {ok : Bool} (hc : y.candProf = prof) (hs : y.syncs = 2)
    (hg : y.goodWords = 1) (hok : ok = true) (ht : s.now = y.candAt + 2489) :
    noteCand s y prof ok = { y with candProf := prof, candAt := s.now, syncs := 3, goodWords := 2 } := by
  simp [noteCand, syncSpaced, b2n, hc, hs, hg, hok, ht]

theorem syncReceived_found {prof : Nat} (m : SyncSeen) (h : (lane (port s p) l).st = .search)
    (hf : candFound (noteCand s (lane (port s p) l) prof m.wordOk) = true) :
    syncReceived s p l prof m = tryQualify (modLane s p l (fun _ => syncMeasure s (port s p)
      { noteCand s (lane (port s p) l) prof m.wordOk with st := .patternSync, prof := prof } m)) p l := by
  have hst : (noteCand s (lane (port s p) l) prof m.wordOk).st = .search := h
  simp [syncReceived, hst, hf]

/-- A qualified lane misses a sync symbol of another profile. -/
theorem syncReceived_missed {prof : Nat} (m : SyncSeen) (h : (lane (port s p) l).st = .qualified)
    (hp : (lane (port s p) l).prof ≠ prof) :
    syncReceived s p l prof m = modLane s p l (fun _ => { noteCand s (lane (port s p) l) prof m.wordOk with
      missed := (lane (port s p) l).missed + 1 }) := by
  have hst : (noteCand s (lane (port s p) l) prof m.wordOk).st = .qualified := h
  have hpr : (noteCand s (lane (port s p) l) prof m.wordOk).prof ≠ prof := hp
  simp only [syncReceived, hst, hpr, if_false]
  rfl

theorem syncReceived_unused (prof : Nat) (m : SyncSeen)
    (h : (lane (port s p) l).st = .off ∨ (lane (port s p) l).st = .failed) : syncReceived s p l prof m = s := by
  have hst : (noteCand s (lane (port s p) l) prof m.wordOk).st = (lane (port s p) l).st := rfl
  obtain h | h := h <;> simp [syncReceived, hst, h]

/-! ## Status words (R89) -/

theorem wordReceived_failed (w : BitVec 32) (h : (lane (port s p) l).st = .failed) : wordReceived s p l w = s := by
  simp [wordReceived, h]

theorem wordReceived_badCrc {w : BitVec 32} (h : (lane (port s p) l).st = .qualified) (hw : wordCrc w = false) :
    wordReceived s p l w = modLane s p l (fun y => { y with badWords := y.badWords + 1 }) := by
  simp [wordReceived, h, hw]

theorem wordCrc_of_wordGood {w : BitVec 32} (hw : wordGood w = true) : wordCrc w = true :=
  (Bool.and_eq_true_iff.mp hw).1

theorem wordReceived_search {w : BitVec 32} (h : (lane (port s p) l).st = .search) (hw : wordGood w = true) :
    wordReceived s p l w = modLane s p l (fun y => { y with
      badWords := 0, tagRemote := BitVec.ofNat 8 (field w.toNat 16 8), tagProf := field w.toNat 0 2 }) := by
  simp [wordReceived, h, hw, wordCrc_of_wordGood hw]

/-! ## Markers (R88) -/

theorem markerReceived_off (n : Nat) (ok : Bool) (h : (lane (port s p) l).st = .off) : markerReceived s p l n ok = s := by
  simp [markerReceived, h]

/-- The first copy of a marker is noted, and nothing acts on it. -/
theorem markerReceived_first {n : Nat} (ok : Bool) (h : (lane (port s p) l).st = .qualified)
    (hn : (lane (port s p) l).lastMarker ≠ n) : markerReceived s p l n ok =
      modLane s p l (fun y => { y with lastMarker := n, markerAt := s.now, copies := 1, markers := b2n ok }) := by
  have hg : sameGroup (lane (port s p) l) n s.now = false := by simp [sameGroup, hn]
  have hok : b2n ok ≠ 2 := by cases ok <;> decide
  simp [markerReceived, h, hg, hok]

/-- The second good copy of a group makes the receiver act. -/
theorem markerReceived_second {n : Nat} (h : (lane (port s p) l).st = .qualified)
    (hn : (lane (port s p) l).lastMarker = n) (hc : (lane (port s p) l).copies < 4)
    (ht : s.now ≤ (lane (port s p) l).markerAt + 8) (hm : (lane (port s p) l).markers = 1) :
    markerReceived s p l n true = actMarker (modLane s p l (fun y => { y with
      lastMarker := n, markerAt := s.now, copies := y.copies + 1, markers := 2 })) p l n := by
  have hg : sameGroup (lane (port s p) l) n s.now = true := by simp [sameGroup, hn, hc, ht]
  simp [markerReceived, h, hg, hm, b2n]

/-! ## Qualification lost, and the lane failed or degraded (R92, R98, R100) -/

@[simp] theorem qualBroken_modLane (f : Lane → Lane) (y : Lane) (c : Nat) :
    qualBroken (modLane s p l f) y c = qualBroken s y c := rfl

/-- A condition of R92 that a qualified lane meets. -/
theorem qualBroken_of_cause {y : Lane} {c : Nat} {fo : Int} (hy : y.st = .qualified)
    (h : (c = 0 ∧ 4 ≤ y.missed) ∨ (c = 1 ∧ 8 ≤ y.badWords) ∨ (c = 2 ∧ 40000 < fo.natAbs)) :
    qualBroken s { y with freq := fo } c = true := by
  obtain ⟨rfl, hm⟩ | ⟨rfl, hw⟩ | ⟨rfl, hf⟩ := h
  · simp [qualBroken, hy, hm]
  · simp [qualBroken, hw]
  · simp [qualBroken, hf]

/-- Fewer than eight bad status words in a row break nothing. -/
theorem qualBroken_fewWords {y : Lane} (h : y.badWords < 8) (fo : Int) :
    qualBroken s { y with freq := fo } 1 = false := by simp [qualBroken, h]

theorem lostQual_unbroken {c : Nat} {fo : Int} (hb : qualBroken s { lane (port s p) l with freq := fo } c = false) :
    lostQual s p l c fo = modLane s p l (fun y => { y with freq := fo }) := by
  simp [lostQual, hb]

/-- A lane that searches has no qualification to lose. -/
theorem lostQual_search (c : Nat) (fo : Int) (h : (lane (port s p) l).st = .search) :
    lostQual s p l c fo = modLane s p l (fun y => { y with freq := fo }) := by
  simp [lostQual, laneQual, h]

/-- Without three sync symbols of another pattern, a lane that has lost its own searches. -/
theorem reSearch_unfound {y : Lane} (h : y.syncs < 3) : reSearch y = searching y := by
  have hs : ¬3 ≤ (searching y).syncs := h.not_ge
  have hf : candFound (searching y) = false := by simp [candFound, hs]
  simp [reSearch, hf]

/-- What a lane is once it has lost its qualification: it searches, and the loss is counted and dated. -/
theorem lostQual_broken {c : Nat} {fo : Int} (h : (lane (port s p) l).st = .qualified)
    (ht : (lane (port s p) l).test = none) (hs : (lane (port s p) l).syncs < 3)
    (hb : qualBroken s { lane (port s p) l with freq := fo } c = true) : lostQual s p l c fo =
      modLane (modLane s p l (fun y => { y with freq := fo })) p l (fun y => { y with
        st := .search, missed := 0, badWords := 0, degradedSince := none, degraded := false, stale := false,
        lockLosses := satAdd 32 y.lockLosses 1, lostSince := some s.now }) := by
  have hq : laneQual { lane (port s p) l with freq := fo } = true := by simp [laneQual, h]
  simp only [lostQual, lane_modLane_same, qualBroken_modLane, hb, hq, Bool.not_true, Bool.false_eq_true, if_false, if_true]
  refine (congrArg (tryQualify · p l) (modLane_congr ?searches)).trans (tryQualify_unsynced ?unsynced)
  case searches =>
    simp only [lane_modLane_same, ht]
    refine (reSearch_unfound ?_).trans rfl
    exact hs
  case unsynced => simp

theorem requalifyTimeout_kept (h : (lane (port s p) l).lostSince = none) : requalifyTimeout s p l = s := by
  simp [requalifyTimeout, h]

theorem requalifyTimeout_due {t : Nat} (h : (lane (port s p) l).lostSince = some t) (hb : (port s p).bring = .up)
    (hq : laneQual (lane (port s p) l) = false) (he : expired s t (us 100) = true) :
    requalifyTimeout s p l = laneFailed (laneFault s p l) p l := by
  simp [requalifyTimeout, h, hb, hq, he]

theorem degradeLane_kept (h : (lane (port s p) l).degradedSince = none) : degradeLane s p l = s := by
  simp [degradeLane, h]

/-- A lane degraded for its time that carries no logical lane is reported and not substituted. -/
theorem degradeLane_due {t : Nat} (h : (lane (port s p) l).degradedSince = some t)
    (hst : (lane (port s p) l).st = .qualified) (hd : (lane (port s p) l).degraded = false)
    (hw : waited s t (ms 1) = true) (hn : logicalOfLane (port s p) l = none) :
    degradeLane s p l = laneC0 (modLane s p l (fun y => { y with degraded := true })) p 4 l := by
  simp [degradeLane, laneQual, h, hst, hd, hw, hn]

/-! ## Bring-up timers (R94) -/

theorem stepTimer_due {t : Nat} (h : (port s p).stepAt = some t) (hb : (port s p).bring = .search)
    (he : expired s t (us 200) = true) (ha : acked (port s p) = false) :
    stepTimer s p = putPort s p { port s p with txProf := (port s p).txProf - 1, stepAt := some s.now } := by
  simp [stepTimer, h, hb, he, ha]

theorem stepTimer_other (hb : (port s p).bring ≠ .search) : stepTimer s p = s := by
  cases h : (port s p).stepAt <;> simp [stepTimer, h, hb]

theorem restoreTimer_due {t : Nat} (h : (port s p).restoreAt = some t) (hb : (port s p).bring = .restore)
    (he : expired s t (us 200) = true) : restoreTimer s p = putPort s p { port s p with
      bring := .search, txProf := (port s p).savedT, stepAt := some s.now, restoreAt := none, unacked := 0 } := by
  simp [restoreTimer, h, hb, he]

theorem restoreTimer_other (hb : (port s p).bring ≠ .restore) : restoreTimer s p = s := by
  cases h : (port s p).restoreAt <;> simp [restoreTimer, h, hb]

theorem bringTimer_due (hb : (port s p).bring = .search) (hr : (port s p).bringRaised = false)
    (he : expired s (port s p).bringAt (ms 2) = true) :
    bringTimer s p = chipFault (putPort s p { port s p with bringRaised := true }) .c1 (p + 1) 0x0307 0 := by
  simp [bringTimer, hb, hr, he]

theorem bringTimer_done (h : (port s p).bringRaised = true ∨ (port s p).bring = .up) : bringTimer s p = s := by
  obtain h | h := h <;> simp [bringTimer, h]

/-! ## Quiet and Dark entered (R102, R107) -/

theorem quietEnter_due (hq : (port s p).quietEn = true) (h : (port s p).st = .active)
    (ht : (port s p).txPower = .active) (hb : linkBusy (port s p).link = false) (hh : testHolds (port s p) = false)
    (hw : waited s (port s p).lastTx (port s p).quietTimer.toNat = true) : quietEnter s p = putPort s p { port s p with
      txPower := .quiet, quietSince := s.now, txChange := none,
      stream := streamQuiet (port s p).txProf s.now (port s p).stream } := by
  simp [quietEnter, hq, h, ht, hb, hh, hw]

theorem quietEnter_busy (hb : linkBusy (port s p).link = true) : quietEnter s p = s := by simp [quietEnter, hb]

theorem darkEnter_due (h : (port s p).st = .active) (ht : (port s p).txPower = .quiet)
    (hu : (port s p).link.unacked = []) (hh : testHolds (port s p) = false) (hd : (port s p).darkEn = true)
    (hb : linkBusy (port s p).link = false)
    (hw : waited s (port s p).quietSince (us (port s p).darkTimer.toNat) = true) :
    darkEnter s p = putPort s p { port s p with
      txPower := .dark, txChange := some (0, s.now),
      stream := streamDark (port s p).txProf s.now true (port s p).stream } := by
  simp [darkEnter, goDark, h, ht, hu, hh, hd, hb, hw]

theorem darkEnter_unacked (hu : (port s p).link.unacked ≠ []) : darkEnter s p = s := by simp [darkEnter, hu]

/-! ## Quiet and Dark left (R103, R104, R106) -/

theorem quietExit_busy (h : (port s p).st = .active) (ht : (port s p).txPower = .quiet)
    (hb : linkBusy (port s p).link = true) : quietExit s p = putPort s p (fromQuiet s (port s p)) := by
  simp [quietExit, h, ht, hb]

theorem quietExit_idle (hb : linkBusy (port s p).link = false) : quietExit s p = s := by simp [quietExit, hb]

theorem darkExit_busy (h : (port s p).st = .active) (ht : (port s p).txPower = .dark)
    (hb : linkBusy (port s p).link = true) : darkExit s p = putPort s p (fromDark s (port s p)) := by
  simp [darkExit, h, ht, hb]

theorem darkExit_idle (hb : linkBusy (port s p).link = false) : darkExit s p = s := by simp [darkExit, hb]

section
variable {x : FabPort} {d t : Nat} (hc : x.txChange = some (d, t))
include hc

/-- Once the pilots have stopped, the direction starts afresh. -/
theorem fromDark_late (h : t + 60 ≤ s.now) : fromDark s x = { x with
    txPower := .active, lastTx := s.now, txChange := some (3520, s.now),
    stream := streamFresh x.txProf s.now x.stream } := by
  have hn : ¬s.now < t + darkPilots := h.not_gt
  simp [fromDark, hc, hn]

/-- While the pilots run, after the DARK markers, the direction wakes at once. -/
theorem fromDark_early (hm : t + 10 ≤ s.now) (h : s.now < t + 60) : fromDark s x = { x with
    txPower := .active, lastTx := s.now, stream := streamWake x.txProf s.now false x.stream,
    txChange := some (10 + wakeSlip (streamWake x.txProf s.now false x.stream), s.now) } := by
  have hp : s.now < t + darkPilots := h
  have hk : max s.now (t + darkMarkers) = s.now := max_eq_left hm
  simp [fromDark, hc, hp, hk]

end

/-! ## Energy wakes (R104, R105) -/

theorem energyWake_awake (h : (port s p).rxPower ≠ .dark) : energyWake s p = s := by simp [energyWake, h]

theorem energyWake_lostRef (h : (port s p).rxPower = .dark) (hr : refLostSince s (port s p).darkAt = true) :
    energyWake s p = staleWake s p s.now := by simp [energyWake, h, hr]

/-- Where retained state is not stale and no lane was Dark, the receiver alone wakes. -/
theorem energyWake_retained {t : BitVec 16} (h : (port s p).rxPower = .dark)
    (hr : refLostSince s (port s p).darkAt = false) (ht : (port s p).retained = some t)
    (hd : (s16 t - s16 (portTemp s p)).natAbs ≤ 240) (hl : ∀ k < 5, (lane (port s p) k).st ≠ .dark) :
    energyWake s p = putPort s p { port s p with rxPower := .active, wakeAt := some s.now } := by
  have hm : ¬240 < (s16 t - s16 (portTemp s p)).natAbs := hd.not_gt
  simp only [energyWake, h, hr, ht, hm, modPort, bne_self_eq_false, decide_false, Bool.or_self, Bool.false_eq_true,
    if_false]
  refine congrArg (putPort s p) (foldl_fixed_of_mem fun k hk => ?_)
  exact if_neg fun hd => hl k (List.mem_range.mp hk) (eq_of_beq hd)

theorem wakeTimeout_due {t : Nat} (h : (port s p).wakeAt = some t) (he : expired s t (us 8) = true)
    (hk : ∃ k < 5, laneInUse (lane (port s p) k) = true ∧ laneQual (lane (port s p) k) = false) :
    wakeTimeout s p = staleWake s p t := by
  obtain ⟨k, hk5, hu, hq⟩ := hk
  have ha : (List.range 5).any (fun k => laneInUse (lane (port s p) k) && !laneQual (lane (port s p) k)) = true :=
    List.any_eq_true.mpr ⟨k, List.mem_range.mpr hk5, by simp [hu, hq]⟩
  simp [wakeTimeout, h, he, ha]

theorem wakeTimeout_none (h : (port s p).wakeAt = none) : wakeTimeout s p = s := by simp [wakeTimeout, h]

/-! ## Lane tests (R109 to R111) -/

theorem laneTestDone_none (n : Nat) (errs : List Nat) (h : (lane (port s p) l).test = none) :
    laneTestDone s p l n errs = s := by simp [laneTestDone, h]

section
variable {t : LaneTest} (n : Nat) (errs : List Nat) (h : (lane (port s p) l).test = some t)
  (hw : waited s t.start (us (testMicros t)) = true)
include h hw

/-- A generator alone has no counts. -/
theorem laneTestDone_generator (hg : (byteAt t.params 1).toNat = 0) : laneTestDone s p l n errs =
    endTest s p l 0 { t with bits := 0, errors := 0, resyncs := 0, binErr := [] } true := by
  simp [laneTestDone, h, hw, hg]

theorem laneTestDone_checker (hg : (byteAt t.params 1).toNat ≠ 0) {c : Checker}
    (hc : c = checked (testBin (port s p) t (lane (port s p) l).prof) n errs) : laneTestDone s p l n errs =
      endTest s p l 0 { t with bits := c.bits, errors := c.errors, resyncs := c.resyncs, binErr := c.bins } true := by
  simp [laneTestDone, h, hw, hg, hc]

end

end

/-- Without errors a checker has synchronised after its first 64 bits, and compares the others. -/
theorem checked_clean (f : Nat → Nat) {n : Nat} (h : 64 ≤ n) :
    checked f n [] = { since := some 64, bits := n - 64 } := by
  simp [checked, checkSync, h]

end Sys2Proof.Machine

/-! # The fabric lanes' commands on a stack that acts (03 R88 to R112) -/

namespace Sys2Proof.Machine

section
variable {s : State} {p : Nat} (hl : live s = true)
include hl

section
variable (hp : p < 4)
include hp

theorem exec_bringupStepTimer : exec (.bringupStepTimer p) s = .next (stepTimer s p) :=
  (if_pos hp).trans (whenWired_live _ hl)

theorem exec_bringupRestoreTimer : exec (.bringupRestoreTimer p) s = .next (restoreTimer s p) :=
  (if_pos hp).trans (whenWired_live _ hl)

theorem exec_bringupTimer : exec (.bringupTimer p) s = .next (bringTimer s p) :=
  (if_pos hp).trans (whenWired_live _ hl)

theorem exec_fpQuietEnter : exec (.fpQuietEnter p) s = .next (quietEnter s p) :=
  (if_pos hp).trans (whenWired_live _ hl)

theorem exec_fpDarkEnter : exec (.fpDarkEnter p) s = .next (darkEnter s p) :=
  (if_pos hp).trans (whenWired_live _ hl)

theorem exec_fpQuietExit : exec (.fpQuietExit p) s = .next (quietExit s p) :=
  (if_pos hp).trans (whenWired_live _ hl)

theorem exec_fpDarkExit : exec (.fpDarkExit p) s = .next (darkExit s p) :=
  (if_pos hp).trans (whenWired_live _ hl)

theorem exec_fpEnergyWake : exec (.fpEnergyWake p) s = .next (energyWake s p) :=
  (if_pos hp).trans (whenWired_live _ hl)

theorem exec_fpWakeQualifyTimeout : exec (.fpWakeQualifyTimeout p) s = .next (wakeTimeout s p) :=
  (if_pos hp).trans (whenWired_live _ hl)

section
variable {l : Nat} (h5 : l < 5)
include h5

theorem exec_laneSyncSymbolReceived {prof : Nat} {m : SyncSeen} (hprof : prof < 4) (hs : m.snr.length ≤ 128)
    (ht : m.taps.length ≤ 128) :
    exec (.laneSyncSymbolReceived p l prof m.evm m.freq m.timing m.wordOk m.snr m.taps) s =
      .next (syncReceived s p l prof m) :=
  (if_pos ⟨hp, h5, hprof, hs, ht⟩).trans (whenWired_live _ hl)

theorem exec_laneStatusWordReceived (w : BitVec 32) :
    exec (.laneStatusWordReceived p l w) s = .next (wordReceived s p l w) :=
  (if_pos ⟨hp, h5⟩).trans (whenWired_live _ hl)

theorem exec_laneMarkerReceived {n : Nat} (h4 : 4 ≤ n) (h6 : n ≤ 6) (ok : Bool) :
    exec (.laneMarkerReceived p l n ok) s = .next (markerReceived s p l n ok) :=
  (if_pos ⟨hp, h5, h4, h6⟩).trans (whenWired_live _ hl)

theorem exec_laneQualificationLost {c : Nat} (hc : c < 3) (fo : Int) :
    exec (.laneQualificationLost p l c fo) s = .next (lostQual s p l c fo) :=
  (if_pos ⟨hp, h5, hc⟩).trans (whenWired_live _ hl)

theorem exec_laneRequalifyTimeout : exec (.laneRequalifyTimeout p l) s = .next (requalifyTimeout s p l) :=
  (if_pos ⟨hp, h5⟩).trans (whenWired_live _ hl)

theorem exec_laneDegraded : exec (.laneDegraded p l) s = .next (degradeLane s p l) :=
  (if_pos ⟨hp, h5⟩).trans (whenWired_live _ hl)

theorem exec_laneTestComplete {n : Nat} {errs : List Nat} (he : errsLegal n errs = true) :
    exec (.laneTestComplete p l n errs) s = .next (laneTestDone s p l n errs) :=
  (if_pos ⟨hp, h5, he⟩).trans (whenWired_live _ hl)

end

end

section
variable {h : Nat} (hh : h < 16)
include hh

theorem exec_fpLanes (hr : hatchReady s h 0x0602 0x0602 = true) (hf : reservedBad s h [(0, 1)] = [])
    (hp : pl s h 0 1 < 4) :
    exec (.fpLanes h) s = .next (ansOk s h ((List.range 5).flatMap (laneRecord (port s (pl s h 0 1))))) :=
  (hatchRun_ready _ hh hl hr).trans (congrArg _ (withFields_legal _ hf (by simp [hp])))

theorem exec_laneTest (hr : hatchReady s h 0x0603 0x0603 = true) (hf : reservedBad s h [(0, 9), (12, 4)] = [])
    (hb : (laneTestBad s h).filter (fun f => f.2) = []) : exec (.laneTest h) s = .next (startLaneTest s h) :=
  (hatchRun_ready _ hh hl hr).trans (congrArg _ (withFields_legal _ hf hb))

end

end

/-- Settles O59: each command runs one operation of the lane or port, whose equation says what it does under its
condition and that it does nothing outside it. -/
theorem fabricLaneCommands : Obligations.FabricLaneCommands := by
  unfold Obligations.FabricLaneCommands
  intro s p hl hp x
  refine ⟨fun l prof m h5 hprof hs ht => ?sync, fun l w h5 => ?word, fun l n ok h5 h4 h6 => ?marker,
    fun l c fo h5 hc h hn => ?lost,
    fun l c fo h5 hc h => next_of_eq (exec_laneQualificationLost hl hp h5 hc fo) (lostQual_search c fo h),
    fun l h5 => ?timeouts,
    fun t h hb he ha => next_of_eq (exec_bringupStepTimer hl hp) (stepTimer_due h hb he ha),
    fun hb => next_of_eq (exec_bringupStepTimer hl hp) (stepTimer_other hb),
    fun t h hb he => next_of_eq (exec_bringupRestoreTimer hl hp) (restoreTimer_due h hb he),
    fun hb => next_of_eq (exec_bringupRestoreTimer hl hp) (restoreTimer_other hb),
    fun hb hr he => next_of_eq (exec_bringupTimer hl hp) (bringTimer_due hb hr he),
    fun h => next_of_eq (exec_bringupTimer hl hp) (bringTimer_done h),
    fun hq h ht hb hh hw => next_of_eq (exec_fpQuietEnter hl hp) (quietEnter_due hq h ht hb hh hw),
    fun hb => next_of_eq (exec_fpQuietEnter hl hp) (quietEnter_busy hb),
    fun h ht hu hh hd hb hw => next_of_eq (exec_fpDarkEnter hl hp) (darkEnter_due h ht hu hh hd hb hw),
    fun hu => next_of_eq (exec_fpDarkEnter hl hp) (darkEnter_unacked hu),
    fun h ht hb => next_of_eq (exec_fpQuietExit hl hp) (quietExit_busy h ht hb),
    fun d t h ht hb hc => ?darkExit,
    fun hb => ⟨next_of_eq (exec_fpQuietExit hl hp) (quietExit_idle hb),
      next_of_eq (exec_fpDarkExit hl hp) (darkExit_idle hb)⟩,
    fun h => next_of_eq (exec_fpEnergyWake hl hp) (energyWake_awake h),
    fun h hr => next_of_eq (exec_fpEnergyWake hl hp) (energyWake_lostRef h hr),
    fun t h hr ht hd hk => next_of_eq (exec_fpEnergyWake hl hp) (energyWake_retained h hr ht hd hk),
    fun t h he hk => next_of_eq (exec_fpWakeQualifyTimeout hl hp) (wakeTimeout_due h he hk),
    fun h => next_of_eq (exec_fpWakeQualifyTimeout hl hp) (wakeTimeout_none h),
    fun l n errs h5 he => ?test,
    fun f n hn => by simp [checked_clean f hn],
    fun h hh => ⟨exec_fpLanes hl hh, exec_laneTest hl hh⟩⟩
  case sync =>
    refine ⟨exec_laneSyncSymbolReceived hl hp h5 hprof hs ht, fun h hc hy hg hw hnow => ?third,
      fun h hq => ?missed, syncReceived_unused prof m⟩
    case third =>
      have hthird := noteCand_third hc hy hg hw hnow
      have hfound : candFound (noteCand s (lane x l) prof m.wordOk) = true := by simp [candFound, hthird]
      refine ⟨_, ?_, ?_, ?_, ?_, ?_, ?_, ?_, ?_, ?_, syncReceived_found m h hfound⟩
      exacts [rfl, rfl, congrArg Lane.syncs hthird, rfl, rfl, rfl, rfl, rfl, rfl]
    case missed =>
      refine ⟨_, ?_, ?_, ?_, ?_, syncReceived_missed m h hq⟩
      exacts [h, rfl, rfl, rfl]
  case word =>
    have hrun := exec_laneStatusWordReceived hl hp h5 w
    exact ⟨fun h => next_of_eq hrun (wordReceived_failed w h), fun h hw => next_of_eq hrun (wordReceived_badCrc h hw),
      fun h hw => next_of_eq hrun (wordReceived_search h hw)⟩
  case marker =>
    have hrun := exec_laneMarkerReceived hl hp h5 h4 h6
    exact ⟨fun h => next_of_eq (hrun ok) (markerReceived_off n ok h),
      fun h hn => next_of_eq (hrun ok) (markerReceived_first ok h hn),
      fun h hn hc ht hm => next_of_eq (hrun true) (markerReceived_second h hn hc ht hm)⟩
  case lost =>
    have hrun := exec_laneQualificationLost hl hp h5 hc fo
    exact ⟨fun h1 hw => next_of_eq hrun (lostQual_unbroken (h1 ▸ qualBroken_fewWords hw fo)),
      fun hcause hy => next_of_eq hrun (lostQual_broken h hn hy (qualBroken_of_cause h hcause))⟩
  case timeouts =>
    exact ⟨fun h => next_of_eq (exec_laneRequalifyTimeout hl hp h5) (requalifyTimeout_kept h),
      fun t h hb hq he => next_of_eq (exec_laneRequalifyTimeout hl hp h5) (requalifyTimeout_due h hb hq he),
      fun h => next_of_eq (exec_laneDegraded hl hp h5) (degradeLane_kept h),
      fun t h hst hd hw hn => next_of_eq (exec_laneDegraded hl hp h5) (degradeLane_due h hst hd hw hn)⟩
  case darkExit =>
    have hrun := next_of_eq (exec_fpDarkExit hl hp) (darkExit_busy h ht hb)
    exact ⟨fun hlate => next_of_eq hrun (congrArg _ (fromDark_late hc hlate)),
      fun hm hearly => next_of_eq hrun (congrArg _ (fromDark_early hc hm hearly))⟩
  case test =>
    have hrun := exec_laneTestComplete hl hp h5 he
    exact ⟨fun h => next_of_eq hrun (laneTestDone_none n errs h),
      fun t h hw => ⟨fun hg => next_of_eq hrun (laneTestDone_generator n errs h hw hg),
        fun hg c hc => next_of_eq hrun (laneTestDone_checker n errs h hw hg hc)⟩⟩

end Sys2Proof.Machine

/-! # Codewords of a fabric port (04 R115, R118, R124)

What a port makes of a codeword turns on the decoder, then on the flit's CRC-64. The charges for corrected symbols are a
fold over the symbols, which a step lemma about one symbol carries along. -/

namespace Sys2Proof.Machine

/-! ## Charges for corrected symbols -/

/-- The physical lane that carries symbol m of a codeword, by the port's map of its logical lanes (R115). -/
def symbolLane (x : FabPort) (m : Nat) : Nat := (x.laneMap[m % 4]?).getD 0

/-- The port after symbol m was corrected. -/
def chargeSymbol (x : FabPort) (m : Nat) : FabPort :=
  putLane x (symbolLane x m) { lane x (symbolLane x m) with corrected := (lane x (symbolLane x m)).corrected + 1 }

theorem symbolLane_chargeSymbol (x : FabPort) (m : Nat) : symbolLane (chargeSymbol x m) = symbolLane x := rfl

theorem corrected_chargeSymbol (x : FabPort) (m l : Nat) :
    (lane (chargeSymbol x m) l).corrected = (lane x l).corrected + if symbolLane x m = l then 1 else 0 := by
  by_cases h : symbolLane x m = l
  · subst h
    simp [chargeSymbol]
  · simp [chargeSymbol, lane_putLane_ne _ _ _ _ (Ne.symm h), h]

theorem corrected_foldl_chargeSymbol (ms : List Nat) (x : FabPort) (l : Nat) :
    (lane (ms.foldl chargeSymbol x) l).corrected =
      (lane x l).corrected + (ms.filter (fun m => symbolLane x m = l)).length := by
  induction ms generalizing x with
  | nil => rfl
  | cons m ms ih =>
    rw [List.foldl_cons, ih, corrected_chargeSymbol, symbolLane_chargeSymbol]
    by_cases h : symbolLane x m = l
    · simp [h]
      omega
    · simp [h]

theorem port_chargeLanes (s : State) (p : Nat) (ms : List Nat) :
    port (chargeLanes s p ms) p = ms.foldl chargeSymbol (port s p) :=
  (port_occ _ _ _ _ _ _).trans (port_modPort_same _ _ _)

/-! ## Bad flits -/

theorem port_fpBadFlit (s : State) (p : Nat) :
    let l := { (port s p).link with badRun := (port s p).link.badRun + 1 }
    port (fpBadFlit s p) p = { port s p with
      crcBad := (port s p).crcBad + 1, link := if (port s p).st == .active then startNak l else l } := by
  simp [fpBadFlit]

@[simp] theorem startNak_badRun (l : Link) : (startNak l).badRun = l.badRun := by
  unfold startNak
  split <;> rfl

theorem startNak_first {l : Link} (h : l.awaiting = false) :
    startNak l = { l with nakDue := true, awaiting := true, nakFlits := 0 } := by simp [startNak, h]

/-! ## A flit's CRC-64 -/

theorem fabParse_badCrc {v : BitVec 3200} (h : v.toNat >>> 3136 ≠ crc64 (leBytes (v.toNat % 2 ^ 3136) 392)) :
    fabParse v = none :=
  if_neg h

theorem fabParse_goodCrc {v : BitVec 3200} (h : v.toNat >>> 3136 = crc64 (leBytes (v.toNat % 2 ^ 3136) 392)) :
    ∃ f, fabParse v = some f :=
  ⟨_, if_pos h⟩

/-! ## The codeword -/

section
variable {s : State} {p : Nat} {cw : BitVec 3400} (hphase : s.boot.phase ≠ .retHeld)
  (hst : (port s p).st = .init ∨ (port s p).st = .active) (hrx : (port s p).rxPower = .active)
include hphase hst hrx

theorem fpReceive_undecoded (hd : fcwDecode cw = none) : fpReceive s p cw = fpBadFlit s p := by
  simp [fpReceive, hphase, hst, hrx, hd]

section
variable {v : BitVec 3200} {ms : List Nat} (hd : fcwDecode cw = some (v, ms))
include hd

theorem fpReceive_unparsed (hv : fabParse v = none) : fpReceive s p cw = fpBadFlit (chargeLanes s p ms) p := by
  simp [fpReceive, hphase, hst, hrx, hd, hv]

theorem fpReceive_parsed {f : AFlit} (hv : fabParse v = some f) :
    fpReceive s p cw = fpGoodFlit (chargeLanes s p ms) p f := by
  simp [fpReceive, hphase, hst, hrx, hd, hv]

end

end

theorem exec_fpFlitReceive {s : State} {p : Nat} (hw : wired s = true) (hp : p < 4) (cw : BitVec 3400) :
    exec (.fpFlitReceive p cw) s = .next (fpReceive s p cw) :=
  (if_pos hp).trans (whenWired_wired _ hw)

/-- Settles O57: the charges by `corrected_foldl_chargeSymbol`, the codeword's fate by the decoder and the CRC-64. -/
theorem codewordsOfAFabricPort : Obligations.CodewordsOfAFabricPort := by
  unfold Obligations.CodewordsOfAFabricPort
  intro s p cw hw hphase hp hst hrx
  have hrun := exec_fpFlitReceive hw hp cw
  refine ⟨fun hd => next_of_eq hrun (fpReceive_undecoded hphase hst hrx hd), fun v ms hd => ?decoded, ?badFlit⟩
  case decoded =>
    refine ⟨fun l => ?charged,
      fun hcrc => next_of_eq hrun (fpReceive_unparsed hphase hst hrx hd (fabParse_badCrc hcrc)), fun hcrc => ?good⟩
    case charged =>
      rw [port_chargeLanes]
      exact corrected_foldl_chargeSymbol ms (port s p) l
    case good =>
      obtain ⟨f, hf⟩ := fabParse_goodCrc hcrc
      exact ⟨f, hf, next_of_eq hrun (fpReceive_parsed hphase hst hrx hd hf)⟩
  case badFlit =>
    rw [port_fpBadFlit]
    refine ⟨rfl, ?run, fun hactive hawait => ?nak⟩
    case run =>
      dsimp only
      split
      · exact startNak_badRun _
      · rfl
    case nak => simp [hactive, startNak_first, hawait]

end Sys2Proof.Machine

/-! # ROUTE_COMMIT and the switch of the map (04 R136, R142; 21 R530)

A commit that moves no cached share and makes no range bulk has no row to free and no scan to wait for, so the switch is
the tables' exchange and the answer. The answer touches the management state and the counters alone (`OnlyEvents`). -/

namespace Sys2Proof.Machine

/-! ## Answers of a Hatch that sends no notice -/

theorem onlyEvents_hatchResult (s : State) (h status : Nat) (p : List (BitVec 8)) (done errAt : Nat) :
    OnlyEvents s (hatchResult s h status p done errAt) := by
  unfold hatchResult
  dsimp only
  split
  · exact onlyEvents_mg s _
  · exact .refl s

@[simp] theorem hatch_occ (s : State) (ev grp qual n h : Nat) : hatch (occ s ev grp qual n) h = hatch s h := by
  obtain ⟨p, e⟩ := occ_eq s ev grp qual n
  rw [e]
  rfl

section
variable {s : State} {h : Nat} (hb : (hatch s h).st = .busy) (hn : (hatch s h).notify = false)
include hb hn

/-- A result is answered: the Hatch is DONE, and the answer touches nothing outside the management state and the counters. -/
theorem answerHatch_quiet {r : Nat × List (BitVec 8) × Nat × Nat} (hr : (hatch s h).result = some r) :
    OnlyEvents s (answerHatch s h) ∧ (hatch (answerHatch s h) h).st = .done := by
  simp only [answerHatch, hr, hb, hn]
  exact ⟨(onlyEvents_mg s _).trans (onlyEvents_occ _ _ _ _ _), by simp⟩

theorem answerHatch_ansOk (p : List (BitVec 8)) :
    OnlyEvents s (answerHatch (ansOk s h p) h) ∧ (hatch (answerHatch (ansOk s h p) h) h).st = .done := by
  have hres := hatchResult_busy 0 p 0 0xFFFFFFFF hb
  obtain ⟨hev, hdone⟩ := answerHatch_quiet (s := ansOk s h p)
    ((congrArg Hatch.st hres).trans hb) ((congrArg Hatch.notify hres).trans hn) (congrArg Hatch.result hres)
  exact ⟨(onlyEvents_hatchResult s h 0 p 0 0xFFFFFFFF).trans hev, hdone⟩

end

/-! ## The switch -/

/-- The shadow of `s` is in force in `u`, which holds the masters, the DRAM and the Undercoat of `s`. -/
def RoutesSwitched (s u : State) : Prop :=
  u.fab.routes = s.fab.routesSh ∧ u.fab.windows = s.fab.windowsSh ∧ u.fab.committing = false ∧ u.fab.altUse = [] ∧
    u.reg.masters = s.reg.masters ∧ u.dram = s.dram ∧ u.uc = s.uc

/-- The tables exchanged, with the window classes a commit gives; the command leaves the list of those held. -/
def switchTables (s : State) (wc : SMap (BitVec 2)) : State :=
  { s with
    fab := { s.fab with routes := s.fab.routesSh, windows := s.fab.windowsSh, altUse := [], committing := false },
    reg := { s.reg with wclass := wc }, mg := { s.mg with routeCommit := none } }

theorem routesSwitched_of_onlyEvents {s u : State} {wc : SMap (BitVec 2)} (h : OnlyEvents (switchTables s wc) u) :
    RoutesSwitched s u := by
  obtain ⟨m, f, p, rfl⟩ := h
  exact ⟨rfl, rfl, rfl, rfl, rfl, rfl, rfl⟩

/-- No row is freed where no range becomes bulk, or no frame holds a row. -/
theorem freeBulkRows_none {s : State} (h : bulkRanges s = [] ∨ s.uc.tags = []) : freeBulkRows s = s := by
  obtain h | h := h <;> simp [freeBulkRows, h]

theorem startRouteScans_none {s : State} (h : recallRanges s = []) : startRouteScans s = s := by
  simp [startRouteScans, h]

theorem mapSwitch_scanning {s : State} (h : s.trowel.scans.any (fun c => c.owner == .routeCommit) = true) :
    mapSwitch s = s := by simp [mapSwitch, h]

section
variable {s : State} {h : Nat} (hc : s.fab.committing = true) (hb : bulkRanges s = [] ∨ s.uc.tags = [])
  (hs : s.trowel.scans.any (fun c => c.owner == .routeCommit) = false) (hm : s.mg.routeCommit = some h)
include hc hb hs hm

theorem mapSwitch_free : ∃ wc, mapSwitch s = answerHatch (ansOk (switchTables s wc) h []) h := by
  rw [mapSwitch, if_neg (by simp [hc, hs])]
  simp only [freeBulkRows_none hb, hm]
  exact ⟨_, rfl⟩

theorem mapSwitch_answers (hst : (hatch s h).st = .busy) (hn : (hatch s h).notify = false) :
    RoutesSwitched s (mapSwitch s) ∧ (hatch (mapSwitch s) h).st = .done := by
  obtain ⟨wc, hw⟩ := mapSwitch_free hc hb hs hm
  obtain ⟨hev, hdone⟩ := answerHatch_ansOk (s := switchTables s wc) hst hn []
  rw [hw]
  exact ⟨routesSwitched_of_onlyEvents hev, hdone⟩

end

/-! ## ROUTE_COMMIT -/

/-- The commit is in progress and its command held until the switch. -/
def holdCommit (s : State) (h : Nat) : State :=
  let s := { hatchWait s h with fab := { s.fab with committing := true } }
  { s with mg := { s.mg with routeCommit := some h } }

theorem hatch_holdCommit (s : State) (h : Nat) : hatch (holdCommit s h) h = { hatch s h with waiting := true } :=
  hatch_putHatch_same s h _

theorem routeCommit_second {s : State} (h : Nat) (hc : s.fab.committing = true) : routeCommit s h = ans s h 1 := if_pos hc

theorem routeCommit_illegal {s : State} (h : Nat) {i : Nat} (hc : s.fab.committing = false) (he : routeErr s = some i) :
    routeCommit s h = hatchResult s h 2 [] 0 i := by simp [routeCommit, hc, he]

theorem routeCommit_legal {s : State} (h : Nat) (hc : s.fab.committing = false) (he : routeErr s = none) :
    routeCommit s h = settle (mapSwitch (startRouteScans (holdCommit s h))) := by
  simp only [routeCommit, hc, he]
  rfl

/-- A legal commit that recalls nothing switches at once. -/
theorem routeCommit_switches {s : State} {h : Nat} (hc : s.fab.committing = false) (he : routeErr s = none)
    (hr : recallRanges s = []) (hb : bulkRanges s = [] ∨ s.uc.tags = [])
    (hs : s.trowel.scans.any (fun c => c.owner == .routeCommit) = false) (hst : (hatch s h).st = .busy)
    (hn : (hatch s h).notify = false) :
    ∃ u, routeCommit s h = settle u ∧ RoutesSwitched s u ∧ (hatch u h).st = .done := by
  have hhold := hatch_holdCommit s h
  have hswitch := mapSwitch_answers (s := holdCommit s h) (h := h) rfl hb hs rfl
    ((congrArg Hatch.st hhold).trans hst) ((congrArg Hatch.notify hhold).trans hn)
  exact ⟨_, (routeCommit_legal h hc he).trans (by rw [startRouteScans_none (s := holdCommit s h) hr]), hswitch⟩

section
variable {s : State} (hl : live s = true)
include hl

theorem exec_routeCommit {h : Nat} (hh : h < 16) (hr : hatchReady s h 0x0212 0x0212 = true) :
    exec (.routeCommit h) s = .next (routeCommit s h) :=
  hatchRun_ready _ hh hl hr

theorem exec_mapSwitch : exec .mapSwitch s = .next (settle (mapSwitch s)) :=
  whenLive_live (fun s => settle (mapSwitch s)) hl

end

/-- Settles O17: ROUTE_COMMIT by its three cases, the legal one and MAP_SWITCH by `mapSwitch_answers`. -/
theorem routeCommitAndMapSwitch : Obligations.RouteCommitAndMapSwitch := by
  unfold Obligations.RouteCommitAndMapSwitch
  intro s h hl hh switched
  refine ⟨fun hready => ?commit, fun hc hb hs hm hst hn => ?switch,
    fun hs => next_of_eq (exec_mapSwitch hl) (congrArg settle (mapSwitch_scanning hs))⟩
  case commit =>
    have hrun := exec_routeCommit hl hh hready
    obtain ⟨hst, -, -⟩ := hatchReady_busy hready
    refine ⟨fun hc => next_of_eq hrun (routeCommit_second h hc),
      fun i hc he => next_of_eq hrun (routeCommit_illegal h hc he), fun hc he hr hb hs hn => ?legal⟩
    obtain ⟨u, hu, hswitched, hdone⟩ := routeCommit_switches hc he hr hb hs hst hn
    exact ⟨u, next_of_eq hrun hu, hswitched, hdone⟩
  case switch => exact ⟨_, exec_mapSwitch hl, mapSwitch_answers hc hb hs hm hst hn⟩

end Sys2Proof.Machine

/-! # Messages served (05 R154, R161, R172, R176; 10 R302; 13 R377; 16 R450)

A message for this stack changes the credits of its ingress, the counters, and the tables of the transactions. What each
part leaves alone is said first, then what `serve` picks by the opcode, then what a memory request, a management request
and a grant acknowledgement do. -/

namespace Sys2Proof.Machine

/-! ## The links and the counters that a message touches -/

theorem modLink_eq (s : State) (p : Nat) (f : Link → Link) :
    ∃ (w : WidePort) (x : SMap FabPort), modLink s p f = { s with wp := w, fp := x } := by
  unfold modLink putLink
  split
  · exact ⟨_, s.fp, rfl⟩
  · exact ⟨s.wp, _, rfl⟩

theorem linkOf_modLink_same (s : State) (p : Nat) (f : Link → Link) : linkOf (modLink s p f) p = f (linkOf s p) :=
  linkOf_putLink_same s p _

theorem retHdr_eq (s : State) (ing k n : Nat) :
    ∃ (w : WidePort) (x : SMap FabPort), retHdr s ing k n = { s with wp := w, fp := x } := by
  unfold retHdr
  split
  · exact ⟨s.wp, s.fp, rfl⟩
  · exact modLink_eq _ _ _

theorem retLine_eq (s : State) (ing k n : Nat) :
    ∃ (w : WidePort) (x : SMap FabPort), retLine s ing k n = { s with wp := w, fp := x } := by
  unfold retLine
  split
  · exact ⟨s.wp, s.fp, rfl⟩
  · exact modLink_eq _ _ _

/-- A message that leaves its ingress changes its link alone. -/
theorem leaveIngress_eq (s : State) (ing : Nat) (m : Msg) :
    ∃ (w : WidePort) (x : SMap FabPort), leaveIngress s ing m = { s with wp := w, fp := x } := by
  obtain ⟨_, _, hhdr⟩ := retHdr_eq s ing (opClass (hOp m.h0)) 1
  rw [leaveIngress, hhdr]
  exact retLine_eq _ _ _ _

@[simp] theorem leaveIngress_tx (s : State) (ing : Nat) (m : Msg) : (leaveIngress s ing m).tx = s.tx := by
  obtain ⟨_, _, h⟩ := leaveIngress_eq s ing m
  rw [h]

@[simp] theorem leaveIngress_dram (s : State) (ing : Nat) (m : Msg) : (leaveIngress s ing m).dram = s.dram := by
  obtain ⟨_, _, h⟩ := leaveIngress_eq s ing m
  rw [h]

@[simp] theorem c0_tx (s : State) (elem code detail lim : Nat) : (c0 s elem code detail lim).tx = s.tx := by
  obtain ⟨_, _, _, h⟩ := onlyEvents_c0 s elem code detail lim
  rw [h]

@[simp] theorem c0_dram (s : State) (elem code detail lim : Nat) : (c0 s elem code detail lim).dram = s.dram := by
  obtain ⟨_, _, _, h⟩ := onlyEvents_c0 s elem code detail lim
  rw [h]

theorem sampReload_eq (s : State) : ∃ p : Perf, sampReload s = { s with perf := p } := by
  unfold sampReload
  dsimp only
  split
  · exact ⟨_, rfl⟩
  · exact ⟨_, rfl⟩

theorem sampEligible_eq (s : State) (c : Nat) (x : Sample) : ∃ p : Perf, sampEligible s c x = { s with perf := p } := by
  unfold sampEligible
  split
  · split
    · exact sampReload_eq _
    · exact ⟨_, rfl⟩
  · exact ⟨s.perf, rfl⟩

/-- A request that passes its ingress step is counted and perhaps sampled (19 R502, R505). -/
theorem passIngress_eq (s : State) (ing : Nat) (m : Msg) : ∃ p : Perf, passIngress s ing m = { s with perf := p } := by
  unfold passIngress
  split
  · obtain ⟨_, hocc⟩ := occ_eq s 0x040 4 ((agentOf s (hSrc m.h0)).getD 15) 1
    rw [hocc]
    exact sampEligible_eq _ _ _
  · exact sampEligible_eq _ _ _

@[simp] theorem passIngress_tx (s : State) (ing : Nat) (m : Msg) : (passIngress s ing m).tx = s.tx := by
  obtain ⟨_, h⟩ := passIngress_eq s ing m
  rw [h]

@[simp] theorem passIngress_dram (s : State) (ing : Nat) (m : Msg) : (passIngress s ing m).dram = s.dram := by
  obtain ⟨_, h⟩ := passIngress_eq s ing m
  rw [h]

@[simp] theorem passIngress_wp (s : State) (ing : Nat) (m : Msg) : (passIngress s ing m).wp = s.wp := by
  obtain ⟨_, h⟩ := passIngress_eq s ing m
  rw [h]

@[simp] theorem passIngress_fp (s : State) (ing : Nat) (m : Msg) : (passIngress s ing m).fp = s.fp := by
  obtain ⟨_, h⟩ := passIngress_eq s ing m
  rw [h]

theorem regAdvance_eq (s : State) : ∃ r : Regulator, regAdvance s = { s with reg := r } := by
  unfold regAdvance
  dsimp only
  split
  · exact ⟨s.reg, rfl⟩
  · exact ⟨_, rfl⟩

theorem debitWrback_eq (s : State) (n : Nat) (c : Charge) : ∃ r : Regulator, debitWrback s n c = { s with reg := r } := by
  obtain ⟨_, hadv⟩ := regAdvance_eq s
  rw [debitWrback, hadv]
  exact ⟨_, rfl⟩

@[simp] theorem debitWrback_tx (s : State) (n : Nat) (c : Charge) : (debitWrback s n c).tx = s.tx := by
  obtain ⟨_, h⟩ := debitWrback_eq s n c
  rw [h]

@[simp] theorem debitWrback_dram (s : State) (n : Nat) (c : Charge) : (debitWrback s n c).dram = s.dram := by
  obtain ⟨_, h⟩ := debitWrback_eq s n c
  rw [h]

/-- Whether a pool has a context free depends on the contexts alone. -/
theorem poolFree_of_tx {s t : State} (h : t.tx = s.tx) (ing : Nat) : poolFree t ing = poolFree s ing := by
  rw [poolFree, poolUsed, h, poolFree, poolUsed]

/-! ## What `serve` picks by the opcode -/

theorem isMgmt_iff {op : Nat} : isMgmt op = true ↔ op = opMgRd ∨ op = opMgWr := by
  simp [isMgmt]

theorem retriesNow_of_not_request {op : Nat} (s : State) (h : opIsRequest op = false) : retriesNow s op = false := by
  simp [retriesNow, h]

section
variable {s : State} {ing : Nat} {m : Msg}

theorem serve_retry (hr : retriesNow s (hOp m.h0) = true) : serve s ing m = retryNow s ing m := if_pos hr

section
variable (hr : retriesNow s (hOp m.h0) = false)
include hr

theorem serve_mgmt (hm : isMgmt (hOp m.h0) = true) : serve s ing m = takeMgmt s ing m := by
  simp [serve, hr, hm]

theorem serve_bulk (hb : hOp m.h0 = opBulk) : serve s ing m = takeBulk s ing m := by
  have hm : isMgmt (hOp m.h0) = false := by rw [hb]; rfl
  rw [serve, hr, hm]
  exact if_pos hb

theorem serve_request (hq : opIsRequest (hOp m.h0) = true) (hrd : hOp m.h0 ≠ opMgRd) (hwr : hOp m.h0 ≠ opMgWr)
    (hb : hOp m.h0 ≠ opBulk) : serve s ing m = takeRequest s ing m := by
  have hm : isMgmt (hOp m.h0) = false := Bool.eq_false_iff.mpr fun h => (isMgmt_iff.mp h).elim hrd hwr
  simp [serve, hr, hm, hb, hq]

end

theorem serve_snoop (h : hOp m.h0 = opSnpRsp ∨ hOp m.h0 = opSnpRspd) : serve s ing m = snoopAnswer s ing m := by
  have hq : opIsRequest (hOp m.h0) = false := by rcases h with h | h <;> rw [h] <;> rfl
  have hm : isMgmt (hOp m.h0) = false := by rcases h with h | h <;> rw [h] <;> rfl
  have hb : hOp m.h0 ≠ opBulk := by rcases h with h | h <;> rw [h] <;> decide
  simp [serve, retriesNow_of_not_request s hq, hm, hb, hq, h]

theorem serve_gack (h : hOp m.h0 = opGack) : serve s ing m = takeGack s ing m := by
  have hr : retriesNow s opGack = false := retriesNow_of_not_request s rfl
  rw [serve, h, hr]
  rfl

/-! ## A memory request at its ingress (R154; 10 R300, R302) -/

theorem dupDiscard_tx (s : State) (ing : Nat) (m : Msg) :
    (dupDiscard s ing m).tx = { s.tx with dups := s.tx.dups + 1 } := by
  rw [dupDiscard, c0Tx, c0_tx, leaveIngress_tx]

theorem dupDiscard_dram (s : State) (ing : Nat) (m : Msg) : (dupDiscard s ing m).dram = s.dram := by
  rw [dupDiscard, c0Tx, c0_dram, leaveIngress_dram]

theorem takeRequest_duplicate (h : (openCtx s (hSrc m.h0) (hTag m.h0)).isSome = true) :
    takeRequest s ing m = dupDiscard s ing m := if_pos h

/-- The place a request with whole data takes at its ingress. -/
def newWaiting (s : State) (ing : Nat) (m : Msg) : Waiting :=
  { ing := ing, msg := { m with data := [] }, arr := s.tx.nextArr, data := m.data, dataOk := true,
    rel := firstRel (passIngress s ing m) m.h0, step := none }

section
variable (hn : openCtx s (hSrc m.h0) (hTag m.h0) = none) (hd : m.data.length = dataLines m.h0)
include hn hd

/-- Every other request is held until the regulator releases it. -/
theorem takeRequest_held (hwb : hOp m.h0 ≠ opWrback) (hev : hOp m.h0 ≠ opEvictClean) :
    takeRequest s ing m = { passIngress s ing m with tx := { s.tx with
      nextArr := s.tx.nextArr + 1, held := s.tx.held ++ [newWaiting s ing m] } } := by
  simp [takeRequest, hn, hd, hwb, hev, newWaiting]

/-- WRBACK and EVICT_CLEAN wait for acceptance at once. -/
theorem takeRequest_waiting (h : hOp m.h0 = opWrback ∨ hOp m.h0 = opEvictClean) :
    (takeRequest s ing m).tx = { s.tx with
      nextArr := s.tx.nextArr + 1, waiting := s.tx.waiting ++ [newWaiting s ing m] } ∧
    (takeRequest s ing m).dram = s.dram := by
  rcases h with h | h
  · simp [takeRequest, hn, hd, h, newWaiting]
  · have hwb : opEvictClean ≠ opWrback := by decide
    simp [takeRequest, hn, hd, h, hwb, newWaiting]

end

/-! ## A grant acknowledgement (R176) -/

theorem gackItem_of_tx {t : State} (h : t.tx = s.tx) (i : Nat) : gackItem t i = gackItem s i := by
  rw [gackItem, h, gackItem]

theorem takeGack_releases {c : Ctx} {it : ChainItem} (hcl : h0Clean m.h0 = true) (hc : s.tx.ctxs = [c])
    (hk : c.kind = .request) (hsrc : c.src = hSrc m.h0) (htag : c.tag = hTag m.h0) (hit : gackItem s c.idx = some it) :
    takeGack s ing m = settle (cleanCtxs (dropItem (leaveIngress s ing m) it)) := by
  have hleft := gackItem_of_tx (leaveIngress_tx s ing m) c.idx
  simp [takeGack, hcl, hc, hk, hsrc, htag, hleft, hit]

end

/-! ## Fields of a header that is sent (R147; 04 R139) -/

/-- A field is as it was where another was replaced. -/
theorem extractLsb'_setField {n : Nat} (v : BitVec n) (x : Nat) {lo w i k : Nat} (h : i + k ≤ lo ∨ lo + w ≤ i) :
    (setField v lo w x).extractLsb' i k = v.extractLsb' i k := by
  refine BitVec.eq_of_getLsbD_eq fun j hj => ?_
  have hmask : ((2 ^ w - 1) * 2 ^ lo).testBit (i + j) = false := by
    rw [testBit_fieldMask, Bool.and_eq_false_iff, decide_eq_false_iff_not, decide_eq_false_iff_not]
    omega
  have hvalue : (x % 2 ^ w * 2 ^ lo).testBit (i + j) = false := by
    rw [Nat.testBit_mul_two_pow, Nat.testBit_mod_two_pow, ← Bool.and_assoc, Bool.and_eq_false_iff,
      Bool.and_eq_false_iff, decide_eq_false_iff_not, decide_eq_false_iff_not]
    omega
  by_cases hn : i + j < n
  · simp only [setField, BitVec.getLsbD_extractLsb', BitVec.getLsbD_or, BitVec.getLsbD_and, BitVec.getLsbD_not,
      BitVec.getLsbD_ofNat, hmask, hvalue, hn, decide_true, Bool.and_false, Bool.not_false, Bool.and_true, Bool.or_false]
  · simp [BitVec.getLsbD_extractLsb', BitVec.getLsbD_of_ge _ _ (Nat.not_lt.mp hn)]

/-- An egress writes the hop count and the destination, and no other field. -/
theorem extractLsb'_egressHeader (s : State) (p : Nat) (h0 : Slot) (n : Node) {i k : Nat} (h : i + k ≤ 8 ∨ 40 ≤ i) :
    (egressHeader s p h0 n).extractLsb' i k = h0.extractLsb' i k := by
  have hhops : i + k ≤ 8 ∨ 8 + 6 ≤ i := by omega
  have hdst : i + k ≤ 28 ∨ 28 + 12 ≤ i := by omega
  unfold egressHeader
  split
  · split
    · exact extractLsb'_setField _ _ hdst
    · rfl
  · exact extractLsb'_setField _ _ hhops

/-- The header as `sendTo` queues it. -/
def sentHeader (s : State) (h0 : Slot) (n : Node) : Slot :=
  egressHeader s (routeOf s n) (withHops h0 s.fab.hopLimit.toNat) n

theorem extractLsb'_sentHeader (s : State) (h0 : Slot) (n : Node) {i k : Nat} (h : i + k ≤ 8 ∨ 40 ≤ i) :
    (sentHeader s h0 n).extractLsb' i k = h0.extractLsb' i k := by
  have hhops : i + k ≤ 8 ∨ 8 + 6 ≤ i := by omega
  rw [sentHeader, extractLsb'_egressHeader _ _ _ _ h, withHops, extractLsb'_setField _ _ hhops]

theorem hOp_sentHeader (s : State) (h0 : Slot) (n : Node) : hOp (sentHeader s h0 n) = hOp h0 :=
  congrArg BitVec.toNat (extractLsb'_sentHeader s h0 n (.inl le_rfl))

theorem hStatus_sentHeader (s : State) (h0 : Slot) (n : Node) : hStatus (sentHeader s h0 n) = hStatus h0 :=
  congrArg BitVec.toNat (extractLsb'_sentHeader s h0 n (.inr (by omega)))

theorem hTag_sentHeader (s : State) (h0 : Slot) (n : Node) : hTag (sentHeader s h0 n) = hTag h0 :=
  extractLsb'_sentHeader s h0 n (.inr le_rfl)

/-- Below bit 64 the offset and size that MG_DATA and MG_RSP echo change nothing. -/
theorem extractLsb'_mgmtHdr (s : State) (m : Msg) (op : Nat) {i k : Nat} (h : i + k ≤ 64) :
    (mgmtHdr s m op).extractLsb' i k =
      (mkH0 op s.fab.hopLimit.toNat s.fab.stackNode (hSrc m.h0) (hTag m.h0) stOk 0).extractLsb' i k := by
  refine BitVec.eq_of_getLsbD_eq fun j hj => ?_
  have hecho : (hMoff m.h0 * 2 ^ 64 + hSize m.h0 * 2 ^ 88).testBit (i + j) = false := by
    have hfactor : hMoff m.h0 * 2 ^ 64 + hSize m.h0 * 2 ^ 88 = (hMoff m.h0 + hSize m.h0 * 2 ^ 24) * 2 ^ 64 := by ring
    rw [hfactor, Nat.testBit_mul_two_pow, decide_eq_false (by omega), Bool.false_and]
  simp only [mgmtHdr, BitVec.getLsbD_extractLsb', BitVec.getLsbD_or, BitVec.getLsbD_ofNat, hecho, Bool.and_false,
    Bool.or_false]

section
variable (s : State) (m : Msg) {op : Nat}

theorem hOp_mgmtHdr (hop : op < 256) : hOp (mgmtHdr s m op) = op := by
  rw [hOp, extractLsb'_mgmtHdr s m op (by omega), mkH0, BitVec.extractLsb'_toNat, BitVec.toNat_ofNat]
  omega

theorem hStatus_mgmtHdr (hop : op < 256) : hStatus (mgmtHdr s m op) = stOk := by
  have hsrc := s.fab.stackNode.isLt
  have hdst := (hSrc m.h0).isLt
  have htag := (hTag m.h0).isLt
  rw [hStatus, extractLsb'_mgmtHdr s m op (by omega), mkH0, BitVec.extractLsb'_toNat, BitVec.toNat_ofNat, stOk,
    Nat.shiftRight_eq_div_pow]
  omega

theorem hTag_mgmtHdr (hop : op < 256) : hTag (mgmtHdr s m op) = hTag m.h0 := by
  have hsrc := s.fab.stackNode.isLt
  have hdst := (hSrc m.h0).isLt
  have htag := (hTag m.h0).isLt
  refine BitVec.eq_of_toNat_eq ?_
  rw [hTag, extractLsb'_mgmtHdr s m op (by omega), mkH0, BitVec.extractLsb'_toNat, BitVec.toNat_ofNat, stOk,
    Nat.shiftRight_eq_div_pow]
  omega

end

/-! ## A management request (R154, R155, R161) -/

theorem sendTo_hasEgress {s : State} {n : Node} (o : OutMsg) (h : hasEgress s n = true) :
    sendTo s n o = (enqueue s (routeOf s n) { o with h0 := sentHeader s o.h0 n }, true) := by
  have hno : ¬ (routeOf s n = 4 ∧ egressUsable s 4 = true ∧ (agentOf s n).isNone = true) := by
    rintro ⟨h4, -, hnone⟩
    simp [hasEgress, h4, Option.isNone_iff_eq_none.mp hnone] at h
  simp only [sendTo, if_neg hno, if_pos h, sentHeader]

/-- `t` is `s` after the answer `op` with `data` to a management request was queued, and a context was taken that holds it
until it is placed. -/
def MgmtAnswered (s : State) (m : Msg) (op : Nat) (data : List Line) (t : State) : Prop :=
  ∃ (o : OutMsg) (c : Ctx),
    (linkOf t (routeOf s (hSrc m.h0))).outQ = (linkOf s (routeOf s (hSrc m.h0))).outQ ++ [o] ∧ hOp o.h0 = op ∧
    hStatus o.h0 = stOk ∧ hTag o.h0 = hTag m.h0 ∧ o.lines = data ∧ t.tx.ctxs = s.tx.ctxs ++ [c] ∧ c.src = hSrc m.h0 ∧
    c.tag = hTag m.h0 ∧ c.phase = .answered ∧ t = { s with tx := t.tx, wp := t.wp, fp := t.fp, perf := t.perf }

/-- The state once a management request has its context and its answer is ready. -/
def mgmtHeld (s : State) (ing : Nat) (m : Msg) : State :=
  sampReady { s with tx := { s.tx with
    ctxs := s.tx.ctxs ++ [mgmtCtx s ing m], nextIdx := (mgmtCtx s ing m).idx + 1 } } (hSrc m.h0) (hTag m.h0) false

theorem mgmtAnswer_queued {s : State} (ing : Nat) {m : Msg} (op : Nat) (data : List Line)
    (he : hasEgress s (hSrc m.h0) = true) : mgmtAnswer s ing m op data =
      enqueue (mgmtHeld s ing m) (routeOf s (hSrc m.h0))
        (outMsg (sentHeader s (mgmtHdr s m op) (hSrc m.h0)) 0 data (some (mgmtCtx s ing m).idx) true false) := by
  have hsend := sendTo_hasEgress (s := mgmtHeld s ing m)
    (outMsg (mgmtHdr s m op) 0 data (some (mgmtCtx s ing m).idx) true false) he
  exact (if_pos (congrArg Prod.snd hsend)).trans (congrArg Prod.fst hsend)

theorem linkOf_enqueue (s : State) (p : Nat) (o : OutMsg) :
    (linkOf (enqueue s p o) p).outQ = (linkOf s p).outQ ++ [{ o with since := s.now }] :=
  congrArg Link.outQ (linkOf_modLink_same s p _)

theorem enqueue_eq (s : State) (p : Nat) (o : OutMsg) :
    ∃ (w : WidePort) (x : SMap FabPort), enqueue s p o = { s with wp := w, fp := x } := modLink_eq s p _

theorem mgmtAnswered_mgmtAnswer {s : State} (ing : Nat) {m : Msg} {op : Nat} (data : List Line) (hop : op < 256)
    (he : hasEgress s (hSrc m.h0) = true) : MgmtAnswered s m op data (mgmtAnswer s ing m op data) := by
  rw [mgmtAnswer_queued ing op data he]
  obtain ⟨_, _, heq⟩ := enqueue_eq (mgmtHeld s ing m) (routeOf s (hSrc m.h0))
    (outMsg (sentHeader s (mgmtHdr s m op) (hSrc m.h0)) 0 data (some (mgmtCtx s ing m).idx) true false)
  refine ⟨_, mgmtCtx s ing m, linkOf_enqueue _ _ _, ?op, ?status, ?tag, rfl, ?ctxs, rfl, rfl, rfl, ?frame⟩
  case op => exact (hOp_sentHeader _ _ _).trans (hOp_mgmtHdr s m hop)
  case status => exact (hStatus_sentHeader _ _ _).trans (hStatus_mgmtHdr s m hop)
  case tag => exact (hTag_sentHeader _ _ _).trans (hTag_mgmtHdr s m hop)
  case ctxs => rw [heq]; rfl
  case frame => rw [heq]; rfl

section
variable {s : State} {ing : Nat} {m : Msg}

/-- A management request that its ingress lets pass, as the state is when it asks for the access. -/
def mgmtPassed (s : State) (ing : Nat) (m : Msg) : State :=
  leaveIngress (if moffQuiet (hMoff m.h0) then s else occ (passIngress s ing m) 0x104 7 0xF 1) ing m

theorem takeMgmt_admitted (hn : openCtx s (hSrc m.h0) (hTag m.h0) = none) (hw : s.tx.mgWait = [])
    (hp : poolFree s ing = true) (hf : fieldsOk m = true) (hl : moffListed (hMoff m.h0) = true)
    (hd : mgmtDenied (mgmtPassed s ing m) ing (hSrc m.h0) (hMoff m.h0) (hSize m.h0 + 1) (opRights (hOp m.h0)) = none) :
    takeMgmt s ing m = mgmtServe (mgmtPassed s ing m) ing m := by
  have htx : (if moffQuiet (hMoff m.h0) then s else occ (passIngress s ing m) 0x104 7 0xF 1).tx = s.tx := by
    split <;> simp
  have hacc : takeMgmt s ing m =
      mgmtAccept (if moffQuiet (hMoff m.h0) then s else occ (passIngress s ing m) 0x104 7 0xF 1) ing m := by
    simp [takeMgmt, hn, ingressHas, hw, htx, poolFree_of_tx htx, hp]
  rw [hacc, mgmtAccept]
  simp only [mgmtPassed] at hd ⊢
  simp [hf, hl, hd]

theorem mgmtServe_read (h : hOp m.h0 = opMgRd) : mgmtServe s ing m =
    mgmtAnswer (moffTouch s (hSrc m.h0) (hMoff m.h0)) ing m opMgData
      [lineOf (moffRead (moffTouch s (hSrc m.h0) (hMoff m.h0)) (hMoff m.h0) (hSize m.h0 + 1))] := if_pos h

theorem mgmtServe_write (h : hOp m.h0 = opMgWr) : mgmtServe s ing m =
    mgmtAnswer (moffWrite (moffTouch s (hSrc m.h0) (hMoff m.h0)) (hSrc m.h0) (hMoff m.h0)
      ((lineBytes ((m.data.head?).getD 0)).take (8 * (hSize m.h0 + 1)))) ing m opMgRsp [] :=
  if_neg (by rw [h]; decide)

end

/-- Settles O49: `serve` picks by the opcode, and each kind of message does what its lemma above says. -/
theorem messagesServed : Obligations.MessagesServed := by
  unfold Obligations.MessagesServed
  intro s ing m _ _ op n
  refine ⟨fun hq hrd hwr hb hr => ⟨fun hn hd => ?request, fun hdup => ?duplicate⟩, serve_retry, fun hb hr => serve_bulk hr hb,
    ?management, serve_snoop, serve_gack,
    fun c it _ hcl hc hk hsrc htag hit => takeGack_releases hcl hc hk hsrc htag hit⟩
  case request =>
    rw [serve_request hr hq hrd hwr hb]
    refine ⟨_, newWaiting s ing m, rfl, rfl, rfl, rfl, rfl, rfl, ?_⟩
    by_cases h : op = opWrback ∨ op = opEvictClean
    · obtain ⟨htx, hdram⟩ := takeRequest_waiting hn hd h
      rw [htx]
      exact ⟨rfl, rfl, hdram, fun hwb hev => absurd h (not_or.mpr ⟨hwb, hev⟩), fun _ => ⟨rfl, rfl⟩⟩
    · obtain ⟨hwb, hev⟩ := not_or.mp h
      rw [takeRequest_held hn hd hwb hev]
      exact ⟨rfl, rfl, passIngress_dram s ing m, fun _ _ => ⟨rfl, rfl, passIngress_wp s ing m, passIngress_fp s ing m⟩,
        fun h' => absurd h' h⟩
  case duplicate =>
    refine ⟨_, (serve_request hr hq hrd hwr hb).trans (takeRequest_duplicate hdup), ?_⟩
    rw [dupDiscard_tx]
    exact ⟨rfl, rfl, rfl, rfl, dupDiscard_dram s ing m⟩
  case management =>
    intro hm hr hn hw hp hf hl u v hd
    have hserve : serve s ing m = mgmtServe u ing m := (serve_mgmt hr hm).trans (takeMgmt_admitted hn hw hp hf hl hd)
    constructor
    · intro hrd he
      obtain ⟨o, c, hans⟩ := mgmtAnswered_mgmtAnswer ing (op := opMgData)
        [lineOf (moffRead v (hMoff m.h0) (hSize m.h0 + 1))] (by decide) he
      exact ⟨_, o, c, hserve.trans (mgmtServe_read hrd), hans⟩
    · intro hwr x he
      obtain ⟨o, c, hans⟩ := mgmtAnswered_mgmtAnswer ing (op := opMgRsp) [] (by decide) he
      exact ⟨_, o, c, hserve.trans (mgmtServe_write hwr), hans⟩

end Sys2Proof.Machine

/-! # Requests accepted (05 R154 to R158; 12 R354)

What the pipeline of a region takes next from an ingress decides: nothing, a part of a request accepted before, or a header
that this region leads. A header meets the checks in their order; one that passes takes a context when the pool allows. -/

namespace Sys2Proof.Machine

section
variable {s : State} {region ing : Nat}

/-! ## What a pipeline takes next (R157) -/

theorem acceptNext_nothing (hp : nextPart s region ing = none) (hf : nextFor s region ing = none) :
    acceptNext s region ing = s := by
  simp [acceptNext, hp, hf]

theorem acceptNext_part {c : Ctx} (hp : nextPart s region ing = some c) (hf : nextFor s region ing = none) :
    acceptNext s region ing = acceptPart s c region := by
  simp [acceptNext, hp, hf]

section
variable {w : Waiting} (hp : nextPart s region ing = none) (hf : nextFor s region ing = some w)
include hp hf

theorem acceptNext_led_elsewhere (hl : leadRegion s w.msg.h0 ≠ region) : acceptNext s region ing = s := by
  simp [acceptNext, acceptNext.lead, hp, hf, hl]

theorem acceptNext_header (hl : leadRegion s w.msg.h0 = region) :
    acceptNext s region ing = acceptHeader s ing w := by
  simp [acceptNext, acceptNext.lead, hp, hf, hl]

end

/-! ## A part of a long request (R157) -/

theorem acceptPart_read {c : Ctx} (hw : isWriteOp c.op = false) : acceptPart s c region = takePart s c region := by
  simp [acceptPart, hw]

/-- A part that writes nothing takes an order position; no header leaves the queue and no memory changes. -/
theorem takePart_read {c : Ctx} (hw : isWriteOp c.op = false) :
    (takePart s c region).tx.nextOrd = s.tx.nextOrd + 1 ∧ (takePart s c region).tx.waiting = s.tx.waiting ∧
      (takePart s c region).dram = s.dram := by
  simp only [takePart, hw]
  exact ⟨rfl, rfl, rfl⟩

end

/-! ## The checks in their order (R156; 11 R325; 12 R354) -/

section
variable {s : State} {w : Waiting}

theorem verdict_malformed (hf : fieldsOk w.msg = false) :
    verdict s w = (s, .refuse stMalformed (hAddr w.msg.h0)) := by
  simp [verdict, hf]

theorem verdict_outside (hf : fieldsOk w.msg = true) (ha : rangeOk s w.msg.h0 = false) :
    (verdict s w).2 = .refuse stAddrErr (hAddr w.msg.h0) := by
  simp [verdict, hf, ha]

theorem verdict_regionDown (hf : fieldsOk w.msg = true) (ha : rangeOk s w.msg.h0 = true)
    (hr : (reqRegions s w.msg.h0).any (regionStopped s) = true) :
    verdict s w = (s, .refuse stRegionDown (hAddr w.msg.h0)) := by
  rw [verdict, hf, ha]
  exact if_pos hr

/-! ## A header at the region that leads it (R154, R155) -/

section
variable {ing : Nat} {u : State} (hn : openCtx s (hSrc w.msg.h0) (hTag w.msg.h0) = none)
include hn

theorem acceptHeader_refused {st a : Nat} (hv : verdict s w = (u, .refuse st a)) :
    acceptHeader s ing w = refuseReq u w st a := by
  simp [acceptHeader, hn, hv]

section
variable {e : Bool} {m : Mapped} (hv : verdict s w = (u, .accept e)) (hm : mapFa s.fab.windows (hAddr w.msg.h0 * 64) = some m)
include hv hm

/-- Without a free context in its pool a header waits. -/
theorem acceptHeader_waits (hp : poolFree s ing = false) : acceptHeader s ing w = s := by
  simp [acceptHeader, hn, hv, hm, hp]

theorem acceptHeader_accepted (hp : poolFree s ing = true) (hw : isWriteOp (hOp w.msg.h0) = false) :
    acceptHeader s ing w = acceptReq u w m e := by
  simp [acceptHeader, hn, hv, hm, hp, hw]

end

end

/-! ## What acceptance changes (R155 to R158) -/

theorem countBytes_eq (s : State) (n : Nat) (c : Charge) : ∃ r : Regulator, countBytes s n c = { s with reg := r } :=
  ⟨_, rfl⟩

/-- A context of a port asks for its lines at that port. -/
theorem askAllot_eq {c : Ctx} (s : State) (h : c.ing < 5) :
    ∃ (x : WidePort) (f : SMap FabPort), askAllot s c = { s with wp := x, fp := f } := by
  unfold askAllot
  dsimp only
  split
  · exact ⟨s.wp, s.fp, rfl⟩
  · split
    · exact ⟨_, s.fp, rfl⟩
    · rw [if_pos (by omega)]
      exact ⟨s.wp, _, rfl⟩

/-- The transactions once a request was accepted. -/
def acceptedTx (s : State) (w : Waiting) (m : Mapped) (exempt : Bool) : Tx :=
  let c := newCtx s w m exempt
  { s.tx with
    waiting := s.tx.waiting.filter (fun v => v.arr ≠ w.arr), ctxs := s.tx.ctxs ++ [c], nextIdx := c.idx + 1,
    nextOrd := s.tx.nextOrd + 1, chain := s.tx.chain ++ chainFor c.idx (c.lines.filter CtxLine.accepted) }

/-- Acceptance of a request without data takes its context, is counted, and asks for lines at its port. -/
theorem acceptReq_read {m : Mapped} {e : Bool} (hw : isWriteOp (hOp w.msg.h0) = false) (hi : w.ing < 5) :
    ∃ (p : Perf) (r : Regulator) (x : WidePort) (f : SMap FabPort), acceptReq s w m e =
      { s with tx := acceptedTx s w m e, perf := p, reg := r, wp := x, fp := f } := by
  have hop : isWriteOp (newCtx s w m e).op = false := hw
  obtain ⟨p, hocc⟩ := occ_eq { s with tx := acceptedTx s w m e } 0x010 (newCtx s w m e).lead 0xF 1
  obtain ⟨r, hcount⟩ := countBytes_eq { s with tx := acceptedTx s w m e, perf := p } (newCtx s w m e).src.toNat
    (chargeOf s w)
  obtain ⟨x, f, hask⟩ := askAllot_eq (c := newCtx s w m e) { s with tx := acceptedTx s w m e, perf := p, reg := r } hi
  refine ⟨p, r, x, f, ?_⟩
  simp only [acceptReq, hop, Bool.false_and, Bool.false_eq_true, if_false]
  rw [← hask, ← hcount, ← hocc]
  rfl

end

/-! ## The command on a stack that acts -/

section
variable {s : State} (hl : live s = true) (region ing : Nat) (bad : List Nat)
include hl

theorem exec_requestAccept_closed (hp : pipesOpen s = false) : exec (.requestAccept region ing bad) s = .next s := by
  change execRequestAccept region ing bad s = _
  rw [execRequestAccept, whenLive_live _ hl, if_neg (Bool.eq_false_iff.mp hp)]

theorem exec_requestAccept_open (hp : pipesOpen s = true) : exec (.requestAccept region ing bad) s =
    .next (settle (acceptNext (bad.foldl (loseDirSet region) s) region ing)) := by
  change execRequestAccept region ing bad s = _
  rw [execRequestAccept, whenLive_live _ hl, if_pos hp]

end

/-- Settles O50: what the pipeline takes next, then the header at its lead region by the verdict of its checks. -/
theorem requestAcceptance : Obligations.RequestAcceptance := by
  unfold Obligations.RequestAcceptance
  intro s region ing hl
  refine ⟨exec_requestAccept_closed hl region ing, exec_requestAccept_open hl region ing, acceptNext_nothing,
    fun w hp hf hr => acceptNext_led_elsewhere hp hf hr, fun w m u e hp hf hr hn hv hm => ?passed,
    fun w u st a hp hf hr hn hv => (acceptNext_header hp hf hr).trans (acceptHeader_refused hn hv),
    fun c hp hf hw => ⟨_, (acceptNext_part hp hf).trans (acceptPart_read hw), takePart_read hw⟩,
    fun w => ⟨verdict_malformed, verdict_outside, verdict_regionDown⟩, fun w m e hw hi => ?accepted⟩
  case passed =>
    have hheader := acceptNext_header hp hf hr
    exact ⟨fun hpool => hheader.trans (acceptHeader_waits hn hv hm hpool),
      fun hpool hw => hheader.trans (acceptHeader_accepted hn hv hm hpool hw)⟩
  case accepted =>
    obtain ⟨p, r, x, f, hacc⟩ := acceptReq_read (s := s) (m := m) (e := e) hw hi
    rw [hacc]
    exact ⟨newCtx s w m e, rfl, rfl, rfl, rfl, rfl, rfl, rfl, rfl⟩

end Sys2Proof.Machine

/-! # Region reset and the commanded Undercoat reset (06 R209; 12 R355, R356)

A region whose lost-write list is empty, with no row in the Undercoat, has nothing to write before its admissions open:
what is left is the tables of stopped regions and of resets, in which only its own entry changes. -/

namespace Sys2Proof.Machine

/-! ## REGION_RESET -/

section
variable {s : State} {h r : Nat} (hl : live s = true) (hh : h < 16) (hready : hatchReady s h 0x0305 0x0305 = true)
  (hf : reservedBad s h [(0, 1)] = []) (hpl : pl s h 0 1 = r) (hr : r < nRegions s)
include hl hh hready hf hpl hr

theorem exec_regionReset : exec (.regionReset h) s =
    .next (if !regionStopped s r || s.heat.stop != .running then ans s h 3
      else if resetting s r then hatchWait s h else regionResetStart (hatchWait s h) r) := by
  change hatchRun h 0x0305 0x0305 s (fun s => regionReset s h) = _
  rw [hatchRun_ready _ hh hl hready, regionReset, withFields_legal _ hf (by simp [hpl, hr]), hpl]

theorem exec_regionReset_denied (hd : regionStopped s r = false ∨ s.heat.stop ≠ .running) :
    exec (.regionReset h) s = .next (ans s h 3) := by
  rw [exec_regionReset hl hh hready hf hpl hr, if_pos (by simpa using hd)]

section
variable (hs : regionStopped s r = true) (hheat : s.heat.stop = .running)
include hs hheat

theorem exec_regionReset_joins (hp : resetting s r = true) : exec (.regionReset h) s = .next (hatchWait s h) := by
  rw [exec_regionReset hl hh hready hf hpl hr, if_neg (by simp [hs, hheat]), if_pos hp]

theorem exec_regionReset_starts (hp : resetting s r = false) :
    exec (.regionReset h) s = .next (regionResetStart (hatchWait s h) r) := by
  rw [exec_regionReset hl hh hready hf hpl hr, if_neg (by simp [hs, hheat]), if_neg (Bool.eq_false_iff.mp hp)]

end

end

/-- No collector of the region keeps a record. -/
theorem region_ne_of_mem_clearCollectors {s : State} {r : Nat} {x : FaultRec} (h : x ∈ (clearCollectors s r).faults.slots) :
    x.region.toNat ≠ r := of_decide_eq_true (List.mem_filter.mp h).2

/-! ## Admissions (R356) -/

theorem getLsbD_setBit_false {n i j : Nat} (v : BitVec n) (hj : j < n) :
    (setBit v i false).getLsbD j = (v.getLsbD j && decide (j ≠ i)) := by
  have hone : (decide (i ≤ j) && decide (j < i + 1)) = decide (j = i) := by
    rw [← Bool.decide_and, decide_eq_decide]; omega
  rw [setBit, show b2n false = 0 from rfl, getLsbD_setField_zero v i 1 hj, hone, decide_not]

theorem writeLost_none {s : State} {r : Nat} (h : smGet [] s.faults.lostWrites r = []) : writeLost s r =
    { s with faults := { s.faults with lostWrites := smSet [] s.faults.lostWrites r [] } } := by
  simp [writeLost, h]

theorem ucWriteBack_none {s : State} (h : s.uc.tags = []) (lb : Nat) : ucWriteBack s lb = s := by
  simp [ucWriteBack, h]

/-- The region neither stopped nor in a reset, with no line lost and no scan owed. -/
def regionOpened (s : State) (r : Nat) : State :=
  { s with
    faults := { s.faults with
      lostWrites := smSet [] s.faults.lostWrites r [], stopped := setBit s.faults.stopped r false,
      resets := smSet none s.faults.resets r none }
    acc := { s.acc with owed := s.acc.owed.filter (fun p => p.1 ≠ r) } }

theorem regionStopped_regionOpened (s : State) (r : Nat) {q : Nat} (hq : q < 4) :
    regionStopped (regionOpened s r) q = (regionStopped s q && decide (q ≠ r)) :=
  getLsbD_setBit_false s.faults.stopped hq

theorem resetting_regionOpened (s : State) (r : Nat) : resetting (regionOpened s r) r = false :=
  congrArg Option.isSome (smGet_smSet_same none s.faults.resets r none)

theorem admitRegion_early {s : State} {r : Nat} (h : resetReady s r = false) : admitRegion s r = s := by
  simp [admitRegion, h]

theorem admitRegion_ready {s : State} {r : Nat} (h : resetReady s r = true)
    (hlost : smGet [] s.faults.lostWrites r = []) (hu : (ucReg s r).secondLoss = false) (ht : s.uc.tags = [])
    (hw : waitingFor s 0x0305 = []) : admitRegion s r = settle (regionOpened s r) := by
  have hback (l : List Nat) : l.foldl ucWriteBack (writeLost s r) = writeLost s r :=
    foldl_fixed_of_mem fun lb _ => ucWriteBack_none (by rw [writeLost_none hlost]; exact ht) lb
  have hkept : (ucReg (writeLost s r) r).secondLoss = false := by rw [writeLost_none hlost]; exact hu
  have hwaits : waitingFor (regionOpened s r) 0x0305 = [] := hw
  rw [admitRegion, if_neg (by simp [h]), hback]
  simp only [hkept, Bool.false_eq_true, if_false]
  rw [writeLost_none hlost]
  change settle (((waitingFor (regionOpened s r) 0x0305).filter _).foldl _ (regionOpened s r)) = _
  rw [hwaits]
  rfl

theorem exec_regionResetAdmissionsOpen {s : State} {r : Nat} (hl : live s = true) (hr : r < 4) :
    exec (.regionResetAdmissionsOpen r) s = .next (admitRegion s r) :=
  (if_pos hr).trans (whenLive_live (fun s => admitRegion s r) hl)

/-! ## UC_RESET (R209) -/

theorem exec_ucReset {s : State} {h : Nat} (hl : live s = true) (hh : h < 16)
    (hready : hatchReady s h 0x0306 0x0306 = true) :
    exec (.ucReset h) s = .next (if !s.cfg.ucEnable then ans s h 4 else startUcReset (hatchWait s h)) :=
  hatchRun_ready _ hh hl hready

/-- Settles O27: REGION_RESET by its three cases, admissions by `regionOpened`, UC_RESET by whether the Undercoat is
there. -/
theorem regionAndUndercoatResets : Obligations.RegionAndUndercoatResets := by
  unfold Obligations.RegionAndUndercoatResets
  intro s h r hl hh hr
  have hopen := exec_regionResetAdmissionsOpen hl hr
  refine ⟨fun hready hf hpl hn => ⟨exec_regionReset_denied hl hh hready hf hpl hn,
      exec_regionReset_joins hl hh hready hf hpl hn, exec_regionReset_starts hl hh hready hf hpl hn⟩,
    fun x => region_ne_of_mem_clearCollectors, fun he => next_of_eq hopen (admitRegion_early he),
    fun hready hlost hu _ ht hw => ?admitted, fun hready => ?ucReset⟩
  case admitted =>
    refine ⟨regionOpened s r, next_of_eq hopen (admitRegion_ready hready hlost hu ht hw), ?_,
      resetting_regionOpened s r, fun q hq hqr => ?_⟩
    · simp [regionStopped_regionOpened s r hr]
    · simp [regionStopped_regionOpened s r hq, hqr]
  case ucReset =>
    have hrun := exec_ucReset hl hh hready
    exact ⟨fun he => next_of_eq hrun (if_pos (by simp [he])), fun he => next_of_eq hrun (if_neg (by simp [he]))⟩

end Sys2Proof.Machine

/-! # The Undercoat's own events (06 R191, R199 to R202, R207 to R211) -/

namespace Sys2Proof.Machine

/-! ## An entry the walk finds lost, a frame it finds faulty (R191, R207) -/

section
variable {s : State} {r set way : Nat}

theorem lostTag_unnamed (h : (tagGet s r set way).hdr = none) :
    lostTag s r set way false = regionFault s .c3 r 0x0605 0 := by simp [lostTag, h]

theorem lostTag_named {rid : BitVec 25} (h : (tagGet s r set way).hdr = some rid) : lostTag s r set way false =
    sliceFault (frameFree (poisonRow s r rid.toNat) r set way) .c2 (sliceOf r set way) 0x0603 1 := by simp [lostTag, h]

/-- A frame retired, recorded and reported; DETAIL says whether its set was left without a spare. -/
def frameRetired (s : State) (r set way : Nat) : State :=
  let t := storeChanged (retireFrame s r set way true)
  sliceFault t .c1 (sliceOf r set way) 0x0602 (b2n ((ucReg s r).noSpare.length < (ucReg t r).noSpare.length))

theorem faultyFrame_retired (h : (tagGet s r set way).wstate = .retired) : faultyFrame s r set way = s := by
  simp [faultyFrame, h]

section
variable (h : (tagGet s r set way).wstate ≠ .retired)
include h

theorem faultyFrame_few (hn : retiredIn (frameRetired s r set way) (sliceOf r set way) ≤ 64) :
    faultyFrame s r set way = frameRetired s r set way := by
  rw [faultyFrame, if_neg (by simpa using h)]
  exact if_neg (Nat.not_lt.mpr hn)

theorem faultyFrame_many (hn : 64 < retiredIn (frameRetired s r set way) (sliceOf r set way)) :
    faultyFrame s r set way = sliceLoss (frameRetired s r set way) (sliceOf r set way) true := by
  rw [faultyFrame, if_neg (by simpa using h)]
  exact if_pos hn

end

end

/-! ## The walk (R191) -/

/-- The walk's pointer at an entry, and its frame with the errors of its cells. -/
def walkedTo (s : State) (r set way : Nat) (errs : List (Nat × Nat × BitVec 8)) : State :=
  errs.foldl (flipFrame r set way) (ucRegPut s r { ucReg s r with walk := set * 16 + way })

section
variable {s : State} {r set way : Nat} {errs : List (Nat × Nat × BitVec 8)} (hl : live s = true) (hr : r < 4)
  (hw : way < 16) (he : errs.all (fun e => e.1 < 32 && e.2.1 < 72) = true)
include hl hr hw he

theorem exec_tagWalk_unusable (lost hdrLost faulty : Bool) (h : ucUsable s r = false ∨ cSets s ≤ set) :
    exec (.tagWalk r set way lost hdrLost faulty errs) s = .next s := by
  change execTagWalk r set way lost hdrLost faulty errs s = _
  rw [execTagWalk, if_pos ⟨hr, hw, he⟩, whenLive_live _ hl, if_neg]
  obtain hu | hs := h
  · simp [hu]
  · simp [Nat.not_lt.mpr hs]

theorem exec_tagWalk_usable (hu : ucUsable s r = true) (hs : set < cSets s) (lost hdrLost faulty : Bool) :
    exec (.tagWalk r set way lost hdrLost faulty errs) s =
      let u := walkedTo s r set way errs
      let v := if lost then lostTag u r set way hdrLost else u
      .next (if faulty then settle (faultyFrame v r set way) else if lost then settle v else v) := by
  change execTagWalk r set way lost hdrLost faulty errs s = _
  rw [execTagWalk, if_pos ⟨hr, hw, he⟩, whenLive_live _ hl, if_pos (by simp [hu, hs])]
  rfl

end

/-! ## The sweep (R202) -/

section
variable {s : State} {r p : Nat} (hp : (ucReg s r).sweep = some p)
include hp

theorem sweepStep_ends (hn : nextUnknown s r p = none) : sweepStep s r = endPass s r := by simp [sweepStep, hp, hn]

section
variable {sec : Nat} (hn : nextUnknown s r p = some sec)
include hn

theorem sweepStep_noRoom (hroom : sweepRoom s r = false) : sweepStep s r = s := by simp [sweepStep, hp, hn, hroom]

section
variable (hfree : ∀ c ∈ s.tx.chain, c.region = r → c.sector ≠ sec) (hroom : sweepRoom s r = true)
  (hrun : mayRun s (physBlock s (sectorLine r sec 0).1) 8 4 (ucReg s r).sweepAt = true)
include hfree hroom hrun

/-- A sector that no request holds, with room for its four lines, is read: what follows depends on its hints alone. -/
theorem sweepStep_reads : sweepStep s r =
    let u := runLines (sweepPast s r sec) (physBlock s (sectorLine r sec 0).1) 4
    if sectorHinted s r sec then (if poolFree s 5 then broadcast u r sec none else s) else markKnown u r sec := by
  have hidle : s.tx.chain.any (fun c => c.region = r && c.sector = sec) = false := by simpa using hfree
  simp [sweepStep, hp, hn, hidle, hroom, hrun]

end

end

end

section
variable {s : State} {r : Nat} (hl : live s = true) (hr : r < 4)
include hl hr

theorem exec_hintSweepRead_off (h : ucUsable s r = false ∨ s.heat.stop ≠ .running) :
    exec (.hintSweepRead r) s = .next s := by
  change execHintSweepRead r s = _
  rw [execHintSweepRead, if_pos hr, whenLive_live _ hl, if_neg]
  obtain hu | hheat := h
  · simp [hu]
  · simp [hheat]

theorem exec_hintSweepRead_on (hu : ucUsable s r = true) (hs : regionStopped s r = false) (hheat : s.heat.stop = .running) :
    exec (.hintSweepRead r) s = .next (settle (sweepStep s r)) := by
  change execHintSweepRead r s = _
  rw [execHintSweepRead, if_pos hr, whenLive_live _ hl, if_pos (by simp [hu, hs, hheat])]

end

/-! ## A domain reset is decided (R209, R210) -/

section
variable {s : State}

theorem startUcReset_none (h : s.uc.reset ≠ .none ∨ s.cfg.ucEnable = false) : startUcReset s = s :=
  if_pos (by simpa using h)

/-- With no dirty line and no test run nothing is poisoned: the fault is C1. -/
theorem startUcReset_clean (hr : s.uc.reset = .none) (he : s.cfg.ucEnable = true) (hd : ∀ r < 4, dirtyItems s r = [])
    (ht : s.test.runs = []) : startUcReset s =
    let u := (List.range 4).foldl resetRegion s
    settle (chipFault { u with
      tx := { u.tx with nextOrd := u.tx.nextOrd + 1 },
      uc := { u.uc with dir := [], reset := .decided, t0 := u.now, epoch := u.uc.epoch + 1 } } .c1 6 0x0604 0) := by
  have hpois : (List.range 4).any (fun r => ucOn s r && (!(dirtyItems s r).isEmpty || (runsIn s r).any inUnit)) = false := by
    have hruns (r : Nat) : runsIn s r = [] := by simp [runsIn, ht]
    refine List.any_eq_false.mpr fun r hmem => ?_
    simp [hd r (List.mem_range.mp hmem), hruns]
  rw [startUcReset, if_neg (by simp [hr, he]), hpois, ht]
  rfl

/-! ## A slice that does not answer (R207, R209) -/

section
variable {k : Nat} (readable : Bool)

theorem sliceTimeout_off (h : ucOn s (k / 16) = false) : sliceTimeout s k readable = s := by simp [sliceTimeout, h]

section
variable (h : ucOn s (k / 16) = true)
include h

theorem sliceTimeout_again (hf : failedLately s k = true) : sliceTimeout s k readable = settle (sliceLoss s k readable) := by
  simp [sliceTimeout, h, hf]

theorem sliceTimeout_first (hf : failedLately s k = false) (hr : s.uc.reset = .none) : sliceTimeout s k readable =
    startUcReset { s with uc := { s.uc with
      lastReset := (k, s.now) :: s.uc.lastReset.filter (fun p => p.1 ≠ k) } } := by
  simp [sliceTimeout, h, hf, hr]

end

end

/-! ## The slices return (R210) -/

theorem slicesReturn_empty (hw : waitingFor s 0x0306 = []) (ht : s.uc.tags = []) : slicesReturn s =
    settle { s with uc := { s.uc with
      reset := .none, dir := [], frames := [], shadow := [], returned := some s.now } } := by
  have hwaits : ∀ u : Uc, waitingFor { s with uc := u } 0x0306 = [] := fun _ => hw
  simp only [slicesReturn, ht, hwaits, List.foldl_nil]

/-! ## The commands of the domain on a stack that acts -/

section
variable (hl : live s = true)
include hl

theorem exec_ucSliceTimeout {k : Nat} (hk : k < 64) (readable : Bool) :
    exec (.ucSliceTimeout k readable) s = .next (sliceTimeout s k readable) :=
  (if_pos hk).trans (whenLive_live (fun s => sliceTimeout s k readable) hl)

theorem exec_ucOscFault : exec .ucOscFault s = .next (startUcReset s) := whenLive_live (fun s => startUcReset s) hl

theorem exec_ucResetHold : exec .ucResetHold s = .next
    (if s.uc.reset = .decided ∧ waited s s.uc.t0 500 then { s with uc := { s.uc with reset := .held } } else s) :=
  whenLive_live _ hl

theorem exec_ucResetOscStable : exec .ucResetOscStable s = .next
    (if s.uc.reset = .held ∧ waited s s.uc.t0 5000 then { s with uc := { s.uc with reset := .stable } } else s) :=
  whenLive_live _ hl

theorem exec_ucResetSlicesReturn : exec .ucResetSlicesReturn s = .next
    (if s.uc.reset = .stable ∧ waited s s.uc.t0 11000 then slicesReturn s else s) :=
  whenLive_live _ hl

end

end

/-- Settles O52: one case per command; the walk by what it finds, the sweep by the next unknown sector, the reset by its
phase. -/
theorem undercoatCommands : Obligations.UndercoatCommands := by
  unfold Obligations.UndercoatCommands
  intro s hl
  have hosc := exec_ucOscFault hl
  have hhold := exec_ucResetHold hl
  have hstable := exec_ucResetOscStable hl
  have hreturn := exec_ucResetSlicesReturn hl
  refine ⟨fun r set way hdrLost errs hr hw he hu hs => ?walk,
    fun r set way lost hdrLost faulty hr hw h => exec_tagWalk_unusable hl hr hw rfl lost hdrLost faulty h,
    fun r p hr hu hs hheat hp => ?sweep, fun r hr h => exec_hintSweepRead_off hl hr h,
    fun k readable hk => ?slice, fun h => next_of_eq hosc (startUcReset_none h),
    fun hr he hd ht => next_of_eq hosc (startUcReset_clean hr he hd ht), fun h ht => next_of_eq hhold (if_pos ⟨h, ht⟩),
    fun h ht => next_of_eq hstable (if_pos ⟨h, ht⟩), fun h ht hw htags => next_of_eq hreturn ?returned, fun h => ?idle⟩
  case walk =>
    have hrun := exec_tagWalk_usable hl hr hw he hu hs
    have hfaulty := hrun false hdrLost true
    exact ⟨hrun false hdrLost false, hrun true true false,
      fun h => next_of_eq (hrun true false false) (congrArg settle (lostTag_unnamed h)),
      fun rid h => next_of_eq (hrun true false false) (congrArg settle (lostTag_named h)),
      fun h => next_of_eq hfaulty (congrArg settle (faultyFrame_retired h)),
      fun h => ⟨fun hn => next_of_eq hfaulty (congrArg settle (faultyFrame_few h hn)),
        fun hn => next_of_eq hfaulty (congrArg settle (faultyFrame_many h hn))⟩⟩
  case sweep =>
    have hrun := exec_hintSweepRead_on hl hr hu hs hheat
    refine ⟨fun hn => next_of_eq hrun (congrArg settle (sweepStep_ends hp hn)), fun sec hn hfree => ?_⟩
    have hreads (hroom hmay) := congrArg settle (sweepStep_reads hp hn hfree hroom hmay)
    exact ⟨fun hroom => next_of_eq hrun (congrArg settle (sweepStep_noRoom hp hn hroom)),
      fun hroom hmay hh => next_of_eq hrun ((hreads hroom hmay).trans (by simp [hh])),
      fun hroom hmay hh hpool => next_of_eq hrun ((hreads hroom hmay).trans (by simp [hh, hpool]))⟩
  case slice =>
    have hrun := exec_ucSliceTimeout hl hk readable
    exact ⟨fun h => next_of_eq hrun (sliceTimeout_off readable h),
      fun h hf => next_of_eq hrun (sliceTimeout_again readable h hf),
      fun h hf hr => next_of_eq hrun (sliceTimeout_first readable h hf hr)⟩
  case returned => exact (if_pos ⟨h, ht⟩).trans (slicesReturn_empty hw htags)
  case idle =>
    exact ⟨next_of_eq hhold (if_neg (by simp [h])), next_of_eq hstable (if_neg (by simp [h])),
      next_of_eq hreturn (if_neg (by simp [h]))⟩

end Sys2Proof.Machine

/-! # What a block does at its CA slots, echoes, data and timers (07 R225 to R242; 21 R529) -/

namespace Sys2Proof.Machine

/-! ## The slot (R228, R232, R233) -/

/-- A block that schedules has dropped the row fills given up and set its mode before it chooses a command. -/
def modeSet (s : State) (b : Nat) : State :=
  setMode (dropFills s b) b (nextMode (dropFills s b) b (blockItems (dropFills s b) b))

section
variable {s : State} {b : Nat}

theorem caSlot_taken (hf : slotFree s b = false) : caSlot s b = s := by simp [caSlot, hf]

section
variable (hf : slotFree s b = true)
include hf

theorem caSlot_selfRefresh (hst : (blk (dropFills s b) b).st = .selfRefresh) : caSlot s b = dropFills s b := by
  simp [caSlot, hf, hst, schedules]

section
variable (hst : (blk (dropFills s b) b).st = .serving) (hv : (blk (modeSet s b) b).st = .serving)
include hst hv

theorem caSlot_nothing (hc : chooseCand (modeSet s b) b = none) : caSlot s b = driveLoop (modeSet s b) b := by
  simp only [modeSet] at hv hc ⊢
  simp [caSlot, hf, hst, schedules, hv, hc]

theorem caSlot_issues {c : Cand} (hc : chooseCand (modeSet s b) b = some c) :
    caSlot s b = issue (modeSet s b) b c.cmd := by
  simp only [modeSet] at hv hc ⊢
  simp [caSlot, hf, hst, schedules, hv, hc]

end

end

end

/-! ## What a command leaves in its bank (R228, R236, R238) -/

@[simp] theorem bankOf_putBdie (k : Block) (d : Nat) (x : BDie) (bank : Nat) :
    bankOf (putBdie k d x) bank = bankOf k bank := rfl

@[simp] theorem bankOf_modBank_same (k : Block) (bank : Nat) (f : Bank → Bank) :
    bankOf (modBank k bank f) bank = f (bankOf k bank) := bankOf_putBank_same _ _ _

@[simp] theorem occ_now (s : State) (ev grp qual n : Nat) : (occ s ev grp qual n).now = s.now := by
  obtain ⟨p, h⟩ := occ_eq s ev grp qual n
  rw [h]

@[simp] theorem driveWords_now (s : State) (b : Nat) (ws : List (BitVec 16)) : (driveWords s b ws).now = s.now := rfl

@[simp] theorem noteSent_now (s : State) (b d : Nat) (c : Sent) : (noteSent s b d c).now = s.now := rfl

@[simp] theorem bankOf_driveWords (s : State) (b : Nat) (ws : List (BitVec 16)) (bank : Nat) :
    bankOf (blk (driveWords s b ws) b) bank = bankOf (blk s b) bank := by
  rw [driveWords, blk_modBlk_same]
  rfl

@[simp] theorem bankOf_noteSent (s : State) (b d : Nat) (c : Sent) (bank : Nat) :
    bankOf (blk (noteSent s b d c) b) bank = bankOf (blk s b) bank := by
  rw [noteSent, blk_modBlk_same, bankOf_putBdie]

theorem bankOf_issueAct (s : State) (b bank row : Nat) : bankOf (blk (issueAct s b bank row) b) bank =
    { bankOf (blk s b) bank with row := some row, actAt := s.now, echoOk := false, hits := 0, lastCol := 0 } := by
  simp [issueAct]

theorem bankOf_issuePre (s : State) (b bank : Nat) : bankOf (blk (issuePre s b bank) b) bank =
    { bankOf (blk s b) bank with row := none, preAt := s.now, echoOk := false, hits := 0 } := by
  simp [issuePre, closeRow]

/-- A refresh that is forced leaves the debt as it was. -/
theorem bankOf_issueRef (s : State) (b bank : Nat) : bankOf (blk (issueRef s b bank) b) bank =
    { bankOf (blk s b) bank with
      debt := if (bankOf (blk s b) bank).forced then (bankOf (blk s b) bank).debt else (bankOf (blk s b) bank).debt - 1,
      forced := false, busyTill := s.now + tRFCpb, refTill := s.now + tRFCpb,
      refRow := ((bankOf (blk s b) bank).refRow + 8) % 65536 } := by
  simp [issueRef]

section
variable {s : State} {b bank : Nat} {c : Cmd}

theorem issue_opens {row : Nat} (hc : c = .act bank row) : (bankOf (blk (issue s b c) b) bank).row = some row ∧
    (bankOf (blk (issue s b c) b) bank).actAt = s.now ∧ (bankOf (blk (issue s b c) b) bank).echoOk = false := by
  have hissue : issue s b c = issueAct s b bank row := by rw [hc]; rfl
  rw [hissue, bankOf_issueAct]
  exact ⟨rfl, rfl, rfl⟩

theorem issue_closes (hc : c = .pre bank) : (bankOf (blk (issue s b c) b) bank).row = none ∧
    (bankOf (blk (issue s b c) b) bank).preAt = s.now := by
  have hissue : issue s b c = issuePre s b bank := by rw [hc]; rfl
  rw [hissue, bankOf_issuePre]
  exact ⟨rfl, rfl⟩

theorem issue_refreshes (hc : c = .ref bank) : (bankOf (blk (issue s b c) b) bank).refTill = s.now + tRFCpb ∧
    (bankOf (blk (issue s b c) b) bank).refRow = ((bankOf (blk s b) bank).refRow + 8) % 65536 := by
  have hissue : issue s b c = issueRef s b bank := by rw [hc]; rfl
  rw [hissue, bankOf_issueRef]
  exact ⟨rfl, rfl⟩

end

/-! ## The activate echo (R228, R229) -/

section
variable {s : State} {b bank r : Nat} {db : BitVec 3} {row : BitVec 16} {p : Bool}
  (hrow : (bankOf (blk s b) bank).row = some r) (hecho : (bankOf (blk s b) bank).echoOk = false)
  (hat : (bankOf (blk s b) bank).actAt + tAECHO ≤ s.now)
include hrow hecho hat

/-- An echo that is due and not yet checked decides between the bank's two outcomes. -/
theorem activateEcho_due : activateEcho s b bank row db p =
    if parity (row.toNat + db.toNat * 65536 + b2n p * 2 ^ 19) 20 == false && row.toNat = r && db.toNat = dbankOf bank then
      echoGood (modBlk s b (fun k => modBank k bank (fun x => { x with echoOk := true }))) b bank false
    else echoBad s b bank r false := by
  simp only [activateEcho, hrow]
  exact if_neg (by simpa [hecho] using hat)

theorem activateEcho_matches (hp : parity (row.toNat + db.toNat * 65536 + b2n p * 2 ^ 19) 20 = false)
    (hr : row.toNat = r) (hd : db.toNat = dbankOf bank) : activateEcho s b bank row db p =
      echoGood (modBlk s b (fun k => modBank k bank (fun x => { x with echoOk := true }))) b bank false := by
  rw [activateEcho_due hrow hecho hat, if_pos (by rw [hp, decide_eq_true hr, decide_eq_true hd]; rfl)]

theorem activateEcho_differs (h : parity (row.toNat + db.toNat * 65536 + b2n p * 2 ^ 19) 20 = true ∨ row.toNat ≠ r ∨
    db.toNat ≠ dbankOf bank) : activateEcho s b bank row db p = echoBad s b bank r false := by
  rw [activateEcho_due hrow hecho hat, if_neg]
  obtain hp | hr | hd := h
  · rw [hp]; simp
  · simp [hr]
  · simp [hd]

end

/-! ## Row codes -/

theorem rowCode_lt (bank row : Nat) : rowCode bank row < 15 := Nat.mod_lt _ (by decide)

/-- The parity alert is no row's code. -/
theorem alert_ne_rowCode (bank row : Nat) : (15 : BitVec 4).toNat ≠ rowCode bank row := (rowCode_lt bank row).ne'

/-! ## Read data (R222, R223, R228, R229; 09 R279, R280) -/

/-- The tick of the column command whose data returns. -/
def Reader.issuedAt : Reader → Nat
  | .read e => e.at0
  | .base e => e.baseAt

section
variable {s : State} {b key : Nat} {e : BitVec 4} {errs : List (Nat × BitVec 8)}

theorem readData_unasked (h : readerOf s b key = none) : readData s b key e errs = s := by simp [readData, h]

section
variable {rd : Reader} (hrd : readerOf s b key = some rd)
include hrd

theorem readData_alert : readData s b key 15 errs =
    parityAlert (reissue s b rd) b (physBank s b (keyBank key)) rd.issuedAt := by
  simp only [readData, hrd]
  cases rd <;> rfl

section
variable (he : e ≠ 15)
include he

theorem readData_differs (hc : e.toNat ≠ rowCode (physBank s b (keyBank key)) (keyRow key)) : readData s b key e errs =
    echoBad (reissue s b rd) b (physBank s b (keyBank key)) (keyRow key) true := by
  simp only [readData, hrd, if_neg he, if_pos hc]

section
variable (hc : e.toNat = rowCode (physBank s b (keyBank key)) (keyRow key))
  (hback : backOf (echoGood s b (physBank s b (keyBank key)) true) b rd = none)
include hc hback

theorem readData_decodes {d : Line} {p h o : Bool} {fx : List (Nat × BitVec 8)}
    (hdec : decodeLine (withErrs (keyRead (echoGood s b (physBank s b (keyBank key)) true) b key) errs) = .good d p h o fx) :
    readData s b key e errs =
      goodRead (echoGood s b (physBank s b (keyBank key)) true) b key rd { d := d, p := p, h := h } o fx := by
  simp only [readData, hrd, if_neg he, if_neg (not_not.mpr hc), hback, hdec]

theorem readData_fails
    (hdec : decodeLine (withErrs (keyRead (echoGood s b (physBank s b (keyBank key)) true) b key) errs) = .bad) :
    readData s b key e errs = uncorrectable (echoGood s b (physBank s b (keyBank key)) true) b key rd errs := by
  simp only [readData, hrd, if_neg he, if_neg (not_not.mpr hc), hback, hdec]

end

end

end

end

/-! ## The column echo (R228, R229) -/

section
variable {s : State} {b key : Nat} {e : BitVec 4}

theorem columnEcho_unasked (h : ∀ p ∈ (blk s b).wrEcho, p.2.1 ≠ key) : columnEcho s b key e = s := by
  have hnone : (blk s b).wrEcho.find? (fun p => p.2.1 = key && p.2.2 + tECHO ≤ s.now) = none :=
    List.find?_eq_none.mpr fun p hp => by simp [h p hp]
  simp only [columnEcho, hnone]

/-- The one echo awaited was taken. -/
def echoTaken (s : State) (b : Nat) : State := modBlk s b (fun k => { k with wrEcho := [] })

section
variable {p : Nat × Nat × Nat} (hp : (blk s b).wrEcho = [p])
include hp

theorem echoTaken_eq : modBlk s b (fun k => { k with wrEcho := k.wrEcho.erase p }) = echoTaken s b := by
  simp [echoTaken, modBlk, hp]

section
variable (hk : p.2.1 = key) (ht : p.2.2 + tECHO ≤ s.now)
include hk ht

theorem echoDue_eq : (blk s b).wrEcho.find? (fun p => p.2.1 = key && p.2.2 + tECHO ≤ s.now) = some p := by
  simp [hp, hk, ht]

/-- The write that the code confirms is performed, when it is the only one the block holds. -/
theorem columnEcho_matches (hc : e.toNat = rowCode (physBank s b (keyBank key)) (keyRow key)) {w : WEnt}
    (hw : (blk (echoGood (echoTaken s b) b (physBank s b (keyBank key)) true) b).wq = [w]) (hwk : w.key = key)
    (ho : w.ord = p.1) : columnEcho s b key e =
      settle (performEnt (echoGood (echoTaken s b) b (physBank s b (keyBank key)) true) b w) := by
  have hfind : [w].find? (fun e => e.key = key && e.ord = p.1) = some w := by simp [hwk, ho]
  simp only [columnEcho, echoDue_eq hp hk ht, echoTaken_eq hp, if_pos hc, hw, hfind]

theorem columnEcho_alert : columnEcho s b key 15 =
    settle (parityAlert (echoTaken s b) b (physBank s b (keyBank key)) p.2.2) := by
  simp only [columnEcho, echoDue_eq hp hk ht, echoTaken_eq hp, if_neg (alert_ne_rowCode _ _), if_true]

theorem columnEcho_differs (he : e ≠ 15) (hc : e.toNat ≠ rowCode (physBank s b (keyBank key)) (keyRow key)) :
    columnEcho s b key e = settle (echoBad (echoTaken s b) b (physBank s b (keyBank key)) (keyRow key) true) := by
  simp only [columnEcho, echoDue_eq hp hk ht, echoTaken_eq hp, if_neg hc, if_neg he]

end

end

end

/-! ## The idle timer (R234) -/

section
variable {s : State} {b bank : Nat}

theorem idleClose_closed (h : (bankOf (blk s b) bank).row = none) : idleClose s b bank = s := by simp [idleClose, h]

/-- No queued item hits the open row: it is precharged. -/
theorem idleClose_unwanted (hrow : (bankOf (blk s b) bank).row.isSome = true)
    (hidle : (bankOf (blk s b) bank).idleAt + s.cfg.idleTimer.toNat ≤ s.now) (hpre : preOk (blk s b) b bank s.now = true)
    (hslot : slotFree s b = true)
    (hmiss : ∀ q ∈ queued s b, q.2.1 = bank → (bankOf (blk s b) bank).row ≠ some q.2.2) :
    idleClose s b bank = issuePre s b bank := by
  obtain ⟨r, hr⟩ := Option.isSome_iff_exists.mp hrow
  have hunwanted : rowWanted s b bank r = false := by
    refine List.any_eq_false.mpr fun q hq => ?_
    have hne := hmiss q hq
    rw [hr] at hne
    simpa using fun hb hqr => hne hb (congrArg some hqr.symm)
  simp [idleClose, hr, hidle, hpre, hslot, hunwanted]

/-! ## Refresh (R237, R238) -/

theorem refreshComesDue_early (h : s.now < dueTime (blk s b) b bank) : refreshComesDue s b bank = s := by
  simp [refreshComesDue, h]

section
variable (hdue : dueTime (blk s b) b bank ≤ s.now) (hret : isRetiredBank s b bank = false) (hst : (blk s b).st = .serving)
include hdue hret hst

/-- The bank with its next due time, one interval on. -/
def dueAgain (s : State) (b bank : Nat) : Bank :=
  { bankOf (blk s b) bank with due := dueTime (blk s b) b bank + (bdieOf (blk s b) (dieOfBank b bank)).refi }

theorem refreshComesDue_owed (hd : (bankOf (blk s b) bank).debt < 8) : refreshComesDue s b bank =
    putBlk s b (putBank (blk s b) bank { dueAgain s b bank with debt := (bankOf (blk s b) bank).debt + 1 }) := by
  simp [refreshComesDue, Nat.not_lt.mpr hdue, hret, hst, hd, dueAgain]

theorem refreshComesDue_forced (hd : 8 ≤ (bankOf (blk s b) bank).debt) : refreshComesDue s b bank =
    occ (putBlk s b (putBank { blk s b with forced := satAdd 32 (blk s b).forced 1 } bank
      { dueAgain s b bank with forced := true })) 0x023 (b / 9) (b % 9) 1 := by
  simp [refreshComesDue, Nat.not_lt.mpr hdue, hret, hst, Nat.not_lt.mpr hd, dueAgain]

end

end

/-! ## Leaving and returning (R241, R242) -/

section
variable {s : State} {b : Nat}

theorem drainComplete_staying (h : (blk s b).st ≠ .leaving) : drainComplete s b = s := by simp [drainComplete, h]

/-- With nothing left and no test that waits for the block, its Undercoat rows are written back and it sleeps. -/
theorem drainComplete_sleeps (hst : (blk s b).st = .leaving) (hd : drained (blk s b) = true) (ht : s.test.runs = [])
    {lb : Nat} (hlb : logicalOf s b = some lb) (hb : bistWaits (ucWriteBack s lb) b = false) :
    drainComplete s b = selfRefreshAll (ucWriteBack s lb) b .selfRefresh := by
  have hrestore : restoreOwed s b = false := by simp [restoreOwed, ht]
  simp [drainComplete, hst, hd, hrestore, hlb, hb]

theorem openPlacement_elsewhere (h : (blk s b).st ≠ .returning) : openPlacement s b = s := by simp [openPlacement, h]

theorem openPlacement_opens (hst : (blk s b).st = .returning) (hw : waited s (blk s b).t0 5800 = true) :
    openPlacement s b = settle (modBlk s b (fun k => { k with
      st := .serving, t0 := s.now, banks := k.banks.map (fun p => (p.1, { p.2 with due := 0 })) })) :=
  if_pos (by simp [hst, hw])

/-! ## Starved work (21 R529) -/

theorem starvation_none (h : starved s b = []) : starvation s b = s := by simp [starvation, h]

theorem starvation_first {r : Nat} {l : List Nat} (h : starved s b = r :: l) :
    starvation s b = raiseC0 s .block (b / 9) b 0x1501 r 1000000000 := by simp [starvation, h, ms]

end

/-! ## The commands on a stack that acts -/

section
variable {s : State} (hl : live s = true) {b : Nat} (hb : b < 36)
include hl hb

theorem exec_blockCaSlot : exec (.blockCaSlot b) s = .next (caSlot (placeInternal (endBadRows s b) b) b) :=
  (if_pos hb).trans (whenLive_live (fun s => caSlot (placeInternal (endBadRows s b) b) b) hl)

theorem exec_dramReadData (key : Nat) (e : BitVec 4) {errs : List (Nat × BitVec 8)} (he : ∀ p ∈ errs, p.1 < 72) :
    exec (.dramReadData b key e errs) s = .next (settle (readData s b key e errs)) :=
  (if_pos ⟨hb, by simpa using he⟩).trans (whenLive_live (fun s => settle (readData s b key e errs)) hl)

theorem exec_wrColumnEcho (key : Nat) (e : BitVec 4) : exec (.wrColumnEcho b key e) s = .next (columnEcho s b key e) :=
  (if_pos hb).trans (whenLive_live (fun s => columnEcho s b key e) hl)

theorem exec_blockDrainComplete : exec (.blockDrainComplete b) s = .next (drainComplete s b) :=
  (if_pos hb).trans (whenLive_live (fun s => drainComplete s b) hl)

theorem exec_blockPlacementOpen : exec (.blockPlacementOpen b) s = .next (openPlacement s b) :=
  (if_pos hb).trans (whenLive_live (fun s => openPlacement s b) hl)

theorem exec_progressStarvation : exec (.progressStarvation b) s = .next (starvation s b) :=
  (if_pos hb).trans (whenLive_live (fun s => starvation s b) hl)

section
variable {bank : Nat} (hk : bank < 68)
include hk

theorem exec_actEchoReceived (row : BitVec 16) (db : BitVec 3) (p : Bool) :
    exec (.actEchoReceived b bank row db p) s = .next (settle (activateEcho s b bank row db p)) :=
  (if_pos ⟨hb, hk⟩).trans (whenLive_live (fun s => settle (activateEcho s b bank row db p)) hl)

theorem exec_bankIdleTimeout : exec (.bankIdleTimeout b bank) s = .next (idleClose s b bank) :=
  (if_pos ⟨hb, hk⟩).trans (whenLive_live (fun s => idleClose s b bank) hl)

theorem exec_refreshDue : exec (.refreshDue b bank) s = .next (refreshComesDue s b bank) :=
  (if_pos ⟨hb, hk⟩).trans (whenLive_live (fun s => refreshComesDue s b bank) hl)

end

end

/-- Settles O53: one case per command, each by what its event does to the block; the slot's command by what each leaves in
its bank. -/
theorem blockCommands : Obligations.BlockCommands := by
  unfold Obligations.BlockCommands
  intro s hl b hb
  have hslot := exec_blockCaSlot hl hb
  have hdrain := exec_blockDrainComplete hl hb
  have hopen := exec_blockPlacementOpen hl hb
  have hstarved := exec_progressStarvation hl hb
  refine ⟨⟨fun hf => next_of_eq hslot (caSlot_taken hf), fun hf hst => next_of_eq hslot (caSlot_selfRefresh hf hst),
      fun hf hst hv => ⟨fun hc => next_of_eq hslot (caSlot_nothing hf hst hv hc), fun c hc => ?issued⟩⟩,
    fun bank r db row p hk hrow hecho hat => ?activate, fun key e errs herrs => ?read, fun key e => ?column,
    fun bank hk => ?timers,
    fun h => next_of_eq hdrain (drainComplete_staying h),
    fun hst hrq hwq hwe hro ht lb hlb hbist =>
      next_of_eq hdrain (drainComplete_sleeps hst (by simp [drained, hrq, hwq, hwe, hro]) ht hlb hbist),
    fun h => next_of_eq hopen (openPlacement_elsewhere h),
    fun hst hw => next_of_eq hopen (openPlacement_opens hst hw),
    fun h => next_of_eq hstarved (starvation_none h), fun r l h => next_of_eq hstarved (starvation_first h)⟩
  case issued =>
    exact ⟨_, next_of_eq hslot (caSlot_issues hf hst hv hc), rfl, fun _ _ => issue_opens, fun _ => issue_closes,
      fun _ => issue_refreshes⟩
  case activate =>
    have hrun := exec_actEchoReceived hl hb hk row db p
    exact ⟨fun hp hr hd => next_of_eq hrun (congrArg settle (activateEcho_matches hrow hecho hat hp hr hd)),
      fun h => next_of_eq hrun (congrArg settle (activateEcho_differs hrow hecho hat h))⟩
  case read =>
    have hrun := exec_dramReadData hl hb key e herrs
    refine ⟨fun h => next_of_eq hrun (congrArg settle (readData_unasked h)), fun rd hrd => ⟨fun he => ?_,
      fun he hc => next_of_eq hrun (congrArg settle (readData_differs hrd he hc)), fun he hc =>
      ⟨fun d p h o fx hback hdec => next_of_eq hrun (congrArg settle (readData_decodes hrd he hc hback hdec)),
        fun hback hdec => next_of_eq hrun (congrArg settle (readData_fails hrd he hc hback hdec))⟩⟩⟩
    subst he
    refine (next_of_eq hrun (congrArg settle (readData_alert hrd))).trans ?_
    cases rd <;> rfl
  case column =>
    have hrun := exec_wrColumnEcho hl hb key e
    refine ⟨fun h => next_of_eq hrun (columnEcho_unasked h), fun p hp hk ht =>
      ⟨fun hc w hw hwk ho => next_of_eq hrun (columnEcho_matches hp hk ht hc hw hwk ho), fun he => ?_,
        fun he hc => next_of_eq hrun (columnEcho_differs hp hk ht he hc)⟩⟩
    subst he
    exact next_of_eq hrun (columnEcho_alert hp hk ht)
  case timers =>
    have hidle := exec_bankIdleTimeout hl hb hk
    have hdue := exec_refreshDue hl hb hk
    exact ⟨fun h => next_of_eq hidle (idleClose_closed h),
      fun hrow ht hpre hfree hmiss => next_of_eq hidle (idleClose_unwanted hrow ht hpre hfree hmiss),
      fun h => next_of_eq hdue (refreshComesDue_early h),
      fun ht hret hst => ⟨fun hd => next_of_eq hdue (refreshComesDue_owed ht hret hst hd),
        fun hd => next_of_eq hdue (refreshComesDue_forced ht hret hst hd)⟩⟩

end Sys2Proof.Machine

/-! # Bulk operations from their access check to their BULK_CMP (08 R249 to R267; 11 R324) -/

namespace Sys2Proof.Machine

/-! ## The access check (R249; 11 R324) -/

section
variable {s : State} {id : Nat} {o : BulkOp}

theorem rangeChecked_unknown (h : opGet s id = none) : rangeChecked s id = s := by simp [rangeChecked, h]

section
variable (h : opGet s id = some o) (hp : o.phase = .checking)
include h hp

theorem rangeChecked_denied {r a rule : Nat} {nm nr : Bool} (hd : rangeDenied s o = some (r, a, .fail rule nm nr)) :
    rangeChecked s id =
      admitWaiting (bulkAnswer (violation s o.master opBulk r rule nm nr o.ing a) o stDenied o.dst) := by
  simp [rangeChecked, h, hp, hd]

section
variable (hd : rangeDenied s o = none)
include hd

theorem rangeChecked_queued (hv : rangePrivate s o = false) :
    rangeChecked s id = setOp (occ s 0x100 7 0xF 1) id (fun o => { o with phase := .queued }) := by
  simp [rangeChecked, h, hp, hd, hv]

theorem rangeChecked_foreign (hv : rangePrivate s o = true) : rangeChecked s id = admitWaiting
    (bulkAnswer (privateDenied s (decodeDpa (nRegions s) (64 * o.dpaDst)).region o.master) o stDenied o.dst) := by
  simp [rangeChecked, h, hp, hd, hv]

end

end

/-! ## The end (R265, R267) -/

theorem finishOp_unknown (h : opGet s id = none) : finishOp s id = s := by simp [finishOp, h]

theorem finishOp_going (h : opGet s id = some o) (ho : opOver s o = false) : finishOp s id = s := by
  simp [finishOp, h, ho]

theorem finishOp_over (h : opGet s id = some o) (ho : opOver s o = true) : finishOp s id =
    settle (admitWaiting (bulkAnswer (abortSteps s id) o (opStatus o).1 (opStatus o).2)) := by
  simp [finishOp, h, ho]

end

/-! ## Range scans (R261) -/

theorem scanComplete_none {s : State} (h : s.trowel.scans = []) (r : Nat) (bad : List Nat) : scanComplete s r bad = s := by
  simp [scanComplete, h]

/-- The one scan left, of an operation, is over. -/
theorem scanComplete_last {s : State} {c : Scan} (h : s.trowel.scans = [c]) (ho : scanOver s c = true)
    (hop : isOpScan c = true) :
    scanComplete s c.region [] = settle (scansDone { s with trowel := { s.trowel with scans := [] } }) := by
  simp [scanComplete, h, ho, hop]

/-! ## Starting (R250, R261, R262) -/

section
variable {s : State}

theorem startOp_none (h : ∀ o ∈ s.trowel.ops, o.phase ≠ .queued) : startOp s = s := by
  have hnone : s.trowel.ops.find? (fun o => o.phase == .queued && o.endWith.isNone) = none :=
    List.find?_eq_none.mpr fun o ho => by simp [h o ho]
  simp only [startOp, hnone]

section
variable {o : BulkOp} (hops : s.trowel.ops = [o]) (hq : o.phase = .queued)
include hops hq

/-- An operation alone at the queue may start at once: none executes yet. -/
theorem mayStart_alone (hm : 0 < s.trowel.maxActive) (hp : pipesOpen s = true) :
    (executing s < s.trowel.maxActive && inService s) = true := by
  simp [executing, inService, hops, hq, hm, hp]

variable (he : o.endWith = none)
include he

theorem firstQueued_eq : s.trowel.ops.find? (fun o => o.phase == .queued && o.endWith.isNone) = some o := by
  simp [hops, hq, he]

theorem startOp_closed (h : s.trowel.maxActive = 0 ∨ pipesOpen s = false) : startOp s = s := by
  have hno : ¬ (executing s < s.trowel.maxActive && inService s) = true := by
    rcases h with h | h <;> simp [h, inService]
  simp only [startOp, firstQueued_eq hops hq he, if_neg hno]

section
variable (hm : 0 < s.trowel.maxActive) (hp : pipesOpen s = true)
include hm hp

theorem startOp_unscanned (hd : someTracked s o.dst o.count = false)
    (hs : srcLines o.bop o.count = 0 ∨ someTracked s o.src (srcLines o.bop o.count) = false) :
    startOp s = settle (scansDone (setOp s o.id (fun o => { o with phase := .scanning }))) := by
  have hdst : ¬ someTracked (setOp s o.id (fun o => { o with phase := .scanning })) o.dst o.count = true :=
    Bool.eq_false_iff.mp hd
  have hsrc : ¬ (decide (srcLines o.bop o.count ≠ 0) &&
      someTracked (setOp s o.id (fun o => { o with phase := .scanning })) o.src (srcLines o.bop o.count)) = true := by
    rcases hs with hs | hs
    · simp [hs]
    · exact Bool.eq_false_iff.mp (Bool.and_eq_false_imp.mpr fun _ => hs)
  simp only [startOp, firstQueued_eq hops hq he, if_pos (mayStart_alone hops hq hm hp), if_neg hdst, if_neg hsrc]

/-- An operation that reads no range scans only what it writes. -/
theorem startOp_scansTarget (hd : someTracked s o.dst o.count = true) (hs : srcLines o.bop o.count = 0) :
    startOp s = settle (scansDone (startScans (setOp s o.id (fun o => { o with phase := .scanning }))
      (.op o.id) o.dpaDst o.count (o.bop ≤ 2))) := by
  have hdst : someTracked (setOp s o.id (fun o => { o with phase := .scanning })) o.dst o.count = true := hd
  simp only [startOp, firstQueued_eq hops hq he, if_pos (mayStart_alone hops hq hm hp), if_pos hdst, hs]
  rfl

end

end

end

/-! ## Steps (R250 to R259) -/

/-- The lines that a region has still to write of a step. -/
def stepWrites (s : State) (o : BulkOp) (t : TStep) (r : Nat) : List CtxLine :=
  ((partOf (linesOf s o t) r).filterMap (fun i => (linesOf s o t)[i]?)).filter CtxLine.wr

/-- Those of them that no row operation moves: they need write slots. -/
def stepStreams (s : State) (o : BulkOp) (t : TStep) (r : Nat) : List CtxLine :=
  (stepWrites s o t r).filter (fun l =>
    !((rowMoves s o t (linesOf s o t)).map (fun m => rowOf m.1.lblock m.1.key)).contains (rowOf l.lblock l.key))

/-- A new step has started and the pipeline of a region has accepted its lines there. -/
def stepTaken (s : State) (w : Waiting) (o : BulkOp) (t : TStep) (r : Nat) : State :=
  takeLines (openStep s w o t).1 o (openStep s w o t).2 r

/-- No region has lines of the step left to accept. -/
def stepWhole (s : State) (w : Waiting) (o : BulkOp) (t : TStep) (r : Nat) : Bool :=
  (ctxGet (stepTaken s w o t r) (openStep s w o t).2.ctx).all (fun c => c.lines.all (fun l => l.accepted || l.done))

section
variable {s : State} {r : Nat}

theorem acceptStep_none (h : headStep s r = none) : acceptStep s r = s := by simp [acceptStep, h]

section
variable {w : Waiting} {t : TStep} {o : BulkOp} (h : headStep s r = some (w, t, o))
include h

theorem acceptStep_closed (hc : mayOpen s o t = false ∨ pipesOpen s = false) : acceptStep s r = s := by
  rcases hc with hc | hc <;> simp [acceptStep, h, hc, inService]

/-- With its credits and write slots to be had, a new step starts. -/
theorem acceptStep_opens (hnew : 65536 ≤ t.ctx) (hm : mayOpen s o t = true) (hp : pipesOpen s = true)
    (hb : (stepWrites s o t r).all (fun l => (blk s (physBlock s l.lblock)).st == .serving) = true)
    (hf : slotsFree s (rankOf w.rel) (stepStreams s o t r) = true) :
    acceptStep s r = settle (if stepWhole s w o t r then
      { stepTaken s w o t r with tx := { (stepTaken s w o t r).tx with
          waiting := (stepTaken s w o t r).tx.waiting.filter (fun v => v.arr ≠ w.arr) } }
      else stepTaken s w o t r) := by
  have hgo : (inService s && mayOpen s o t &&
      (stepWrites s o t r).all (fun l => (blk s (physBlock s l.lblock)).st == .serving) &&
      slotsFree s (rankOf w.rel) (stepStreams s o t r)) = true := by simp [inService, hp, hm, hb, hf]
  have hctx : ¬ t.ctx < 65536 := by omega
  simp only [stepWrites, stepStreams] at hgo
  cases hget : ctxGet (takeLines (openStep s w o t).1 o (openStep s w o t).2 r) (openStep s w o t).2.ctx <;>
    simp only [acceptStep, h, if_pos hgo, if_neg hctx, stepWhole, stepTaken, hget, Option.all]

end

end

/-! ## Check reads and row operations (R255 to R257) -/

section
variable {s : State} {op lb : Nat} {errs : List (Nat × Nat × BitVec 8)}

theorem checkRead_none (h : checkRow s op lb = none) : checkRead s op lb errs = s := by simp [checkRead, h]

section
variable {t : TStep} {d c : Nat} {m : RowOp} (h : checkRow s op lb = some (t, (d, c), m))
  (hst : (blk s (physBlock s lb)).st = .serving) (hr : checkReady s t c (physBlock s lb) m = true)
include h hst hr

/-- The row may still be moved and its 32 lines read clean. -/
theorem checkRead_clean {k : Nat}
    (hk : copyKind (rowWriteBack s lb (c % 2 ^ 22 * 32)) (physBlock s lb) (d % 2 ^ 22 * 32) (c % 2 ^ 22 * 32) = some k)
    (hc : ∀ n < 32, checkClean (rowWriteBack s lb (c % 2 ^ 22 * 32)) (physBlock s lb) (c % 2 ^ 22 * 32 + n) errs = true) :
    checkRead s op lb errs = modBlk (rowWriteBack s lb (c % 2 ^ 22 * 32)) (physBlock s lb) (fun k => { k with
      rowOps := k.rowOps.map (fun r => if r = m then { r with checked := true } else r) }) := by
  have hall : (List.range 32).all (fun n =>
      checkClean (rowWriteBack s lb (c % 2 ^ 22 * 32)) (physBlock s lb) (c % 2 ^ 22 * 32 + n) errs) = true :=
    List.all_eq_true.mpr fun n hn => hc n (List.mem_range.mp hn)
  have hgo : ¬ ((blk s (physBlock s lb)).st != .serving || !checkReady s t c (physBlock s lb) m) = true := by
    simp [hst, hr]
  simp only [checkRead, h, if_neg hgo, hk, hall, Option.isSome_some, Bool.and_self, if_true]

theorem checkRead_streams
    (hc : copyKind (rowWriteBack s lb (c % 2 ^ 22 * 32)) (physBlock s lb) (d % 2 ^ 22 * 32) (c % 2 ^ 22 * 32) = none ∨
      ∃ n < 32, checkClean (rowWriteBack s lb (c % 2 ^ 22 * 32)) (physBlock s lb) (c % 2 ^ 22 * 32 + n) errs = false) :
    checkRead s op lb errs = rowFallback (rowWriteBack s lb (c % 2 ^ 22 * 32)) t (d, c) (physBlock s lb) := by
  have hno : ¬ ((copyKind (rowWriteBack s lb (c % 2 ^ 22 * 32)) (physBlock s lb) (d % 2 ^ 22 * 32)
        (c % 2 ^ 22 * 32)).isSome && (List.range 32).all (fun n =>
        checkClean (rowWriteBack s lb (c % 2 ^ 22 * 32)) (physBlock s lb) (c % 2 ^ 22 * 32 + n) errs)) = true := by
    intro hand
    obtain ⟨hsome, hall⟩ := Bool.and_eq_true_iff.mp hand
    rcases hc with hnone | ⟨n, hn, hbad⟩
    · rw [hnone] at hsome
      cases hsome
    · exact Bool.eq_false_iff.mp hbad (List.all_eq_true.mp hall n (List.mem_range.mpr hn))
  have hgo : ¬ ((blk s (physBlock s lb)).st != .serving || !checkReady s t c (physBlock s lb) m) = true := by
    simp [hst, hr]
  simp only [checkRead, h, if_neg hgo, if_neg hno]

end

end

section
variable {s : State} {b : Nat}

theorem rowOpDone_none (h : (blk s b).rowOps = []) : rowOpDone s b = s := by simp [rowOpDone, h]

/-- The one row operation of a block has ended. -/
def rowOpTaken (s : State) (b : Nat) : State := modBlk s b (fun k => { k with rowOps := [] })

section
variable {m : RowOp} {k : Nat} (h : (blk s b).rowOps = [m]) (hi : m.issued = some k) (hk : m.kind ≠ 1)
  (hw : waited s k 45 = true)
include h

theorem rowOpTaken_eq : modBlk s b (fun k => { k with rowOps := k.rowOps.erase m }) = rowOpTaken s b := by
  simp [rowOpTaken, modBlk, h]

include hi hk hw

/-- A row operation whose step is gone leaves its block. -/
theorem rowOpDone_stepless (ht : (rowOpTaken s b).trowel.steps = []) : rowOpDone s b = rowOpTaken s b := by
  simp only [rowOpDone, h, List.find?_cons, hi, if_neg hk, hw, rowOpTaken_eq h, ht, List.findSome?_nil]

/-- It writes the row of its step. -/
theorem rowOpDone_writes {t : TStep} {q : Nat × Nat} (ht : (rowOpTaken s b).trowel.steps = [t]) (hq : t.rows = [q])
    (ho : m.op = some t.op) (hb : physBlock (rowOpTaken s b) (q.1 / 2 ^ 22) = b) (hd : q.1 % 65536 = m.dst)
    (hdb : physBank (rowOpTaken s b) b (q.1 / 65536 % 64) = m.dstBank) :
    rowOpDone s b = rowDone (rowOpTaken s b) b m t q := by
  simp only [rowOpDone, h, List.find?_cons, hi, if_neg hk, hw, rowOpTaken_eq h, ht, List.findSome?_cons, if_pos ho, hq,
    hb, hd, hdb, decide_true, Bool.and_self, Option.map_some]

end

end

/-! ## Operations of Larder (R249) -/

section
variable {s : State} (h : Nat) (h0 h1 : Slot)

theorem internalBulk_enters (hn : internalOps s < 16) (hw : s.trowel.intWait = []) : internalBulk s h h0 h1 =
    acceptBulk s 5 { h0 := withSrc h0 (hatchNode s h), h1 := h1, data := [] } (hatchNode s h) := by
  simp [internalBulk, hn, hw]

theorem internalBulk_waits (hn : 16 ≤ internalOps s) : internalBulk s h h0 h1 = { s with trowel := { s.trowel with
    intWait := s.trowel.intWait ++ [(hatchNode s h, withSrc h0 (hatchNode s h), h1)] } } := by
  simp [internalBulk, Nat.not_lt.mpr hn]

end

/-! ## The commands on a stack that acts -/

section
variable {s : State} (hl : live s = true)
include hl

theorem exec_bulkAccessCheckComplete (id : Nat) : exec (.bulkAccessCheckComplete id) s = .next (rangeChecked s id) :=
  whenLive_live (fun s => rangeChecked s id) hl

theorem exec_trowelOpComplete (id : Nat) : exec (.trowelOpComplete id) s = .next (finishOp s id) :=
  whenLive_live (fun s => finishOp s id) hl

theorem exec_rangeScanComplete (r : Nat) (bad : List Nat) :
    exec (.rangeScanComplete r bad) s = .next (scanComplete s r bad) :=
  whenLive_live (fun s => scanComplete s r bad) hl

theorem exec_trowelOpStart : exec .trowelOpStart s = .next (startOp s) := whenLive_live startOp hl

theorem exec_trowelStepAccept (r : Nat) : exec (.trowelStepAccept r) s = .next (acceptStep s r) :=
  whenLive_live (fun s => acceptStep s r) hl

theorem exec_rowCheckReadComplete (op : Nat) {lb : Nat} (hlb : lb < 32) (errs : List (Nat × Nat × BitVec 8)) :
    exec (.rowCheckReadComplete op lb errs) s = .next (checkRead s op lb errs) :=
  (if_pos hlb).trans (whenLive_live (fun s => checkRead s op lb errs) hl)

theorem exec_rowOpComplete {b : Nat} (hb : b < 36) : exec (.rowOpComplete b) s = .next (rowOpDone s b) :=
  (if_pos hb).trans (whenLive_live (fun s => rowOpDone s b) hl)

theorem exec_internalBulkOp {h : Nat} {h0 : Slot} (hh : h < 16) (ho : hOp h0 = opBulk) (h1 : Slot) :
    exec (.internalBulkOp h h0 h1) s =
      .next (if s.boot.larder == .running && pipesOpen s then internalBulk s h h0 h1 else s) :=
  (if_pos ⟨hh, ho⟩).trans (whenLive_live _ hl)

end

/-- Settles O54: one case per command, each by what its event does to the operation, the step or the row it names. -/
theorem trowelCommands : Obligations.TrowelCommands := by
  unfold Obligations.TrowelCommands
  intro s hl
  have hcheck := exec_bulkAccessCheckComplete hl
  have hend := exec_trowelOpComplete hl
  have hscan := exec_rangeScanComplete hl
  have hstart := exec_trowelOpStart hl
  have hstep := exec_trowelStepAccept hl
  refine ⟨fun id h => ⟨next_of_eq (hcheck id) (rangeChecked_unknown h), next_of_eq (hend id) (finishOp_unknown h)⟩,
    fun id o h hp => ⟨fun hd hv => next_of_eq (hcheck id) (rangeChecked_queued h hp hd hv),
      fun hd hv => next_of_eq (hcheck id) (rangeChecked_foreign h hp hd hv),
      fun r a rule nm nr hd => next_of_eq (hcheck id) (rangeChecked_denied h hp hd)⟩,
    fun id o h => ⟨fun ho => next_of_eq (hend id) (finishOp_going h ho),
      fun ho => next_of_eq (hend id) (finishOp_over h ho)⟩,
    fun r bad h => next_of_eq (hscan r bad) (scanComplete_none h r bad),
    fun r c h hr ho hop => hr ▸ next_of_eq (hscan c.region []) (scanComplete_last h ho hop),
    fun h => next_of_eq hstart (startOp_none h),
    fun o hops hq he => ⟨fun h => next_of_eq hstart (startOp_closed hops hq he h),
      fun hm hp hd hs => next_of_eq hstart (startOp_unscanned hops hq he hm hp hd hs),
      fun hm hp hd hs => next_of_eq hstart (startOp_scansTarget hops hq he hm hp hd hs)⟩,
    fun r h => next_of_eq (hstep r) (acceptStep_none h),
    fun r w t o h hnew => ⟨fun hc => next_of_eq (hstep r) (acceptStep_closed h hc), fun hm hp hb hf => ?step⟩,
    fun op lb errs hlb => ?checkRead,
    fun b hb h => next_of_eq (exec_rowOpComplete hl hb) (rowOpDone_none h),
    fun b m k hb h hi hk hw => ⟨fun ht => next_of_eq (exec_rowOpComplete hl hb) (rowOpDone_stepless h hi hk hw ht),
      fun t q ht hq ho hpb hd hdb =>
        next_of_eq (exec_rowOpComplete hl hb) (rowOpDone_writes h hi hk hw ht hq ho hpb hd hdb)⟩,
    fun h h0 h1 hh ho => ?internal⟩
  case step =>
    have hopens := next_of_eq (hstep r) (acceptStep_opens h hnew hm hp hb hf)
    exact ⟨fun hall => next_of_eq hopens (congrArg settle (if_pos hall)),
      fun hall => next_of_eq hopens (congrArg settle (if_neg (Bool.eq_false_iff.mp hall)))⟩
  case checkRead =>
    have hrun := exec_rowCheckReadComplete hl op hlb errs
    exact ⟨fun h => next_of_eq hrun (checkRead_none h), fun t d c m h hst hr =>
      ⟨fun k hk hc => next_of_eq hrun (checkRead_clean h hst hr hk hc),
        fun hc => next_of_eq hrun (checkRead_streams h hst hr hc)⟩⟩
  case internal =>
    have hrun := exec_internalBulkOp hl hh ho h1
    refine ⟨fun hno => next_of_eq hrun (if_neg ?_), fun hlard hp => ?_⟩
    · rcases hno with hno | hno <;> simp [hno]
    · have hgo := next_of_eq hrun (if_pos (by simp [hlard, hp]))
      exact ⟨fun hn hw => next_of_eq hgo (internalBulk_enters h h0 h1 hn hw),
        fun hn => next_of_eq hgo (internalBulk_waits h h0 h1 hn)⟩

end Sys2Proof.Machine

/-! # C1 faults of the chip (12 R340 to R353)

A C1 of the chip level is recorded, merged or raised to a C2: no region stops and the chip does not halt, so that, as with
any event, only the queues, the fault bookkeeping and the counters change. -/

namespace Sys2Proof.Machine

theorem onlyEvents_faults (s : State) (f : Faults) : OnlyEvents s { s with faults := f } := ⟨s.mg, f, s.perf, rfl⟩

theorem onlyEvents_ite {s t u : State} {c : Prop} [Decidable c] (ht : OnlyEvents s t) (hu : OnlyEvents s u) :
    OnlyEvents s (if c then t else u) := by
  split
  · exact ht
  · exact hu

/-! ## Records (R342, R347, R348, R353) -/

theorem onlyEvents_logOverflow (s : State) : OnlyEvents s (logOverflow s) :=
  onlyEvents_ite (.refl s) ((onlyEvents_faults s _).trans (onlyEvents_c0 _ _ _ _ _))

theorem onlyEvents_logWrite (s : State) (e : LogEnt) : OnlyEvents s (logWrite s e).1 := by
  unfold logWrite
  split
  · exact onlyEvents_faults s _
  · split
    · exact (onlyEvents_faults s _).trans (onlyEvents_logOverflow _)
    · exact .refl s

theorem onlyEvents_setLast (s : State) (r : FaultRec) : OnlyEvents s (setLast s r) :=
  onlyEvents_ite (.refl s) (onlyEvents_faults s _)

theorem onlyEvents_modRec (s : State) (fid : BitVec 32) (f : FaultRec → FaultRec) : OnlyEvents s (modRec s fid f) := by
  unfold modRec
  split
  · exact .refl s
  · exact (onlyEvents_ite (onlyEvents_faults s _) ((onlyEvents_faults s _).trans (onlyEvents_logWrite _ _))).trans
      (onlyEvents_setLast _ _)

theorem onlyEvents_ackRec (s : State) (fid : BitVec 32) : OnlyEvents s (ackRec s fid) := by
  unfold ackRec
  split
  · exact onlyEvents_ite (.refl s) (onlyEvents_modRec s _ _)
  · exact .refl s

theorem onlyEvents_autoAck (s : State) (r : FaultRec) : OnlyEvents s (autoAck s r) := by
  unfold autoAck
  split
  · exact onlyEvents_ite (onlyEvents_ackRec s _) (.refl s)
  · exact onlyEvents_ite (onlyEvents_ackRec s _) (.refl s)
  · exact .refl s

/-- The place of a new record in its collector and in the log, when there is one. -/
def recPlace (s : State) (r : FaultRec) : Option State :=
  if r.level == .chip then
    let (s', ok) := logWrite s { r := r, copy := false }
    if ok then some s' else none
  else match takeSlot s r with
    | some l => some (logWrite { s with faults := { s.faults with slots := l } } { r := r, copy := true }).1
    | none => none

/-- A new record takes its FID and posts its event. -/
def recEntered (s : State) (r : FaultRec) : State :=
  let u : State := { s with faults := { s.faults with nextFid := s.faults.nextFid + 1 } }
  post (setLast u r) (recEvent u r 1) [r.cls.code] [r.code.toNat / 256] false

/-- A record that finds no place is counted as lost, and its event posted without a FID. -/
def recLost (s : State) (r : FaultRec) : State :=
  let u := post s (recEvent s { r with fid := 0 } 1) [r.cls.code] [r.code.toNat / 256] false
  c0 { u with faults := { u.faults with lost := BitVec.ofNat 8 (satAdd 8 u.faults.lost.toNat 1) } } 17 0x0C01 0 0

theorem newRec_eq (s : State) (r : FaultRec) : newRec s r = match recPlace s r with
    | some t => recEntered t r
    | none => if r.cls == .c4 then recEntered s r else recLost s r := rfl

theorem onlyEvents_recPlace {s t : State} {r : FaultRec} (h : recPlace s r = some t) : OnlyEvents s t := by
  unfold recPlace at h
  split at h
  · dsimp only at h
    split at h
    · cases h
      exact onlyEvents_logWrite s _
    · cases h
  · split at h
    · cases h
      exact (onlyEvents_faults s _).trans (onlyEvents_logWrite _ _)
    · cases h

theorem onlyEvents_recEntered (s : State) (r : FaultRec) : OnlyEvents s (recEntered s r) :=
  ((onlyEvents_faults s _).trans (onlyEvents_setLast _ _)).trans (onlyEvents_post _ _ _ _ _)

theorem onlyEvents_newRec (s : State) (r : FaultRec) : OnlyEvents s (newRec s r) := by
  rw [newRec_eq]
  split
  case h_1 t ht => exact (onlyEvents_recPlace ht).trans (onlyEvents_recEntered t r)
  case h_2 =>
    exact onlyEvents_ite (onlyEvents_recEntered s r)
      (((onlyEvents_post s _ _ _ _).trans (onlyEvents_faults _ _)).trans (onlyEvents_c0 _ _ _ _ _))

theorem onlyEvents_secondEvent (s : State) (fid : BitVec 32) (cls : FClass) (code detail : Nat) :
    OnlyEvents s (secondEvent s fid cls code detail) := by
  unfold secondEvent
  split
  · exact onlyEvents_post s _ _ _ _
  · exact .refl s

/-! ## The fault (R340, R349, R350) -/

theorem mem_of_oldestRec {l : List FaultRec} {r : FaultRec} (h : oldestRec l = some r) : r ∈ l := by
  have hmem : ∀ x ∈ oldestRec l, x ∈ l := by
    refine List.foldlRecOn (motive := fun m : Option FaultRec => ∀ x ∈ m, x ∈ l) _ _ (by simp) (fun m hm a ha => ?_)
    cases m with
    | none => simpa using ha
    | some y =>
      dsimp only
      split
      · simpa using ha
      · exact hm
  exact hmem r h

theorem cls_of_secondOf {s : State} {cls : FClass} {lv : FLevel} {el : Nat} {r : FaultRec}
    (h : secondOf s cls lv el = some r) : r.cls = cls := by
  have hm := mem_of_oldestRec h
  split at hm
  case isTrue hc3 =>
    obtain ⟨-, hr⟩ := List.mem_filter.mp hm
    simp only [Bool.and_eq_true, beq_iff_eq] at hr hc3
    exact hr.1.trans hc3.symm
  case isFalse =>
    obtain ⟨-, hr⟩ := List.mem_filter.mp hm
    simp only [Bool.and_eq_true, beq_iff_eq] at hr
    exact hr.1

theorem onlyEvents_createRec_c1 (s : State) (lv : FLevel) (region el code detail : Nat) :
    OnlyEvents s (createRec s .c1 lv region el code detail) :=
  (onlyEvents_newRec s _).trans (onlyEvents_ite (onlyEvents_autoAck _ _) (.refl _))

theorem onlyEvents_mergeInto (s : State) (fid : BitVec 32) (cls : FClass) (code detail : Nat) :
    OnlyEvents s (mergeInto s fid cls code detail) :=
  (onlyEvents_modRec s _ _).trans (onlyEvents_secondEvent _ _ _ _ _)

/-- Raised to a C2, a C1 record has no reaction. -/
theorem onlyEvents_escalateRec_c1 (s : State) {r : FaultRec} (hr : r.cls = .c1) (cls : FClass) (code detail : Nat) :
    OnlyEvents s (escalateRec s r cls code detail) := by
  unfold escalateRec
  simp only [hr, FClass.up, react]
  exact ((onlyEvents_modRec s _ _).trans (onlyEvents_secondEvent _ _ _ _ _)).trans
    (onlyEvents_ite (onlyEvents_autoAck _ _) (.refl _))

theorem onlyEvents_chipFault_c1 (s : State) (unit code detail : Nat) :
    OnlyEvents s (chipFault s .c1 unit code detail) := by
  unfold chipFault raise
  split
  · exact onlyEvents_faults s _
  · change OnlyEvents s (match secondOf s .c1 .chip unit with
      | none => createRec s .c1 .chip 0 unit code detail
      | some r => if escalates s then escalateRec s r .c1 code detail else mergeInto s r.fid .c1 code detail)
    split
    · exact onlyEvents_createRec_c1 s _ _ _ _ _
    · next r hr =>
      exact onlyEvents_ite (onlyEvents_escalateRec_c1 s (cls_of_secondOf hr) _ _ _) (onlyEvents_mergeInto s _ _ _ _)

end Sys2Proof.Machine

/-! # What the image load keeps (14 R408 to R416; 16 R442) -/

namespace Sys2Proof.Machine

/-- What a fold does not change where no step of it does. -/
theorem foldl_keeps {α β : Type} {g : State → β} {f : State → α → State} (hf : ∀ u a, g (f u a) = g u) (l : List α)
    (s : State) : g (l.foldl f s) = g s := by
  induction l generalizing s with
  | nil => rfl
  | cons a l ih => exact (ih (f s a)).trans (hf s a)

theorem ite_keeps {β : Type} {g : State → β} {s t u : State} {c : Prop} [Decidable c] (ht : g t = g s) (hu : g u = g s) :
    g (if c then t else u) = g s := by
  split
  · exact ht
  · exact hu

/-- What neither the sections nor the records of a start change. -/
structure LoadKept where
  now : Nat
  dram : ByteMem
  pins : Pins
  vault : Vault
  bootSpeed : BitVec 2

def loadKept (s : State) : LoadKept :=
  { now := s.now, dram := s.dram, pins := s.pins, vault := s.vault, bootSpeed := s.tw.bootSpeed }

/-- What the records of a start do not change: the tables in force too. -/
structure RecordsKept where
  load : LoadKept
  boot : Boot
  fab : Fabric
  acc : Access
  calFrom : Nat

def recordsKept (s : State) : RecordsKept :=
  { load := loadKept s, boot := s.boot, fab := s.fab, acc := s.acc, calFrom := s.cal.t0 }

theorem OnlyEvents.loadKept {s t : State} (h : OnlyEvents s t) : loadKept t = loadKept s := by
  obtain ⟨_, _, _, rfl⟩ := h
  rfl

theorem OnlyEvents.recordsKept {s t : State} (h : OnlyEvents s t) : recordsKept t = recordsKept s := by
  obtain ⟨_, _, _, rfl⟩ := h
  rfl

/-! ## The slot (R408, R409, R416) -/

theorem onlyEvents_startReads (s : State) (k : Nat) (a b : Bool) (bad : List Nat) :
    OnlyEvents { s with tw := { s.tw with bootSpeed := BitVec.ofNat 2 (2 - k) } } (startReads s k a b bad) :=
  OnlyEvents.foldl (fun u _ => onlyEvents_c0 u _ _ _ _) (.refl _) _

theorem onlyEvents_slotEvents (s : State) (a b : Bool) (win : Option Nat) : OnlyEvents s (slotEvents s a b win) := by
  unfold slotEvents
  split
  · exact onlyEvents_ite (onlyEvents_c0 s _ _ _ _) (.refl s)
  · exact onlyEvents_ite (onlyEvents_c0 s _ _ _ _) (onlyEvents_chipFault_c1 s _ _ _)

/-- The choice of a slot raises its events and notes the slot in the Vault's record. -/
theorem chooseSlot_eq (s : State) (a b : Bool) :
    ∃ (e : State) (v : Vault), OnlyEvents s e ∧ (chooseSlot s a b).1 = { e with vault := v } := by
  unfold chooseSlot
  dsimp only
  split
  · exact ⟨_, _, onlyEvents_slotEvents s a b _, rfl⟩
  · exact ⟨_, _, onlyEvents_slotEvents s a b _, rfl⟩

theorem chooseSlot_unread (s : State) :
    (chooseSlot s false false).1.vault.imgSlot = 2 ∧ (chooseSlot s false false).1.vault.imgSeq = 0 := ⟨rfl, rfl⟩

/-! ## The sections (R410, R411) -/

theorem loadKept_modPort (s : State) (p : Nat) (f : FabPort → FabPort) : loadKept (modPort s p f) = loadKept s := rfl

theorem loadKept_putEvt (s : State) (t : Nat) (x : EvtTarget) : loadKept (putEvt s t x) = loadKept s := rfl

theorem loadKept_withBaseTables (s : State) : loadKept (withBaseTables s) = loadKept s := rfl

theorem loadKept_illegalSection (s : State) (id : Nat) : loadKept (illegalSection s id) = loadKept s := by
  have hc0 (elem code detail lim : Nat) : loadKept (c0 s elem code detail lim) = loadKept s :=
    (onlyEvents_c0 s elem code detail lim).loadKept
  unfold illegalSection
  exact ite_keeps (hc0 _ _ _ _) (ite_keeps (hc0 _ _ _ _) (ite_keeps (hc0 _ _ _ _) (ite_keeps (hc0 _ _ _ _) (hc0 _ _ _ _))))

/-- A section whose check fails is not applied. -/
theorem loadKept_guarded {s t u : State} {c : Prop} [Decidable c] (h : (if c then some t else none) = some u)
    (ht : loadKept t = loadKept s := by simp only [loadKept]) : loadKept u = loadKept s := by
  split at h
  · cases h
    exact ht
  · cases h

theorem loadKept_secFabric {p : Nat} {s u : State} {x : Sec} (h : secFabric p s x = some u) : loadKept u = loadKept s :=
  loadKept_guarded h (loadKept_modPort s p _)

theorem loadKept_regionsEvent (s : State) : loadKept (regionsEvent s) = loadKept s :=
  ite_keeps (onlyEvents_c0 s _ _ _ _).loadKept rfl

theorem loadKept_secStack {s u : State} {x : Sec} (h : secStack s x = some u) : loadKept u = loadKept s :=
  loadKept_guarded h ((loadKept_regionsEvent _).trans (by simp only [loadKept]))

/-- A table of the links' section is taken, or refused with an event. -/
theorem loadKept_linkTable {s t : State} {c d : Prop} [Decidable c] [Decidable d] {f : Fabric}
    (ht : loadKept t = loadKept s) :
    loadKept (if c then t else if d then { t with fab := f } else illegalSection t 7) = loadKept s :=
  ite_keeps ht (ite_keeps ht ((loadKept_illegalSection t 7).trans ht))

theorem loadKept_secLinks {s u : State} {x : Sec} (h : secLinks s x = some u) : loadKept u = loadKept s := by
  refine loadKept_guarded h (loadKept_linkTable (loadKept_linkTable ((loadKept_withBaseTables _).trans ?_)))
  refine (foldl_keeps (g := loadKept) (fun u p => ?_) _ _).trans ?_
  · exact loadKept_modPort u p _
  · simp only [loadKept]

theorem loadKept_secAccess {s u : State} {x : Sec} (h : secAccess s x = some u) : loadKept u = loadKept s := by
  unfold secAccess at h
  dsimp only at h
  split at h
  · split at h
    · cases h
      simp only [loadKept]
    · cases h
      rfl
  · cases h

theorem loadKept_secHatch {s u : State} {x : Sec} (h : secHatch s x = some u) : loadKept u = loadKept s :=
  loadKept_guarded h ((foldl_keeps (g := loadKept) (fun u t => by exact loadKept_putEvt u t _) _ _).trans
    (by simp only [loadKept]))

theorem loadKept_section {id : Nat} {f : State → Sec → Option State} (hf : secApply id = some f) {s u : State} {x : Sec}
    (h : f s x = some u) : loadKept u = loadKept s := by
  unfold secApply at hf
  split at hf <;> cases hf
  · exact loadKept_secStack h
  · exact loadKept_guarded h
  · exact loadKept_secFabric h
  · exact loadKept_secFabric h
  · exact loadKept_secFabric h
  · exact loadKept_secFabric h
  · exact loadKept_secLinks h
  · exact loadKept_guarded h
  · exact loadKept_guarded h
  · exact loadKept_guarded h
  · exact loadKept_guarded h
  · exact loadKept_guarded h
  · exact loadKept_guarded h
  · exact loadKept_secAccess h
  · exact loadKept_guarded h
  · exact loadKept_guarded h
  · exact loadKept_guarded h
  · exact loadKept_guarded h
  · exact loadKept_secHatch h
  · exact loadKept_guarded h
  · exact loadKept_guarded h
  · exact loadKept_guarded h

/-- What an ID's section is applied to: base tables before the map's, WCLASS before the regulator's. -/
def sectionBase (s : State) (id : Nat) : State :=
  let t := if id = 0x07 then withBaseTables s else s
  if id = 0x0D then { t with reg := { t.reg with wclass := baseWclass t } } else t

theorem loadKept_applyId (l : List (Nat × Nat × Nat)) (s : State) (id : Nat) : loadKept (applyId l s id) = loadKept s := by
  have hs : loadKept (sectionBase s id) = loadKept s := by
    unfold sectionBase
    split <;> split <;> rfl
  unfold applyId
  dsimp only
  split
  · exact hs
  · split
    · split
      · exact (loadKept_section ‹_› ‹_›).trans hs
      · exact (loadKept_illegalSection _ _).trans hs
    · exact hs
  · exact (loadKept_illegalSection _ _).trans hs

theorem loadKept_applySections (s : State) (l : List (Nat × Nat × Nat)) : loadKept (applySections s l) = loadKept s :=
  (foldl_keeps (g := loadKept) (loadKept_applyId l) _ _).trans
    (foldl_keeps (g := loadKept) (fun u (x : Nat × Nat × Nat) => loadKept_illegalSection u x.1) _ _)

end Sys2Proof.Machine

/-! # The start-up sequence (08 R268 to R270; 14 R408, R409; 16 R442 to R445) -/

namespace Sys2Proof.Machine

/-! ## Records (14 R413, R414; 09 R287) -/

theorem recordsKept_putSr (s : State) (b : Nat) (x : SrBlock) : recordsKept (putSr s b x) = recordsKept s := rfl

theorem recordsKept_tagPut (s : State) (r set way : Nat) (t : Tag6) : recordsKept (tagPut s r set way t) = recordsKept s :=
  rfl

theorem recordsKept_putTpos (s : State) (i : Nat) (x : TPos) : recordsKept (putTpos s i x) = recordsKept s := rfl

theorem recordsKept_recPut (s : State) (typ : Nat) (r : StoreRec) : recordsKept (recPut s typ r) = recordsKept s := by
  unfold recPut
  split
  · rfl
  · split <;> rfl

theorem recordsKept_factoryRepairs (s : State) : recordsKept (factoryRepairs s) = recordsKept s := by
  unfold factoryRepairs
  extract_lets rows cols u v
  have hu : recordsKept u = recordsKept s :=
    foldl_keeps (g := recordsKept) (fun u r => by exact ite_keeps (recordsKept_putSr u _ _) rfl) _ _
  have hv : recordsKept v = recordsKept s :=
    (foldl_keeps (g := recordsKept) (fun u r => by exact ite_keeps (recordsKept_putSr u _ _) rfl) _ _).trans hu
  refine ite_keeps ?_ hv
  refine (foldl_keeps (g := recordsKept) (fun u w => ?ways) _ _).trans
    ((foldl_keeps (g := recordsKept) (fun u t => ?tsvs) _ _).trans hv)
  case tsvs => exact ite_keeps (recordsKept_putSr u _ _) rfl
  case ways =>
    refine ite_keeps ?_ rfl
    dsimp only
    split
    · exact (recordsKept_tagPut _ _ _ _ _).trans (recordsKept_tagPut u _ _ _ _)
    · exact recordsKept_tagPut u _ _ _ _

theorem recordsKept_remapAll (s : State) : recordsKept (remapAll s) = recordsKept s := by
  unfold remapAll
  refine (foldl_keeps (g := recordsKept) (fun u lb => ?blocks) _ _).trans
    ((foldl_keeps (g := recordsKept) (fun u b => ?banks) _ _).trans
      (foldl_keeps (g := recordsKept) (fun u b => ?migrating) _ _))
  case blocks => exact ite_keeps rfl rfl
  case banks => rfl
  case migrating => exact ite_keeps (recordsKept_putSr u _ _) rfl

theorem recordsKept_loadRepair (s : State) (v : Nat) : recordsKept (loadRepair s v) = recordsKept s := by
  have hput (b : Nat) (x : SrBlock) {c : Prop} [Decidable c] : recordsKept (if c then s else putSr s b x) = recordsKept s :=
    ite_keeps rfl (recordsKept_putSr s b x)
  exact ite_keeps rfl (ite_keeps (hput _ _) (hput _ _))

theorem recordsKept_loadStore (s : State) (b : List (BitVec 8)) : recordsKept (loadStore s b) = recordsKept s := by
  unfold loadStore
  refine (foldl_keeps (g := recordsKept) (fun u i => recordsKept_putTpos u _ _) _ _).trans
    ((foldl_keeps (g := recordsKept) (fun u i => recordsKept_loadRepair u _) _ _).trans
      ((foldl_keeps (g := recordsKept) (fun u i => recordsKept_putSr u _ _) _ _).trans ?_))
  simp only [recordsKept, loadKept]

theorem recordsKept_loadCal (s : State) (b : List (BitVec 8)) : recordsKept (loadCal s b) = recordsKept s := by
  unfold loadCal
  simp only [recordsKept, loadKept]

theorem recordsKept_loadWear (s : State) (b : List (BitVec 8)) : recordsKept (loadWear s b) = recordsKept s :=
  foldl_keeps (g := recordsKept) (fun _ _ => by simp only [recordsKept, loadKept]) _ _

theorem recordsKept_loadRecord {s u : State} (hs : recordsKept s = recordsKept u) (bad : List Nat) (typ code : Nat)
    {f : State → List (BitVec 8) → State} (hf : ∀ s b, recordsKept (f s b) = recordsKept s) :
    recordsKept (loadRecord s bad typ code f) = recordsKept u := by
  unfold loadRecord
  split
  · exact (hf _ _).trans ((recordsKept_recPut _ _ _).trans (ite_keeps hs ((onlyEvents_c0 s _ _ _ _).recordsKept.trans hs)))
  · exact (onlyEvents_chipFault_c1 _ _ _ _).recordsKept.trans ((recordsKept_recPut s _ _).trans hs)

theorem recordsKept_loadRecords (s : State) (bad : List Nat) : recordsKept (loadRecords s bad) = recordsKept s := by
  have hstore := recordsKept_loadRecord (recordsKept_factoryRepairs s) bad 1 0x090B recordsKept_loadStore
  have hcal := recordsKept_loadRecord hstore bad 2 0x0E0B recordsKept_loadCal
  have hwear := recordsKept_loadRecord hcal bad 3 0x0E0B recordsKept_loadWear
  unfold loadRecords
  exact (recordsKept_remapAll _).trans hwear

/-! ## The image in force (R442) -/

theorem recordsKept_regFill (s : State) : recordsKept (regFill s) = recordsKept s := rfl

theorem recordsKept_regRescale (s : State) : recordsKept (regRescale s) = recordsKept s := by
  unfold regRescale
  refine ite_keeps rfl ((onlyEvents_c0 _ _ _ _ _).recordsKept.trans ?_)
  exact ite_keeps (g := recordsKept) rfl rfl

/-- The shadows are the tables in force. -/
theorem recordsKept_tablesInForce (s : State) : recordsKept (regFill (regRescale (shadowsInForce s))) =
    { load := loadKept s, boot := s.boot, calFrom := s.cal.t0,
      fab := { s.fab with routesSh := s.fab.routes, windowsSh := s.fab.windows, committing := false },
      acc := { s.acc with rulesSh := s.acc.rules, groupsSh := s.acc.groups, commit := none } } :=
  (recordsKept_regFill _).trans (recordsKept_regRescale (shadowsInForce s))

/-- The calibration phase begins at this moment. -/
def calibrationBegun (s : State) : State :=
  { s with
    boot := { s.boot with phase := .calibration, fwFrom := s.now }, cal := { s.cal with t0 := s.now },
    reg := { s.reg with upTo := s.now, winStart := s.now } }

def RecordsKept.calibrated (x : RecordsKept) : RecordsKept :=
  { x with boot := { x.boot with phase := .calibration, fwFrom := x.load.now }, calFrom := x.load.now }

theorem recordsKept_calibrationBegun (s : State) : recordsKept (calibrationBegun s) = (recordsKept s).calibrated := rfl

theorem loadKept_loadChain (s : State) : loadKept (loadChain s) = loadKept s := by
  unfold loadChain
  split <;> rfl

section
variable (s : State) (k : Nat) (a b : Bool) (bad : List Nat)

/-- The tables as the image leaves them, before the shadows follow. -/
def imageTables : State :=
  let p := chooseSlot (startReads s k a b bad) (a && k < 3) b
  lockFm (loadChain (applySections (withBaseTables p.1) p.2))

/-- The image is in force and the calibration phase begins; the records are not read yet. -/
def imageInForce : State :=
  calibrationBegun (regFill (regRescale (shadowsInForce (imageTables s k a b bad))))

theorem loadKept_imageTables : loadKept (imageTables s k a b bad) =
    { loadKept s with
      bootSpeed := BitVec.ofNat 2 (2 - k), vault := (chooseSlot (startReads s k a b bad) (a && k < 3) b).1.vault } := by
  obtain ⟨e, v, he, hslot⟩ := chooseSlot_eq (startReads s k a b bad) (a && k < 3) b
  have hread := ((onlyEvents_startReads s k a b bad).trans he).loadKept
  have hchosen : loadKept (imageTables s k a b bad) =
      loadKept (chooseSlot (startReads s k a b bad) (a && k < 3) b).1 :=
    (loadKept_loadChain _).trans ((loadKept_applySections _ _).trans (loadKept_withBaseTables _))
  rw [hchosen, hslot]
  exact congrArg (fun x : LoadKept => { x with vault := v }) hread

theorem recordsKept_imageInForce : recordsKept (imageInForce s k a b bad) =
    let u := imageTables s k a b bad
    { load := loadKept u, boot := { u.boot with phase := .calibration, fwFrom := u.now },
      fab := { u.fab with routesSh := u.fab.routes, windowsSh := u.fab.windows, committing := false },
      acc := { u.acc with rulesSh := u.acc.rules, groupsSh := u.acc.groups, commit := none }, calFrom := u.now } :=
  (recordsKept_calibrationBegun _).trans (congrArg RecordsKept.calibrated (recordsKept_tablesInForce _))

end

/-! ## The ports released (R442) -/

theorem recordsKept_twAsk (s : State) (cls : Nat) (kind : TwKind) (who : TwFor) :
    recordsKept (twAsk s cls kind who) = recordsKept s := rfl

theorem recordsKept_startBring (s : State) (p : Nat) : recordsKept (startBring s p) = recordsKept s := ite_keeps rfl rfl

theorem wp_startBring (s : State) (p : Nat) : (startBring s p).wp = s.wp := ite_keeps (g := State.wp) rfl rfl

theorem recordsKept_releasePorts (s : State) : recordsKept (releasePorts s) = recordsKept s :=
  foldl_keeps recordsKept_startBring _ _

theorem releasePorts_training {s : State} (he : s.fab.wpEnable = true) (hr : smGet false s.pins.railOut 2 = false) :
    (releasePorts s).wp.st = .training ∧ (releasePorts s).wp.phase = .clockLock := by
  unfold releasePorts
  rw [foldl_keeps wp_startBring]
  simp [he, hr]

/-! ## The image load (R408, R442) -/

theorem imageLoad_elsewhere {s : State} (h : s.boot.phase ≠ .image) (k : Nat) (a b : Bool) (bad : List Nat) :
    imageLoad s k a b bad = s := by
  simp [imageLoad, h]

section
variable {s : State} (h : s.boot.phase = .image) (k : Nat) (a b : Bool) (bad : List Nat)
include h

/-- In the image phase the records follow the tables, and the ports are released. -/
theorem imageLoad_releases : ∃ u, imageLoad s k a b bad = releasePorts u ∧
    recordsKept u = recordsKept (imageInForce s k a b bad) := by
  have hgo : ¬ (s.boot.phase != .image) = true := by simp [h]
  have hloaded := recordsKept_loadRecords (imageInForce s k a b bad) bad
  refine ⟨if (loadRecords (imageInForce s k a b bad) bad).tw.regEn then
      twAsk (loadRecords (imageInForce s k a b bad) bad) 1 .voutMode .stack
    else loadRecords (imageInForce s k a b bad) bad, ?_, ite_keeps ((recordsKept_twAsk _ _ _ _).trans hloaded) hloaded⟩
  unfold imageLoad imageInForce calibrationBegun imageTables
  rw [if_neg hgo]

/-- The calibration phase begins at this moment, with the image's tables in force and their shadows equal to them. -/
theorem recordsKept_imageLoad : recordsKept (imageLoad s k a b bad) =
    let u := imageTables s k a b bad
    { load := { loadKept s with
        bootSpeed := BitVec.ofNat 2 (2 - k), vault := (chooseSlot (startReads s k a b bad) (a && k < 3) b).1.vault },
      boot := { u.boot with phase := .calibration, fwFrom := s.now },
      fab := { u.fab with routesSh := u.fab.routes, windowsSh := u.fab.windows, committing := false },
      acc := { u.acc with rulesSh := u.acc.rules, groupsSh := u.acc.groups, commit := none }, calFrom := s.now } := by
  obtain ⟨u, hu, hkept⟩ := imageLoad_releases h k a b bad
  have hload := loadKept_imageTables s k a b bad
  have hnow : (imageTables s k a b bad).now = s.now := congrArg LoadKept.now hload
  rw [hu, recordsKept_releasePorts, hkept, recordsKept_imageInForce]
  simp only [hload, hnow]

theorem imageLoad_training (he : (imageLoad s k a b bad).fab.wpEnable = true)
    (hr : smGet false s.pins.railOut 2 = false) :
    (imageLoad s k a b bad).wp.st = .training ∧ (imageLoad s k a b bad).wp.phase = .clockLock := by
  have hpins : (imageLoad s k a b bad).pins = s.pins :=
    congrArg (fun x => x.load.pins) (recordsKept_imageLoad h k a b bad)
  obtain ⟨u, hu, -⟩ := imageLoad_releases h k a b bad
  have hkept := recordsKept_releasePorts u
  have hsame : (releasePorts u).pins = u.pins := congrArg (fun x => x.load.pins) hkept
  rw [hu] at he hpins ⊢
  refine releasePorts_training ((congrArg (fun x => x.fab.wpEnable) hkept).symm.trans he) ?_
  rwa [← hsame, hpins]

end

/-- The slot that wins is the first in order that qualifies. -/
theorem chooseSlot_wins {s : State} {a b : Bool} (h : (chooseSlot s a b).2 ≠ []) :
    ∃ k, (slotOrder s a b).find? (fun k => fnOk s 0 && qualifies s k) = some k ∧
      (chooseSlot s a b).1.vault.imgSlot = BitVec.ofNat 8 k := by
  cases hwin : (slotOrder s a b).find? (fun k => fnOk s 0 && qualifies s k) with
  | none => simp [chooseSlot, hwin] at h
  | some k => exact ⟨k, rfl, by simp only [chooseSlot, hwin]⟩

theorem not_of_mem_takeWhile {l : List Nat} {p : Nat → Bool} {k j : Nat} (h : l.find? p = some k)
    (hj : j ∈ l.takeWhile (fun x => x ≠ k)) : p j = false := by
  obtain ⟨hk, l₁, l₂, rfl, hl₁⟩ := List.find?_eq_some_iff_append.mp h
  have hne : ∀ x ∈ l₁, decide (x ≠ k) = true := fun x hx => by
    have hx' := hl₁ x hx
    exact decide_eq_true fun hxk => by simp [hxk, hk] at hx'
  rw [List.takeWhile_append_of_pos hne] at hj
  simpa using hl₁ j (by simpa using hj)

/-! ## The PLL, BIST and the boot halt (R442, R443) -/

theorem pllLock_inTime {s : State} (h : s.boot.phase = .pll) (he : expired s s.boot.t0 100000000 = false) :
    pllLock s = { s with boot := { s.boot with phase := .bist } } := by
  simp [pllLock, ms, h, he]

theorem pllLock_late {s : State} (he : expired s s.boot.t0 100000000 = true) : pllLock s = s := by
  simp [pllLock, ms, he]

theorem bootFails_late {s : State} (h : s.boot.phase = .pll) (he : expired s s.boot.t0 100000000 = true) :
    bootFails s 0 = haltBoot s := by
  simp [bootFails, ms, h, he]

theorem bistComplete_fails {s : State} (h : s.boot.phase = .bist) (reads : List (Nat × BitVec 32)) :
    bistComplete s false reads = haltBoot s := by
  simp [bistComplete, h]

theorem bistComplete_passes {s : State} (h : s.boot.phase = .bist) (reads : List (Nat × BitVec 32)) :
    (bistComplete s true reads).boot.phase = .image := by
  have hgo : ¬ (s.boot.phase != .bist) = true := by simp [h]
  unfold bistComplete
  rw [if_neg hgo]
  rfl

/-! ## The cold calibration (15 R418, R429) -/

theorem setLsb_inRange {s : State} {taps : Nat} (h700 : 700 ≤ taps) (h1400 : taps ≤ 1400) : setLsb s taps =
    { s with cal := { s.cal with tdcAt := some s.now, tdcLsb := BitVec.ofNat 16 (1024000 / taps) } } := by
  simp [setLsb, h700, h1400]

/-- Words driven to the dies change nothing that a change of a block does not. -/
theorem loadDies_keeps {β : Type} {g : State → β} (hg : ∀ s b f, g (modBlk s b f) = g s) (s : State) :
    g (loadDies s) = g s :=
  foldl_keeps (fun _ _ => hg _ _ _) _ _

theorem coldBytes_nil (s : State) (full : Bool) : coldBytes s full [] = s := by simp [coldBytes]

/-- The results of a cold start are noted, with the moment the walks count from. -/
def coldNoted (full : Bool) (s : State) : State :=
  { s with cal := { s.cal with
      fullPath := full, done := true, coldUs := BitVec.ofNat 32 ((s.now - s.cal.t0) / 1000), moved := true, lastWrite := 0,
      walks := (List.range 36).foldl (fun m b => smSet {} m b { lastFull := s.now, lastDone := s.now }) [] } }

/-- Without measured lines a cold start drives the repairs into the dies and notes its results. -/
theorem coldResults_nil (s : State) : coldResults s [] = coldNoted (fullPath s) (loadDies
    { s with cal := { s.cal with region10 := if fnOk s 10 then fnContent s 10 else 0 } }) := by
  simp only [coldResults, List.foldl_nil, coldBytes_nil, coldNoted]

theorem coldNoted_keeps (full : Bool) (s : State) : (coldNoted full s).now = s.now ∧ (coldNoted full s).dram = s.dram ∧
    (coldNoted full s).cal.tdcLsb = s.cal.tdcLsb ∧ (coldNoted full s).cal.scaleAt = s.cal.scaleAt ∧
    (coldNoted full s).cal.done = true := ⟨rfl, rfl, rfl, rfl, rfl⟩

theorem coldResults_unmeasured (s : State) :
    (coldResults s []).now = s.now ∧ (coldResults s []).dram = s.dram ∧
      (coldResults s []).cal.tdcLsb = s.cal.tdcLsb ∧ (coldResults s []).cal.scaleAt = s.cal.scaleAt ∧
      (coldResults s []).cal.done = true := by
  rw [coldResults_nil]
  obtain ⟨hnow, hdram, hlsb, hscale, hdone⟩ := coldNoted_keeps (fullPath s) (loadDies
    { s with cal := { s.cal with region10 := if fnOk s 10 then fnContent s 10 else 0 } })
  rw [hnow, hdram, hlsb, hscale, hdone, loadDies_keeps (g := State.now) modBlk_now,
    loadDies_keeps (g := State.dram) modBlk_dram, loadDies_keeps (g := State.cal) modBlk_cal]
  exact ⟨rfl, rfl, rfl, rfl, rfl⟩

/-- The blocks' rows are checked from this moment. -/
def blocksTimed (s : State) : State := (List.range 36).foldl (fun s b => modBlk s b (fun k => { k with t0 := s.now })) s

theorem blocksTimed_keeps {β : Type} {g : State → β} (hg : ∀ s b f, g (modBlk s b f) = g s) (s : State) :
    g (blocksTimed s) = g s :=
  foldl_keeps (fun _ _ => hg _ _ _) _ _

/-- The Primer pass starts. -/
def primerStarted (s : State) : State :=
  { s with
    boot := { s.boot with phase := .primer },
    primer := { s.primer with st := .clones, t0 := s.now, since := s.now, ran := 0, cloned := false } }

/-- With no block and no slice that failed, nothing else follows. -/
theorem coldComplete_nil (s : State) : coldComplete s [] [] = primerStarted (blocksTimed s) := rfl

theorem primerStarted_fields (s : State) : (primerStarted s).boot.phase = .primer ∧ (primerStarted s).primer.st = .clones ∧
    (primerStarted s).primer.t0 = s.now ∧ (primerStarted s).cal = s.cal ∧ (primerStarted s).dram = s.dram :=
  ⟨rfl, rfl, rfl, rfl, rfl⟩

theorem coldComplete_sound (s : State) :
    (coldComplete s [] []).boot.phase = .primer ∧ (coldComplete s [] []).primer.st = .clones ∧
      (coldComplete s [] []).primer.t0 = s.now ∧ (coldComplete s [] []).cal = s.cal ∧
      (coldComplete s [] []).dram = s.dram := by
  obtain ⟨hphase, hst, ht0, hcal, hdram⟩ := primerStarted_fields (blocksTimed s)
  rw [coldComplete_nil]
  exact ⟨hphase, hst, ht0.trans (blocksTimed_keeps modBlk_now s), hcal.trans (blocksTimed_keeps modBlk_cal s),
    hdram.trans (blocksTimed_keeps modBlk_dram s)⟩

theorem coldCal_starts {s : State} {taps : Nat} (h700 : 700 ≤ taps) (h1400 : taps ≤ 1400)
    (h : s.boot.phase = .calibration) (hr : calRuns s = true) (lines : List LineTaps) (scales : List (BitVec 16))
    (failed badSlices : List Nat) : coldCal s taps lines scales failed badSlices =
      coldComplete (coldResults (putScales (setLsb s taps) scales) lines) failed badSlices := by
  have hgo : (s.boot.phase == .calibration && calRuns s) = true := by simp [h, hr]
  have hruns : calRuns (setLsb s taps) = true := by rwa [setLsb_inRange h700 h1400]
  unfold coldCal
  rw [if_pos hgo]
  exact if_pos hruns

/-! ## The identity key (R444, R445) -/

/-- Without a chain the key alone becomes ready. -/
theorem keyReady_unchained {s : State} (hi : s.boot.identReady = false) (hp : portsOn s = true) (ho : identOk s = true)
    (hc : chainLen s = 0) : keyReady s = { s with boot := { s.boot with
      identMod := identModulus (BitVec.ofNat 512 (fnContent s 1)), identReady := true, keysZero := false } } := by
  have hgo : ¬ (s.boot.identReady || !portsOn s || !identOk s) = true := by simp [hi, hp, ho]
  unfold keyReady
  rw [if_neg hgo]
  exact if_pos hc

/-! ## The Primer pass (08 R268 to R270) -/

/-- Repaired rows lie in the row numbers of the user, so that a pass over all of them zeroes every bank in service. -/
theorem retired_of_mem_zeroRows {s : State} (hrep : ∀ b, ∀ x ∈ (srBlk s b).rowRep, x.2.1 < 65536) {p : Nat × BitVec 8}
    (hp : p ∈ (zeroRows s 65536).dram) :
    (srBlk s (p.1 / (128 * 34 * 65792) / 68)).retired.getLsbD (p.1 / (128 * 34 * 65792) % 68) = true := by
  obtain ⟨-, hkept⟩ := List.mem_filter.mp hp
  rcases (Bool.or_eq_true _ _).mp hkept with hretired | huser
  · exact hretired
  · exfalso
    have hle := of_decide_eq_true huser
    split at hle
    · omega
    · split at hle
      · next x hx => exact absurd (hrep _ _ (List.mem_of_find?_eq_some hx)) (Nat.not_lt.mpr hle)
      · omega

theorem rowsIn_nil : rowsIn [] = true := rfl

theorem clonesDone_complete {s : State} (h : s.primer.st = .clones)
    (hr : 128400000 ≤ s.primer.ran + (s.now - s.primer.since)) :
    clonesDone s [] = { s with
      dram := (zeroRows s 65536).dram, primer := { s.primer with st := .check, cloned := true } } := by
  have hran : ¬ primerRan s < 128400000 := Nat.not_lt.mpr hr
  have hgo : ¬ (s.primer.st != .clones || primerRan s < 128400000) = true := by simp [h, hran]
  unfold clonesDone
  rw [if_neg hgo]
  rfl

/-- The pass is over: poison tables and directory are empty, and the stack is released. -/
def primed (s : State) : State :=
  { s with
    primer := { s.primer with st := .done, duration := (s.now - s.primer.t0) / 1000 },
    blocks := s.blocks.map (fun p => (p.1, { p.2 with ptab := [], povf := false })),
    uc := { s.uc with dir := [], frames := [] }, boot := { s.boot with phase := .released } }

theorem primerDone_complete {s : State} (h : s.primer.st = .check)
    (hr : 130000000 ≤ s.primer.ran + (s.now - s.primer.since)) : primerDone s [] [] = settle (primed s) := by
  have hran : ¬ primerRan s < 130000000 := Nat.not_lt.mpr hr
  have hgo : ¬ (s.primer.st != .check || primerRan s < 130000000) = true := by simp [h, hran]
  unfold primerDone
  rw [if_neg hgo]
  rfl

theorem primed_blocks {s : State} {p : Nat × Block} (hp : p ∈ (primed s).blocks) : p.2.ptab = [] ∧ p.2.povf = false := by
  obtain ⟨q, -, rfl⟩ := List.mem_map.mp hp
  exact ⟨rfl, rfl⟩

/-! ## The commands on a stack that acts -/

section
variable {s : State} (hl : live s = true)
include hl

theorem exec_pllLock : exec .pllLock s = .next (pllLock s) := whenLive_live pllLock hl

theorem exec_bootHalt {cause : Nat} (h : cause < 3) : exec (.bootHalt cause) s = .next (bootFails s cause) :=
  (if_pos h).trans (whenLive_live (fun s => bootFails s cause) hl)

theorem exec_startupBistComplete (ok : Bool) : exec (.startupBistComplete ok []) s = .next (bistComplete s ok []) := by
  change execStartupBistComplete ok [] s = _
  rw [execStartupBistComplete, if_pos List.all_nil, whenLive_live _ hl]

theorem exec_imageLoadComplete {k : Nat} (hk : k ≤ 3) (a b : Bool) {bad : List Nat} (hbad : ∀ c ∈ bad, c < 6) :
    exec (.imageLoadComplete k a b bad) s = .next (imageLoad s k a b bad) :=
  (if_pos ⟨hk, List.all_eq_true.mpr fun c hc => decide_eq_true (hbad c hc)⟩).trans
    (whenLive_live (fun s => imageLoad s k a b bad) hl)

theorem exec_imageLoadComplete_elsewhere (h : s.boot.phase ≠ .image) (k : Nat) (a b : Bool) (bad : List Nat) :
    exec (.imageLoadComplete k a b bad) s = .next s := by
  change execImageLoadComplete k a b bad s = _
  unfold execImageLoadComplete
  split
  · exact next_of_eq (whenLive_live _ hl) (imageLoad_elsewhere h k a b bad)
  · rfl

theorem exec_coldCalibrationComplete {taps : Nat} (ht : taps ≤ 2048) {scales : List (BitVec 16)}
    (hs : scales.length = 18) :
    exec (.coldCalibrationComplete taps [] scales [] []) s = .next (coldCal s taps [] scales [] []) :=
  (if_pos ⟨ht, rfl, hs, rfl, rfl⟩).trans (whenLive_live (fun s => coldCal s taps [] scales [] []) hl)

theorem exec_identityKeyReady : exec .identityKeyReady s = .next (keyReady s) := whenLive_live keyReady hl

theorem exec_primerClonesComplete : exec (.primerClonesComplete []) s = .next (clonesDone s []) := by
  change execPrimerClonesComplete [] s = _
  rw [execPrimerClonesComplete, if_pos rowsIn_nil, whenLive_live _ hl]

theorem exec_primerComplete : exec (.primerComplete [] []) s = .next (primerDone s [] []) := by
  change execPrimerComplete [] [] s = _
  rw [execPrimerComplete, if_pos ⟨rowsIn_nil, rowsIn_nil⟩, whenLive_live _ hl]

end

/-- Settles O36: one case per phase; the image load by what its records and the release of the ports keep. -/
theorem startUpSequence : Obligations.StartUpSequence := by
  unfold Obligations.StartUpSequence
  intro s hl
  refine ⟨fun h he => next_of_eq (exec_pllLock hl) (pllLock_inTime h he),
    fun h he => ⟨next_of_eq (exec_pllLock hl) (pllLock_late he),
      next_of_eq (exec_bootHalt hl (by decide)) (bootFails_late h he)⟩,
    ⟨rfl, rfl, rfl, rfl, rfl, rfl, rfl, rfl⟩,
    fun h => next_of_eq (exec_startupBistComplete hl false) (bistComplete_fails h []),
    fun h => ⟨_, exec_startupBistComplete hl true, bistComplete_passes h []⟩,
    fun k a b bad h => exec_imageLoadComplete_elsewhere hl h k a b bad,
    fun k a b bad h hk hbad => ⟨_, exec_imageLoadComplete hl hk a b hbad, ?image⟩,
    fun a b h => ?slot,
    fun taps scales h700 h1400 hs h hr => ⟨_, exec_coldCalibrationComplete hl (by omega) hs, ?calibration⟩,
    fun hi hp ho hc => next_of_eq (exec_identityKeyReady hl) (keyReady_unchained hi hp ho hc),
    fun h hr hrep => ⟨_, next_of_eq (exec_primerClonesComplete hl) (clonesDone_complete h hr), rfl,
      fun p hp => retired_of_mem_zeroRows hrep hp, rfl⟩,
    fun h hr => ⟨primed s, next_of_eq (exec_primerComplete hl) (primerDone_complete h hr), rfl, rfl, rfl, rfl, rfl,
      fun p hp => primed_blocks hp⟩⟩
  case image =>
    have hkept := recordsKept_imageLoad h k a b bad
    refine ⟨congrArg (fun x => x.boot.phase) hkept, congrArg (fun x => x.boot.fwFrom) hkept,
      congrArg RecordsKept.calFrom hkept, congrArg (fun x => x.load.bootSpeed) hkept,
      congrArg (fun x => x.fab.committing) hkept, congrArg (fun x => x.acc.commit) hkept,
      (congrArg (fun x => x.fab.routesSh) hkept).trans (congrArg (fun x => x.fab.routes) hkept).symm,
      (congrArg (fun x => x.fab.windowsSh) hkept).trans (congrArg (fun x => x.fab.windows) hkept).symm,
      congrArg (fun x => x.load.dram) hkept, imageLoad_training h k a b bad, fun ha hb => ?_⟩
    subst ha hb
    have hvault := congrArg (fun x => x.load.vault) hkept
    obtain ⟨hslot, hseq⟩ := chooseSlot_unread (startReads s k false false bad)
    exact ⟨(congrArg Vault.imgSlot hvault).trans hslot, (congrArg Vault.imgSeq hvault).trans hseq⟩
  case slot =>
    obtain ⟨k, hfind, hslot⟩ := chooseSlot_wins h
    obtain ⟨hok, hq⟩ := Bool.and_eq_true_iff.mp (List.find?_some (p := fun k => fnOk s 0 && qualifies s k) hfind)
    refine ⟨k, List.mem_of_find?_eq_some hfind, hq, fun j hj => ?_, hslot⟩
    have hfails := not_of_mem_takeWhile hfind hj
    rwa [hok, Bool.true_and] at hfails
  case calibration =>
    obtain ⟨hphase, hst, ht0, hcal, hdram⟩ := coldComplete_sound (coldResults (putScales (setLsb s taps) scales) [])
    obtain ⟨hnow, hkept, hlsb, hscale, hdone⟩ := coldResults_unmeasured (putScales (setLsb s taps) scales)
    rw [coldCal_starts h700 h1400 h hr, hphase, hst, ht0, hcal, hdram, hnow, hkept, hlsb, hscale, hdone,
      setLsb_inRange h700 h1400]
    exact ⟨rfl, rfl, rfl, rfl, rfl, rfl, rfl⟩

end Sys2Proof.Machine

/-! # Scrub, retirement and the store room by their Hatch commands (09 R287, R288, R293, R295) -/

namespace Sys2Proof.Machine

section
variable {s : State} {h : Nat} (hl : live s = true) (hh : h < 16)
include hl hh

/-! ## SCRUB_START (R293) -/

section
variable (hready : hatchReady s h 0x0301 0x0301 = true) (hf : reservedBad s h [(0, 18)] = []) (ha : pl s h 0 8 % 64 = 0)
  (hs : pl s h 0 8 < 2 ^ 38) (hc1 : 1 ≤ pl s h 8 8) (hc : pl s h 8 8 ≤ 2 ^ 32)
  (he : pl s h 0 8 + 64 * pl s h 8 8 ≤ capacity s) (hr : 1 ≤ pl s h 16 1) (hsp : pl s h 17 1 < 2)
include hready hf ha hs hc1 hc he hr hsp

theorem exec_scrubStart : exec (.scrubStart h) s = .next (if s.store.scrub.running then ans s h 1
    else ansOk (scrubBegin s (pl s h 0 8) (pl s h 8 8) (pl s h 16 1) (pl s h 17 1 = 1)) h []) := by
  have hrate : pl s h 16 1 ≠ 0 := by omega
  have hcount : pl s h 8 8 ≠ 0 := by omega
  change hatchRun h 0x0301 0x0301 s (fun s => scrubStart s h) = _
  rw [hatchRun_ready _ hh hl hready, scrubStart, withFields_legal _ hf]
  simpa [ha, hcount, he, hrate, Nat.le_of_lt_succ hsp] using ⟨hs, hc⟩

end

/-! ## SCRUB_STATUS, RETIRE and STOREROOM -/

theorem exec_scrubStatus (hready : hatchReady s h 0x0302 0x0302 = true) :
    exec (.scrubStatus h) s = .next (scrubStatus s h) := hatchRun_ready _ hh hl hready

theorem exec_storeroom (hready : hatchReady s h 0x0304 0x0304 = true) :
    exec (.storeroom h) s = .next (ansOk s h (storeRecord s)) := hatchRun_ready _ hh hl hready

section
variable (hready : hatchReady s h 0x0303 0x0303 = true) (hf : reservedBad s h [(0, 3)] = []) (hpb : pl s h 1 1 < 36)
  (hlog : (logicalOf s (pl s h 1 1)).isSome = true)
include hready hf hpb hlog

theorem exec_retire_block (hk : pl s h 0 1 = 2) (hb : pl s h 2 1 = 0) :
    exec (.retire h) s = .next (retireUnit s h (.block (pl s h 1 1))) := by
  change hatchRun h 0x0303 0x0303 s (fun s => retire s h) = _
  rw [hatchRun_ready _ hh hl hready, retire, withFields_legal _ hf, if_neg (by omega)]
  simpa [hk, hb, Option.isSome_iff_ne_none] using ⟨Nat.le_of_lt_succ hpb, Option.isSome_iff_ne_none.mp hlog⟩

theorem exec_retire_bank (hk : pl s h 0 1 = 1) (hb : pl s h 2 1 < 64)
    (hret : isRetiredBank s (pl s h 1 1) (pl s h 2 1) = false) :
    exec (.retire h) s = .next (retireUnit s h (.bank (pl s h 1 1) (pl s h 2 1))) := by
  change hatchRun h 0x0303 0x0303 s (fun s => retire s h) = _
  rw [hatchRun_ready _ hh hl hready, retire, withFields_legal _ hf, if_pos hk]
  simpa [hk, hret, Option.isSome_iff_ne_none] using
    ⟨⟨Nat.le_of_lt_succ hpb, Option.isSome_iff_ne_none.mp hlog⟩, Nat.le_of_lt_succ hb⟩

end

end

/-! ## The summary of a scrub (R295) -/

/-- Forming NEXT takes at most a free value; without a pass it is all ones. -/
theorem scrubNextDpa_eq (s : State) : ∃ n k, scrubNextDpa s = (n, { s with free := k }) ∧
    (s.store.scrub.running = false → n = allOnes) := by
  unfold scrubNextDpa
  dsimp only
  split_ifs with hidle hpos
  · exact ⟨_, s.free, rfl, fun _ => rfl⟩
  · exact ⟨_, s.free, rfl, fun h => absurd h (by simpa using hidle)⟩
  · exact ⟨_, s.free + 1, rfl, fun h => absurd h (by simpa using hidle)⟩

theorem scrubRecord_fields (s : State) (next : Nat) : (scrubRecord s next).length = 576 ∧
    leAt (scrubRecord s next) 0 8 = min s.store.scrub.linesRead allOnes ∧
    leAt (scrubRecord s next) 32 8 = min s.store.scrub.uncorr allOnes ∧
    leAt (scrubRecord s next) 56 8 = next % 2 ^ 64 := by
  have hhold (n : Nat) : min n allOnes < 2 ^ 64 := (Nat.min_le_right n allOnes).trans_lt (by decide)
  simpa [scrubRecord, leBytes_length, leAt_append_left, leAt_append_right, leAt_leBytes] using
    And.intro (hhold s.store.scrub.linesRead) (hhold s.store.scrub.uncorr)

/-! ## What RETIRE answers (R288) -/

section
variable {s : State} {u : RetUnit} (h : Nat)

theorem retireUnit_queued (hq : isQueued s u = true) : retireUnit s h u = ansOk s h (leBytes (queuePlace s u) 1) :=
  if_pos hq

section
variable (hq : isQueued s u = false)
include hq

theorem retireUnit_noSpare (hs : spareLeft s u = false) : retireUnit s h u = ans s h 9 := by simp [retireUnit, hq, hs]

theorem retireUnit_enqueues (hs : spareLeft s u = true) :
    retireUnit s h u = ansOk (enqueueUnit s u) h (leBytes (queuePlace (enqueueUnit s u) u) 1) := by
  simp [retireUnit, hq, hs]

theorem enqueueUnit_eq : enqueueUnit s u = { s with store := (enqueueUnit s u).store } := by
  simp [enqueueUnit, hq, putMigr]

theorem queue_enqueueUnit : (migr (enqueueUnit s u) (unitBlock u / 9)).queue = (migr s (unitBlock u / 9)).queue ++ [u] := by
  simp [enqueueUnit, hq]

/-- The unit stands behind all that waited before it. -/
theorem queuePlace_enqueueUnit : queuePlace (enqueueUnit s u) u = (migr s (unitBlock u / 9)).queue.length := by
  have hne : u ∉ (migr s (unitBlock u / 9)).queue := by simpa [isQueued] using hq
  have hnone : (migr s (unitBlock u / 9)).queue.findIdx? (fun x => x = u) = none :=
    List.findIdx?_eq_none_iff.mpr fun x hx => decide_eq_false fun hxu => hne (hxu ▸ hx)
  rw [queuePlace, queue_enqueueUnit hq, List.findIdx?_append, hnone]
  simp

end

end

/-! ## The store-room record (R287) -/

theorem storeRecord_fields (s : State) : leAt (storeRecord s) 0 4 = s.store.seq.toNat ∧
    leAt (storeRecord s) 4 12 = b2n s.store.unsaved := by
  have hunsaved : b2n s.store.unsaved < 2 ^ 96 := (b2n_le _).trans_lt (by decide)
  simpa [storeRecord, leBytes_length, leAt_append_left, leAt_append_right, leAt_leBytes] using
    And.intro s.store.seq.isLt hunsaved

/-- Settles O26: SCRUB_START by whether a pass runs, RETIRE by what its unit meets, the records by their fields. -/
theorem scrubAndRetirement : Obligations.ScrubAndRetirement := by
  unfold Obligations.ScrubAndRetirement
  intro s h hl hh
  refine ⟨fun hready hf ha hs hc1 hc he hr hsp => ?start, fun hready => ?status, fun hready hf u hu hpb hlog => ?retire,
    fun hready => ⟨_, exec_storeroom hl hh hready, storeRecord_fields s⟩⟩
  case start =>
    have hrun := exec_scrubStart hl hh hready hf ha hs hc1 hc he hr hsp
    exact ⟨fun hp => next_of_eq hrun (if_pos hp), fun hp =>
      ⟨_, next_of_eq hrun (if_neg (Bool.eq_false_iff.mp hp)), rfl, rfl, rfl, rfl, rfl, rfl, rfl, rfl, rfl⟩⟩
  case status =>
    obtain ⟨n, k, hnext, hidle⟩ := scrubNextDpa_eq s
    have hans : scrubStatus s h = ansOk { s with free := k } h (scrubRecord { s with free := k } n) := by
      rw [scrubStatus, hnext]
    obtain ⟨hlen, hread, huncorr, hn⟩ := scrubRecord_fields { s with free := k } n
    exact ⟨_, _, next_of_eq (exec_scrubStatus hl hh hready) hans, rfl, hlen, hread, huncorr,
      fun hp => by rw [hn, hidle hp]; rfl⟩
  case retire =>
    have hblock : unitBlock u = pl s h 1 1 := by
      obtain ⟨rfl, _⟩ | ⟨rfl, _⟩ := hu <;> rfl
    have hrun : exec (.retire h) s = .next (retireUnit s h u) := by
      obtain ⟨rfl, hk, hb⟩ | ⟨rfl, hk, hb, hret⟩ := hu
      · exact exec_retire_block hl hh hready hf hpb hlog hk hb
      · exact exec_retire_bank hl hh hready hf hpb hlog hk hb hret
    rw [← hblock]
    exact ⟨fun hq => next_of_eq hrun (retireUnit_queued h hq), fun hq hs => next_of_eq hrun (retireUnit_noSpare h hq hs),
      fun hq hs => ⟨enqueueUnit s u, _, next_of_eq hrun (retireUnit_enqueues h hq hs), queue_enqueueUnit hq,
        by rw [queuePlace_enqueueUnit hq], enqueueUnit_eq hq⟩⟩

end Sys2Proof.Machine

/-! # A copied row that was given up (07 R229; 09 R289; 12 R349, R350, R354)

No line of such a row can be read.  The second of these errors stops the region, and with it the migration, whose copy
pointer returns to row 0.  The row that is being copied stays the row that was begun. -/

namespace Sys2Proof.Machine

theorem exec_migrationRowCopy {s : State} {r : Nat} (hl : live s = true) (hr : r < 4)
    (errs : List (Nat × Nat × BitVec 8)) : exec (.migrationRowCopy r errs) s = .next (copyRow s r errs) :=
  (if_pos hr).trans (whenLive_live (fun s => copyRow s r errs) hl)

/-- A released stack that copies row 1 of bank 3 of block 0 to the spare block 8; rows 0 and 1 of the bank were given up. -/
def copyingState : State :=
  { State.reset with
    boot := { phase := .released }
    blocks := [(0, { banks := [(3, { badRows := [0, 1] })] })]
    store := {
      blocks := [(8, { st := .migrating })]
      migr := [(0, { st := .copy, queue := [.block 0], target := 8, row := 1, bank := 3, ring := true })] } }

/-- The row copied line by line at the copy pointer as it stands before each line. -/
def copiedAtPointer (s : State) (r : Nat) (src dst : Nat × Nat) (errs : List (Nat × Nat × BitVec 8)) : State :=
  let v := (migrBlocks (migr s r)).foldl (fun s b => runLines s b (64 / (migrBlocks (migr s r)).length)) s
  advanceCopy ((List.range 32).foldl (fun s n => copyLine s src dst (migr s r).row n errs) v) r

/-- The row begun is copied to its end: its last line is the last one poisoned in block 8. -/
theorem ptab_copyRow : (blk (copyRow copyingState 0 []) 8).ptab.head? = some (lineKey 3 1 31) := by decide +kernel

/-- Behind the stop the pointer is at row 0, and so are the other lines poisoned in block 8. -/
theorem ptab_copiedAtPointer :
    (blk (copiedAtPointer copyingState 0 (0, 3) (8, 3) []) 8).ptab.head? = some (lineKey 3 0 31) := by decide +kernel

/-- Refutes O55: its clause of a row copied reads the copy pointer again before each line, `(migr s r).row` standing under
the fold's own `s`.  In `copyingState` the second uncorrectable line escalates its fault and stops the region, which sets
the pointer back to row 0: the clause copies the other lines from row 0, where `copyRow` goes on in row 1. -/
theorem not_integrityCommands : ¬ Obligations.IntegrityCommands := by
  unfold Obligations.IntegrityCommands
  intro h
  have hl : live copyingState = true := by decide +kernel
  obtain ⟨_, _, _, _, _, _, _, hMigration, _⟩ := h copyingState hl
  obtain ⟨_, _, _, hCopy, _⟩ := hMigration 0 (by decide)
  have hStated : exec (.migrationRowCopy 0 []) copyingState =
      .next (copiedAtPointer copyingState 0 (0, 3) (8, 3) []) :=
    hCopy [] (.block 0) [] (0, 3) (8, 3) (by decide +kernel) rfl (by decide +kernel) (by decide +kernel)
      (by decide +kernel) (by decide +kernel)
  have hSame : copyRow copyingState 0 [] = copiedAtPointer copyingState 0 (0, 3) (8, 3) [] :=
    Host.Outcome.next.inj ((exec_migrationRowCopy hl (by decide) []).symm.trans hStated)
  have hKeys := ptab_copyRow
  rw [hSame, ptab_copiedAtPointer] at hKeys
  exact absurd hKeys (by decide +kernel)

end Sys2Proof.Machine

/-! # TBL_WRITE and TBL_READ (10 R314; 17 R469)

The five shadows are read and written entry by entry.  A written entry is read back where it fits its layout, and every
other entry of the shadows reads as before; a row of writes has the same two rules by induction on its length. -/

namespace Sys2Proof

theorem bmRead_length (m : ByteMem) (a n : Nat) : (bmRead m a n).length = n := by
  induction n generalizing a with
  | zero => rfl
  | succ n ih => rw [bmRead, List.length_cons, ih]

theorem leNat_lt (l : List (BitVec 8)) : leNat l < 256 ^ l.length := by
  induction l with
  | nil => exact Nat.one_pos
  | cons b l ih =>
    have hb : b.toNat < 256 := b.isLt
    rw [leNat, List.length_cons, Nat.pow_succ]
    omega

/-- Slot `i` of slots of `z` items is what the `i`-th element gave. -/
theorem slot_flatMap {α β : Type} {f : α → List β} {z : Nat} (hz : ∀ a, (f a).length = z) (l : List α) {i : Nat} {a : α}
    (h : l[i]? = some a) : ((l.flatMap f).drop (i * z)).take z = f a := by
  induction l generalizing i with
  | nil => simp at h
  | cons b l ih =>
    rw [List.flatMap_cons]
    cases i with
    | zero =>
      obtain rfl : b = a := by simpa using h
      rw [Nat.zero_mul, List.drop_zero, List.take_left' (hz b)]
    | succ i =>
      rw [Nat.succ_mul, Nat.add_comm, ← List.drop_drop, List.drop_left' (hz b)]
      exact ih (by simpa using h)

end Sys2Proof

namespace Sys2Proof.Machine

theorem pl_lt (s : State) (h i n : Nat) : pl s h i n < 256 ^ n := by
  have hlt := leNat_lt (bmRead (hatch s h).copy (32 + i) n)
  rwa [bmRead_length] at hlt

/-! ## One entry -/

/-- The fields of the bulk class fill their 39 bits. -/
theorem bulkWord_bulkOf {v : Nat} (h : v < 2 ^ 39) : bulkWord (bulkOf v) = v := by
  have hEn : b2n (v.testBit 15) = v / 2 ^ 15 % 2 := by
    rw [Nat.testBit_eq_decide_div_mod_eq, b2n]
    split <;> simp_all
  simp only [bulkWord, bulkOf, field, bit, hEn, BitVec.toNat_ofNat, Nat.shiftRight_eq_div_pow]
  omega

section
variable (s : State) {t t' k j v : Nat}

/-- An entry that fits its layout is read back from the shadow. -/
theorem tblGet_tblPut_same (ht : t < 5) (hv : v < 256 ^ tblSize t) (hp : tblPad t v = false) :
    tblGet (tblPut s t k v) t k false = v := by
  obtain rfl | rfl | rfl | rfl | rfl : t = 4 ∨ t = 3 ∨ t = 0 ∨ t = 1 ∨ t = 2 := by omega
  · have hbulk : v < 2 ^ 39 := by simpa [tblPad] using hp
    exact bulkWord_bulkOf hbulk
  · have hclass : v < 4 := by simpa [tblPad] using hp
    simpa [tblGet, tblPut] using hclass
  all_goals simpa [tblGet, tblPut, tblSize] using hv

theorem tblGet_tblPut_otherTable (ht : t < 5) (ht' : t' < 5) (h : t' ≠ t) :
    tblGet (tblPut s t k v) t' j false = tblGet s t' j false := by
  obtain rfl | rfl | rfl | rfl | rfl : t = 4 ∨ t = 0 ∨ t = 1 ∨ t = 2 ∨ t = 3 := by omega
  · obtain rfl | rfl | rfl | rfl : t' = 0 ∨ t' = 1 ∨ t' = 2 ∨ t' = 3 := by omega
    all_goals simp [tblGet, tblPut]
  all_goals simp [tblGet, tblPut, h]

/-- The bulk class, table 4, is one entry under every index. -/
theorem tblGet_tblPut_otherEntry (ht : t < 4) (h : j ≠ k) : tblGet (tblPut s t k v) t j false = tblGet s t j false := by
  obtain rfl | rfl | rfl | rfl : t = 0 ∨ t = 1 ∨ t = 2 ∨ t = 3 := by omega
  all_goals simp [tblGet, tblPut, smGet_smSet_ne _ _ _ _ _ h]

end

/-- `u` is `s` but for the shadows of the five tables. -/
def OnlyTableShadows (s u : State) : Prop :=
  u = { s with
    fab := { s.fab with routesSh := u.fab.routesSh, windowsSh := u.fab.windowsSh },
    reg := { s.reg with mastersSh := u.reg.mastersSh, wclassSh := u.reg.wclassSh, bulkSh := u.reg.bulkSh } }

theorem OnlyTableShadows.trans {s t u : State} (h : OnlyTableShadows s t) (k : OnlyTableShadows t u) :
    OnlyTableShadows s u := by
  unfold OnlyTableShadows at h k ⊢
  rw [h] at k
  exact k

theorem onlyTableShadows_tblPut (s : State) (t k v : Nat) : OnlyTableShadows s (tblPut s t k v) := by
  unfold tblPut
  split_ifs <;> rfl

/-! ## A row of entries -/

/-- What TBL_WRITE leaves: entry `k + i` of table `t` written with `f i`, for every `i` below `n`. -/
def tblPuts (s : State) (t k n : Nat) (f : Nat → Nat) : State :=
  (List.range n).foldl (fun s i => tblPut s t (k + i) (f i)) s

theorem tblPuts_succ (s : State) (t k n : Nat) (f : Nat → Nat) :
    tblPuts s t k (n + 1) f = tblPut (tblPuts s t k n f) t (k + n) (f n) := by
  rw [tblPuts, List.range_succ, List.foldl_append]
  rfl

theorem onlyTableShadows_tblPuts (s : State) (t k n : Nat) (f : Nat → Nat) : OnlyTableShadows s (tblPuts s t k n f) := by
  induction n with
  | zero => rfl
  | succ n ih =>
    rw [tblPuts_succ]
    exact ih.trans (onlyTableShadows_tblPut _ _ _ _)

theorem hatch_tblPuts (s : State) (t k n : Nat) (f : Nat → Nat) (h : Nat) : hatch (tblPuts s t k n f) h = hatch s h := by
  rw [onlyTableShadows_tblPuts s t k n f]
  rfl

/-- The command reads its payload from the state its writes have changed so far, which holds the same request. -/
theorem foldl_tblPut_pl (s : State) (h t k n : Nat) (off : Nat → Nat) (z : Nat) :
    (List.range n).foldl (fun s i => tblPut s t (k + i) (pl s h (off i) z)) s =
      tblPuts s t k n (fun i => pl s h (off i) z) := by
  induction n with
  | zero => rfl
  | succ n ih =>
    rw [tblPuts_succ, List.range_succ, List.foldl_append, ih, List.foldl_cons, List.foldl_nil, pl, reqNat, hatch_tblPuts]
    rfl

section
variable (s : State) {t k : Nat} (ht : t < 5) (f : Nat → Nat)
include ht

theorem tblGet_tblPuts_otherTable {t' : Nat} (n j : Nat) (ht' : t' < 5) (h : t' ≠ t) :
    tblGet (tblPuts s t k n f) t' j false = tblGet s t' j false := by
  induction n with
  | zero => rfl
  | succ n ih => rw [tblPuts_succ, tblGet_tblPut_otherTable _ ht ht' h, ih]

omit ht in
theorem tblGet_tblPuts_outside {n j : Nat} (ht : t < 4) (h : j < k ∨ k + n ≤ j) :
    tblGet (tblPuts s t k n f) t j false = tblGet s t j false := by
  induction n with
  | zero => rfl
  | succ n ih => rw [tblPuts_succ, tblGet_tblPut_otherEntry _ ht (by omega), ih (by omega)]

theorem tblGet_tblPuts_written {n : Nat} (hn : k + n ≤ tblCount t) (hv : ∀ i < n, f i < 256 ^ tblSize t)
    (hp : ∀ i < n, tblPad t (f i) = false) {i : Nat} (hi : i < n) : tblGet (tblPuts s t k n f) t (k + i) false = f i := by
  induction n with
  | zero => omega
  | succ n ih =>
    rw [tblPuts_succ]
    obtain rfl | hlt : i = n ∨ i < n := by omega
    · exact tblGet_tblPut_same _ ht (hv i hi) (hp i hi)
    · have hmany : t ≠ 4 := by
        rintro rfl
        have hone : tblCount 4 = 1 := rfl
        omega
      rw [tblGet_tblPut_otherEntry _ (by omega) (by omega)]
      exact ih (by omega) (fun i hi => hv i (by omega)) (fun i hi => hp i (by omega)) hlt

end

/-- The entries that TBL_READ answers, in order. -/
def tblBytes (s : State) (t k n : Nat) (active : Bool) : List (BitVec 8) :=
  (List.range n).flatMap (fun i => leBytes (tblGet s t (k + i) active) (tblSize t))

theorem tblBytes_length (s : State) (t k n : Nat) (active : Bool) : (tblBytes s t k n active).length = n * tblSize t := by
  simp [tblBytes, List.length_flatMap, leBytes_length]

theorem slot_tblBytes (s : State) (t k : Nat) (active : Bool) {n i : Nat} (h : i < n) :
    ((tblBytes s t k n active).drop (i * tblSize t)).take (tblSize t) = leBytes (tblGet s t (k + i) active) (tblSize t) :=
  slot_flatMap (fun i => leBytes_length _ (tblGet s t (k + i) active)) _ (List.getElem?_range h)

/-! ## The commands on a stack that acts -/

/-- The field check of a table command finds its range legal. -/
theorem tblRange_legal {n k count bytes : Nat} (hn : 1 ≤ n) (hcount : k + n ≤ count) (hbytes : bytes ≤ 4064) :
    (decide (n = 0) || decide (count < k + n) || decide (4064 < bytes)) = false := by
  simp only [Bool.or_eq_false_iff, decide_eq_false_iff_not]
  omega

section
variable {s : State} {h : Nat} (hl : live s = true) (hh : h < 16) (ht : pl s h 0 1 < 5) (hn : 1 ≤ pl s h 4 2)
  (hcount : pl s h 2 2 + pl s h 4 2 ≤ tblCount (pl s h 0 1)) (hbytes : 8 + pl s h 4 2 * tblSize (pl s h 0 1) ≤ 4064)
include hl hh ht hn hcount hbytes

theorem exec_tblWrite (hready : hatchReady s h 0x0210 0x0210 = true)
    (hf : reservedBad s h [(0, 1), (2, 4), (8, pl s h 4 2 * tblSize (pl s h 0 1))] = [])
    (hpad : ∀ i < pl s h 4 2, tblPad (pl s h 0 1) (pl s h (8 + i * tblSize (pl s h 0 1)) (tblSize (pl s h 0 1))) = false)
    (hc : pl s h 0 1 ≤ 1 → s.fab.committing = false) :
    exec (.tblWrite h) s = .next (ans (tblPuts s (pl s h 0 1) (pl s h 2 2) (pl s h 4 2)
      fun i => pl s h (8 + i * tblSize (pl s h 0 1)) (tblSize (pl s h 0 1))) h 0) := by
  have htable := decide_eq_false (Nat.not_le.mpr ht)
  have hrange := tblRange_legal hn hcount hbytes
  have hlegal := List.any_eq_false.mpr fun i hi => Bool.eq_false_iff.mp (hpad i (List.mem_range.mp hi))
  change hatchRun h 0x0210 0x0210 s (fun s => tblWrite s h) = _
  rw [hatchRun_ready _ hh hl hready, tblWrite, withFields_legal _ hf, if_neg (by simpa using hc)]
  · rw [foldl_tblPut_pl]
  · simp only [hlegal, htable, hrange, List.filter_cons, List.filter_nil, Bool.false_eq_true, if_false]

theorem exec_tblRead (hready : hatchReady s h 0x0211 0x0211 = true) (hf : reservedBad s h [(0, 6)] = [])
    (ha : pl s h 1 1 < 2) : exec (.tblRead h) s =
      .next (ansOk s h (tblBytes s (pl s h 0 1) (pl s h 2 2) (pl s h 4 2) (pl s h 1 1 = 1))) := by
  have htable := decide_eq_false (Nat.not_le.mpr ht)
  have hactive := decide_eq_false (Nat.not_le.mpr ha)
  have hrange := tblRange_legal hn hcount hbytes
  change hatchRun h 0x0211 0x0211 s (fun s => tblRead s h) = _
  rw [hatchRun_ready _ hh hl hready, tblRead, withFields_legal _ hf]
  · rfl
  · simp only [htable, hactive, hrange, List.filter_cons, List.filter_nil, Bool.false_eq_true, if_false]

end

/-- Settles O15: TBL_WRITE by the rules of a row of writes, TBL_READ by the slots of its answer. -/
theorem tableCommands : Obligations.TableCommands := by
  unfold Obligations.TableCommands
  intro s h hl hh t a k n z
  refine ⟨fun hready hf ht hn hcount hbytes hpad hc => ?write, fun hready hf ht ha hn hcount hbytes => ?read⟩
  case write =>
    refine ⟨_, exec_tblWrite hl hh ht hn hcount hbytes hready hf hpad hc,
      fun i hi => tblGet_tblPuts_written s ht _ hcount (fun i _ => pl_lt s h _ _) hpad hi,
      fun t' j ht' hother h4 => ?kept, onlyTableShadows_tblPuts s t k n _⟩
    by_cases htable : t' = t
    · subst htable
      exact tblGet_tblPuts_outside s _ (by omega) (hother.resolve_left (fun hne => hne rfl))
    · exact tblGet_tblPuts_otherTable s ht _ n j ht' htable
  case read =>
    exact ⟨_, exec_tblRead hl hh ht hn hcount hbytes hready hf ha, tblBytes_length _ _ _ _ _,
      fun i hi => slot_tblBytes _ _ _ _ hi⟩

end Sys2Proof.Machine

/-! # REG_COMMIT (10 R311, R312, R314; 21 R530)

A commit that is admitted advances the buckets and exchanges the tables.  Everything else in it touches the buckets and
the scale, and posts the event of a changed scale. -/

namespace Sys2Proof.Machine

/-- `t` is `s` but for the regulator's buckets and scale, and for what an event touches. -/
def OnlyBuckets (s t : State) : Prop :=
  ∃ (st : SMap RegMaster) (b : RegMaster) (upTo scale : Nat),
    OnlyEvents { s with reg := { s.reg with st := st, bulkSt := b, upTo := upTo, scale := scale } } t

theorem OnlyBuckets.refl (s : State) : OnlyBuckets s s := ⟨s.reg.st, s.reg.bulkSt, s.reg.upTo, s.reg.scale, .refl s⟩

theorem OnlyBuckets.trans {s t u : State} (h : OnlyBuckets s t) (k : OnlyBuckets t u) : OnlyBuckets s u := by
  obtain ⟨_, _, _, _, _, _, _, rfl⟩ := h
  obtain ⟨st, b, upTo, scale, m, f, p, rfl⟩ := k
  exact ⟨st, b, upTo, scale, m, f, p, rfl⟩

theorem OnlyBuckets.foldl {α : Type} {f : State → α → State} (hf : ∀ u a, OnlyBuckets u (f u a)) (l : List α) (s : State) :
    OnlyBuckets s (l.foldl f s) :=
  List.foldlRecOn l f (OnlyBuckets.refl s) fun _ h a _ => h.trans (hf _ a)

theorem onlyBuckets_regAdvance (s : State) : OnlyBuckets s (regAdvance s) := by
  unfold regAdvance
  dsimp only
  split
  · exact .refl s
  · exact ⟨_, _, _, _, .refl _⟩

theorem onlyBuckets_regRescale (s : State) : OnlyBuckets s (regRescale s) := by
  unfold regRescale
  dsimp only
  split
  · exact .refl s
  · exact (onlyBuckets_regAdvance s).trans ⟨_, _, _, _, onlyEvents_c0 _ _ _ _ _⟩

theorem onlyBuckets_commitBucket (s0 s : State) (n : Nat) : OnlyBuckets s (commitBucket s0 s n) :=
  ⟨_, _, _, _, .refl _⟩

theorem onlyBuckets_commitBulk (s0 s : State) : OnlyBuckets s (commitBulk s0 s) := ⟨_, _, _, _, .refl _⟩

/-- The shadow tables in force together, and the commit counted. -/
def shadowsCommitted (s : State) : State :=
  { s with reg := { s.reg with
    masters := s.reg.mastersSh, wclass := s.reg.wclassSh, bulk := s.reg.bulkSh,
    commits := BitVec.ofNat 32 (satAdd 32 s.reg.commits.toNat 1) } }

theorem OnlyBuckets.shadowsCommitted {s t : State} (h : OnlyBuckets s t) :
    OnlyBuckets (shadowsCommitted s) (shadowsCommitted t) := by
  obtain ⟨st, b, upTo, scale, m, f, p, rfl⟩ := h
  exact ⟨st, b, upTo, scale, m, f, p, rfl⟩

theorem onlyBuckets_regSwitch (s : State) : OnlyBuckets (shadowsCommitted s) (regSwitch s) := by
  have hTables := (onlyBuckets_regAdvance s).shadowsCommitted.trans (onlyBuckets_regRescale _)
  have hMasters := OnlyBuckets.foldl (onlyBuckets_commitBucket (regAdvance s))
  exact (hTables.trans (hMasters _ _)).trans (onlyBuckets_commitBulk _ _)

theorem toNat_satAdd (w n : Nat) : (BitVec.ofNat w (satAdd w n 1)).toNat = min (n + 1) (2 ^ w - 1) := by
  have hpos := Nat.two_pow_pos w
  rw [BitVec.toNat_ofNat, satAdd, Nat.mod_eq_of_lt (by omega)]

/-- What an admitted commit leaves: the tables in force are the shadows of `s`, and nothing of the fabric, the DRAM and
the transactions moves. -/
theorem regSwitch_fields (s : State) : (regSwitch s).reg.masters = s.reg.mastersSh ∧
    (regSwitch s).reg.wclass = s.reg.wclassSh ∧ (regSwitch s).reg.bulk = s.reg.bulkSh ∧
    (regSwitch s).reg.commits.toNat = min (s.reg.commits.toNat + 1) (2 ^ 32 - 1) ∧
    (regSwitch s).fab = s.fab ∧ (regSwitch s).dram = s.dram ∧ (regSwitch s).tx = s.tx := by
  obtain ⟨_, _, _, _, _, _, _, hu⟩ := onlyBuckets_regSwitch s
  rw [hu]
  exact ⟨rfl, rfl, rfl, toNat_satAdd 32 _, rfl, rfl, rfl⟩

/-! ## The four answers (R314, R530) -/

section
variable {s : State} (h : Nat)

theorem regCommit_busy (hc : classCommit s = true) : regCommit s h = ans s h 1 := if_pos hc

section
variable (hc : classCommit s = false)
include hc

theorem regCommit_illegal {i : Nat} (he : regErr s.fab.windows s.reg.mastersSh s.reg.wclassSh s.reg.bulkSh = some i) :
    regCommit s h = hatchResult s h 2 [] 0 i := by simp [regCommit, hc, he]

section
variable (he : regErr s.fab.windows s.reg.mastersSh s.reg.wclassSh s.reg.bulkSh = none)
include he

theorem regCommit_refused (ha : admitted (sumOf s.reg.mastersSh s.reg.bulkSh) (dfNow s) = false) :
    regCommit s h = hatchResult { s with reg := { s.reg with
        refused := BitVec.ofNat 32 (satAdd 32 s.reg.refused.toNat 1) } } h 5
      (leBytes (min (sumOf s.reg.mastersSh s.reg.bulkSh) 0xFFFF) 2 ++ leBytes (dfNow s) 2) 0 0xFFFFFFFF := by
  simp [regCommit, hc, he, ha]

theorem regCommit_admitted (ha : admitted (sumOf s.reg.mastersSh s.reg.bulkSh) (dfNow s) = true) :
    regCommit s h = ans (regSwitch s) h 0 := by
  simp [regCommit, hc, he, ha]

end

end

end

theorem exec_regCommit {s : State} {h : Nat} (hl : live s = true) (hh : h < 16)
    (hready : hatchReady s h 0x0213 0x0213 = true) : exec (.regCommit h) s = .next (regCommit s h) :=
  hatchRun_ready _ hh hl hready

/-- Settles O18: REG_COMMIT by its four answers, the admitted one by `regSwitch_fields`. -/
theorem regulatorCommit : Obligations.RegulatorCommit := by
  unfold Obligations.RegulatorCommit
  intro s h hl hh hready err sum
  have hrun := exec_regCommit hl hh hready
  exact ⟨fun hc => next_of_eq hrun (regCommit_busy h hc), fun i hc he => next_of_eq hrun (regCommit_illegal h hc he),
    fun hc he ha => next_of_eq hrun (regCommit_refused h hc he ha),
    fun hc he ha => ⟨_, next_of_eq hrun (regCommit_admitted h hc he ha), regSwitch_fields s⟩⟩

end Sys2Proof.Machine

/-! # The chip halt (12 R357, R358) and the boot halt (16 R443) -/

namespace Sys2Proof.Machine

/-! ## What a stack that does not act leaves alone -/

theorem live_of_halted {s : State} (h : s.faults.halted = true) : live s = false := by simp [live, h]

/-- On a stack that does not act a command whose operands are checked first changes nothing. -/
theorem checked_whenLive_dead {s : State} {c : Prop} [Decidable c] (f : State → State) (h : live s = false) :
    (if c then whenLive s f else .next s) = .next s := by
  rw [whenLive_dead f h, ite_self]

theorem checked_whenWired_off {s : State} {c : Prop} [Decidable c] (f : State → State) (h : wired s = false) :
    (if c then whenWired s f else .next s) = .next s := by
  rw [whenWired_off f h, ite_self]

/-- A stack that does not act is left as it is by every command that a chip halt does not hear; the split is by whether a
command's operands are checked. -/
theorem exec_unheard {c : Instr} {s : State} (hl : live s = false) (hc : heardInHalt c = false) :
    exec c s = .next s := by
  cases c with
  | vddCoreOutOfRange | paceWarnWrite | routeRevert | regulatorRelease | requestAccept | evictionQueueFree
    | snoopSectorAdmit | snoopTimeout | gackTimeout | wrbackWaitTimeout | contextQuarantineEnd | writeDataComplete
    | dataTimeout | snoopReservePlace | bulkAccessCheckComplete | rangeScanComplete | trowelStepAccept
    | trowelOpComplete | scrubRead | holdSaturated | dfWrite | faultAck | fwWaitExpiry | spdmGo | spdmRelease
    | testDeferLimit | testCopyInComplete | testRestoreComplete | perfOvfClear | twTransactionComplete | twAckPoll
    | voltageRequest | outOfRangeClear | minClear | lowSamplesReset | wpHostClockTimeout
    | wpCreditShortfallTimeout | wpParkTimer | mapSwitch | ucOscFault | ucResetHold | ucResetOscStable
    | ucResetSlicesReturn | trowelOpStart | storeroomSave | scrubAutoStart | regulationWindowEnd | accessSwitch
    | faultAckC1All | faultAckC2All | logOverflowClear | lostReset | orderlyStopWriteback | thermalResume
    | bondWearSave | referenceLost | referenceRelock | calRecordWrite | pllLock | identityKeyReady
    | larderWatchdog | fwLoadTimeout | retainingReset | retainingResetTe | retainingResetRelease | spdmIdleTimeout
    | getVersion | getCapabilities | negotiateAlgorithms | getDigests | getCertificate | challenge
    | getMeasurements | testConditionsHeld | perfClearAll | sampleTrigger | twTransactionStart | twPollTimeout
    | twStretchTimeout | twBusStuck | twBusUnstuck | twBusConflict | twIdleWaitEnd | readVoutPoll | twAlert
    | retainingResetWriteback | twIdleWaitTimeout | larderWatchdogSignal =>
    unfold exec
    exact whenLive_dead _ hl
  | paceSample | wpTrainingPhaseEnd | forwardHoldTimeout | allotReserve | tagWalk | hintSweepRead
    | ucSliceTimeout | blockCaSlot | dramReadData | actEchoReceived | bankIdleTimeout | refreshDue
    | blockDrainComplete | blockPlacementOpen | rowCheckReadComplete | rowOpComplete | primerClonesComplete
    | primerComplete | errorHistoryExpire | tsvSubstitution | rowRepair | columnRepair | migrationStart
    | migrationRowCopy | migrationSwitch | evtPush | throttleStepDown | throttleStepUp | tdcMeasure
    | sensorScaleMeasure | walkStart | walkTake | walkGive | walkLate | bootHalt | startupBistComplete
    | imageLoadComplete | coldCalibrationComplete | hatchBufferWrite | hatchRing | hatchAnswer | idGet | idPubkey
    | idCert | idMeasure | cfgGet | cfgSet | tblWrite | tblRead | routeCommit | regCommit | accWrite | accRead
    | accCommit | accStatus | accLog | accLogClear | scrubStart | scrubStatus | retire | storeroom | regionReset
    | regionResetAdmissionsOpen | ucReset | faultLog | faultInjection | thermStatus | wearRead | powerStatus
    | vaultStatus | fuseProgram | fuseCommit | fuseLock | fuseRemap | fuseRead | imageBegin | imageWrite
    | imageCommit | imageStatus | imageRead | wpStatus | fpLanes | laneTest | ucStatus | blockStatus
    | trowelStatus | calStatus | regStatus | testStart | testResult | testUnitGrant | testMarchStep | perfSelWrite
    | perfCntWrite | perfCounterWrap | sampleSet | sampleStatus | traceClear | evtTailWrite | evtDropClear
    | registerWrite | boardSensorAccess | progressStarvation | fwBegin | fwData | fwEnd | fwActivate | fwStatus
    | wrColumnEcho | larderAreaAccess | internalBulkOp =>
    unfold exec
    exact checked_whenLive_dead _ hl
  | _ => exact Bool.noConfusion (hc : true = false)

/-- Settles O41, by the split of `exec_unheard`. -/
theorem haltedStackHearsOnlyItsPorts : Obligations.HaltedStackHearsOnlyItsPorts :=
  fun _ _ hHalted hc => exec_unheard (live_of_halted hHalted) hc

/-! ## The boot halt -/

theorem bootHalted_haltBoot {s : State} (h : s.boot.pwrGood = true) : BootHalted (haltBoot s) :=
  ⟨rfl, rfl, rfl, h, rfl, fun _ _ => rfl, rfl⟩

section
variable {s : State} (h : BootHalted s)
include h

theorem live_of_bootHalted : live s = false := by
  obtain ⟨hphase, _⟩ := h
  simp [live, hphase]

theorem wired_of_bootHalted : wired s = false := by
  obtain ⟨hphase, _⟩ := h
  simp [wired, hphase]

theorem tick_of_bootHalted : tick s = { s with now := s.now + 1 } := by
  have hw : wired { s with now := s.now + 1 } = false := wired_of_bootHalted h
  simp [tick, live_of_bootHalted h, hw]

/-- The flit transmitters are off. -/
theorem fpSend_of_bootHalted {p : Nat} (hp : p < 4) : fpSend s p = s := by
  obtain ⟨-, -, -, -, -, hports, -⟩ := h
  simp [fpSend, hports p hp]

/-- The boot halt reads no pin, and of the start-up's registers the phase and PWR_GOOD alone. -/
theorem BootHalted.of_pins {t : State} (b : Boot) (x : Pins) (hb : b.phase = s.boot.phase) (hg : b.pwrGood = s.boot.pwrGood)
    (ht : t = { s with boot := b, pins := x }) : BootHalted t := by
  obtain ⟨hphase, hhalted, hfatal, hpwr, hwp, hports, hdram⟩ := h
  subst ht
  exact ⟨hb.trans hphase, hhalted, hfatal, hg.trans hpwr, hwp, hports, hdram⟩

theorem BootHalted.loadIr (die : Nat) (ir : BitVec 8) : BootHalted (loadIr s die ir) := by
  unfold Machine.loadIr
  split
  · exact h.of_pins s.boot _ rfl rfl rfl
  · exact h.of_pins s.boot _ rfl rfl rfl

/-- Scan entry leaves the boot halt in force beneath it. -/
theorem BootHalted.enterScan : BootHalted (enterScan s) := by
  have hphase := h.1
  have he : Machine.enterScan s = { s with boot := { s.boot with keysZero := true, identMod := 0, identReady := false } } := by
    simp [Machine.enterScan, hphase]
  exact h.of_pins { s.boot with keysZero := true, identMod := 0, identReady := false } s.pins rfl rfl he

theorem BootHalted.stackReset : BootHalted (stackReset s) := by
  have hphase := h.1
  refine h.of_pins { s.boot with stackRstN := false, stackLowAt := if s.boot.pwrGood then max s.now 1 else 0 } s.pins rfl rfl ?_
  simp [Machine.stackReset, hphase]

theorem BootHalted.stackRise : BootHalted (stackRise s) := by
  have hphase := h.1
  by_cases hr : s.boot.stackRstN = true
  · simpa [Machine.stackRise, hr] using h
  · refine h.of_pins { s.boot with stackRstN := true } s.pins rfl rfl ?_
    simp [Machine.stackRise, hr, hphase]

theorem powerOn_of_bootHalted (r : Bool) : powerOn s r = s := by
  obtain ⟨-, -, -, hpwr, -⟩ := h
  simp [powerOn, hpwr]

/-- Every command but the removal of power keeps a boot halt: the ports, sensors and rails are off, and the pins and the
test port do not end it. -/
theorem BootHalted.exec {c : Instr} {t : State} (hc : c ≠ .powerRemoved) (ht : exec c s = .next t) : BootHalted t := by
  have hoff := wired_of_bootHalted h
  have kept (k : Machine.exec c s = .next s) : BootHalted t := Host.Outcome.next.inj (k.symm.trans ht) ▸ h
  by_cases hheard : heardInHalt c = false
  · exact kept (exec_unheard (live_of_bootHalted h) hheard)
  cases c with
  | wpFlitReceive | wpNakRepeat | wpNakLimit | wpInitDoneReceived | wpIdleEnter | wpIdleWake | wpParkReqReceived
    | wpParkAckReceived | wpParkNakReceived | wpParkWake | wpReinitReceived =>
    refine kept ?_
    unfold Machine.exec
    exact whenWired_off _ hoff
  | wpWireFailed | wpSubstReqReceived | wpSubstAckReceived | wpSpareTakeover | wpClockLoss | wpClockLossTimeout
    | laneSyncSymbolReceived | laneStatusWordReceived | laneMarkerReceived | laneQualificationLost
    | laneRequalifyTimeout | laneDegraded | bringupStepTimer | bringupRestoreTimer | bringupTimer | fpQuietEnter
    | fpDarkEnter | fpQuietExit | fpDarkExit | fpEnergyWake | fpWakeQualifyTimeout | fpFlitReceive
    | fpBadFlitLimit | fpNakRepeat | fpNakLimit | fpInitReceived | fpInitTimeout | fpReinitReceived
    | fpNodeDownReceived | fpSubstReqReceived | fpSubstMarkersSend | fpSubstTimeout | rdShared | rdOwn | claim
    | rdCur | rdLong | evictClean | wr | wrLong | wrback | atomic | bulkOp | snpRsp | snpRspd | gack | mgRd | mgWr
    | thermalSample | laneTestComplete | railOutOfRange | railRestored =>
    refine kept ?_
    unfold Machine.exec
    exact checked_whenWired_off _ hoff
  | wpFlitSend =>
    obtain ⟨-, -, -, -, hwp, -⟩ := h
    exact kept (congrArg _ (wpSend_off (.inl hwp)))
  | fpFlitSend p =>
    refine kept ?_
    change execFpFlitSend p s = _
    unfold execFpFlitSend
    split
    · rw [fpSend_of_bootHalted h ‹_›]
    · rfl
  | haltResponderRequest ing m =>
    obtain ⟨-, hhalted, -⟩ := h
    refine kept ?_
    change execHaltResponderRequest ing m s = _
    simp [execHaltResponderRequest, hhalted]
  | fuseWordBurned word =>
    refine kept ?_
    change execFuseWordBurned word s = _
    obtain ⟨-, hhalted, -⟩ := id h
    simp [execFuseWordBurned, hhalted, whenLive_dead _ (live_of_bootHalted h)]
  | powerOn r => exact kept (congrArg _ (powerOn_of_bootHalted h r))
  | powerRemoved => exact absurd rfl hc
  | fullStackReset => exact Host.Outcome.next.inj ht ▸ h.stackReset
  | stackRstNRising => exact Host.Outcome.next.inj ht ▸ h.stackRise
  | trstNAsserted =>
    exact h.of_pins s.boot { s.pins with ir := 1, chain := 0, dieIr := [] } rfl rfl (Host.Outcome.next.inj ht).symm
  | scanEntry die ir =>
    obtain ⟨-, -, -, hpwr, -⟩ := id h
    change execScanEntry die ir s = _ at ht
    unfold execScanEntry at ht
    rw [if_pos hpwr] at ht
    split at ht
    · exact Host.Outcome.next.inj ht ▸ (h.loadIr die ir).enterScan
    · exact Host.Outcome.next.inj ht ▸ h
  | testPortInstruction die ir =>
    obtain ⟨-, -, -, hpwr, -⟩ := id h
    change execTestPortInstruction die ir s = _ at ht
    unfold execTestPortInstruction at ht
    rw [if_pos hpwr] at ht
    split at ht
    · exact Host.Outcome.next.inj ht ▸ h.loadIr die ir
    · exact Host.Outcome.next.inj ht ▸ h
  | _ => exact absurd rfl hheard

end

/-- Settles O42: a step is a tick, which moves the clock alone, or a command, by the split of `BootHalted.exec`. -/
theorem bootHaltHolds : Obligations.BootHaltHolds := by
  unfold Obligations.BootHaltHolds
  refine ⟨fun s hp => bootHalted_haltBoot hp, fun s t h hp ht => ?_⟩
  cases hq : s.pending with
  | nil =>
    obtain rfl : tick s = t := Host.Outcome.next.inj (by rw [← ht, step, hq])
    rw [tick_of_bootHalted h]
    exact h
  | cons c rest =>
    have hrest : BootHalted { s with pending := rest } := h
    rw [step_front s c rest hq] at ht
    exact hrest.exec (fun hc => hp (by rw [hq, hc, List.head?_cons])) ht

end Sys2Proof.Machine

/-! # The access tables' commands (11 R329 to R338; 17 R469)

The shadow of the groups and of the rules is read and written entry by entry, as the tables of TBL_WRITE are. -/

namespace Sys2Proof

/-- A field of a slot of `z` bytes is that field of what the `i`-th element gave. -/
theorem leAt_flatMap {α : Type} {f : α → List (BitVec 8)} {z : Nat} (hz : ∀ a, (f a).length = z) {l : List α} {i : Nat}
    {a : α} (h : l[i]? = some a) {o n : Nat} (hn : o + n ≤ z) : leAt (l.flatMap f) (z * i + o) n = leAt (f a) o n := by
  rw [leAt, leAt, ← slot_flatMap hz l h, List.drop_take, List.take_take, List.drop_drop, Nat.min_eq_left (by omega),
    Nat.mul_comm]

theorem length_flatMap_const {α β : Type} {f : α → List β} {z : Nat} (hz : ∀ a, (f a).length = z) (l : List α) :
    (l.flatMap f).length = z * l.length := by
  simp [List.length_flatMap, hz, Nat.mul_comm]

end Sys2Proof

namespace Sys2Proof.Machine

/-! ## Entries of the shadow -/

/-- `u` is `s` but for the shadows of groups and rules. -/
def OnlyAccShadows (s u : State) : Prop :=
  u = { s with acc := { s.acc with groupsSh := u.acc.groupsSh, rulesSh := u.acc.rulesSh } }

theorem OnlyAccShadows.trans {s t u : State} (h : OnlyAccShadows s t) (k : OnlyAccShadows t u) : OnlyAccShadows s u := by
  unfold OnlyAccShadows at h k ⊢
  rw [h] at k
  exact k

theorem onlyAccShadows_accPut (s : State) (t k v : Nat) : OnlyAccShadows s (accPut s t k v) := by
  unfold accPut
  split_ifs <;> rfl

/-- An entry reads as it was last written: the groups, table 0, and the rules of each target have places of their own. -/
theorem accGet_accPut (s : State) {t k v t' j : Nat} (hk : k < accCount t) (hj : j < accCount t') (hv : v < 256 ^ accSize t) :
    accGet (accPut s t k v) t' j false = if t' = t ∧ j = k then v else accGet s t' j false := by
  by_cases ht : t = 0
  · subst ht
    have hbyte : v < 256 := by simpa [accSize] using hv
    by_cases ht' : t' = 0
    · by_cases hjk : j = k
      · simp [accGet, accPut, ht', hjk, Nat.mod_eq_of_lt hbyte]
      · simp [accGet, accPut, ht', hjk, smGet_smSet_ne _ _ _ _ _ hjk]
    · simp [accGet, accPut, ht']
  · have hrule : v < 2 ^ 128 := by simpa [accSize, ht] using hv
    by_cases ht' : t' = 0
    · simp [accGet, accPut, ht, ht', Ne.symm ht]
    · rw [accCount, if_neg ht] at hk
      rw [accCount, if_neg ht'] at hj
      by_cases hsame : t' = t ∧ j = k
      · obtain ⟨rfl, rfl⟩ := hsame
        simpa [accGet, accPut, ht] using hrule
      · have hplace : (t' - 1) * 256 + j ≠ (t - 1) * 256 + k := by omega
        simp [accGet, accPut, ht, ht', hsame, smGet_smSet_ne _ _ _ _ _ hplace]

/-- What ACC_WRITE leaves: entry `k + i` of table `t` written with `f i`, for every `i` below `n`. -/
def accPuts (s : State) (t k n : Nat) (f : Nat → Nat) : State :=
  (List.range n).foldl (fun s i => accPut s t (k + i) (f i)) s

theorem accPuts_succ (s : State) (t k n : Nat) (f : Nat → Nat) :
    accPuts s t k (n + 1) f = accPut (accPuts s t k n f) t (k + n) (f n) := by
  rw [accPuts, List.range_succ, List.foldl_append]
  rfl

theorem onlyAccShadows_accPuts (s : State) (t k n : Nat) (f : Nat → Nat) : OnlyAccShadows s (accPuts s t k n f) := by
  induction n with
  | zero => rfl
  | succ n ih =>
    rw [accPuts_succ]
    exact ih.trans (onlyAccShadows_accPut _ _ _ _)

theorem hatch_accPuts (s : State) (t k n : Nat) (f : Nat → Nat) (h : Nat) : hatch (accPuts s t k n f) h = hatch s h := by
  rw [onlyAccShadows_accPuts s t k n f]
  rfl

/-- The command reads its payload from the state its writes have changed so far, which holds the same request. -/
theorem foldl_accPut_pl (s : State) (h t k n : Nat) (off : Nat → Nat) (z : Nat) :
    (List.range n).foldl (fun s i => accPut s t (k + i) (pl s h (off i) z)) s =
      accPuts s t k n (fun i => pl s h (off i) z) := by
  induction n with
  | zero => rfl
  | succ n ih =>
    rw [accPuts_succ, List.range_succ, List.foldl_append, ih, List.foldl_cons, List.foldl_nil, pl, reqNat, hatch_accPuts]
    rfl

theorem accGet_accPuts (s : State) {t k n t' j : Nat} {f : Nat → Nat} (hn : k + n ≤ accCount t) (hj : j < accCount t')
    (hv : ∀ i < n, f i < 256 ^ accSize t) :
    accGet (accPuts s t k n f) t' j false = if t' = t ∧ k ≤ j ∧ j < k + n then f (j - k) else accGet s t' j false := by
  induction n with
  | zero => rw [if_neg (by omega)]; rfl
  | succ n ih =>
    rw [accPuts_succ, accGet_accPut _ (by omega) hj (hv n (by omega)), ih (by omega) (fun i hi => hv i (by omega))]
    by_cases hlast : t' = t ∧ j = k + n
    · obtain ⟨rfl, rfl⟩ := hlast
      simp
    · rw [if_neg hlast]
      congr 1
      simp only [eq_iff_iff]
      omega

/-! ## The answers -/

theorem accStatus_fields (s : State) : (accStatus s).length = 184 ∧ leAt (accStatus s) 0 4 = s.acc.gen.toNat ∧
    leAt (accStatus s) 4 4 = b2n s.acc.baseCoat + 2 * b2n s.acc.commit.isSome := by
  have hBase := b2n_le s.acc.baseCoat
  have hCommit := b2n_le s.acc.commit.isSome
  have hGen : s.acc.gen.toNat < 2 ^ 32 := s.acc.gen.isLt
  simp [accStatus, List.length_flatMap, leBytes_length, leAt_append_left, leAt_append_right, leAt_leBytes]
  omega

theorem violBytes_length (r : ViolRec) : (violBytes r).length = 24 := by simp [violBytes, leBytes_length]

theorem violBytes_fields (r : ViolRec) : leAt (violBytes r) 0 2 = r.node.toNat ∧ leAt (violBytes r) 2 1 = r.opcode.toNat ∧
    leAt (violBytes r) 16 8 = r.time % 2 ^ 64 := by
  have hNode : r.node.toNat < 65536 := r.node.isLt.trans (by decide)
  simpa [violBytes, leBytes_length, leAt_append_left, leAt_append_right, leAt_leBytes] using And.intro hNode r.opcode.isLt

/-- Record `i` of the log stands 24 bytes after the one before it. -/
theorem violLog_fields (l : List ViolRec) {i : Nat} {r : ViolRec} (h : l[i]? = some r) :
    leAt (l.flatMap violBytes) (24 * i) 2 = r.node.toNat ∧ leAt (l.flatMap violBytes) (24 * i + 2) 1 = r.opcode.toNat ∧
      leAt (l.flatMap violBytes) (24 * i + 16) 8 = r.time % 2 ^ 64 := by
  obtain ⟨hNode, hOp, hTime⟩ := violBytes_fields r
  rw [← hNode, ← hOp, ← hTime]
  exact ⟨leAt_flatMap violBytes_length h (o := 0) (by decide), leAt_flatMap violBytes_length h (by decide),
    leAt_flatMap violBytes_length h (by decide)⟩

/-! ## The logs emptied -/

/-- The logs of targets below `n` that ACC_LOG_CLEAR names emptied, all of them with 0xFF. -/
def logsCleared (s : State) (t n : Nat) : State :=
  (List.range n).foldl (fun s k => if t = 0xFF ∨ t = k then putViol s k { violTgt s k with log := [] } else s) s

theorem logsCleared_succ (s : State) (t n : Nat) : logsCleared s t (n + 1) =
    if t = 0xFF ∨ t = n then putViol (logsCleared s t n) n { violTgt (logsCleared s t n) n with log := [] }
    else logsCleared s t n := by
  rw [logsCleared, List.range_succ, List.foldl_append]
  rfl

theorem violTgt_putViol (s : State) (k j : Nat) (v : ViolTgt) :
    violTgt (putViol s k v) j = if j = k then v else violTgt s j := by
  by_cases h : j = k
  · subst h
    simp [violTgt, putViol]
  · simp [violTgt, putViol, h, smGet_smSet_ne _ _ _ _ _ h]

/-- A cleared log keeps its count. -/
theorem violTgt_logsCleared (s : State) (t n j : Nat) : violTgt (logsCleared s t n) j =
    if j < n ∧ (t = 0xFF ∨ t = j) then { violTgt s j with log := [] } else violTgt s j := by
  induction n with
  | zero => rfl
  | succ n ih =>
    rw [logsCleared_succ]
    by_cases hj : j = n
    · subst hj
      split
      · next hnamed => simp [violTgt_putViol, ih, hnamed]
      · next hnamed => simp [ih, hnamed]
    · have hlt : j < n + 1 ↔ j < n := by omega
      split
      · simp only [violTgt_putViol, if_neg hj, ih, hlt]
      · simp only [ih, hlt]

theorem logsCleared_eq (s : State) (t n : Nat) :
    logsCleared s t n = { s with acc := { s.acc with viol := (logsCleared s t n).acc.viol } } := by
  induction n with
  | zero => rfl
  | succ n ih =>
    rw [logsCleared_succ]
    split
    · rw [putViol, ih]
    · exact ih

/-! ## The commands on a stack that acts -/

section
variable {s : State} {h : Nat} (hl : live s = true) (hh : h < 16)
include hl hh

section
variable (ht : pl s h 0 1 < 23) (hn : 1 ≤ pl s h 4 2) (hcount : pl s h 2 2 + pl s h 4 2 ≤ accCount (pl s h 0 1))
  (hbytes : 8 + pl s h 4 2 * accSize (pl s h 0 1) ≤ 4064)
include ht hn hcount hbytes

theorem exec_accWrite (hready : hatchReady s h 0x0230 0x0230 = true)
    (hf : reservedBad s h [(0, 1), (2, 4), (8, pl s h 4 2 * accSize (pl s h 0 1))] = []) :
    exec (.accWrite h) s = .next (if s.acc.commit.isSome then ans s h 1
      else ans (accPuts s (pl s h 0 1) (pl s h 2 2) (pl s h 4 2)
        fun i => pl s h (8 + i * accSize (pl s h 0 1)) (accSize (pl s h 0 1))) h 0) := by
  have htable := decide_eq_false (Nat.not_le.mpr ht)
  have hrange := tblRange_legal hn hcount hbytes
  change hatchRun h 0x0230 0x0230 s (fun s => accWrite s h) = _
  rw [hatchRun_ready _ hh hl hready, accWrite, withFields_legal _ hf]
  · rw [foldl_accPut_pl]
  · simp only [htable, hrange, List.filter_cons, List.filter_nil, Bool.false_eq_true, if_false]

theorem exec_accRead (hready : hatchReady s h 0x0231 0x0231 = true) (hf : reservedBad s h [(0, 6)] = [])
    (ha : pl s h 1 1 < 2) : exec (.accRead h) s = .next (ansOk s h ((List.range (pl s h 4 2)).flatMap (fun i =>
      leBytes (accGet s (pl s h 0 1) (pl s h 2 2 + i) (pl s h 1 1 = 1)) (accSize (pl s h 0 1))))) := by
  have htable := decide_eq_false (Nat.not_le.mpr ht)
  have hactive := decide_eq_false (Nat.not_le.mpr ha)
  have hrange := tblRange_legal hn hcount hbytes
  change hatchRun h 0x0231 0x0231 s (fun s => accRead s h) = _
  rw [hatchRun_ready _ hh hl hready, accRead, withFields_legal _ hf]
  simp only [htable, hactive, hrange, List.filter_cons, List.filter_nil, Bool.false_eq_true, if_false]

end

theorem exec_accStatus (hready : hatchReady s h 0x0233 0x0233 = true) :
    exec (.accStatus h) s = .next (ansOk s h (accStatus s)) :=
  hatchRun_ready _ hh hl hready

theorem exec_accLog (hready : hatchReady s h 0x0234 0x0234 = true) (hf : reservedBad s h [(0, 1)] = [])
    (ht : pl s h 0 1 < 22) :
    exec (.accLog h) s = .next (ansOk s h ((violTgt s (pl s h 0 1)).log.flatMap violBytes)) := by
  change hatchRun h 0x0234 0x0234 s _ = _
  rw [hatchRun_ready _ hh hl hready, withFields_legal _ hf (by simp [ht])]

theorem exec_accLogClear (hready : hatchReady s h 0x0235 0x0235 = true) (hf : reservedBad s h [(0, 1)] = [])
    (ht : pl s h 0 1 < 22 ∨ pl s h 0 1 = 0xFF) :
    exec (.accLogClear h) s = .next (ans (logsCleared s (pl s h 0 1) 22) h 0) := by
  have hlegal : (decide (22 ≤ pl s h 0 1) && decide (pl s h 0 1 ≠ 0xFF)) = false := by simpa using by omega
  change hatchRun h 0x0235 0x0235 s _ = _
  rw [hatchRun_ready _ hh hl hready, withFields_legal _ hf (by simp only [hlegal, List.filter_cons, List.filter_nil,
    Bool.false_eq_true, if_false])]
  rfl

theorem exec_accCommit (hready : hatchReady s h 0x0232 0x0232 = true) :
    exec (.accCommit h) s = .next (accCommitCmd s h) :=
  hatchRun_ready _ hh hl hready

end

/-- Settles O16: ACC_WRITE and ACC_LOG_CLEAR by what a row of writes leaves, the others by the fields of their answers. -/
theorem accessTableCommands : Obligations.AccessTableCommands := by
  unfold Obligations.AccessTableCommands
  intro s h hl hh t a k n z
  refine ⟨fun hready hf ht hn hcount hbytes => ?write, fun hready hf ht ha hn hcount hbytes => ?read,
    fun hready => ⟨_, exec_accStatus hl hh hready, accStatus_fields s⟩, fun hready hf ht => ?log,
    fun hready hf ht => ⟨_, exec_accLogClear hl hh hready hf ht, violTgt_logsCleared s t 22, logsCleared_eq s t 22⟩⟩
  case write =>
    have hrun := exec_accWrite hl hh ht hn hcount hbytes hready hf
    refine ⟨fun hc => next_of_eq hrun (if_pos hc), fun hc => ⟨_, next_of_eq hrun (if_neg (by simp [hc])), ?_, ?_, ?_⟩⟩
    · intro i hi
      rw [accGet_accPuts s hcount (by omega) (fun i _ => pl_lt s h _ _), if_pos (by omega), Nat.add_sub_cancel_left]
    · intro t' j _ hj hother
      rw [accGet_accPuts s hcount hj (fun i _ => pl_lt s h _ _), if_neg (by omega)]
    · exact onlyAccShadows_accPuts s _ _ _ _
  case read =>
    refine ⟨_, exec_accRead hl hh ht hn hcount hbytes hready hf ha, ?_, fun i hi => ?_⟩
    · rw [length_flatMap_const (fun i => leBytes_length _ _), List.length_range, Nat.mul_comm]
    · exact slot_flatMap (fun i => leBytes_length _ (accGet s t (k + i) _)) _ (List.getElem?_range hi)
  case log =>
    exact ⟨_, exec_accLog hl hh hready hf ht, length_flatMap_const violBytes_length _, fun _ _ hi => violLog_fields _ hi⟩

/-! ## The commit (R330) -/

/-- A Hatch that waits holds the request it took. -/
theorem pl_hatchWait (s : State) (h i n : Nat) : pl (hatchWait s h) h i n = pl s h i n := by
  simp only [pl, reqNat, hatchWait, hatch_putHatch_same]

section
variable {s : State} {h : Nat} (hf : reservedBad s h [(0, 1)] = []) (ht : pl s h 0 1 < 2)
include hf ht

theorem accCommitCmd_checked : accCommitCmd s h = if s.acc.commit.isSome then ans s h 1
    else match accErr (nRegions s) s.acc.groupsSh s.acc.rulesSh with
    | some i => hatchResult s h 2 [] 0 i
    | none => settle (startAccessScans { hatchWait s h with acc := { s.acc with
        commit := some { hatch := some h, bulkEnd := decide (pl s h 0 1 = 1), narrowed := narrowed s },
        owed := s.acc.owed ++ (narrowed s).filter (fun p => regionStopped s p.1) } } (narrowed s)) := by
  rw [accCommitCmd, withFields_legal _ hf (by simp [ht])]
  simp only [pl_hatchWait]
  rfl

theorem accCommitCmd_second (hc : s.acc.commit.isSome = true) : accCommitCmd s h = ans s h 1 := by
  rw [accCommitCmd_checked hf ht, if_pos hc]

theorem accCommitCmd_illegal {i : Nat} (hc : s.acc.commit = none)
    (he : accErr (nRegions s) s.acc.groupsSh s.acc.rulesSh = some i) : accCommitCmd s h = hatchResult s h 2 [] 0 i := by
  simp [accCommitCmd_checked hf ht, hc, he]

theorem accCommitCmd_legal (hc : s.acc.commit = none) (he : accErr (nRegions s) s.acc.groupsSh s.acc.rulesSh = none) :
    accCommitCmd s h = settle (startAccessScans { hatchWait s h with acc := { s.acc with
      commit := some { hatch := some h, bulkEnd := decide (pl s h 0 1 = 1), narrowed := narrowed s },
      owed := s.acc.owed ++ (narrowed s).filter (fun p => regionStopped s p.1) } } (narrowed s)) := by
  simp [accCommitCmd_checked hf ht, hc, he]

end

/-! ## The switch of the access tables (R333) -/

/-- Rules and groups of the shadow in force, and the commit ended; the answer is still owed. -/
def accessSwitched (s : State) : State :=
  { s with acc := { s.acc with
    rules := s.acc.rulesSh, groups := s.acc.groupsSh, baseCoat := false, gen := s.acc.gen + 1, commit := none } }

theorem accessSwitch_none {s : State} (hc : s.acc.commit = none) : accessSwitch s = s := by simp [accessSwitch, hc]

section
variable {s : State} (ho : s.trowel.ops = [])
include ho

theorem bulkFails_none : bulkFails s = [] := by simp [bulkFails, ho]

theorem bulkRecheck_none (b : Bool) : bulkRecheck s b = s := by simp [bulkRecheck, bulkFails_none ho]

theorem accessSwitch_free {c : AccCommit} {h : Nat} (hc : s.acc.commit = some c) (hh : c.hatch = some h)
    (hs : s.trowel.scans.any (fun x => x.owner == .accessCommit) = false) (he : s.trowel.extWait = [])
    (hi : s.trowel.intWait = []) : accessSwitch s = answerHatch (ansOk (accessSwitched s) h []) h := by
  have hwait : admitWaiting s = s := by simp [admitWaiting, he, hi]
  simp [accessSwitch, hc, hs, bulkRecheck_none ho, hwait, bulkFails_none ho, hh, accessSwitched]

end

theorem exec_accessSwitch {s : State} (hl : live s = true) : exec .accessSwitch s = .next (settle (accessSwitch s)) :=
  whenLive_live (fun s => settle (accessSwitch s)) hl

/-- Settles O19: ACC_COMMIT by its three cases; the switch exchanges the tables and answers, and the answer touches neither
the tables nor the memories. -/
theorem accessCommitAndSwitch : Obligations.AccessCommitAndSwitch := by
  unfold Obligations.AccessCommitAndSwitch
  intro s h hl hh
  refine ⟨fun hready hf ht => ?commit,
    fun hc => next_of_eq (exec_accessSwitch hl) (congrArg settle (accessSwitch_none hc)),
    fun c hc hch hs ho he hi hst hn => ?switch⟩
  case commit =>
    have hrun := exec_accCommit hl hh hready
    exact ⟨fun hc => next_of_eq hrun (accCommitCmd_second hf ht hc),
      fun i hc he => next_of_eq hrun (accCommitCmd_illegal hf ht hc he),
      fun hc he => next_of_eq hrun (accCommitCmd_legal hf ht hc he)⟩
  case switch =>
    obtain ⟨⟨m, f, p, hu⟩, hdone⟩ := answerHatch_ansOk (s := accessSwitched s) hst hn []
    refine ⟨_, next_of_eq (exec_accessSwitch hl) (congrArg settle (accessSwitch_free ho hc hch hs he hi)), ?_⟩
    refine ⟨?_, ?_, ?_, ?_, ?_, hdone, ?_, ?_⟩ <;> rw [hu] <;> rfl

end Sys2Proof.Machine

/-! # The Hatches' buffers, rings and answers (17 R459 to R465) -/

namespace Sys2Proof

/-- A byte of a range that is read is the byte at its address. -/
theorem bmRead_drop_take (m : ByteMem) (a : Nat) {i n k : Nat} (h : i + n ≤ k) :
    ((bmRead m a k).drop i).take n = bmRead m (a + i) n := by
  induction k generalizing a i n with
  | zero =>
    obtain ⟨rfl, rfl⟩ : i = 0 ∧ n = 0 := by omega
    rfl
  | succ k ih =>
    cases i with
    | zero =>
      cases n with
      | zero => rfl
      | succ n =>
        have hrest := ih (a + 1) (i := 0) (n := n) (by omega)
        rw [List.drop_zero] at hrest ⊢
        rw [bmRead, List.take_succ_cons, hrest]
        rfl
    | succ i => rw [bmRead, List.drop_succ_cons, ih (a + 1) (by omega), Nat.add_right_comm, Nat.add_assoc]

/-- Part of what was just written is read back. -/
theorem bmRead_bmWrite_part (l : List (BitVec 8)) (m : ByteMem) (a : Nat) {i n : Nat} (h : i + n ≤ l.length) :
    bmRead (bmWrite m a l) (a + i) n = (l.drop i).take n := by
  rw [← bmRead_drop_take _ _ h, bmRead_bmWrite]

end Sys2Proof

namespace Sys2Proof.Machine

/-! ## A change of one Hatch -/

/-- `t` is `s` but for Hatch `h`. -/
structure OnlyHatch (h : Nat) (s t : State) : Prop where
  frame : t = { s with mg := { s.mg with hatches := t.mg.hatches } }
  others : ∀ k, k ≠ h → hatch t k = hatch s k

theorem OnlyHatch.refl (h : Nat) (s : State) : OnlyHatch h s s := ⟨rfl, fun _ _ => rfl⟩

theorem OnlyHatch.trans {h : Nat} {s t u : State} (a : OnlyHatch h s t) (b : OnlyHatch h t u) : OnlyHatch h s u := by
  refine ⟨?_, fun k hk => (b.others k hk).trans (a.others k hk)⟩
  have hb := b.frame
  rw [a.frame] at hb
  exact hb

theorem onlyHatch_putHatch (s : State) (h : Nat) (x : Hatch) : OnlyHatch h s (putHatch s h x) :=
  ⟨rfl, fun k hk => hatch_putHatch_ne s h k x hk⟩

theorem onlyHatch_hatchResult (s : State) (h st : Nat) (p : List (BitVec 8)) (done at_ : Nat) :
    OnlyHatch h s (hatchResult s h st p done at_) := by
  unfold hatchResult
  dsimp only
  split
  · exact onlyHatch_putHatch s h _
  · exact .refl h s

/-! ## The answer (R463, R464) -/

theorem rspBytes_length (s : State) (h st : Nat) (p : List (BitVec 8)) (done at_ : Nat) :
    (rspBytes s h st p done at_).length = 32 + p.length := by
  simp only [rspBytes, List.length_append, leBytes_length]

theorem hOpcode_lt (s : State) (h : Nat) : hOpcode s h < 2 ^ 16 := by
  have hlt := leNat_lt (bmRead (hatch s h).copy 0 2)
  rwa [bmRead_length] at hlt

/-- The header of the response: OPCODE, SEQ, the payload's words and STATUS, before the payload. -/
theorem rspBytes_fields (s : State) (h : Nat) {st : Nat} {p : List (BitVec 8)} (done at_ : Nat) (hst : st < 256)
    (hp : p.length ≤ 4064) : leAt (rspBytes s h st p done at_) 0 2 = hOpcode s h ∧
      leAt (rspBytes s h st p done at_) 2 2 = (hatch s h).seq.toNat ∧
      leAt (rspBytes s h st p done at_) 4 2 = (p.length + 3) / 4 ∧ leAt (rspBytes s h st p done at_) 6 1 = st ∧
      (rspBytes s h st p done at_).drop 32 = p := by
  have hOp := hOpcode_lt s h
  have hSeq := (hatch s h).seq.isLt
  have hdrop : (rspBytes s h st p done at_).drop 32 = p := by
    rw [rspBytes]
    exact List.drop_left' (by simp only [List.length_append, leBytes_length])
  refine ⟨?_, ?_, ?_, ?_, hdrop⟩
  all_goals
    simp only [rspBytes, List.append_assoc, leAt_append_left, leAt_append_right, leAt_leBytes, leBytes_length,
      Nat.reduceLeDiff, Nat.reduceAdd, Nat.reduceSub]
    omega

/-- Any part of the response stands in the buffer where the layout puts it. -/
theorem leNat_bmRead_rsp (s : State) (h st : Nat) (p : List (BitVec 8)) (done at_ : Nat) {i n : Nat} (hi : i + n ≤ 32) :
    leNat (bmRead (bmWrite [] 0 (rspBytes s h st p done at_)) i n) = leAt (rspBytes s h st p done at_) i n := by
  have hpart := bmRead_bmWrite_part (rspBytes s h st p done at_) [] 0 (i := i) (n := n) (by rw [rspBytes_length]; omega)
  rw [Nat.zero_add] at hpart
  rw [hpart, leAt]

/-- The Hatch once it has answered. -/
def answeredHatch (s : State) (h st : Nat) (p : List (BitVec 8)) (done at_ : Nat) : Hatch :=
  { hatch s h with st := .done, rsp := bmWrite [] 0 (rspBytes s h st p done at_), result := none, waiting := false }

theorem answeredHatch_rsp (s : State) (h st : Nat) (p : List (BitVec 8)) (done at_ : Nat) :
    (answeredHatch s h st p done at_).rsp = bmWrite [] 0 (rspBytes s h st p done at_) := by
  rw [answeredHatch]

theorem answerHatch_silent {s : State} {h st : Nat} {p : List (BitVec 8)} {done at_ : Nat} (hb : (hatch s h).st = .busy)
    (hr : (hatch s h).result = some (st, p, done, at_)) (hn : (hatch s h).notify = false) :
    answerHatch s h = occ (putHatch s h (answeredHatch s h st p done at_)) 0x105 7 0xF 1 := by
  simp [answerHatch, hr, hb, hn, answeredHatch]

theorem answerHatch_none {s : State} {h : Nat} (hr : (hatch s h).result = none) : answerHatch s h = s := by
  simp only [answerHatch, hr]

/-! ## Rings and writes (R459, R460, R465) -/

section
variable {s : State} {h : Nat} {node : Node} (hon : hatchOn s h = true)
include hon

theorem hatchWrite_own (hnode : node = hatchNode s h) (off : Nat) (bs : List (BitVec 8)) :
    hatchWrite s h node off bs = putHatch s h { hatch s h with req := bmWrite (hatch s h).req off bs } := by
  simp [hatchWrite, hon, hnode]

theorem hatchWrite_foreign (hnode : node ≠ hatchNode s h) (off : Nat) (bs : List (BitVec 8)) :
    hatchWrite s h node off bs = rejectHatch s h := by
  simp [hatchWrite, hon, hnode]

theorem ringHatch_rejected (hno : node ≠ hatchNode s h ∨ (hatch s h).st = .busy) (hst : (hatch s h).st ≠ .frozen) :
    ringHatch s h node = rejectHatch s h := by
  obtain hno | hno := hno <;> simp [ringHatch, hon, hst, hno]

end

/-- The Hatch as a ring leaves it, before the first checks of its request. -/
def rungHatch (x : Hatch) (node : Node) : Hatch :=
  { x with
    st := .busy, copy := x.req, ringer := node, result := none, waiting := false,
    exec := opStrong (leNat (bmRead x.req 0 2)), seq := BitVec.ofNat 16 (leNat (bmRead x.req 2 2)),
    notify := bit (leNat (bmRead x.req 7 1)) 0 }

/-- A ring by the Hatch's own node takes the request; a request that fails a check has its result besides. -/
theorem ringHatch_own {s : State} {h : Nat} {node : Node} (hon : hatchOn s h = true) (hnode : node = hatchNode s h)
    (hst : (hatch s h).st = .idle ∨ (hatch s h).st = .done) : OnlyHatch h s (ringHatch s h node) ∧
      ∃ r, hatch (ringHatch s h node) h = { rungHatch (hatch s h) node with result := r } := by
  have hfrozen : (hatch s h).st ≠ .frozen := by rintro e; simp [e] at hst
  have hbusy : (hatch s h).st ≠ .busy := by rintro e; simp [e] at hst
  have hguard : ¬ (!hatchOn s h || (hatch s h).st == .frozen) = true := by simp [hon, hfrozen]
  have hmine : ¬ (node != hatchNode s h || (hatch s h).st == .busy) = true := by simp [hnode, hbusy]
  unfold ringHatch
  extract_lets x s1 op y s2
  have htaken : OnlyHatch h s s2 := (onlyHatch_putHatch s h _).trans (onlyHatch_putHatch s1 h _)
  have hrung : hatch s2 h = rungHatch (hatch s h) node := by
    simp only [s2, y, s1, op, x, hOpcode, reqNat, hatch_putHatch_same]
    rfl
  rw [if_neg hguard, if_neg hmine]
  split
  · next st at_ _ =>
    refine ⟨htaken.trans (onlyHatch_hatchResult s2 h st [] 0 at_), some (st, [], 0, at_), ?_⟩
    rw [hatchResult_busy st [] 0 at_ (by rw [hrung]; rfl), hrung]
    rfl
  · exact ⟨htaken, none, hrung⟩

theorem rejectHatch_eq (s : State) (h : Nat) : rejectHatch s h = putHatch s h { hatch s h with
    rejected := BitVec.ofNat 16 (min ((hatch s h).rejected.toNat + 1) 0xFFFF) } := rfl

/-! ## The commands on a stack that acts -/

section
variable {s : State} {h : Nat} (hl : live s = true) (hh : h < 16)
include hl hh

theorem exec_hatchBufferWrite (node : Node) {off : Nat} {bs : List (BitVec 8)} (hlen : off + bs.length ≤ 4096) :
    exec (.hatchBufferWrite h node off bs) s = .next (hatchWrite s h node off bs) :=
  (if_pos ⟨hh, hlen⟩).trans (whenLive_live (fun s => hatchWrite s h node off bs) hl)

theorem exec_hatchAnswer : exec (.hatchAnswer h) s = .next (answerHatch s h) :=
  (if_pos hh).trans (whenLive_live (fun s => answerHatch s h) hl)

theorem exec_faultInjection (hready : hatchReady s h 0x03F0 0x03FF = true) :
    exec (.faultInjection h) s = .next (ans s h 4) :=
  hatchRun_ready _ hh hl hready

end

/-- Settles O13: the response buffer holds `rspBytes`, whose fields are the header's. -/
theorem hatchAnswerAndInjection : Obligations.HatchAnswerAndInjection := by
  unfold Obligations.HatchAnswerAndInjection
  intro s h hl hh
  refine ⟨fun st p done errAt hb hst hp hr hn => ?answer,
    fun hr => next_of_eq (exec_hatchAnswer hl hh) (answerHatch_none hr), fun hready => ?injection⟩
  case answer =>
    obtain ⟨hOp, hSeq, hWords, hStatus, hPayload⟩ := rspBytes_fields s h done errAt hst hp
    have hfield {i n : Nat} (hi : i + n ≤ 32) := leNat_bmRead_rsp s h st p done errAt hi
    have hpay := bmRead_bmWrite_part (rspBytes s h st p done errAt) [] 0 (i := 32) (n := p.length)
      (rspBytes_length _ _ _ _ _ _).ge
    rw [hPayload, List.take_length] at hpay
    obtain ⟨q, hq⟩ := occ_eq (putHatch s h (answeredHatch s h st p done errAt)) 0x105 7 0xF 1
    refine ⟨{ putHatch s h (answeredHatch s h st p done errAt) with perf := q },
      next_of_eq (exec_hatchAnswer hl hh) ((answerHatch_silent hb hr hn).trans hq), ?_⟩
    have hmine : hatch { putHatch s h (answeredHatch s h st p done errAt) with perf := q } h =
      answeredHatch s h st p done errAt := hatch_putHatch_same s h _
    rw [hmine, answeredHatch_rsp]
    exact ⟨rfl, rfl, (hfield (by decide)).trans hOp, (hfield (by decide)).trans hSeq, (hfield (by decide)).trans hWords,
      (hfield (by decide)).trans hStatus, hpay, rfl, fun k hk => hatch_putHatch_ne s h k _ hk, rfl⟩
  case injection =>
    obtain ⟨hb, -, -⟩ := hatchReady_busy hready
    rw [exec_faultInjection hl hh hready, ans, hatchResult, if_pos (by simp [hb])]

/-- Settles O11: a write by `bmWrite`, a ring by `ringHatch_own`, and whatever is refused by `rejectHatch`. -/
theorem hatchBuffersAndRings : Obligations.HatchBuffersAndRings := by
  unfold Obligations.HatchBuffersAndRings
  intro s h node hl hh hon
  refine ⟨fun off bs hnode hlen => ?write, fun off bs hnode hlen => ?foreign, fun hnode hst => ?ring,
    fun hno hst => ?rejected⟩
  case write =>
    have honly := onlyHatch_putHatch s h { hatch s h with req := bmWrite (hatch s h).req off bs }
    refine ⟨_, next_of_eq (exec_hatchBufferWrite hl hh node hlen) (hatchWrite_own hon hnode off bs), ?_⟩
    rw [hatch_putHatch_same]
    exact ⟨bmRead_bmWrite bs _ off, fun a ha => bmGet_bmWrite_out bs _ off a ha, rfl, honly.others, honly.frame⟩
  case foreign =>
    rw [exec_hatchBufferWrite hl hh node hlen, hatchWrite_foreign hon hnode, rejectHatch_eq]
  case ring =>
    obtain ⟨honly, r, hr⟩ := ringHatch_own hon hnode hst
    refine ⟨_, exec_hatchRing hl node hh, ?_⟩
    rw [hr]
    exact ⟨rfl, rfl, rfl, rfl, rfl, rfl, honly.others, honly.frame⟩
  case rejected => rw [exec_hatchRing hl node hh, ringHatch_rejected hon hno hst, rejectHatch_eq]

end Sys2Proof.Machine

/-! # What a change of a link leaves alone (04 R137), and the messages the stack originates (05 R147) -/

namespace Sys2Proof.Machine

/-! ## Only the links -/

/-- `t` is `s` but for the links of its ports. -/
structure OnlyLinks (s t : State) : Prop where
  frame : t = { s with wp := { s.wp with link := t.wp.link }, fp := t.fp }
  port : ∀ q, port t q = { port s q with link := (port t q).link }

theorem OnlyLinks.refl (s : State) : OnlyLinks s s := ⟨rfl, fun _ => rfl⟩

theorem OnlyLinks.trans {s t u : State} (a : OnlyLinks s t) (b : OnlyLinks t u) : OnlyLinks s u := by
  refine ⟨?_, fun q => ?_⟩
  · have hb := b.frame
    rw [a.frame] at hb
    exact hb
  · have hb := b.port q
    rw [a.port q] at hb
    exact hb

theorem onlyLinks_modLink (s : State) (p : Nat) (f : Link → Link) : OnlyLinks s (modLink s p f) := by
  unfold modLink putLink
  split
  · exact ⟨rfl, fun _ => rfl⟩
  · refine ⟨rfl, fun q => ?_⟩
    by_cases h : q = p
    · subst h
      simp only [port_modPort_same]
    · simp only [modPort, port_putPort_ne _ _ _ _ h]

section
variable {s t : State} (h : OnlyLinks s t)
include h

theorem OnlyLinks.routeOf (n : Node) : routeOf t n = routeOf s n := by
  rw [h.frame]
  rfl

/-- Which ports are up does not depend on what their links hold. -/
theorem OnlyLinks.hasEgress (n : Node) : hasEgress t n = hasEgress s n := by
  have hst (p : Nat) : (Machine.port t p).st = (Machine.port s p).st := by rw [h.port p]
  have hwp : t.wp.st = s.wp.st := by rw [h.frame]
  have hhalted : t.faults.halted = s.faults.halted := by rw [h.frame]
  have hdead : t.wp.dead = s.wp.dead := by rw [h.frame]
  have hagent : agentOf t n = agentOf s n := by
    rw [h.frame]
    rfl
  simp only [Machine.hasEgress, egressDown, egressUsable, hst, hwp, hhalted, hdead, hagent, h.routeOf]

theorem OnlyLinks.faultSummary : faultSummary t = faultSummary s := by
  have hen (p : Nat) : (Machine.port t p).enable = (Machine.port s p).enable := by rw [h.port p]
  have hfaults : t.faults = s.faults := by rw [h.frame]
  have hregions : nRegions t = nRegions s := by
    rw [h.frame]
    rfl
  have hcfg : t.cfg = s.cfg := by rw [h.frame]
  have htrowel : t.trowel = s.trowel := by rw [h.frame]
  have hcompact : compact t = compact s := by simp only [compact, hregions, hen, hcfg, htrowel]
  simp only [Machine.faultSummary, unackCount, allRecs, chipRecs, escalates, hcompact, hfaults]

end

/-- Links in which only the credits to be returned differ: no message joins a queue. -/
def SameQueues (s t : State) : Prop := ∀ p, (linkOf t p).outQ = (linkOf s p).outQ

theorem linkOf_modLink_ne (s : State) {p q : Nat} (f : Link → Link) (h : q ≠ p) : linkOf (modLink s p f) q = linkOf s q := by
  unfold modLink putLink
  split
  · next hp => simp [linkOf, hp ▸ h, port]
  · simp [linkOf, modPort, port_putPort_ne _ _ _ _ h]

theorem sameQueues_modLink {f : Link → Link} (hf : ∀ l, (f l).outQ = l.outQ) (s : State) (p : Nat) :
    SameQueues s (modLink s p f) := by
  intro q
  by_cases h : q = p
  · rw [h, linkOf_modLink_same, hf]
  · rw [linkOf_modLink_ne s f h]

theorem leaveIngress_links (s : State) (ing : Nat) (m : Msg) :
    OnlyLinks s (leaveIngress s ing m) ∧ SameQueues s (leaveIngress s ing m) := by
  have hhdr (t : State) (k n : Nat) : OnlyLinks t (retHdr t ing k n) ∧ SameQueues t (retHdr t ing k n) := by
    unfold retHdr
    split
    · exact ⟨.refl t, fun _ => rfl⟩
    · exact ⟨onlyLinks_modLink _ _ _, sameQueues_modLink (fun _ => by rfl) _ _⟩
  have hline (t : State) (k n : Nat) : OnlyLinks t (retLine t ing k n) ∧ SameQueues t (retLine t ing k n) := by
    unfold retLine
    split
    · exact ⟨.refl t, fun _ => rfl⟩
    · exact ⟨onlyLinks_modLink _ _ _, sameQueues_modLink (fun _ => by rfl) _ _⟩
  obtain ⟨hLinks, hQueues⟩ := hhdr s (opClass (hOp m.h0)) 1
  obtain ⟨hLinks', hQueues'⟩ := hline (retHdr s ing (opClass (hOp m.h0)) 1) (opClass (hOp m.h0)) m.data.length
  exact ⟨hLinks.trans hLinks', fun p => (hQueues' p).trans (hQueues p)⟩

/-! ## Headers -/

section
variable {op hops st addr : Nat} {src dst : Node} {tag : Tag}

theorem hOp_mkH0 (hop : op < 256) : hOp (mkH0 op hops src dst tag st addr) = op := by
  rw [hOp, mkH0, BitVec.extractLsb'_toNat, BitVec.toNat_ofNat]
  omega

theorem hStatus_mkH0 (hop : op < 256) (hst : st < 16) : hStatus (mkH0 op hops src dst tag st addr) = st := by
  have hsrc := src.isLt
  have hdst := dst.isLt
  have htag := tag.isLt
  rw [hStatus, mkH0, BitVec.extractLsb'_toNat, BitVec.toNat_ofNat, Nat.shiftRight_eq_div_pow]
  omega

theorem hTag_mkH0 (hop : op < 256) : hTag (mkH0 op hops src dst tag st addr) = tag := by
  have hsrc := src.isLt
  have hdst := dst.isLt
  have htag := tag.isLt
  refine BitVec.eq_of_toNat_eq ?_
  rw [hTag, mkH0, BitVec.extractLsb'_toNat, BitVec.toNat_ofNat, Nat.shiftRight_eq_div_pow]
  omega

end

/-- MOFF and SIZE that an answer echoes stand above bit 64. -/
theorem extractLsb'_or_echo (v : Slot) (a b : Nat) {i k : Nat} (h : i + k ≤ 64) :
    (v ||| BitVec.ofNat 128 (a * 2 ^ 64 + b * 2 ^ 88)).extractLsb' i k = v.extractLsb' i k := by
  refine BitVec.eq_of_getLsbD_eq fun j hj => ?_
  have hecho : (a * 2 ^ 64 + b * 2 ^ 88).testBit (i + j) = false := by
    have hfactor : a * 2 ^ 64 + b * 2 ^ 88 = (a + b * 2 ^ 24) * 2 ^ 64 := by ring
    rw [hfactor, Nat.testBit_mul_two_pow, decide_eq_false (by omega), Bool.false_and]
  simp only [BitVec.getLsbD_extractLsb', BitVec.getLsbD_or, BitVec.getLsbD_ofNat, hecho, Bool.and_false, Bool.or_false]

/-! ## A message sent (04 R137) -/

/-- A message toward a node with an egress joins that egress's queue, its hops and destination written into its header. -/
theorem sendTo_queued {s : State} {n : Node} (o : OutMsg) (h : hasEgress s n = true) :
    (sendTo s n o).1 = enqueue s (routeOf s n) { o with h0 := sentHeader s o.h0 n } :=
  congrArg Prod.fst (sendTo_hasEgress o h)

/-! # The host's side of the event queues (17 R474, R475) -/

theorem writeTail_within {s : State} {t : Nat} {v : BitVec 16}
    (h : (v - (evtT s t).tail).toNat ≤ ((evtT s t).head - (evtT s t).tail).toNat) :
    writeTail s t v = putEvt s t { evtT s t with tail := v } := if_pos h

theorem writeTail_beyond {s : State} {t : Nat} {v : BitVec 16}
    (h : ((evtT s t).head - (evtT s t).tail).toNat < (v - (evtT s t).tail).toNat) : writeTail s t v = s :=
  if_neg (Nat.not_le.mpr h)

theorem evtPush_none {s : State} {t : Nat} (h : (evtT s t).push = none) : evtPush s t = s := by simp only [evtPush, h]

section
variable {s : State} {t : Nat} {r : EvtRec} (hr : (evtT s t).push = some r)
include hr

theorem evtPush_waits (hm : evtMaySend s ((evtT s t).cfg.extractLsb' 8 12) = false) : evtPush s t = s := by
  simp [evtPush, hr, hm]

theorem evtPush_sends (hm : evtMaySend s ((evtT s t).cfg.extractLsb' 8 12) = true) : evtPush s t =
    (sendTo (putEvt s t { evtT s t with push := none }) ((evtT s t).cfg.extractLsb' 8 12)
      (evtMsg s t ((evtT s t).cfg.extractLsb' 8 12) r)).1 := by
  simp [evtPush, hr, hm]

end

theorem exec_evtDropClear {s : State} {t : Nat} (hl : live s = true) (ht : t < 8) :
    exec (.evtDropClear t) s = .next (putEvt s t { evtT s t with dropped := 0 }) :=
  (if_pos ht).trans (whenLive_live (fun s => dropClear s t) hl)

theorem exec_evtPush {s : State} {t : Nat} (hl : live s = true) (ht : t < 8) : exec (.evtPush t) s = .next (evtPush s t) :=
  (if_pos ht).trans (whenLive_live (fun s => evtPush s t) hl)

/-- Settles O23: TAIL by its two cases; a record that may be sent joins the queue of its target's egress as one EVT. -/
theorem eventQueuesOfTheHost : Obligations.EventQueuesOfTheHost := by
  unfold Obligations.EventQueuesOfTheHost
  intro s t hl ht
  refine ⟨fun v h => next_of_eq (exec_evtTailWrite hl v ht) (writeTail_within h),
    fun v h => next_of_eq (exec_evtTailWrite hl v ht) (writeTail_beyond h), exec_evtDropClear hl ht,
    fun h => next_of_eq (exec_evtPush hl ht) (evtPush_none h), fun r hr => ?push⟩
  intro n
  refine ⟨fun hm => next_of_eq (exec_evtPush hl ht) (evtPush_waits hr hm), fun hm he => ?_⟩
  have hsent := sendTo_queued (s := putEvt s t { evtT s t with push := none }) (n := n) (evtMsg s t n r) he
  obtain ⟨w, x, hw⟩ := enqueue_eq (putEvt s t { evtT s t with push := none }) (routeOf s n)
    { evtMsg s t n r with h0 := sentHeader s (evtMsg s t n r).h0 n }
  have hqueue := linkOf_enqueue (putEvt s t { evtT s t with push := none }) (routeOf s n)
    { evtMsg s t n r with h0 := sentHeader s (evtMsg s t n r).h0 n }
  refine ⟨_, _, next_of_eq (exec_evtPush hl ht) ((evtPush_sends hr hm).trans (hsent.trans hw)), ?_, hw ▸ hqueue, rfl, ?_, ?_, rfl⟩
  · exact evtT_putEvt_same s t _
  · exact (hOp_sentHeader _ _ _).trans (hOp_mkH0 (by decide))
  · intro k _ hk
    exact evtT_putEvt_ne s t k _ hk

/-! # The halt responder (12 R358) -/

/-- What the halt responder sends: an answer that echoes MOFF and SIZE. -/
def haltReply (s : State) (m : Msg) (op st : Nat) (lines : List Line) : OutMsg :=
  outMsg (mkH0 op s.fab.hopLimit.toNat s.fab.stackNode (hSrc m.h0) (hTag m.h0) st 0 |||
    BitVec.ofNat 128 (hMoff m.h0 * 2 ^ 64 + hSize m.h0 * 2 ^ 88)) 0 lines none true false

/-- `u` is `s` after that answer joined the queue of the asking node's egress. -/
def HaltReplied (s : State) (m : Msg) (op st : Nat) (lines : List Line) (u : State) : Prop :=
  ∃ o : OutMsg, (linkOf u (routeOf s (hSrc m.h0))).outQ = (linkOf s (routeOf s (hSrc m.h0))).outQ ++ [o] ∧ hOp o.h0 = op ∧
    hStatus o.h0 = st ∧ hTag o.h0 = hTag m.h0 ∧ o.lines = lines ∧ u = { s with wp := u.wp, fp := u.fp }

section
variable {s : State} {ing : Nat} {m : Msg}

theorem haltReplied_sendTo (he : hasEgress s (hSrc m.h0) = true) {op st : Nat} (hop : op < 256) (hst : st < 16)
    (lines : List Line) : HaltReplied s m op st lines
      (sendTo (leaveIngress s ing m) (hSrc m.h0) (haltReply (leaveIngress s ing m) m op st lines)).1 := by
  obtain ⟨hlinks, hqueues⟩ := leaveIngress_links s ing m
  obtain ⟨_, _, hframe⟩ := leaveIngress_eq s ing m
  have heg : hasEgress (leaveIngress s ing m) (hSrc m.h0) = true := (hlinks.hasEgress _).trans he
  rw [sendTo_queued _ heg, hlinks.routeOf]
  obtain ⟨w, x, hw⟩ := enqueue_eq (leaveIngress s ing m) (routeOf s (hSrc m.h0))
    { haltReply (leaveIngress s ing m) m op st lines with
      h0 := sentHeader (leaveIngress s ing m) (haltReply (leaveIngress s ing m) m op st lines).h0 (hSrc m.h0) }
  refine ⟨_, (linkOf_enqueue _ _ _).trans (by rw [hqueues]), ?_, ?_, ?_, rfl, ?_⟩
  · exact (hOp_sentHeader _ _ _).trans ((congrArg BitVec.toNat (extractLsb'_or_echo _ _ _ (by omega))).trans (hOp_mkH0 hop))
  · exact (hStatus_sentHeader _ _ _).trans
      ((congrArg BitVec.toNat (extractLsb'_or_echo _ _ _ (by omega))).trans (hStatus_mkH0 hop hst))
  · exact (hTag_sentHeader _ _ _).trans ((extractLsb'_or_echo _ _ _ (by omega)).trans (hTag_mkH0 hop))
  · rw [hw, hframe]

theorem foldl_oneWord (f : Nat → Nat) : (List.range 1).foldl (fun a i => a + f i * 2 ^ (64 * i)) 0 = f 0 := by simp

/-- A read of the one word of CW_FAULT_SUMMARY. -/
theorem haltAnswer_summary (hop : hOp m.h0 = opMgRd) (hoff : hMoff m.h0 = 0x300) (hsize : hSize m.h0 = 0) :
    haltAnswer s ing m = (sendTo (leaveIngress s ing m) (hSrc m.h0)
      (haltReply (leaveIngress s ing m) m opMgData stOk [BitVec.ofNat 512 (faultSummary (leaveIngress s ing m))])).1 := by
  unfold haltAnswer
  extract_lets u op src hops ms off words okSum okLast v
  have hwords : words = 1 := by simp only [words, hsize]
  have hlisted : okSum = true := by simp [okSum, off, hoff, hwords]
  have hvalue : v = faultSummary (leaveIngress s ing m) := by
    simp only [v, hwords]
    exact (foldl_oneWord _).trans (if_pos hlisted)
  rw [if_pos (.inl hop), if_pos ⟨hop, by simp [hlisted]⟩, hvalue]
  rfl

theorem haltAnswer_refused (hop : hOp m.h0 = opMgWr ∨ (hOp m.h0 = opMgRd ∧ hMoff m.h0 < 0x300)) :
    haltAnswer s ing m = (sendTo (leaveIngress s ing m) (hSrc m.h0)
      (haltReply (leaveIngress s ing m) m opMgRsp stAddrErr [])).1 := by
  have hne : opMgWr ≠ opMgRd := by decide
  obtain hop | ⟨hop, hoff⟩ := hop
  · simp [haltAnswer, hop, hne, haltReply, leaveIngress]
  · have hsum : hMoff m.h0 ≠ 0x300 := by omega
    have hlast : ¬ 0x310 ≤ hMoff m.h0 := by omega
    simp [haltAnswer, hop, hsum, hlast, haltReply, leaveIngress]

theorem haltServe_own (hd : hDst m.h0 = s.fab.stackNode) : haltServe s ing m = haltAnswer s ing m := if_pos (by simp [hd])

/-- A message for another node, or of no management class, is discarded. -/
theorem haltServe_discards (h : hDst m.h0 ≠ s.fab.stackNode ∨ (hOp m.h0 ≠ opMgRd ∧ hOp m.h0 ≠ opMgWr)) :
    haltServe s ing m = leaveIngress s ing m := by
  by_cases hd : hDst m.h0 = s.fab.stackNode
  · obtain ⟨hrd, hwr⟩ := h.resolve_left (not_not_intro hd)
    simp [haltServe, hd, haltAnswer, hrd, hwr, leaveIngress]
  · simp [haltServe, hd, leaveIngress]

theorem exec_haltResponderRequest (hing : ing < 5) (hh : s.faults.halted = true) :
    exec (.haltResponderRequest ing m) s = .next (haltServe s ing m) := if_pos ⟨hh, hing⟩

theorem exec_haltResponderRequest_running (hh : s.faults.halted = false) :
    exec (.haltResponderRequest ing m) s = .next s := if_neg (by simp [hh])

end

/-- Settles O25: the answers by `haltReplied_sendTo`; what is discarded returns its credits. -/
theorem haltResponder : Obligations.HaltResponder := by
  unfold Obligations.HaltResponder
  intro s ing m hing n
  refine ⟨exec_haltResponderRequest_running, fun hh hd he hop hoff hsize => ?summary, fun hh hd he hop => ?refused,
    fun hh h => ?discarded⟩
  case summary =>
    obtain ⟨hlinks, -⟩ := leaveIngress_links s ing m
    have hrun := next_of_eq (exec_haltResponderRequest hing hh) ((haltServe_own hd).trans (haltAnswer_summary hop hoff hsize))
    rw [hlinks.faultSummary] at hrun
    obtain ⟨o, ho⟩ := haltReplied_sendTo (ing := ing) (op := opMgData) (st := stOk) he (by decide) (by decide)
      [BitVec.ofNat 512 (faultSummary s)]
    exact ⟨_, o, hrun, ho⟩
  case refused =>
    have hrun := next_of_eq (exec_haltResponderRequest hing hh) ((haltServe_own hd).trans (haltAnswer_refused hop))
    obtain ⟨o, ho⟩ := haltReplied_sendTo (ing := ing) (op := opMgRsp) (st := stAddrErr) he (by decide) (by decide) []
    exact ⟨_, o, hrun, ho⟩
  case discarded =>
    obtain ⟨_, _, hframe⟩ := leaveIngress_eq s ing m
    obtain ⟨-, hqueues⟩ := leaveIngress_links s ing m
    exact ⟨_, next_of_eq (exec_haltResponderRequest hing hh) (haltServe_discards h), by rw [hframe],
      fun p _ => hqueues p⟩

end Sys2Proof.Machine

/-! # Fault records: their creation and acknowledgement (12 R342 to R352, R360) -/

namespace Sys2Proof.Machine

/-! ## Acknowledgement (R352)

Where no FID stands twice and every record of a lower collector has its copy in the chip log, an acknowledgement changes
the one record that holds the FID, and writes no entry anew. -/

/-- No FID stands twice, and every record of a lower collector has its copy in the chip log. -/
structure RecordsLogged (s : State) : Prop where
  nodup : ((allRecs s).map FaultRec.fid).Nodup
  logged : ∀ x ∈ s.faults.slots, ∃ e ∈ s.faults.log, e.r.fid = x.fid

/-- A record, acknowledged where it is the one with this FID. -/
def ackFid (fid : BitVec 32) (x : FaultRec) : FaultRec := if x.fid = fid then { x with acked := true } else x

theorem fid_ackFid (fid : BitVec 32) (x : FaultRec) : (ackFid fid x).fid = x.fid := by
  unfold ackFid
  split <;> rfl

theorem fid_comp_ackFid (fid : BitVec 32) : FaultRec.fid ∘ ackFid fid = FaultRec.fid := funext (fid_ackFid fid)

/-- A record found by its FID is the only one with it. -/
theorem eq_of_find_fid {l : List FaultRec} (hn : (l.map FaultRec.fid).Nodup) {fid : BitVec 32} {r : FaultRec}
    (hr : l.find? (fun x => x.fid = fid) = some r) {x : FaultRec} (hx : x ∈ l) (hfid : x.fid = fid) : x = r := by
  have hrfid : r.fid = fid := by simpa using List.find?_some hr
  exact List.inj_on_of_nodup_map hn hx (List.mem_of_find?_eq_some hr) (hfid.trans hrfid.symm)

/-- The log with every entry of a FID replaced. -/
def relog (fid : BitVec 32) (r : FaultRec) (l : List LogEnt) : List LogEnt :=
  l.map (fun e => if e.r.fid = fid then { e with r := r } else e)

theorem chipRecs_relog (fid : BitVec 32) (r : FaultRec) (l : List LogEnt) :
    ((relog fid r l).filter (fun e => !e.copy)).map LogEnt.r =
      ((l.filter (fun e => !e.copy)).map LogEnt.r).map (fun x => if x.fid = fid then r else x) := by
  rw [relog, List.filter_map, List.map_map, List.map_map]
  have hcopy : ((fun e : LogEnt => !e.copy) ∘ fun e => if e.r.fid = fid then { e with r := r } else e) =
      fun e : LogEnt => !e.copy := by
    funext e
    simp only [Function.comp]
    split <;> rfl
  rw [hcopy]
  refine List.map_congr_left fun e _ => ?_
  simp only [Function.comp]
  split <;> rfl

/-- The state with a record in the place of those with its FID, in its collector and in the log. -/
def recReplaced (s : State) (fid : BitVec 32) (r : FaultRec) : State :=
  setLast { s with faults := { s.faults with
    slots := s.faults.slots.map (fun x => if x.fid = fid then r else x), log := relog fid r s.faults.log } } r

theorem recReplaced_eq (s : State) (fid : BitVec 32) (r : FaultRec) : ∃ f : Faults, recReplaced s fid r = { s with faults := f } ∧
    f.slots = s.faults.slots.map (fun x => if x.fid = fid then r else x) ∧ f.log = relog fid r s.faults.log := by
  unfold recReplaced setLast
  split
  · exact ⟨_, rfl, rfl, rfl⟩
  · exact ⟨_, rfl, rfl, rfl⟩

section
variable {s : State} (h : RecordsLogged s) (fid : BitVec 32)
include h

theorem modRec_logged {f : FaultRec → FaultRec} {r : FaultRec} (hr : (allRecs s).find? (fun x => x.fid = fid) = some r) :
    modRec s fid f = recReplaced s fid (f r) := by
  have hrfid : r.fid = fid := by simpa using List.find?_some hr
  have hlog : s.faults.log.any (fun e => e.r.fid = fid) = true := by
    rw [List.any_eq_true]
    obtain hslot | hchip := List.mem_append.mp (List.mem_of_find?_eq_some hr)
    · obtain ⟨e, he, hefid⟩ := h.logged r hslot
      exact ⟨e, he, by simp [hefid, hrfid]⟩
    · obtain ⟨e, he, rfl⟩ := List.mem_map.mp hchip
      exact ⟨e, (List.mem_filter.mp he).1, by simp [hrfid]⟩
  simp only [modRec, hr, hlog, if_true, recReplaced, relog]

/-- An acknowledgement marks the record with the FID in whichever collector holds it. -/
theorem ackRec_spec : RecordsLogged (ackRec s fid) ∧ allRecs (ackRec s fid) = (allRecs s).map (ackFid fid) ∧
    ackRec s fid = { s with faults := (ackRec s fid).faults } := by
  cases hr : (allRecs s).find? (fun x => x.fid = fid) with
  | none =>
    have hnone : ∀ x ∈ allRecs s, x.fid ≠ fid := by simpa using hr
    have hsame : ackRec s fid = s := by simp only [ackRec, hr]
    rw [hsame]
    exact ⟨h, ((List.map_congr_left fun x hx => if_neg (hnone x hx)).trans (List.map_id _)).symm, rfl⟩
  | some r =>
    have hrfid : r.fid = fid := by simpa using List.find?_some hr
    have honly {x : FaultRec} (hx : x ∈ allRecs s) (hfid : x.fid = fid) : x = r := eq_of_find_fid h.nodup hr hx hfid
    by_cases hacked : r.acked = true
    · have hsame : ackRec s fid = s := by simp only [ackRec, hr, hacked, if_true]
      have hmap : (allRecs s).map (ackFid fid) = allRecs s := by
        refine (List.map_congr_left fun x hx => ?_).trans (List.map_id _)
        unfold ackFid
        split
        · next hfid => simp only [honly hx hfid, ← hacked, id]
        · rfl
      rw [hsame, hmap]
      exact ⟨h, rfl, rfl⟩
    · have hmod : ackRec s fid = recReplaced s fid { r with acked := true } := by
        rw [← modRec_logged h fid (f := fun r => { r with acked := true }) hr]
        simp only [ackRec, hr, if_neg hacked]
      obtain ⟨f, hf, hslots, hlog⟩ := recReplaced_eq s fid { r with acked := true }
      have hrecs : allRecs { s with faults := f } = (allRecs s).map (ackFid fid) := by
        have hsubst : (allRecs s).map (ackFid fid) =
            (allRecs s).map (fun x => if x.fid = fid then { r with acked := true } else x) := by
          refine List.map_congr_left fun x hx => ?_
          unfold ackFid
          split
          · next hfid => rw [honly hx hfid]
          · rfl
        rw [hsubst, allRecs, allRecs, chipRecs, chipRecs, hslots, hlog, chipRecs_relog, List.map_append]
      rw [hmod, hf]
      refine ⟨⟨?_, ?_⟩, hrecs, rfl⟩
      · rw [hrecs, List.map_map, fid_comp_ackFid]
        exact h.nodup
      · rw [hslots, hlog]
        intro y hy
        obtain ⟨x, hx, rfl⟩ := List.mem_map.mp hy
        obtain ⟨e, he, hefid⟩ := h.logged x hx
        refine ⟨_, List.mem_map_of_mem he, ?_⟩
        by_cases hfid : x.fid = fid
        · rw [if_pos (hefid.trans hfid), if_pos hfid]
        · rw [if_neg (hefid ▸ hfid), if_neg hfid, hefid]

end

/-- A row of acknowledgements marks the records that it names. -/
theorem foldl_ackRec {s : State} (h : RecordsLogged s) (l : List FaultRec) :
    allRecs (l.foldl (fun s r => ackRec s r.fid) s) =
        (allRecs s).map (fun x => if x.fid ∈ l.map FaultRec.fid then { x with acked := true } else x) ∧
      l.foldl (fun s r => ackRec s r.fid) s = { s with faults := (l.foldl (fun s r => ackRec s r.fid) s).faults } := by
  induction l generalizing s with
  | nil => exact ⟨by simp, rfl⟩
  | cons r l ih =>
    obtain ⟨hlogged, hrecs, hframe⟩ := ackRec_spec h r.fid
    obtain ⟨hall, hrest⟩ := ih hlogged
    rw [List.foldl_cons, hall, hrecs, List.map_map]
    refine ⟨List.map_congr_left fun x _ => ?_, ?_⟩
    · simp only [Function.comp, fid_ackFid, List.map_cons, List.mem_cons]
      unfold ackFid
      by_cases hr : x.fid = r.fid <;> by_cases hl : x.fid ∈ l.map FaultRec.fid <;> simp [hr, hl]
    · rw [hframe] at hrest ⊢
      exact hrest

/-- Acknowledging a class marks its records and no other. -/
theorem ackClass_spec {s : State} (h : RecordsLogged s) (c : FClass) : allRecs (ackClass s c) =
      (allRecs s).map (fun x => if x.cls = c then { x with acked := true } else x) ∧
    ackClass s c = { s with faults := (ackClass s c).faults } := by
  obtain ⟨hrecs, hframe⟩ := foldl_ackRec h ((allRecs s).filter (fun r => r.cls == c))
  refine ⟨hrecs.trans (List.map_congr_left fun x hx => ?_), hframe⟩
  have hnamed : x.fid ∈ ((allRecs s).filter (fun r => r.cls == c)).map FaultRec.fid ↔ x.cls = c := by
    refine ⟨fun hm => ?_, fun hc => List.mem_map_of_mem (List.mem_filter.mpr ⟨hx, by simp [hc]⟩)⟩
    obtain ⟨y, hy, hfid⟩ := List.mem_map.mp hm
    obtain ⟨hmem, hcls⟩ := List.mem_filter.mp hy
    rw [← List.inj_on_of_nodup_map h.nodup hmem hx hfid]
    simpa using hcls
  simp only [hnamed]

section
variable {s : State} (hl : live s = true)
include hl

theorem exec_faultAckC1All : exec .faultAckC1All s = .next (ackClass s .c1) := whenLive_live (fun s => ackClass s .c1) hl

theorem exec_faultAckC2All : exec .faultAckC2All s = .next (ackClass s .c2) := whenLive_live (fun s => ackClass s .c2) hl

theorem exec_logOverflowClear : exec .logOverflowClear s =
    .next { s with faults := { s.faults with logOverflow := false } } :=
  whenLive_live (fun s => { s with faults := { s.faults with logOverflow := false } }) hl

theorem exec_lostReset : exec .lostReset s = .next { s with faults := { s.faults with lost := 0 } } :=
  whenLive_live (fun s => { s with faults := { s.faults with lost := 0 } }) hl

end

/-- Settles O20, by what one acknowledgement and a class's acknowledgements leave. -/
theorem faultAcknowledgement : Obligations.FaultAcknowledgement := by
  unfold Obligations.FaultAcknowledgement
  intro s hl hnodup hlogged
  have h : RecordsLogged s := ⟨hnodup, fun x hx => by simpa using hlogged x hx⟩
  refine ⟨fun fid => ?_, ⟨_, exec_faultAckC1All hl, ackClass_spec h .c1⟩, ⟨_, exec_faultAckC2All hl, ackClass_spec h .c2⟩,
    exec_logOverflowClear hl, exec_lostReset hl⟩
  obtain ⟨-, hrecs, hframe⟩ := ackRec_spec h fid
  exact ⟨_, exec_faultAck hl fid, hrecs, hframe⟩

/-! ## What posting an event leaves of the fault registers (R341; 17 R480) -/

/-- `t` is `s` but for its event queues, its counters and the counts of C0 events. -/
def OnlyPosted (s t : State) : Prop :=
  ∃ (m : Mgmt) (c : SMap Nat) (p : Perf), t = { s with mg := m, perf := p, faults := { s.faults with c0Counts := c } }

theorem OnlyPosted.refl (s : State) : OnlyPosted s s := ⟨s.mg, s.faults.c0Counts, s.perf, rfl⟩

theorem OnlyPosted.trans {s t u : State} (h : OnlyPosted s t) (k : OnlyPosted t u) : OnlyPosted s u := by
  obtain ⟨_, _, _, rfl⟩ := h
  obtain ⟨m, c, p, rfl⟩ := k
  exact ⟨m, c, p, rfl⟩

theorem OnlyPosted.foldl {α : Type} {f : State → α → State} (hf : ∀ u a, OnlyPosted u (f u a)) (l : List α) {s t : State}
    (h : OnlyPosted s t) : OnlyPosted s (l.foldl f t) :=
  List.foldlRecOn l f h fun _ hu a _ => hu.trans (hf _ a)

theorem onlyPosted_mg (s : State) (m : Mgmt) : OnlyPosted s { s with mg := m } := ⟨m, s.faults.c0Counts, s.perf, rfl⟩

theorem onlyPosted_occ (s : State) (ev grp qual n : Nat) : OnlyPosted s (occ s ev grp qual n) := by
  obtain ⟨p, h⟩ := occ_eq s ev grp qual n
  exact ⟨s.mg, s.faults.c0Counts, p, h⟩

theorem onlyPosted_postTo (s : State) (r : EvtRec) (cls srcs : List Nat) (n : Bool) :
    OnlyPosted s (postTo s r cls srcs n).1 := by
  refine List.foldlRecOn (motive := fun acc : State × List Nat => OnlyPosted s acc.1) _ _ ?counted
    (fun acc h t _ => ?placed)
  case counted => exact (onlyPosted_mg s _).trans (onlyPosted_occ _ _ _ _ _)
  case placed =>
    dsimp only
    split
    · exact h.trans (onlyPosted_mg _ _)
    · exact h

theorem onlyPosted_dropEvent (s : State) (t : Nat) : OnlyPosted s (dropEvent s t) := by
  have hocc := onlyPosted_occ s 0x107 7 0xF 1
  unfold dropEvent
  extract_lets x ok key n u
  split
  · exact hocc
  · split
    · refine .foldl (fun u n => ?_) _ (hocc.trans ⟨_, _, _, rfl⟩)
      dsimp only
      split
      · exact onlyPosted_mg _ _
      · exact .refl _
    · exact hocc.trans ⟨_, _, _, rfl⟩

theorem onlyPosted_post (s : State) (r : EvtRec) (cls srcs : List Nat) (n : Bool) : OnlyPosted s (post s r cls srcs n) :=
  .foldl onlyPosted_dropEvent _ (onlyPosted_postTo s r cls srcs n)

/-! ## A first fault of class C1 or C2 (R342 to R348) -/

section
variable {s : State} {cls : FClass} {lv : FLevel} {el code detail : Nat} {region : Nat}

theorem oldestRec_filter_none {l : List FaultRec} {p : FaultRec → Bool} (h : ∀ x ∈ l, p x = false) :
    oldestRec (l.filter p) = none := by
  rw [List.filter_eq_nil_iff.mpr (fun x hx => by simp [h x hx])]
  rfl

/-- Without an unacknowledged record of the class in its collector, a fault makes a record of its own. -/
theorem raise_first (hh : s.faults.halted = false) (hc : cls = .c1 ∨ cls = .c2)
    (hs : lv = .chip ∨ regionStopped s region = false)
    (ha : ∀ x ∈ collRecs s lv el, x.cls = cls → x.acked = true) :
    raise s cls lv region el code detail = createRec s cls lv region el code detail := by
  have hsecond : secondOf s cls lv el = none := by
    have h3 : (cls == .c3) = false := by obtain rfl | rfl := hc <;> rfl
    rw [secondOf, h3]
    refine oldestRec_filter_none fun x hx => ?_
    by_cases hx' : x.cls = cls
    · simp [ha x hx hx']
    · simp [hx']
  have h4 : ¬ (cls == .c4) = true := by obtain rfl | rfl := hc <;> decide
  have hstop : ¬ (lv != .chip && regionStopped s region) = true := by obtain rfl | hs := hs <;> simp [*]
  rw [raise, if_neg (by simp [hh]), if_neg h4, if_neg hstop, hsecond]

/-- The state once a record has its place, its FID and the registers of the latest record. -/
def recPlaced (s : State) (r : FaultRec) (slots : List FaultRec) (copy : Bool) : State :=
  { s with faults := { s.faults with
    slots := slots, log := s.faults.log ++ [{ r := r, copy := copy }], nextFid := s.faults.nextFid + 1, last := some r,
    lastFid := r.fid } }

/-- A record of a class that has no reaction, with AUTO_ACK off, is placed and posted. -/
theorem createRec_placed {u : State} (hc : cls = .c1 ∨ cls = .c2) (ha : u.faults.autoAck = 0)
    (hn : OnlyPosted u (newRec s (freshRec s cls lv region el code detail))) :
    OnlyPosted u (createRec s cls lv region el code detail) := by
  have hack (t : State) (ht : OnlyPosted u t) : autoAck t (freshRec s cls lv region el code detail) = t := by
    obtain ⟨_, _, _, rfl⟩ := ht
    obtain rfl | rfl := hc <;> simp [autoAck, freshRec, ha]
  have hreact : react (newRec s (freshRec s cls lv region el code detail)) cls lv region =
      newRec s (freshRec s cls lv region el code detail) := by obtain rfl | rfl := hc <;> rfl
  rw [createRec]
  rw [hreact, hack _ hn, ite_self]
  exact hn

theorem logWrite_room (hlog : s.faults.log.length < 64) (e : LogEnt) :
    logWrite s e = ({ s with faults := { s.faults with log := s.faults.log ++ [e] } }, true) := if_pos hlog

theorem setLast_live (hh : s.faults.halted = false) (r : FaultRec) :
    setLast s r = { s with faults := { s.faults with last := some r, lastFid := r.fid } } := if_neg (by simp [hh])

/-- A record that has its place in a live stack takes its FID and becomes the latest. -/
theorem newRec_placed {r : FaultRec} {u : State} (hplace : recPlace s r = some u) (hh : u.faults.halted = false) :
    OnlyPosted { u with faults := { u.faults with nextFid := u.faults.nextFid + 1, last := some r, lastFid := r.fid } }
      (newRec s r) := by
  have hlast := setLast_live (s := { u with faults := { u.faults with nextFid := u.faults.nextFid + 1 } }) hh r
  rw [newRec_eq, hplace]
  dsimp only
  rw [recEntered, hlast]
  exact onlyPosted_post _ _ _ _ _

section
variable {r : FaultRec} (hh : s.faults.halted = false) (hlog : s.faults.log.length < 64)
include hh hlog

theorem newRec_chip (hlv : r.level = .chip) : OnlyPosted (recPlaced s r s.faults.slots false) (newRec s r) := by
  have hplace : recPlace s r = some { s with faults := { s.faults with log := s.faults.log ++ [⟨r, false⟩] } } := by
    rw [recPlace, logWrite_room hlog]
    exact if_pos (by simp [hlv])
  exact newRec_placed hplace hh

theorem newRec_slot {l : List FaultRec} (hlv : r.level ≠ .chip) (hl : takeSlot s r = some l) :
    OnlyPosted (recPlaced s r l true) (newRec s r) := by
  have hplace : recPlace s r =
      some { s with faults := { s.faults with slots := l, log := s.faults.log ++ [⟨r, true⟩] } } := by
    rw [recPlace, if_neg (by simpa using hlv), hl]
    exact congrArg (fun p : State × Bool => some p.1)
      (logWrite_room (s := { s with faults := { s.faults with slots := l } }) hlog _)
  exact newRec_placed hplace hh

end

end

/-- Settles O21: a first fault is `createRec`, whose record is placed before its event is posted. -/
theorem faultRecordsAreCreated : Obligations.FaultRecordsAreCreated := by
  unfold Obligations.FaultRecordsAreCreated
  intro s cls el code detail hh hc ha hlog r
  refine ⟨fun hacked => ?chip, fun hel hs hroom hacked => ?block⟩
  case chip =>
    have hnew := newRec_chip hh hlog (r := freshRec s cls .chip 0 el code detail) rfl
    obtain ⟨_, _, _, ht⟩ := createRec_placed hc (u := recPlaced s _ _ false) ha hnew
    have hraise : chipFault s cls el code detail = _ := (raise_first hh hc (.inl rfl) hacked).trans ht
    rw [hraise]
    exact ⟨rfl, rfl, rfl, rfl, rfl, rfl⟩
  case block =>
    have hel16 : (BitVec.ofNat 16 el).toNat = el := by
      rw [BitVec.toNat_ofNat]
      omega
    have hslot : takeSlot s (freshRec s cls .block (el / 9) el code detail) =
        some (s.faults.slots ++ [freshRec s cls .block (el / 9) el code detail]) := by
      rw [takeSlot]
      refine if_pos ?_
      have hblock : (FLevel.block == FLevel.chip) = false := rfl
      simpa [freshRec, sameColl, hel16, hblock] using hroom
    have hcoll : ∀ x ∈ collRecs s .block el, x.cls = cls → x.acked = true := by
      intro x hx
      obtain ⟨hmem, hsame⟩ := List.mem_filter.mp hx
      obtain ⟨hlevel, helem⟩ : x.level = .block ∧ x.element.toNat = el := by simpa [sameColl] using hsame
      exact hacked x hmem hlevel helem
    have hnew := newRec_slot hh hlog FLevel.noConfusion hslot
    obtain ⟨_, _, _, ht⟩ := createRec_placed hc (u := recPlaced s _ _ true) ha hnew
    have hraise : blockFault s cls el code detail = _ := (raise_first hh hc (.inr hs) hcoll).trans ht
    rw [hraise]
    exact ⟨rfl, rfl, rfl, rfl, rfl⟩

end Sys2Proof.Machine

/-! # Throttle steps and thermal stops (13 R372, R373, R377, R381, R383)

A step of T(r) writes one region's throttle state and posts events; `OnlyZone` says that and is kept by both. -/

namespace Sys2Proof.Machine

/-! ## Throttle levels (R372 to R374) -/

/-- `u` is `s` with region `r`'s throttle state `z`, but for the events raised. -/
structure OnlyZone (s : State) (r : Nat) (z : Throttle) (u : State) : Prop where
  same : zone u r = z
  other : ∀ q, q ≠ r → zone u q = zone s q
  pos : u.heat.pos = s.heat.pos
  frame : u = { s with heat := u.heat, mg := u.mg, perf := u.perf, faults := u.faults }

section
variable {s u v : State} {r : Nat} {z : Throttle}

theorem onlyZone_putZone (s : State) (r : Nat) (z : Throttle) : OnlyZone s r z (putZone s r z) :=
  ⟨zone_putZone_same s r z, fun q hq => zone_putZone_ne s r q z hq, rfl, rfl⟩

theorem OnlyZone.putZone (h : OnlyZone s r z u) (z' : Throttle) : OnlyZone s r z' (putZone u r z') where
  same := zone_putZone_same u r z'
  other := fun q hq => (zone_putZone_ne u r q z' hq).trans (h.other q hq)
  pos := h.pos
  frame := by
    obtain ⟨_, _, _, hu⟩ := h
    rw [hu]
    rfl

theorem OnlyZone.events (h : OnlyZone s r z u) (k : OnlyEvents u v) : OnlyZone s r z v := by
  obtain ⟨m, f, p, rfl⟩ := k
  refine ⟨h.same, h.other, h.pos, ?_⟩
  rw [h.frame]

/-- C0 0x0D02 of a change of level leaves the level and the times of the steps. -/
theorem throttleC0_change (h : OnlyZone s r z u) : ∃ c, OnlyZone s r { z with lastC0 := c } (throttleC0 u r false) := by
  unfold throttleC0
  rw [h.same]
  extract_lets ok key
  split
  · exact ⟨_, (h.putZone _).events (onlyEvents_c0 _ _ _ _ _)⟩
  · exact ⟨z.lastC0, h.events ⟨_, _, _, rfl⟩⟩

theorem setLevel_zone (h : OnlyZone s r z u) (t : Nat) :
    ∃ c, OnlyZone s r { z with t := t, lastC0 := c } (setLevel u r t) := by
  unfold setLevel
  rw [h.same]
  dsimp only
  split
  case isTrue ht => exact ⟨z.lastC0, by rwa [ht]⟩
  case isFalse => exact throttleC0_change (h.putZone { z with t := t })

end

/-- Settles O7: each step is `setLevel` over the region's new time of stepping. -/
theorem throttleSteps : Obligations.ThrottleSteps := by
  unfold Obligations.ThrottleSteps
  intro s r hl hr
  refine ⟨fun t0 hdown hhot hdue => ?down, fun t0 hbelow hlevel hdue => ?up⟩
  case down =>
    have hexec : exec (.throttleStepDown r) s = .next (levelDown s r) := by
      refine (if_pos hr).trans ((whenLive_live (levelStepDown · r) hl).trans ?_)
      simp only [levelStepDown, hdown, hhot, us, hdue, Bool.and_self, if_true]
    obtain ⟨c, h⟩ := setLevel_zone (onlyZone_putZone s r { zone s r with lastDown := some s.now })
      (max s.heat.tMin.toNat ((zone s r).t - 2))
    exact ⟨_, hexec, by rw [levelDown, h.same], by rw [levelDown, h.same], fun q _ hq => h.other q hq, h.pos, h.frame⟩
  case up =>
    have hexec : exec (.throttleStepUp r) s =
        .next (setLevel (putZone s r { zone s r with lastUp := s.now }) r ((zone s r).t + 1)) := by
      refine (if_pos hr).trans ((whenLive_live (stepUpLevel · r) hl).trans ?_)
      simp [stepUpLevel, hbelow, hlevel, ms, hdue]
    obtain ⟨c, h⟩ := setLevel_zone (onlyZone_putZone s r { zone s r with lastUp := s.now }) ((zone s r).t + 1)
    exact ⟨_, hexec, by rw [h.same], by rw [h.same], fun q _ hq => h.other q hq, h.pos, h.frame⟩

/-! ## The end of an orderly stop (R377) -/

section
variable {s : State} {b : Nat}

theorem st_foldl_putBdie (f : Block → Nat → BDie) (l : List Nat) (k : Block) :
    (l.foldl (fun k d => putBdie k d (f k d)) k).st = k.st :=
  List.foldlRecOn (motive := fun x : Block => x.st = k.st) l _ rfl fun _ h _ _ => h

theorem st_selfRefreshAll (s : State) (b : Nat) (st : BState) : (blk (selfRefreshAll s b st) b).st = st := by
  rw [selfRefreshAll, blk_modBlk_same]
  exact st_foldl_putBdie _ _ _

theorem blk_modBlk_ne (s : State) (b : Nat) (f : Block → Block) {a : Nat} (h : a ≠ b) : blk (modBlk s b f) a = blk s a :=
  blk_putBlk_ne s b a _ h

theorem blk_selfRefreshAll_ne (s : State) (b : Nat) (st : BState) {a : Nat} (h : a ≠ b) :
    blk (selfRefreshAll s b st) a = blk s a := by
  rw [selfRefreshAll, blk_modBlk_ne _ _ _ h]
  exact blk_modBlk_ne _ _ _ h

/-- What `orderlyEnd` and the write-back of a retaining reset do to one block. -/
def leaveService (s : State) (b : Nat) : State :=
  if (blk s b).st == .stopped then sleepBlock s b
  else drainComplete (modBlk s b (fun k => if activeBlock k then { k with st := .leaving } else k)) b

/-- A block out of service, or put to sleep with its region stopped, stays out of service. -/
theorem leaveService_inactive (h : activeBlock (blk s b) = false) : (leaveService s b).heat = s.heat ∧
    ∀ a, activeBlock (blk s a) = false → activeBlock (blk (leaveService s b) a) = false := by
  unfold leaveService
  split
  case isTrue hst =>
    have hsleep : sleepBlock s b = selfRefreshAll s b .selfRefresh := if_pos (by simp [hst])
    rw [hsleep]
    refine ⟨rfl, fun a ha => ?_⟩
    by_cases hab : a = b
    · rw [hab, activeBlock, st_selfRefreshAll]
      rfl
    · rwa [blk_selfRefreshAll_ne _ _ _ hab]
  case isFalse hst =>
    have hkept : blk (modBlk s b (fun k => if activeBlock k then { k with st := .leaving } else k)) b = blk s b := by
      simp [h]
    rw [drainComplete_staying (by rw [hkept]; rintro hleaving; simp [activeBlock, hleaving] at h)]
    refine ⟨rfl, fun a ha => ?_⟩
    by_cases hab : a = b
    · rwa [hab, hkept]
    · rwa [blk_modBlk_ne _ _ _ hab]

theorem foldl_leaveService_inactive {l : List Nat} {s : State} (h : ∀ b ∈ l, activeBlock (blk s b) = false) :
    (l.foldl leaveService s).heat = s.heat ∧ ∀ b ∈ l, activeBlock (blk (l.foldl leaveService s) b) = false := by
  have hinv : ∀ m : List Nat, (∀ b ∈ m, activeBlock (blk s b) = false) → (m.foldl leaveService s).heat = s.heat ∧
      ∀ b, activeBlock (blk s b) = false → activeBlock (blk (m.foldl leaveService s) b) = false := by
    intro m hm
    refine List.foldlRecOn (motive := fun t => t.heat = s.heat ∧ ∀ b, activeBlock (blk s b) = false →
      activeBlock (blk t b) = false) m leaveService ⟨rfl, fun _ hb => hb⟩ fun t ht b hb => ?_
    obtain ⟨hheat, hkeep⟩ := leaveService_inactive (ht.2 b (hm b hb))
    exact ⟨hheat.trans ht.1, fun a ha => hkeep a (ht.2 a ha)⟩
  exact ⟨(hinv l h).1, fun b hb => (hinv l h).2 b (h b hb)⟩

/-- `s` with transactions at the end of the queue of the two-wire bus. -/
def onBus (s : State) (l : List TwTrans) : State := { s with tw := { s.tw with waiting := s.tw.waiting ++ l } }

theorem onBus_onBus (s : State) (l m : List TwTrans) : onBus (onBus s l) m = onBus s (l ++ m) :=
  congrArg (fun w => { s with tw := { s.tw with waiting := w } }) (List.append_assoc s.tw.waiting l m)

theorem twAsk_eq (s : State) (cls : Nat) (kind : TwKind) (who : TwFor) :
    twAsk s cls kind who = onBus s [⟨cls, kind, who, twAddr s kind, 0, false⟩] := rfl

/-- A record write only joins the queue of the bus (R414). -/
theorem askRecord_onBus (s : State) (typ : Nat) (body : List (BitVec 8)) :
    ∃ l, l ≠ [] ∧ askRecord s typ body = onBus s l := by
  unfold askRecord
  extract_lets r b a p u
  by_cases hfits : b.length ≤ p
  · have hu : u = s := if_pos hfits
    rw [hu, twAsk_eq]
    exact ⟨_, List.cons_ne_nil _ _, rfl⟩
  · have hu : u = twAsk s 3 (.eeWrite (a + p) (b.drop p)) (recWho typ) := if_neg hfits
    rw [hu, twAsk_eq, twAsk_eq, onBus_onBus]
    exact ⟨_, List.append_ne_nil_of_right_ne_nil _ (List.cons_ne_nil _ _), rfl⟩

theorem onBus_longer (s : State) {l : List TwTrans} (h : l ≠ []) : s.tw.waiting.length < (onBus s l).tw.waiting.length := by
  rw [onBus, List.length_append]
  have := List.length_pos_of_ne_nil h
  omega

theorem saveWear_stop (s : State) : (saveWear s).heat.stop = s.heat.stop := by
  unfold saveWear
  split
  · obtain ⟨l, -, h⟩ := askRecord_onBus { s with heat := { s.heat with wearSaved := s.now } } 3 (wearRecord s)
    rw [h, onBus]
  · rfl

/-- An orderly stop whose blocks are all out of service ends 20 µs after its t0. -/
theorem orderlyEnd_complete (hstop : s.heat.stop = .orderly) (hdue : waited s s.heat.stopAt 20000 = true)
    (hout : ∀ b ∈ List.range 36, activeBlock (blk s b) = false) : (orderlyEnd s).heat.stop = .stopped := by
  unfold orderlyEnd
  generalize List.range 36 = l at hout ⊢
  obtain ⟨-, hall⟩ := foldl_leaveService_inactive hout
  have hnone : l.all (fun b => !activeBlock (blk (l.foldl leaveService s) b)) = true :=
    List.all_eq_true.mpr fun b hb => by rw [hall b hb]; rfl
  rw [if_neg (by simp [hstop, us, hdue])]
  exact (congrArg (fun t : State => t.heat.stop) (if_pos hnone)).trans (saveWear_stop _)

end

/-! ## What an answer leaves of the heat group (01 R19, R242) -/

section
variable (s : State)

theorem foldl_heat {α : Type} {f : State → α → State} (hf : ∀ u a, (f u a).heat = u.heat) (l : List α) :
    (l.foldl f s).heat = s.heat :=
  List.foldlRecOn (motive := fun t => t.heat = s.heat) l f rfl fun u hu a _ => (hf u a).trans hu

@[simp] theorem c0_heat (elem code detail lim : Nat) : (c0 s elem code detail lim).heat = s.heat := by
  obtain ⟨_, _, _, h⟩ := onlyEvents_c0 s elem code detail lim
  rw [h]

@[simp] theorem occ_heat (ev grp qual n : Nat) : (occ s ev grp qual n).heat = s.heat := by
  obtain ⟨_, h⟩ := occ_eq s ev grp qual n
  rw [h]

@[simp] theorem modLink_heat (p : Nat) (f : Link → Link) : (modLink s p f).heat = s.heat := by
  unfold modLink putLink
  split <;> rfl

@[simp] theorem sendTo_heat (dst : Node) (m : OutMsg) : (sendTo s dst m).1.heat = s.heat := by
  unfold sendTo
  dsimp only
  split
  · exact c0_heat _ _ _ _ _
  · split
    · exact modLink_heat _ _ _
    · exact c0_heat _ _ _ _ _

@[simp] theorem freeLines_heat (ing n : Nat) : (freeLines s ing n).heat = s.heat := by
  unfold freeLines
  split
  · rfl
  · split <;> rfl

@[simp] theorem sampTake_heat : (sampTake s).heat = s.heat := by
  unfold sampTake
  split
  · rfl
  · dsimp only
    split <;> exact occ_heat _ _ _ _ _

@[simp] theorem traceWrite_heat (x : Sample) (status : Nat) : (traceWrite s x status).heat = s.heat := by
  unfold traceWrite
  split <;> rfl

@[simp] theorem sampEnd_heat (node : Node) (tag : Tag) (snoop : Bool) (status : Nat) :
    (sampEnd s node tag snoop status).heat = s.heat := by
  unfold sampEnd
  extract_lets u
  have hu : u.heat = s.heat := by
    dsimp only [u]
    split
    · exact foldl_heat s (fun u _ => sampTake_heat u) _
    · rfl
  split
  · exact (traceWrite_heat _ _ _).trans hu
  · exact hu

theorem answerWith_heat (c : Ctx) (h0 h1 : Slot) (lines : List Line) : (answerWith s c h0 h1 lines).heat = s.heat := by
  unfold answerWith
  extract_lets u v w
  have hw : w.heat = s.heat := by
    dsimp only [w, v, u, occRegion]
    split
    · exact occ_heat _ _ _ _ _
    · split
      · exact occ_heat _ _ _ _ _
      · rfl
  split
  · exact hw
  · rcases hsend : sendTo w c.src _ with ⟨a, ok⟩
    have ha : a.heat = s.heat := by
      have := sendTo_heat w c.src { outMsg h0 h1 lines (some c.idx) true c.reserved with home := c.ing }
      rw [hsend] at this
      exact this.trans hw
    have hback (n : Nat) : (if c.reserved then freeLines a c.ing n else a).heat = s.heat := by
      split
      · exact (freeLines_heat _ _ _).trans ha
      · exact ha
    dsimp only
    split
    · exact hback _
    · exact (sampEnd_heat _ _ _ _ _).trans (hback _)

theorem endCtx_heat (c : Ctx) (status : Nat) : (endCtx s c status).heat = s.heat := by
  refine (answerWith_heat _ _ _ _ _).trans ?_
  dsimp only [modCtx]
  split
  · exact freeLines_heat _ _ _
  · rfl

theorem reissueIn_heat (pb : Nat) (p : Ctx → Nat → CtxLine → Bool) : (reissueIn s pb p).heat = s.heat := by
  refine foldl_heat s (fun u t => ?_) _
  split
  · dsimp only [reissueLines]
    split <;> rfl
  · rfl

theorem retryOldEpoch_heat (pb : Nat) : (retryOldEpoch s pb).heat = s.heat :=
  (foldl_heat _ (fun u c => endCtx_heat u c stRetry) _).trans (reissueIn_heat _ _ _)

theorem startReturn_heat (pb : Nat) : (startReturn s pb).heat = s.heat := by
  have hblk (u : State) (f : Block → Block) : (modBlk u pb f).heat = u.heat := rfl
  have hdrive (u : State) (ws : List (BitVec 16)) : (driveWords u pb ws).heat = u.heat := rfl
  have hwalk (u : State) (w : Walk) : (putWalk u pb w).heat = u.heat := rfl
  have hbump : (bumpBlock s pb).heat = s.heat := rfl
  unfold startReturn
  simp only [hblk, hdrive, hwalk, retryOldEpoch_heat, hbump]

/-- The resume starts by sending blocks back; the heat group notes that and when. -/
theorem resumeStart_heat : (resumeStart s).heat = { s.heat with stop := .resuming, resumeAt := s.now } := by
  have hstep (u : State) (b : Nat) :
      (if (blk u b).st == .selfRefresh && !waitsReset u b then startReturn u b else u).heat = u.heat := by
    split
    · exact startReturn_heat u b
    · rfl
  exact foldl_heat { s with heat := { s.heat with stop := .resuming, resumeAt := s.now } } hstep (List.range 36)

end

/-- Settles O8: the stop completes by `orderlyEnd_complete`, the resume starts with `resumeStart`, and the hourly record
only joins the queue of the bus. -/
theorem thermalStopEndAndResume : Obligations.ThermalStopEndAndResume := by
  unfold Obligations.ThermalStopEndAndResume
  intro s hl
  refine ⟨fun hstop hdue hout _ => ?complete, fun t0 hstop hcool hdue => ?resume, fun hrun => ?unfinished,
    fun hok hdue hfree => ?wear⟩
  case complete =>
    have hout' : ∀ b ∈ List.range 36, activeBlock (blk s b) = false := fun b hb => hout b (List.mem_range.mp hb)
    exact ⟨_, whenLive_live orderlyEnd hl, orderlyEnd_complete hstop hdue hout'⟩
  case resume =>
    have hexec : exec .thermalResume s = .next (resumeStart s) := by
      refine (whenLive_live resume hl).trans ?_
      simp only [resume, hstop, hcool, ms, hdue, if_true]
    exact ⟨_, hexec, by rw [resumeStart_heat], by rw [resumeStart_heat]⟩
  case unfinished =>
    refine (whenLive_live resume hl).trans ?_
    simp only [resume, hrun]
  case wear =>
    obtain ⟨l, hne, hask⟩ := askRecord_onBus { s with heat := { s.heat with wearSaved := s.now } } 3 (wearRecord s)
    have hexec : exec .bondWearSave s = .next (onBus { s with heat := { s.heat with wearSaved := s.now } } l) := by
      refine (whenLive_live (fun s => if s.heat.storeOk && waited s s.heat.wearSaved (ms 3600000) && !twBusyFor s .wear then
        askRecord { s with heat := { s.heat with wearSaved := s.now } } 3 (wearRecord s) else s) hl).trans ?_
      rw [← hask]
      simp [hok, ms, hdue, hfree]
    exact ⟨_, hexec, rfl, onBus_longer _ hne, rfl⟩

end Sys2Proof.Machine

/-! # The timing unit and the calibration walks (15 R418 to R428) -/

namespace Sys2Proof.Machine

/-! ## The tick, the reference and the sensor scales (R418, R419, R422, R428) -/

section
variable {s : State} (hl : live s = true)
include hl

theorem exec_tdcMeasure {taps : Nat} (h : taps ≤ 2048) : exec (.tdcMeasure taps) s = .next (tdcMeasure s taps) :=
  (if_pos h).trans (whenLive_live (tdcMeasure · taps) hl)

theorem exec_tdcMeasure_due {taps t0 : Nat} (h : taps ≤ 2048) (ht : s.cal.timing = .locked) (hat : s.cal.tdcAt = some t0)
    (hdue : waited s t0 1000000 = true) : exec (.tdcMeasure taps) s = .next (setLsb s taps) := by
  rw [exec_tdcMeasure hl h]
  simp [tdcMeasure, calRuns, ht, hat, ms, hdue]

theorem exec_tdcMeasure_early {taps t0 : Nat} (hat : s.cal.tdcAt = some t0) (hdue : waited s t0 1000000 = false) :
    exec (.tdcMeasure taps) s = .next s := by
  by_cases h : taps ≤ 2048
  · rw [exec_tdcMeasure hl h]
    simp [tdcMeasure, hat, ms, hdue]
  · exact if_neg h

theorem exec_sensorScaleMeasure_due {scales : List (BitVec 16)} (hlen : scales.length = 18)
    (ht : s.cal.timing ≠ .tdcFailed) (hdue : waited s s.cal.scaleAt 10000000000 = true) :
    exec (.sensorScaleMeasure scales) s = .next (putScales s scales) := by
  refine (if_pos hlen).trans ((whenLive_live (fun s =>
    if s.cal.timing != .tdcFailed && waited s s.cal.scaleAt (ms 10000) then putScales s scales else s) hl).trans ?_)
  simp [ht, ms, hdue]

end

/-- The entries of a list as a sparse table from key `k` on: the default is left out. -/
def tableFrom {α : Type} [DecidableEq α] (d : α) (l : List α) (k : Nat) : SMap α :=
  (l.zipIdx k).filterMap (fun p => if p.1 = d then none else some (p.2, p.1))

section
variable {α : Type} [DecidableEq α] (d : α)

theorem tableFrom_cons (x : α) (l : List α) (k : Nat) :
    tableFrom d (x :: l) k = if x = d then tableFrom d l (k + 1) else (k, x) :: tableFrom d l (k + 1) := by
  unfold tableFrom
  rw [List.zipIdx_cons, List.filterMap_cons]
  by_cases hx : x = d <;> simp [hx]

theorem smGet_tableFrom_before (l : List α) {k j : Nat} (h : j < k) : smGet d (tableFrom d l k) j = d := by
  induction l generalizing k with
  | nil => rfl
  | cons x l ih =>
    rw [tableFrom_cons]
    split
    · exact ih (by omega)
    · rw [smGet, if_neg (by omega)]
      exact ih (by omega)

theorem smGet_tableFrom (l : List α) (k j : Nat) : smGet d (tableFrom d l k) (k + j) = (l[j]?).getD d := by
  induction l generalizing k j with
  | nil => rfl
  | cons x l ih =>
    rw [tableFrom_cons]
    cases j with
    | zero =>
      split
      · next hx => exact (smGet_tableFrom_before d l (Nat.lt_succ_self k)).trans hx.symm
      · exact if_pos rfl
    | succ j =>
      have hnext := ih (k + 1) j
      rw [Nat.add_right_comm] at hnext
      split
      · exact hnext
      · rw [smGet, if_neg (by omega)]
        exact hnext

end

/-- Settles O4: a measurement due is `setLsb` of its taps; loss and return of the reference change the unit's state alone. -/
theorem timingUnitCommands : Obligations.TimingUnitCommands := by
  unfold Obligations.TimingUnitCommands
  intro s hl
  refine ⟨fun taps t0 ht hat hdue => ⟨fun hlo hhi => ?measured, fun hmax hout => ?failed⟩,
    fun taps t0 hat hdue => exec_tdcMeasure_early hl hat hdue, fun hoff ht => ?lost, fun hon ht => ?relocked,
    fun scales hlen ht hdue => ?scales⟩
  case measured =>
    rw [exec_tdcMeasure_due hl (by omega) ht hat hdue]
    simp [setLsb, hlo, hhi]
  case failed =>
    rw [exec_tdcMeasure_due hl hmax ht hat hdue]
    have hrange : ¬ (700 ≤ taps ∧ taps ≤ 1400) := by omega
    simp [setLsb, hrange]
  case lost =>
    refine (whenLive_live referenceLost hl).trans ?_
    simp [referenceLost, hoff, ht, satAdd]
  case relocked =>
    refine (whenLive_live referenceRelock hl).trans ?_
    simp [referenceRelock, hon, ht]
  case scales =>
    refine ⟨_, exec_sensorScaleMeasure_due hl hlen ht hdue, rfl, fun d hd => ?_⟩
    have hget := smGet_tableFrom 0x8000 scales 0 d
    have hin : d < scales.length := by omega
    rw [Nat.zero_add, List.getElem?_eq_getElem hin] at hget
    rw [List.getElem?_eq_getElem hin]
    exact hget

/-! ## Repair words to the dies (R423; 09 R286) -/

section
variable (s : State) (b : Nat) (ds : List Nat) (act : List (BitVec 16)) (sub dbank operand : Nat)

theorem words_driveWords (ws : List (BitVec 16)) : (blk (driveWords s b ws) b).lastCa.map (fun w => w.word) = ws := by
  rw [driveWords, blk_modBlk_same, List.map_map]
  exact List.zipIdx_map_fst 0 ws

theorem lastCa_foldl_closeRow (l : List Nat) (f : Block → Nat → Nat) (k : Block) :
    (l.foldl (fun k b => closeRow k b (f k b)) k).lastCa = k.lastCa :=
  List.foldlRecOn (motive := fun x : Block => x.lastCa = k.lastCa) l _ rfl fun _ h _ _ => h

/-- The words of a repair are driven in the block's next slots. -/
theorem words_modeDies : (blk (modeDies s b ds act sub dbank operand) b).lastCa.map (fun w => w.word) =
    act ++ ds.flatMap (fun d => [caWord 7 d dbank sub false, BitVec.ofNat 16 (operand * 8)]) := by
  rw [modeDies, blk_modBlk_same]
  refine (congrArg _ ?_).trans (words_driveWords s b _)
  refine List.foldlRecOn (motive := fun x : Block => x.lastCa = (blk (driveWords s b _) b).lastCa) ds _ rfl
    fun k hk d _ => ?_
  exact (lastCa_foldl_closeRow _ _ _).trans hk

theorem blk_modeDies_ne {a : Nat} (h : a ≠ b) : blk (modeDies s b ds act sub dbank operand) a = blk s a :=
  (blk_modBlk_ne _ _ _ h).trans (blk_modBlk_ne _ _ _ h)

/-- A repair changes blocks alone, and only its own. -/
theorem modeDies_frame : ∃ bl, modeDies s b ds act sub dbank operand = { s with blocks := bl } ∧
    ∀ a, a ≠ b → blk { s with blocks := bl } a = blk s a :=
  ⟨_, rfl, fun _ h => blk_modeDies_ne s b ds act sub dbank operand h⟩

end

/-! ## Measured delays (R421, R424, R425) -/

/-- A spare's measurement changes delays and selections of lines alone. -/
theorem measureSpare_frame (s : State) (b k : Nat) (l : WireTaps) :
    ∃ m x, measureSpare s b k l = { s with cal := { s.cal with meas := m, sel := x } } :=
  List.foldlRecOn (motive := fun t : State => ∃ m x, t = { s with cal := { s.cal with meas := m, sel := x } }) _ _
    ⟨s.cal.meas, s.cal.sel, rfl⟩ fun t ht p _ => by
      obtain ⟨m, x, rfl⟩ := ht
      exact ⟨_, _, rfl⟩

/-- The lines a wire is measured on, and what they show, do not depend on the spare's measurement or the repair words. -/
theorem wireFails_modeDies (s : State) (b k n : Nat) (sp l : WireTaps) (ds : List Nat) (sub operand : Nat) :
    wireFails (modeDies (measureSpare s b k sp) b ds [] sub 0 operand) b n l = wireFails s b n l := by
  obtain ⟨m, x, h⟩ := measureSpare_frame s b k sp
  obtain ⟨bl, hm, -⟩ := modeDies_frame (measureSpare s b k sp) b ds [] sub 0 operand
  rw [hm, h]
  rfl

theorem wireMeas_modeDies (s : State) (b k n : Nat) (sp l : WireTaps) (ds : List Nat) (sub operand : Nat) :
    wireMeas (modeDies (measureSpare s b k sp) b ds [] sub 0 operand) b n l = wireMeas s b n l := by
  obtain ⟨m, x, h⟩ := measureSpare_frame s b k sp
  obtain ⟨bl, hm, -⟩ := modeDies_frame (measureSpare s b k sp) b ds [] sub 0 operand
  rw [hm, h]
  rfl

theorem now_modeDies (s : State) (b k : Nat) (sp : WireTaps) (ds : List Nat) (sub operand : Nat) :
    (modeDies (measureSpare s b k sp) b ds [] sub 0 operand).now = s.now := by
  obtain ⟨m, x, h⟩ := measureSpare_frame s b k sp
  obtain ⟨bl, hm, -⟩ := modeDies_frame (measureSpare s b k sp) b ds [] sub 0 operand
  rw [hm, h]

/-- The record's byte of a wire follows its measurement; delays and selections stay. -/
theorem noteWire_frame (s : State) (b w x : Nat) :
    ∃ m v, noteWire s b w x = { s with cal := { s.cal with moved := m, wireV := v } } := by
  unfold noteWire
  dsimp only
  split
  · exact ⟨s.cal.moved, s.cal.wireV, rfl⟩
  · unfold putWireV
    dsimp only
    split
    · exact ⟨s.cal.moved, s.cal.wireV, rfl⟩
    · exact ⟨_, _, rfl⟩

theorem putLine_line (s : State) (key v : Nat) :
    ∃ ms sl, putLine s key v = { s with cal := { s.cal with meas := ms, sel := sl } } ∧
      smGet none ms key = some v ∧ smGet 0 sl key = pickSel s key v := by
  unfold putLine
  generalize pickSel s key v = sel
  exact ⟨_, _, rfl, smGet_smSet_same _ _ _ _, smGet_smSet_same _ _ _ _⟩

/-- A walk's one pending measurement is loaded when its wire is given back, and may change the record's bytes. -/
theorem loadPend_one {s : State} {b n key v : Nat} (hw : (walkOf s b).wire = some n)
    (hp : (walkOf s b).pend = [(key, v)]) (ht : waited s (walkOf s b).takenAt 1500 = true) :
    ∃ ms sl m x, loadPend s b = { s with cal := { s.cal with meas := ms, sel := sl, moved := m, wireV := x } } ∧
      smGet none ms key = some v ∧ smGet 0 sl key = pickSel s key v := by
  have hload : loadPend s b = noteWire (noteWire (putLine s key v) b n 0) b n 1 := by
    simp only [loadPend, hw, hp, ht, if_true, List.foldl_cons, List.foldl_nil]
  obtain ⟨ms, sl, hput, hline⟩ := putLine_line s key v
  obtain ⟨m, x, h0⟩ := noteWire_frame (putLine s key v) b n 0
  obtain ⟨m', x', h1⟩ := noteWire_frame (noteWire (putLine s key v) b n 0) b n 1
  rw [hload, h1, h0, hput]
  exact ⟨ms, sl, m', x', rfl, hline⟩

theorem blk_putWalk (s : State) (a b : Nat) (w : Walk) : blk (putWalk s b w) a = blk s a := rfl

/-! ## The walk's commands (R424 to R427) -/

section
variable {s : State} {b : Nat} (hl : live s = true) (hb : b < 36)
include hl hb

/-- A walk whose period is over starts at wire 0. -/
theorem exec_walkStart_due (hen : s.cal.walkEn = true) (ht : s.cal.timing = .locked) (hd : s.cal.done = true)
    (hst : (blk s b).st = .serving) (hn : (walkOf s b).next = none) (hw : (walkOf s b).wire = none)
    (hfree : freeTsvs s b ≠ []) (hdue : waited s (walkOf s b).lastFull (s.cal.walkPeriod.toNat * 1000000) = true) :
    exec (.walkStart b) s = .next (putWalk s b { walkOf s b with
      next := some 0, lastFull := s.now, lateRaised := false,
      temps := (List.range 16).foldl (fun m d => smSet 0 m d (dieValue s b d)) [] }) := by
  have hsome : (freeTsvs s b).isEmpty = false := by simpa using hfree
  have hexec : exec (.walkStart b) s = .next (walkStart s b) := (if_pos hb).trans (whenLive_live (walkStart · b) hl)
  rw [hexec]
  simp only [walkStart, calRuns, hen, ht, hd, hst, hn, hw, hsome, ms, hdue, beq_self_eq_true, Option.isNone_none,
    Bool.not_false, Bool.true_or, Bool.and_self, if_true]

/-- At an idle period the spare takes the next wire, its measurement held. -/
theorem exec_walkTake_sound {n k : Nat} {rest : List Nat} {ds sp : WireTaps} (hen : s.cal.walkEn = true)
    (ht : s.cal.timing = .locked) (hn : (walkOf s b).next = some n) (hw : (walkOf s b).wire = none)
    (hq : (walkOf s b).requal = []) (hk : freeTsvs s b = k :: rest) (hst : (blk s b).st = .serving)
    (hidle : blockIdle s b 500 = true) (hds : tapsOk ds = true) (hsp : tapsOk sp = true) (hf : wireFails s b n ds = false) :
    exec (.walkTake b ds sp) s = .next (putWalk
      (modeDies (measureSpare s b k sp) b (List.range 16) [] subTake 0 (takeOperand n k)) b { walkOf s b with
        wire := some n, spare := k, takenAt := s.now, pend := wireMeas s b n ds,
        loops := (List.range 16).flatMap (fun d => [(d, true), (d, false)]) }) := by
  refine (if_pos ⟨hb, hds, hsp⟩).trans ((whenLive_live (walkTake · b ds sp) hl).trans ?_)
  have hnext : nextWire (walkOf s b) = some n := by simp [nextWire, hq, hn]
  have hnote (d : Nat) : noteMoved n d (walkOf s b) = walkOf s b := by simp [noteMoved, hq]
  simp only [walkTake, hnext, hk, List.head?_cons, hen, calRuns, ht, hw, hst, hidle, hnote, wireFails_modeDies, hf,
    wireMeas_modeDies, now_modeDies, beq_self_eq_true, Option.isNone_none, Bool.and_self, if_true, Bool.false_eq_true,
    if_false]

/-- Given back, a wire that is not the last leaves its delay in force and the walk at the next wire. -/
theorem exec_walkGive_step {n : Nat} (hlast : n + 1 < 152) (hw : (walkOf s b).wire = some n)
    (hq : (walkOf s b).requal = []) (hidle : blockIdle s b 500 = true) (hdue : waited s (walkOf s b).takenAt 1500 = true) :
    exec (.walkGive b []) s = .next
      (let u := modBlk (putWalk (modeDies (loadPend s b) b (List.range 16) [] subGive 0 (giveOperand (walkOf s b).spare)) b
        { walkOf s b with wire := none, next := some (n + 1), loops := [], pend := [] }) b (fun k => { k with requal := false })
      { u with cal := { u.cal with walkSteps := BitVec.ofNat 64 (satAdd 64 u.cal.walkSteps.toNat 1) } }) := by
  refine (if_pos ⟨hb, rfl⟩).trans ((whenLive_live (walkGive · b []) hl).trans ?_)
  have hpast : pastWire s.now n (walkOf s b) = { walkOf s b with wire := none, next := some (n + 1) } := by
    simp [pastWire, hq, hlast]
  simp only [walkGive, hw, hidle, hdue, hpast, Bool.true_or, Bool.and_self, if_true, hq, List.isEmpty_nil, Option.isNone_some,
    Bool.and_false, Bool.false_eq_true, if_false, measureSpare, wireMeas, List.filterMap_nil, List.foldl_nil]

end

/-- Settles O5: each command's next state is written out above, and read here. -/
theorem calibrationWalks : Obligations.CalibrationWalks := by
  unfold Obligations.CalibrationWalks
  intro s b hl hb
  refine ⟨fun hen ht hd hst hn hw hfree hdue => ?start,
    fun n k rest ds sp hen ht hn hw hq hk hst hidle hds hsp hf => ?take,
    fun n key v hlast hw hn hq hp hidle hdue => ?give, fun hen hd hlate hn hdue => ?late⟩
  case start =>
    refine ⟨_, exec_walkStart_due hl hb hen ht hd hst hn hw hfree hdue, rfl, ?_⟩
    rw [walkOf_putWalk_same]
    exact ⟨rfl, rfl, rfl, fun a ha => walkOf_putWalk_ne _ _ _ _ ha⟩
  case take =>
    obtain ⟨m, x, hframe⟩ := measureSpare_frame s b k sp
    have hwords := words_modeDies (measureSpare s b k sp) b (List.range 16) [] subTake 0 (takeOperand n k)
    obtain ⟨bl, hm, hne⟩ := modeDies_frame (measureSpare s b k sp) b (List.range 16) [] subTake 0 (takeOperand n k)
    refine ⟨_, exec_walkTake_sound hl hb hen ht hn hw hq hk hst hidle hds hsp hf, ?_, walkOf_putWalk_same _ _ _, ?_,
      fun a ha => ?_⟩
    · rw [hm, hframe]
      rfl
    · simpa only [blk_putWalk, takeOperand, subTake, List.nil_append] using hwords
    · rw [hframe] at hne
      rw [hm, hframe]
      exact hne a ha
  case give =>
    obtain ⟨ms, sl, m, x, hload, hmeas, hsel⟩ := loadPend_one hw hp hdue
    obtain ⟨bl, hm, hne⟩ := modeDies_frame (loadPend s b) b (List.range 16) [] subGive 0 (giveOperand (walkOf s b).spare)
    rw [hload] at hne hm
    refine ⟨_, exec_walkGive_step hl hb hlast hw hq hidle hdue, ?_⟩
    dsimp only
    rw [hload, hm]
    exact ⟨rfl, walkOf_putWalk_same _ _ _, hmeas, hsel,
      fun a ha => (smGet_smSet_ne _ _ _ _ _ ha).trans (hne a ha), toNat_satAdd _ _⟩
  case late =>
    have hexec : exec (.walkLate b) s = .next (walkLate s b) := (if_pos hb).trans (whenLive_live (walkLate · b) hl)
    refine ⟨{ (putWalk s b { walkOf s b with lateRaised := true }) with
        cal := { (putWalk s b { walkOf s b with lateRaised := true }).cal with
          walkLate := BitVec.ofNat 32 (satAdd 32 s.cal.walkLate.toNat 1) } }, ?_, rfl, walkOf_putWalk_same _ _ _,
      toNat_satAdd _ _⟩
    rw [hexec]
    simp [walkLate, hen, hd, hlate, hn, ms, hdue]

end Sys2Proof.Machine

/-! # The Vault's commands: a DEFECTIVE region (14 R403; 17 R469)

FUSE_PROGRAM answers LOCKED for a DEFECTIVE region as for a committed one, where the statement lets it start. -/

namespace Sys2Proof.Machine

/-- FUSE_PROGRAM of a DEFECTIVE region is LOCKED, whatever its header and its words. -/
theorem exec_fuseProgram_defective {s : State} {h : Nat} (hl : live s = true) (hh : h < 16)
    (hr : hatchReady s h 0x0502 0x0502 = true) (hrsv : reservedBad s h [(0, 6), (8, 4 * pl s h 4 2)] = [])
    (hn : pl s h 0 1 < 20) (hplain : pl s h 1 1 = 0) (hlo : 1 ≤ pl s h 4 2) (hhi : pl s h 4 2 ≤ 124)
    (hall : s.vault.fuseAll = false) (hjob : s.img.job = none) (hd : vState s (pl s h 0 1) = .defective) :
    exec (.fuseProgram h) s = .next (ans s h 7) := by
  refine (hatchRun_ready (fuseProgram · h) hh hl hr).trans (congrArg _ ?_)
  have hgate (f : State → State) : fuseGate s h (pl s h 0 1) f = f s := by simp [fuseGate, hall, hjob]
  unfold fuseProgram
  rw [hplain]
  refine (withFields_legal _ (by simpa using hrsv) ?_).trans ?_
  · simp [hhi]
    omega
  · rw [hgate]
    simp [hd]

/-- FUSE_PROGRAM of one word at place 3 of region 4, with its request header. -/
def programAsked : List (BitVec 8) :=
  leBytes 0x0502 2 ++ [0, 0] ++ leBytes 3 2 ++ List.replicate 26 0 ++ [4, 0, 3, 0, 1, 0, 0, 0, 1, 0, 0, 0]

/-- A released stack whose region 4 has a legal header for four words in Twin mode and is DEFECTIVE; Hatch 0 asks. -/
def defectiveAsked : State :=
  putHatch { State.reset with
    boot := { phase := .released }
    heat := { fuseOk := true }
    vault := { tight := [(768, 0x110)], states := [(4, .defective)] } } 0 { st := .busy, copy := bmWrite [] 0 programAsked }

/-- Refutes O32: a DEFECTIVE region with a legal header, neither locked nor committed, is answered LOCKED, and no job
starts. -/
theorem not_fuseCommands : ¬ Obligations.FuseCommands := by
  unfold Obligations.FuseCommands
  intro h
  have hl : live defectiveAsked = true := by decide +kernel
  have hr : hatchReady defectiveAsked 0 0x0502 0x0502 = true := by decide +kernel
  have hrsv : reservedBad defectiveAsked 0 [(0, 6), (8, 4 * pl defectiveAsked 0 4 2)] = [] := by decide +kernel
  have hn : pl defectiveAsked 0 0 1 = 4 := by decide +kernel
  have hplain : pl defectiveAsked 0 1 1 = 0 := by decide +kernel
  have hcount : pl defectiveAsked 0 4 2 = 1 := by decide +kernel
  obtain ⟨_, _, hFree⟩ := h defectiveAsked 0 4 hl (by decide) (by decide) hn
  obtain ⟨hProgram, _⟩ := hFree (.inl rfl) rfl
  have hStated := (hProgram hr hrsv hplain (by omega) (by omega)).2 (by decide +kernel) (by decide +kernel)
    (by decide +kernel) (by decide +kernel) (by decide +kernel)
  have hLocked := exec_fuseProgram_defective hl (by decide) hr hrsv (by omega) hplain (by omega) (by omega) rfl rfl
    (by decide +kernel)
  have hJobs := congrArg (fun t : State => t.img.job.isSome) (Host.Outcome.next.inj (hLocked.symm.trans hStated))
  exact absurd hJobs (by decide +kernel)

end Sys2Proof.Machine

/-! # The image session's commands (14 R412; 17 R469)

Each takes the bus by `imgStart`, whose effect `SessionWaits` states once. -/

namespace Sys2Proof.Machine

/-- The bus taken: the accesses queued for the Hatch, its command waiting, the session's command noted. -/
structure SessionWaits (s : State) (h : Nat) (job : EeJob) (ses : Option ImgSession) (ks : List TwKind) (u : State) :
    Prop where
  img : u.img = { s.img with eeJob := some job, session := ses }
  waiting : (hatch u h).waiting = true
  queue : u.tw.waiting.map TwTrans.kind = s.tw.waiting.map TwTrans.kind ++ ks
  frame : u = { s with img := u.img, mg := u.mg, tw := u.tw }

theorem foldl_twAsk (ks : List TwKind) (cls : Nat) (who : TwFor) (s : State) :
    ∃ l, l.map TwTrans.kind = ks ∧ ks.foldl (fun s k => twAsk s cls k who) s = onBus s l := by
  induction ks generalizing s with
  | nil =>
    refine ⟨[], rfl, ?_⟩
    rw [onBus, List.append_nil]
    rfl
  | cons k ks ih =>
    obtain ⟨l, hl, h⟩ := ih (twAsk s cls k who)
    refine ⟨⟨cls, k, who, twAddr s k, 0, false⟩ :: l, by rw [List.map_cons, hl], ?_⟩
    rw [List.foldl_cons, h, twAsk_eq, onBus_onBus]
    rfl

section
variable {s : State} {h op done total : Nat} {ks : List TwKind}

theorem imgStart_busy (hb : s.img.eeJob.isSome = true) : imgStart s h op done total ks = ans s h 1 := if_pos hb

theorem imgStart_waits (hb : s.img.eeJob = none) (hk : ks ≠ []) :
    SessionWaits s h { hatch := h, opcode := op, done := done, total := total } s.img.session ks
      (imgStart s h op done total ks) := by
  have hsome : ks.isEmpty = false := by simpa using hk
  unfold imgStart
  simp only [hb, Option.isSome_none, Bool.false_eq_true, if_false, hsome]
  obtain ⟨l, hl, hbus⟩ := foldl_twAsk ks 4 (.hatch h) { (hatchWait s h) with
    img := { s.img with eeJob := some { hatch := h, opcode := op, done := done, total := total } } }
  rw [hbus]
  refine ⟨rfl, ?_, ?_, rfl⟩
  · exact congrArg Hatch.waiting (hatch_putHatch_same s h _)
  · rw [← hl, onBus, List.map_append]
    rfl

theorem imgGate_open (f : State → State) (hs : s.heat.stop = .running) (hk : s.heat.storeOk = true) :
    imgGate s h f = f s := by simp [imgGate, hs, hk]

/-- Past the COMMIT bytes the writes of a range are one page write (R412). -/
theorem imgPieces_body {base off : Nat} {d : List (BitVec 8)} (ho : 64 ≤ off) (hd : d ≠ []) :
    imgPieces base off d = [.eeWrite (base + off) d] := by
  have hcommit : ¬ off < 60 := by omega
  simp [imgPieces, hcommit, Nat.sub_eq_zero_of_le ho, Nat.max_eq_left ho, hd]

end

/-- Settles O34: each legal command is one `imgStart`. -/
theorem imageCommands : Obligations.ImageCommands := by
  unfold Obligations.ImageCommands
  intro s h hl hh waits off n
  have hwaits {c : Instr} {job : EeJob} {ses : Option ImgSession} {ks : List TwKind} {u : State}
      (hexec : exec c s = .next u) (hw : SessionWaits s h job ses ks u) : waits c job ses ks :=
    ⟨u, hexec, hw.img, hw.waiting, hw.queue, hw.frame⟩
  refine ⟨fun hjob hstop hok => ⟨fun hr hses => ?begin, fun hr hrsv hal hfit hlo hhi hn hoff hses => ?write,
    fun hr hses => ?commit⟩, fun hjob hr => ?status, fun hjob hr hrsv hslot hal hfit hlo hhi hn => ?read,
    fun hjob hr => ?busy, fun hses hr => ?other⟩
  case begin =>
    have hexec := hatchRun_ready (imageBegin · h) hh hl hr
    have hbegin : imageBegin s h = imgStart { s with img := { s.img with session := some { hatch := h, written := 0 } } } h
        0x0510 0 4 [.eeWrite (slotBase s (standby s) + 60) (leBytes 0xFFFFFFFF 4)] := by
      unfold imageBegin
      rw [if_neg (by simp [hses, hjob]), imgGate_open _ hstop hok]
      rfl
    rw [hbegin] at hexec
    obtain ⟨himg, hwait, hqueue, hframe⟩ := imgStart_waits (op := 0x0510) (h := h) (done := 0) (total := 4)
      (s := { s with img := { s.img with session := some { hatch := h, written := 0 } } })
      (ks := [.eeWrite (slotBase s (standby s) + 60) (leBytes 0xFFFFFFFF 4)]) hjob (List.cons_ne_nil _ _)
    exact hwaits hexec ⟨himg, hwait, hqueue, hframe⟩
  case write =>
    have hdata : plBytes s h 8 n ≠ [] := by
      have hlen : (plBytes s h 8 n).length = n := bmRead_length _ _ _
      intro hnil
      rw [hnil, List.length_nil] at hlen
      omega
    have hwrite : imageWrite s h =
        imgStart s h 0x0511 0 n [.eeWrite (slotBase s (standby s) + off) (plBytes s h 8 n)] := by
      unfold imageWrite
      refine (withFields_legal _ hrsv ?_).trans ?_
      · simp [off, n] at hal hfit hlo hhi hn ⊢
        omega
      · rw [if_neg (by simp [hses]), imgGate_open _ hstop hok, imgPieces_body hoff hdata]
    exact hwaits ((hatchRun_ready (imageWrite · h) hh hl hr).trans (congrArg _ hwrite))
      (imgStart_waits hjob (List.cons_ne_nil _ _))
  case commit =>
    have hcommit : imageCommit s h = imgStart s h 0x0512 0 64
        [.eeRead (slotBase s (standby s)) (min (slotSize s) (64 + hdrLength s (slotBase s (standby s))))] := by
      unfold imageCommit
      rw [if_neg (by simp [hses]), imgGate_open _ hstop hok]
    exact hwaits ((hatchRun_ready (imageCommit · h) hh hl hr).trans (congrArg _ hcommit))
      (imgStart_waits hjob (List.cons_ne_nil _ _))
  case status =>
    exact hwaits (hatchRun_ready (fun s => imgStart s h 0x0513 0 128 [.eeRead (slotBase s 0) 64, .eeRead (slotBase s 1) 64])
      hh hl hr) (imgStart_waits hjob (List.cons_ne_nil _ _))
  case read =>
    have hread : imageRead s h = imgStart s h 0x0514 (slotBase s (pl s h 0 1) + n) (pl s h 8 4)
        [.eeRead (slotBase s (pl s h 0 1) + n) (pl s h 8 4)] := by
      unfold imageRead
      refine withFields_legal _ hrsv ?_
      simp [n] at hal hfit hlo hhi hn ⊢
      omega
    exact hwaits ((hatchRun_ready (imageRead · h) hh hl hr).trans (congrArg _ hread))
      (imgStart_waits hjob (List.cons_ne_nil _ _))
  case busy =>
    exact (hatchRun_ready (fun s => imgStart s h 0x0513 0 128 [.eeRead (slotBase s 0) 64, .eeRead (slotBase s 1) 64])
      hh hl hr).trans (congrArg _ (imgStart_busy hjob))
  case other =>
    refine (hatchRun_ready (imageCommit · h) hh hl hr).trans (congrArg _ ?_)
    exact if_pos (by simp [hses])

end Sys2Proof.Machine

/-! # Identity commands and the SPDM buffer (14 R399; 16 R445 to R448; 17 R469) -/

namespace Sys2Proof.Machine

/-! ## The identity commands (17 R469) -/

theorem leNat_leBytes_toNat {w : Nat} (v : BitVec w) (n : Nat) (h : w ≤ 8 * n) : leNat (leBytes v.toNat n) = v.toNat := by
  rw [leNat_leBytes, Nat.mod_eq_of_lt]
  calc v.toNat < 2 ^ w := v.isLt
    _ ≤ 2 ^ (8 * n) := Nat.pow_le_pow_right (by decide) h
    _ = 256 ^ n := by rw [Nat.pow_mul]

theorem leAt_first (v n : Nat) (m : List (BitVec 8)) : leAt (leBytes v n ++ m) 0 n = v % 256 ^ n := by
  rw [leAt_append_left (by rw [leBytes_length, Nat.zero_add]), leAt_leBytes]

/-- A field behind another one of `n` bytes. -/
theorem leAt_next (v n k j : Nat) (m : List (BitVec 8)) : leAt (leBytes v n ++ m) (n + k) j = leAt m k j := by
  rw [leAt_append_right (by rw [leBytes_length]; exact Nat.le_add_right n k), leBytes_length, Nat.add_sub_cancel_left]

theorem mod_of_bitVec {w : Nat} (v : BitVec w) (n : Nat) (h : w ≤ 8 * n) : v.toNat % 256 ^ n = v.toNat := by
  rw [← leNat_leBytes, leNat_leBytes_toNat v n h]

/-- ID_GET: PART, SERIAL, LOT and the three state bits. -/
theorem idGet_fields (part lot : BitVec 32) (serial : BitVec 64) {bits : Nat} (hb : bits < 8) :
    let p := leBytes part.toNat 4 ++ leBytes serial.toNat 8 ++ leBytes lot.toNat 4 ++ leBytes bits 4
    p.length = 20 ∧ leAt p 0 4 = part.toNat ∧ leAt p 4 8 = serial.toNat ∧ leAt p 12 4 = lot.toNat ∧ leAt p 16 4 = bits := by
  simp only [List.append_assoc]
  refine ⟨by simp only [List.length_append, leBytes_length], ?_, ?_, ?_, ?_⟩
  · rw [leAt_first, mod_of_bitVec _ _ (by decide)]
  · rw [leAt_next _ 4 0 8, leAt_first, mod_of_bitVec _ _ (by decide)]
  · rw [leAt_next _ 4 8 4, leAt_next _ 8 0 4, leAt_first, mod_of_bitVec _ _ (by decide)]
  · rw [leAt_next _ 4 12 4, leAt_next _ 8 4 4, leAt_next _ 4 0 4, leAt_leBytes, Nat.mod_eq_of_lt (by omega)]

/-- Measurement 4 is raw, the others are digests. -/
theorem measure_length (s : State) (i : Nat) : (measure s i).length = if i = 4 then 29 else 64 := by
  have hdigest (l : List (BitVec 8)) : (digestBytes l).length = 64 := leBytes_length _ _
  unfold measure
  by_cases h1 : i = 1
  · rw [if_pos h1, hdigest, if_neg (by omega)]
  · by_cases h2 : i = 2
    · rw [if_neg h1, if_pos h2, hdigest, if_neg (by omega)]
    · by_cases h3 : i = 3
      · rw [if_neg h1, if_neg h2, if_pos h3, hdigest, if_neg (by omega)]
      · rw [if_neg h1, if_neg h2, if_neg h3]
        split
        · simp [rawMeasure, leBytes_length]
        · exact hdigest _

/-- Settles O29: each answer is read back field by field from its payload. -/
theorem identityCommands : Obligations.IdentityCommands := by
  unfold Obligations.IdentityCommands
  intro s h hl hh
  refine ⟨fun hr => ?get, fun hr => ?pubkey, fun hr hrsv hoff hlo hhi hfit => ?cert, fun hr hrsv hlo hhi => ?measure⟩
  case get =>
    have hb := b2n_le (identOk s)
    have hb' := b2n_le s.boot.identReady
    have hb'' := b2n_le s.boot.slot0Ok
    exact ⟨_, hatchRun_ready _ hh hl hr, idGet_fields _ _ _ (by omega)⟩
  case pubkey =>
    have hexec := hatchRun_ready (idPubkey · h) hh hl hr
    refine ⟨fun hi => hexec.trans ?_, fun hi hk => hexec.trans ?_, fun hi hk =>
      ⟨(leBytes s.boot.identMod.toNat 512).reverse ++ leBytes 65537 4, hexec.trans ?_, ?_, ?_, ?_⟩⟩
    · simp only [idPubkey, hi, Bool.not_false, if_true]
    · simp only [idPubkey, hi, hk, Bool.not_false, Bool.not_true, Bool.false_eq_true, if_false, if_true]
    · simp only [idPubkey, hi, hk, Bool.not_true, Bool.false_eq_true, if_false]
    · rw [List.length_append, List.length_reverse, leBytes_length, leBytes_length]
    · rw [List.take_left' (by rw [List.length_reverse, leBytes_length]), List.reverse_reverse,
        leNat_leBytes_toNat _ _ (by decide)]
    · rw [leAt_append_right (by rw [List.length_reverse, leBytes_length]), List.length_reverse, leBytes_length, leAt_leBytes]
      exact Nat.mod_eq_of_lt (by decide)
  case cert =>
    have hexec := hatchRun_ready (idCert · h) hh hl hr
    have hcert : idCert s h = if !s.boot.slot0Ok then ans s h 8 else ansOk s h
        (leBytes (chainLen s - pl s h 0 4 - pl s h 4 4) 4 ++ ((chainData s).drop (pl s h 0 4)).take (pl s h 4 4)) := by
      unfold idCert
      refine withFields_legal _ hrsv ?_
      simp
      omega
    rw [hcert] at hexec
    exact ⟨fun h0 => hexec.trans (by simp [h0]), fun h0 => hexec.trans (by simp [h0])⟩
  case measure =>
    generalize hi : pl s h 0 1 = i at *
    have hlen := measure_length s i
    have hmeasure : idMeasure s h = ansIdent s h
        (leBytes i 1 ++ leBytes (b2n (i = 4)) 1 ++ leBytes (if i = 4 then 29 else 64) 2 ++ measure s i) := by
      unfold idMeasure
      rw [hi]
      refine withFields_legal _ hrsv ?_
      simp
      omega
    refine ⟨_, (hatchRun_ready (idMeasure · h) hh hl hr).trans (congrArg _ hmeasure), ?_, ?_, ?_⟩
    · rw [List.append_assoc, List.append_assoc, leAt_first]
      omega
    · rw [List.append_assoc, List.append_assoc, leAt_next _ 1 1 2, leAt_next _ 1 0 2, leAt_first, hlen]
      split <;> rfl
    · exact List.drop_left' (by simp only [List.length_append, leBytes_length])

/-! ## The SPDM buffer (R446) -/

section
variable {s : State} (hl : live s = true)
include hl

theorem exec_spdmGo (node : Node) (len : BitVec 13) : exec (.spdmGo node len) s = .next (spdmGo s node len.toNat) :=
  whenLive_live (fun s => spdmGo s node len.toNat) hl

theorem exec_spdmRelease (node : Node) : exec (.spdmRelease node) s = .next (spdmRelease s node) :=
  whenLive_live (spdmRelease · node) hl

theorem exec_spdmIdleTimeout : exec .spdmIdleTimeout s = .next (spdmIdle s) := whenLive_live spdmIdle hl

end

/-- The buffer taken from IDLE by a request of a length. -/
def spdmTaken (s : State) (node : Node) (len : BitVec 13) (st : SpdmSt) : State :=
  { s with spdm := { s.spdm with st := st, owner := node, reqLen := len, begun := false, lastAccess := s.now } }

section
variable {s : State} {node : Node} {len : BitVec 13}

/-- GO from IDLE with a legal length: GET_VERSION is to be processed, anything else answered at once. -/
theorem spdmGo_legal (hi : s.spdm.st = .idle) (hlo : 4 ≤ len.toNat) (hhi : len.toNat ≤ 4096) :
    spdmGo s node len.toNat =
      if spdmField 0 (bmRead s.spdm.req 0 len.toNat) = 1 then spdmTaken s node len .busy
      else spdmAnswer (spdmErr (spdmTaken s node len .busy) 2) := by
  have hlen : BitVec.ofNat 13 len.toNat = len := BitVec.ofNat_toNat 13 len |>.trans (BitVec.setWidth_eq len)
  have hkind : spdmKind (spdmTaken s node len .busy) = spdmField 0 (bmRead s.spdm.req 0 len.toNat) := rfl
  have hun : spdmUnexpected (spdmTaken s node len .busy) = !decide (spdmField 0 (bmRead s.spdm.req 0 len.toNat) = 1) := by
    have hbegun : (spdmTaken s node len .busy).spdm.begun = false := rfl
    simp [spdmUnexpected, hkind, hbegun]
  have hgo : spdmGo s node len.toNat =
      if spdmUnexpected (spdmTaken s node len .busy) then spdmAnswer (spdmErr (spdmTaken s node len .busy) 2)
      else if 1 ≤ spdmKind (spdmTaken s node len .busy) && spdmKind (spdmTaken s node len .busy) ≤ 7 then
        spdmTaken s node len .busy
      else spdmAnswer (spdmErr (spdmTaken s node len .busy) 3) := by
    simp only [spdmGo, hi, hlo, hhi, hlen, beq_self_eq_true, Bool.true_or, if_true, Bool.not_true, Bool.and_false,
      decide_true, Bool.and_self]
    rfl
  rw [hgo, hun, hkind]
  by_cases h1 : spdmField 0 (bmRead s.spdm.req 0 len.toNat) = 1 <;> simp [h1]

theorem spdmGo_illegal (hi : s.spdm.st = .idle) (h : len.toNat < 4 ∨ 4096 < len.toNat) :
    spdmGo s node len.toNat = spdmTaken s node len .rejected := by
  have hlen : BitVec.ofNat 13 len.toNat = len := BitVec.ofNat_toNat 13 len |>.trans (BitVec.setWidth_eq len)
  have hrange : ¬ (4 ≤ len.toNat ∧ len.toNat ≤ 4096) := by omega
  simp [spdmGo, hi, hlen, hrange, spdmTaken]

/-- GO by a node that does not own the buffer is refused and counted. -/
theorem spdmGo_refused (hi : s.spdm.st ≠ .idle) (hn : node ≠ s.spdm.owner) (n : Nat) :
    spdmGo s node n = { s with spdm := { s.spdm with refused := BitVec.ofNat 16 (satAdd 16 s.spdm.refused.toNat 1) } } := by
  simp [spdmGo, hi, hn]

theorem spdmGo_again (hb : s.spdm.st = .busy) (hn : node = s.spdm.owner) (n : Nat) : spdmGo s node n = s := by
  simp [spdmGo, hb, hn]

end

/-- Settles O30: GO by its cases of length and owner, RELEASE and the timeout by theirs. -/
theorem spdmBuffer : Obligations.SpdmBuffer := by
  unfold Obligations.SpdmBuffer
  intro s node len hl
  refine ⟨fun hi hlo hhi => ?go, fun hi h => ?rejected, fun hi hn => ⟨?refused, ?kept⟩, fun hb hn => ?again,
    fun hi hn => ?released, fun hd hdue => ?dropped, fun h => ?idle⟩
  case go =>
    rw [exec_spdmGo hl, spdmGo_legal hi hlo hhi]
    refine ⟨_, rfl, ?_⟩
    by_cases h1 : spdmField 0 (bmRead s.spdm.req 0 len.toNat) = 1
    · simp only [h1, if_true]
      exact ⟨rfl, rfl, rfl, rfl, fun _ => rfl, rfl⟩
    · simp only [h1, if_false]
      exact ⟨rfl, rfl, rfl, rfl, fun h => h.elim, rfl⟩
  case rejected =>
    rw [exec_spdmGo hl, spdmGo_illegal hi h]
    rfl
  case refused =>
    rw [exec_spdmGo hl, spdmGo_refused hi hn]
    rfl
  case kept =>
    rw [exec_spdmRelease hl]
    simp [spdmRelease, hn]
  case again => rw [exec_spdmGo hl, spdmGo_again hb hn]
  case released =>
    rw [exec_spdmRelease hl]
    simp [spdmRelease, hi, hn]
  case dropped =>
    rw [exec_spdmIdleTimeout hl]
    obtain hd | hd := hd <;> simp [spdmIdle, hd, ms, hdue]
  case idle =>
    rw [exec_spdmIdleTimeout hl]
    obtain h | h | h := h <;> simp [spdmIdle, h, ms]

/-! ## The requests (R447) -/

/-- The buffer DONE with a response. -/
def spdmDone (s : State) (begun : Bool) (r : List (BitVec 8)) : State :=
  { s with spdm := { s.spdm with
    st := .done, begun := begun, rsp := bmWrite [] 0 (r.take 4096), rspLen := BitVec.ofNat 13 (r.take 4096).length,
    lastAccess := s.now } }

section
variable {s : State} {f : State → List (BitVec 8) × State} {k : Nat}

theorem spdmRun_busy (hl : live s = true) (hb : s.spdm.st = .busy) :
    spdmRun s k f = .next (if spdmKind s = k then spdmAnswer (f s) else s) := by
  rw [spdmRun, whenLive_live _ hl]
  simp [hb]

/-- A request whose response is known leaves it in the buffer. -/
theorem spdmRun_known (hl : live s = true) (hb : s.spdm.st = .busy) {r : List (BitVec 8)} (hf : f s = (r, s)) :
    spdmRun s k f = .next (if spdmKind s = k then spdmDone s s.spdm.begun r else s) := by
  rw [spdmRun_busy hl hb, hf]
  rfl

theorem withKey_awaited (h : keyAwaited s = true) : withKey s f = (spdmEncode 0 [1] [], s) := if_pos h

theorem withKey_unprovisioned (h : keyAwaited s = false) (h' : signedOk s = false) :
    withKey s f = (spdmEncode 0 [3] [], s) := by simp [withKey, h, h', spdmErr]

theorem withKey_ready (h : keyAwaited s = false) (h' : signedOk s = true) : withKey s f = f s := by simp [withKey, h, h']

end

/-- A response computed from the state, which may take fresh values for its nonces and salts. -/
def TakesFree (s : State) (r : List (BitVec 8) × State) : Prop := ∃ n, r.2 = { s with free := n }

section
variable (s : State)

theorem takesFree_here (r : List (BitVec 8)) : TakesFree s (r, s) := ⟨s.free, rfl⟩

theorem takesFree_certPortion : TakesFree s (certPortion s) := by
  unfold certPortion
  dsimp only
  split <;> exact takesFree_here s _

theorem takesFree_challenge : TakesFree s (challenge s) := by
  unfold challenge
  dsimp only
  split
  · exact takesFree_here s _
  · exact ⟨_, rfl⟩

theorem takesFree_withKey {f : State → List (BitVec 8) × State} (h : TakesFree s (f s)) : TakesFree s (withKey s f) := by
  unfold withKey
  split
  · exact takesFree_here s _
  · split
    · exact takesFree_here s _
    · exact h

theorem takesFree_measurements : TakesFree s (measurements s) := by
  unfold measurements
  dsimp only
  split
  · exact takesFree_here s _
  · split
    · exact takesFree_here s _
    · exact takesFree_withKey s ⟨_, rfl⟩

end

theorem spdmAnswer_begun {s : State} {r : List (BitVec 8) × State} (h : TakesFree s r) :
    (spdmAnswer r).spdm.st = .done ∧ (spdmAnswer r).spdm.rsp = bmWrite [] 0 (r.1.take 4096) ∧
      (spdmAnswer r).spdm.begun = s.spdm.begun ∧
      spdmAnswer r = { s with spdm := (spdmAnswer r).spdm, free := (spdmAnswer r).free } := by
  obtain ⟨r, _⟩ := r
  obtain ⟨n, rfl⟩ := h
  exact ⟨rfl, rfl, rfl, rfl⟩

/-- GET_MEASUREMENTS of the count alone, unsigned. -/
theorem measurements_count {s : State} (h8 : spdmField 8 (spdmReq s) = 0) (h9 : spdmField 9 (spdmReq s) = 0) :
    measurements s = (spdmEncode 7 [5, 0] [], s) := by
  simp [measurements, h8, h9, blocksOf]

/-- Settles O31: each request is one `spdmRun`, whose response is known or takes fresh values alone. -/
theorem spdmRequests : Obligations.SpdmRequests := by
  unfold Obligations.SpdmRequests
  intro s hl hb kind done ran some'
  have hran {c : Instr} {k : Nat} {f : State → List (BitVec 8) × State} {r : List (BitVec 8)}
      (hc : exec c s = spdmRun s k f) (hf : f s = (r, s)) : ran c k s.spdm.begun r := hc.trans (spdmRun_known hl hb hf)
  have hsome {c : Instr} {k : Nat} {f : State → List (BitVec 8) × State}
      (hc : exec c s = spdmRun s k f) (hf : TakesFree s (f s)) : some' c k := by
    have hexec := hc.trans (spdmRun_busy hl hb)
    obtain ⟨hst, hrsp, hbegun, hframe⟩ := spdmAnswer_begun hf
    by_cases hk : kind = k
    · exact ⟨_, _, hexec.trans (congrArg _ (if_pos hk)), by rw [if_pos hk]; exact ⟨hst, hrsp, hbegun⟩, hframe⟩
    · exact ⟨s, [], hexec.trans (congrArg _ (if_neg hk)), by rw [if_neg hk], rfl⟩
  have hkeyed {c : Instr} {k : Nat} {f : State → List (BitVec 8) × State}
      (hc : exec c s = spdmRun s k (withKey · f)) (hf : TakesFree s (f s)) :
      (keyAwaited s = true → ran c k s.spdm.begun (spdmEncode 0 [1] [])) ∧
      (keyAwaited s = false → signedOk s = false → ran c k s.spdm.begun (spdmEncode 0 [3] [])) ∧
      (keyAwaited s = false → signedOk s = true → some' c k) :=
    ⟨fun ha => hran hc (withKey_awaited ha), fun ha hs => hran hc (withKey_unprovisioned ha hs),
      fun _ _ => hsome hc (takesFree_withKey s hf)⟩
  refine ⟨?version, fun h0 => hran rfl ?_, fun h0 hi => hran rfl ?_, ?offer, fun c k hck => ?keyed,
    fun ha hs => ?digests, hsome rfl (takesFree_measurements s), ?count⟩
  case version =>
    exact spdmRun_busy (k := 1) (f := fun s => (spdmEncode 1 [0x12] [], { s with spdm := { s.spdm with begun := true } }))
      hl hb
  · simp [signedOk, h0, b2n]
  · simp [signedOk, h0, hi, b2n]
  case offer =>
    refine hran (f := fun s => if offerOk s then (spdmEncode 3 [] [], s) else spdmErr s 4) rfl ?_
    split <;> rfl
  case keyed =>
    simp only [List.mem_cons, Prod.mk.injEq, List.not_mem_nil, or_false] at hck
    obtain ⟨rfl, rfl⟩ | ⟨rfl, rfl⟩ | ⟨rfl, rfl⟩ := hck
    · exact hkeyed rfl (takesFree_here s _)
    · exact hkeyed rfl (takesFree_certPortion s)
    · exact hkeyed rfl (takesFree_challenge s)
  case digests =>
    exact hran (f := (withKey · fun s => (spdmEncode 4 [1] (digestBytes (chainData s)), s))) rfl (withKey_ready ha hs)
  case count =>
    refine ⟨_, spdmRun_busy hl hb, fun ⟨hk, h8, h9⟩ => ?_⟩
    rw [measurements_count h8 h9]
    exact if_pos hk

end Sys2Proof.Machine

/-! # Larder firmware: loads, activation, the watchdog and FW_WAIT (16 R437 to R441; 17 R469) -/

namespace Sys2Proof.Machine

/-! ## What an answer, a fault and a halt of Larder leave (16 R441) -/

/-- The boot state, the DRAM, the Vault and the time are the same. -/
structure SameBoot (s t : State) : Prop where
  boot : t.boot = s.boot
  dram : t.dram = s.dram
  vault : t.vault = s.vault
  now : t.now = s.now

namespace SameBoot

variable {s t u : State}

theorem refl (s : State) : SameBoot s s := ⟨rfl, rfl, rfl, rfl⟩

theorem trans (h : SameBoot s t) (k : SameBoot t u) : SameBoot s u :=
  ⟨k.boot.trans h.boot, k.dram.trans h.dram, k.vault.trans h.vault, k.now.trans h.now⟩

theorem of_onlyEvents (h : OnlyEvents s t) : SameBoot s t := by
  obtain ⟨_, _, _, rfl⟩ := h
  exact ⟨rfl, rfl, rfl, rfl⟩

theorem ite {c : Prop} [Decidable c] (h : SameBoot s t) (k : SameBoot s u) : SameBoot s (if c then t else u) := by
  split
  · exact h
  · exact k

theorem foldl {α : Type} {f : State → α → State} (hf : ∀ u a, SameBoot u (f u a)) (s : State) (l : List α) :
    SameBoot s (l.foldl f s) :=
  List.foldlRecOn (motive := fun t => SameBoot s t) l f (refl s) fun u hu a _ => hu.trans (hf u a)

end SameBoot

section
variable (s : State)

theorem onlyEvents_answerHatch (h : Nat) : OnlyEvents s (answerHatch s h) := by
  unfold answerHatch
  dsimp only
  split
  · refine onlyEvents_ite (.refl s) ?_
    have hdone {t : State} (ht : OnlyEvents s t) : OnlyEvents s (occ t 0x105 7 0xF 1) := ht.trans (onlyEvents_occ _ _ _ _ _)
    exact onlyEvents_ite ((hdone (onlyEvents_mg s _)).trans (onlyEvents_post _ _ _ _ _)) (hdone (onlyEvents_mg s _))
  · exact .refl s

theorem onlyEvents_abortHatch (h done : Nat) : OnlyEvents s (abortHatch s h done) :=
  onlyEvents_ite ((onlyEvents_hatchResult s _ _ _ _ _).trans (onlyEvents_answerHatch _ _)) (onlyEvents_answerHatch s h)

theorem sameBoot_hatchResult (h status : Nat) (p : List (BitVec 8)) (done errAt : Nat) :
    SameBoot s (hatchResult s h status p done errAt) := .of_onlyEvents (onlyEvents_hatchResult s h status p done errAt)

theorem sameBoot_modPort (p : Nat) (f : FabPort → FabPort) : SameBoot s (modPort s p f) := ⟨rfl, rfl, rfl, rfl⟩

theorem sameBoot_startBring (p : Nat) : SameBoot s (startBring s p) := .ite (.refl s) (sameBoot_modPort s _ _)

theorem sameBoot_endTest (p l status : Nat) (t : LaneTest) (complete : Bool) :
    SameBoot s (endTest s p l status t complete) := by
  unfold endTest
  dsimp only
  have hports (f : Lane → Lane) (g : FabPort → FabPort) (u : State) (hu : u = modPort (modLane s p l f) p g) :
      SameBoot s (hatchResult u t.hatch status (laneTestRec u t complete) 0 0xFFFFFFFF) := by
    rw [hu]
    exact ((sameBoot_modPort s p _).trans (sameBoot_modPort _ p g)).trans (sameBoot_hatchResult _ _ _ _ _ _)
  exact .ite (((hports _ _ _ rfl).trans (sameBoot_modPort _ _ _)).trans (sameBoot_startBring _ _)) (hports _ _ _ rfl)

theorem sameBoot_countsSoFar (t : LaneTest) : SameBoot s (countsSoFar s t).1 := by
  unfold countsSoFar
  split <;> exact ⟨rfl, rfl, rfl, rfl⟩

theorem sameBoot_abortLaneTests (p : Nat) : SameBoot s (abortLaneTests s p) := by
  refine .foldl (fun u t => ?_) s _
  unfold endLaneTest
  split
  · exact (sameBoot_countsSoFar u _).trans (sameBoot_endTest _ _ _ _ _ _)
  · exact .refl u

theorem sameBoot_larderAbort : SameBoot s (larderAbort s) := by
  have htests : SameBoot s ((List.range 4).foldl abortLaneTests s) := .foldl sameBoot_abortLaneTests s _
  have hall (u : State) (l : List Nat) :
      SameBoot u (l.foldl (fun s h => if !(hatch s h).exec then abortHatch s h 0 else s) u) :=
    .foldl (fun t h => .ite (.of_onlyEvents (onlyEvents_abortHatch t h 0)) (.refl t)) u l
  unfold larderAbort
  generalize (List.range 4).foldl abortLaneTests s = u at htests ⊢
  refine .trans ?_ (hall _ _)
  dsimp only
  split
  · refine .trans ?_ (.of_onlyEvents (onlyEvents_abortHatch _ _ _))
    exact ⟨htests.boot, htests.dram, htests.vault, htests.now⟩
  · exact htests

theorem sameBoot_floorOwn : SameBoot s (floorOwn s) := by
  unfold floorOwn regRescale
  refine .ite ⟨rfl, rfl, rfl, rfl⟩ (.trans ?_ (.of_onlyEvents (onlyEvents_c0 _ _ _ _ _)))
  unfold regAdvance
  dsimp only
  split <;> exact ⟨rfl, rfl, rfl, rfl⟩

/-- Larder that halts changes what Larder does, nothing else of the boot state. -/
theorem larderHalt_boot (st : LarderSt) : SameBoot { s with boot := { s.boot with larder := st } } (larderHalt s st) := by
  have h := sameBoot_larderAbort s
  have hboot : ({ (larderAbort s).boot with larder := st } : Boot) = { s.boot with larder := st } := by rw [h.boot]
  unfold larderHalt
  generalize larderAbort s = u at h hboot ⊢
  refine .trans ?_ (sameBoot_floorOwn _)
  exact ⟨hboot, h.dram, h.vault, h.now⟩

theorem larderStart_boot : SameBoot { s with boot := { s.boot with
    larder := .running, svn := BitVec.ofNat 7 (fwSvn (fwHalf s s.boot.runHalf)), signalAt := s.now } } (larderStart s) := by
  unfold larderStart
  exact sameBoot_floorOwn _

end

/-! ## Loads (R440) -/

section
variable {s : State}

theorem fwHalf_fwPut_other (s : State) (one : Bool) (x : FwHalf) : fwHalf (fwPut s (!one) x) one = fwHalf s one := by
  cases one <;> rfl

theorem fwPut_boot (s : State) (one : Bool) (x : FwHalf) : fwPut s one x = { s with boot := (fwPut s one x).boot } ∧
    (fwPut s one x).boot.runHalf = s.boot.runHalf := by cases one <;> exact ⟨rfl, rfl⟩

end

/-- What is stored for the half that does not run is the staged image. -/
theorem fwStage_received (s : State) (x : FwHalf) (got : List (Nat × Nat)) (last : Nat) :
    fwStage { fwPut s (!s.boot.runHalf) x with
      boot := { (fwPut s (!s.boot.runHalf) x).boot with got := got, lastData := last } } = x := by
  cases hr : s.boot.runHalf <;> simp [fwStage, fwHalf, fwPut, hr]

/-! ## FW_BEGIN to FW_STATUS (R440; 17 R469) -/

section
variable {s : State} {h : Nat} (hl : live s = true) (hh : h < 16)
include hl hh

/-- FW_BEGIN opens a load of a legal total, unless one is open. -/
theorem exec_fwBegin_legal (hr : hatchReady s h 0x0801 0x0801 = true) (hrsv : reservedBad s h [(0, 4)] = [])
    (hlo : 8192 ≤ pl s h 0 4) (hhi : pl s h 0 4 ≤ 2097152) :
    exec (.fwBegin h) s = .next (if s.boot.staged = .open_ then ans s h 1 else
      let u := fwPut s (!s.boot.runHalf) { bytes := [], len := pl s h 0 4 }
      ansOk { u with boot := { u.boot with staged := .open_, total := pl s h 0 4, got := [], lastData := u.now } } h []) := by
  refine (hatchRun_ready (fwBegin · h) hh hl hr).trans (congrArg _ ?_)
  unfold fwBegin
  refine (withFields_legal _ hrsv ?_).trans ?_
  · simp [inRange, hlo, hhi]
  · simp only [beq_iff_eq]

theorem exec_fwData_legal (hr : hatchReady s h 0x0802 0x0802 = true)
    (hrsv : reservedBad s h [(0, 8 + pl s h 4 4)] = []) (hal : pl s h 0 4 % 4 = 0) (hopen : s.boot.staged = .open_)
    (hfit : pl s h 0 4 + pl s h 4 4 ≤ s.boot.total) (hn : pl s h 4 4 % 4 = 0) (hlo : 4 ≤ pl s h 4 4)
    (hhi : pl s h 4 4 ≤ 4032) :
    exec (.fwData h) s = .next (
      let u := fwPut s (!s.boot.runHalf)
        { fwStage s with bytes := bmWrite (fwStage s).bytes (pl s h 0 4) (plBytes s h 8 (pl s h 4 4)) }
      ansOk { u with boot := { u.boot with got := addPiece (pl s h 0 4) (pl s h 4 4) u.boot.got, lastData := u.now } }
        h []) := by
  refine (hatchRun_ready (fwData · h) hh hl hr).trans (congrArg _ ?_)
  unfold fwData
  refine withFields_legal _ hrsv ?_
  simp [inRange, hal, hopen, hfit, hn, hlo, hhi]

theorem exec_fwEnd_ready (hr : hatchReady s h 0x0803 0x0803 = true) (hrsv : reservedBad s h [] = []) :
    exec (.fwEnd h) s = .next (fwClose s h) :=
  (hatchRun_ready (fun s => withFields s h [] [] (fwClose · h)) hh hl hr).trans
    (congrArg _ (withFields_legal _ hrsv rfl))

theorem exec_fwActivate_ready (hr : hatchReady s h 0x0804 0x0804 = true) (hrsv : reservedBad s h [] = []) :
    exec (.fwActivate h) s = .next (fwActivate s h) :=
  (hatchRun_ready (fun s => withFields s h [] [] (fwActivate · h)) hh hl hr).trans
    (congrArg _ (withFields_legal _ hrsv rfl))

theorem exec_fwStatus_ready (hr : hatchReady s h 0x0805 0x0805 = true) (hrsv : reservedBad s h [] = []) :
    exec (.fwStatus h) s = .next (ansOk s h (fwStatus s)) :=
  (hatchRun_ready (fun s => withFields s h [] [] (fun s => ansOk s h (fwStatus s))) hh hl hr).trans
    (congrArg _ (withFields_legal _ hrsv rfl))

end

/-- FW_ACTIVATE of an accepted image: the halves change places, and Larder runs the new one from now. -/
theorem fwActivate_accepted {s : State} {h : Nat} (hst : s.boot.staged = .accepted) :
    ∃ u, fwActivate s h = ansOk u h [] ∧ u.boot.runHalf = (!s.boot.runHalf) ∧ u.boot.staged = .none ∧
      u.boot.larder = .running ∧ u.boot.signalAt = s.now ∧ u.dram = s.dram := by
  have hhalt := larderHalt_boot s .restarting
  refine ⟨_, if_neg (by simp [hst]), ?_⟩
  generalize larderHalt s .restarting = t at hhalt ⊢
  obtain ⟨hboot, hdram, -, hnow⟩ := hhalt
  obtain ⟨kboot, kdram, -, -⟩ := larderStart_boot
    { t with boot := { t.boot with runHalf := !t.boot.runHalf, staged := .none, fwPathFallback := false } }
  rw [kboot, kdram]
  exact ⟨by rw [hboot], rfl, rfl, hnow, hdram⟩

/-! ## The watchdog and FW_WAIT (R439, R441) -/

/-- The state of a silent Larder's restart, before it is halted: the restart listed and counted, C1 0x1004 raised. -/
def watchdogCounted (s : State) : State :=
  chipFault { s with boot := { s.boot with
    restarts := s.now :: s.boot.restarts.filter (fun t => s.now < t + 600000000000),
    wdog := BitVec.ofNat 16 (satAdd 16 s.boot.wdog.toNat 1) } } .c1 13 0x1004 0

theorem watchdogCounted_wdog (s : State) :
    (watchdogCounted s).boot.wdog = BitVec.ofNat 16 (satAdd 16 s.boot.wdog.toNat 1) := by
  rw [watchdogCounted, (SameBoot.of_onlyEvents (onlyEvents_chipFault_c1 _ _ _ _)).boot]

/-- A restart keeps the count of the watchdog, whatever the check of the running half says. -/
theorem larderRestart_wdog (s : State) : (larderRestart s).boot.wdog = s.boot.wdog := by
  unfold larderRestart
  split
  · rw [(larderStart_boot s).boot]
  · rfl

/-- The watchdog of a silent Larder: the third restart in 10 minutes leaves it stopped. -/
theorem watchdog_silent {s : State} (hrun : s.boot.larder = .running) (hdue : expired s s.boot.signalAt 100000000 = true) :
    watchdog s =
      if 3 ≤ (s.boot.restarts.filter (fun t => s.now < t + 600000000000)).length + 1 then
        larderHalt { watchdogCounted s with boot := { (watchdogCounted s).boot with svn := 0 } } .stopped
      else larderRestart (larderHalt (watchdogCounted s) .restarting) :=
  if_neg (by simp [hrun, ms, hdue])

theorem watchdog_wdog {s : State} (hrun : s.boot.larder = .running) (hdue : expired s s.boot.signalAt 100000000 = true) :
    (watchdog s).boot.wdog = BitVec.ofNat 16 (satAdd 16 s.boot.wdog.toNat 1) := by
  rw [watchdog_silent hrun hdue]
  split
  · rw [(larderHalt_boot _ _).boot]
    exact watchdogCounted_wdog s
  · rw [larderRestart_wdog, (larderHalt_boot _ _).boot]
    exact watchdogCounted_wdog s

/-- FW_WAIT that ends with no image and no fallback leaves Larder stopped and sets ROLLBACK. -/
theorem fwNone_boot (s : State) : (fwNone s).boot.fwDecided = true ∧ (fwNone s).boot.larder = .stopped ∧
    (fwNone s).vault.rollback = true := by
  have hhalt := (larderHalt_boot { s with
    vault := { s.vault with rollback := true }, boot := { s.boot with fwDecided := true } } .stopped).trans
    (.of_onlyEvents (onlyEvents_chipFault_c1 _ 13 0x1003 0))
  rw [fwNone, hhalt.boot, hhalt.vault]
  exact ⟨rfl, rfl, rfl⟩

/-- Settles O35: each command is read from its cases: the half that does not run is all that a load writes. -/
theorem firmwareLoads : Obligations.FirmwareLoads := by
  unfold Obligations.FirmwareLoads
  intro s h hl hh off n
  refine ⟨fun hr hrsv hlo hhi => ?begin, fun hr hrsv hal hopen hfit hn hlo hhi => ?data, fun hr hrsv => ?close,
    fun hr hrsv => ⟨fun hst => ?noImage, fun hst _ => ?activated⟩, fun hr hrsv => ?status, fun hopen hdue => ?timeout,
    fun h => ?inTime, fun hrun => ?signal, fun hrun hdue => ?watchdog, fun hd => ?decided, fun hd hp hdue hf => ?expiry⟩
  case begin =>
    have hexec := exec_fwBegin_legal hl hh hr hrsv hlo hhi
    refine ⟨fun hopen => hexec.trans (congrArg _ (if_pos hopen)), fun hopen => ?_⟩
    obtain ⟨hput, -⟩ := fwPut_boot s (!s.boot.runHalf) { bytes := [], len := off }
    refine ⟨_, hexec.trans (congrArg _ (if_neg hopen)), rfl, rfl, rfl, ?_, ?_, ?_⟩
    · dsimp only
      rw [hput]
    · exact fwHalf_fwPut_other s s.boot.runHalf _
    · dsimp only
      rw [hput]
  case data =>
    have hbytes : (plBytes s h 8 n).length = n := bmRead_length _ _ _
    obtain ⟨hput, hrun⟩ := fwPut_boot s (!s.boot.runHalf)
      { fwStage s with bytes := bmWrite (fwStage s).bytes off (plBytes s h 8 n) }
    have hread := bmRead_bmWrite (plBytes s h 8 n) (fwStage s).bytes off
    rw [hbytes] at hread
    refine ⟨_, exec_fwData_legal hl hh hr hrsv hal hopen hfit hn hlo hhi, ?_, fun a ha => ?_, ?_, ?_, ?_⟩
    · rw [fwStage_received]
      exact hread
    · rw [fwStage_received]
      exact bmGet_bmWrite_out _ _ _ _ (by rw [hbytes]; exact ha)
    · exact fwHalf_fwPut_other s s.boot.runHalf _
    · dsimp only
      rw [hput]
    · dsimp only
      rw [hput]
  case close =>
    have hexec := exec_fwEnd_ready hl hh hr hrsv
    refine ⟨fun hst => hexec.trans ?_, fun hst hgot => hexec.trans ?_, fun hst hgot hlegal => hexec.trans ?_,
      fun hst hgot hlegal hd => hexec.trans ?_⟩
    · simp [fwClose, hst]
    · simp [fwClose, hst, hgot]
    · simp [fwClose, hst, hgot, hlegal]
    · cases ht : fwTrusted s (fwStage s) <;> simp [fwClose, hst, hgot, hlegal, hd, ht]
  case noImage =>
    refine (exec_fwActivate_ready hl hh hr hrsv).trans (congrArg _ ?_)
    simp [fwActivate, hst]
  case activated =>
    obtain ⟨u, hu, hrun⟩ := fwActivate_accepted (h := h) hst
    exact ⟨u, (exec_fwActivate_ready hl hh hr hrsv).trans (congrArg _ hu), hrun⟩
  case status =>
    refine ⟨_, exec_fwStatus_ready hl hh hr hrsv, ?_, ?_, ?_⟩
    · simp only [fwStatus, List.length_append, leBytes_length, bmRead_length]
    · simp only [fwStatus, List.append_assoc]
      rw [leAt_first, mod_of_bitVec _ _ (by decide)]
    · have hcode : stagedCode s.boot.staged < 256 ^ 2 := by cases s.boot.staged <;> decide
      simp only [fwStatus, List.append_assoc]
      rw [leAt_next _ 1 1 2, leAt_next _ 1 0 2, leAt_first, Nat.mod_eq_of_lt hcode]
  case timeout =>
    refine (whenLive_live fwTimeout hl).trans ?_
    simp [fwTimeout, hopen, ms, hdue]
  case inTime =>
    refine (whenLive_live fwTimeout hl).trans ?_
    obtain h | h := h <;> simp [fwTimeout, h, ms]
  case signal =>
    refine (whenLive_live (fun s => if s.boot.larder == .running then
      { s with boot := { s.boot with signalAt := s.now } } else s) hl).trans ?_
    simp [hrun]
  case watchdog =>
    refine ⟨_, whenLive_live watchdog hl, ?_, fun hthird => ?_⟩
    · rw [watchdog_wdog hrun hdue]
      exact toNat_satAdd _ _
    · rw [watchdog_silent hrun hdue, if_pos (by omega), (larderHalt_boot _ _).boot]
      exact ⟨rfl, rfl⟩
  case decided =>
    refine (whenLive_live (fwExpiry · false) hl).trans ?_
    simp [fwExpiry, hd]
  case expiry =>
    have hnone : fwExpiry s true = fwNone s := by simp [fwExpiry, hd, hp, ms, hdue, fwLoadFallback, hf]
    exact ⟨_, (whenLive_live (fwExpiry · true) hl).trans (congrArg _ hnone), fwNone_boot s⟩

end Sys2Proof.Machine

/-! # What is asked of the two-wire bus (09 R287; 14 R413; 15 R431; 20 R514, R519, R520) -/

namespace Sys2Proof.Machine

section
variable {s : State} (hl : live s = true)
include hl

/-- A voltage within range takes the place of one that waits. -/
theorem exec_voltageRequest_legal {mv m : Nat} (hrun : s.boot.larder = .running) (hen : s.tw.regEn = true)
    (hm : mantissa s mv = some m) : exec (.voltageRequest mv) s = .next (twAsk { s with tw := { s.tw with
      waiting := s.tw.waiting.filter (fun t => !isVout t) } } 1 (.voutCommand mv) .stack) := by
  refine (whenLive_live (fun s => if s.boot.larder != .running then s else if s.tw.regEn && (mantissa s mv).isSome then
    twAsk { s with tw := { s.tw with waiting := s.tw.waiting.filter (fun t => !isVout t) } } 1 (.voutCommand mv) .stack
    else c0 s 15 0x1403 0 0) hl).trans ?_
  simp [hrun, hen, hm]

theorem exec_voltageRequest_refused {mv : Nat} (hrun : s.boot.larder = .running) (hm : mantissa s mv = none) :
    exec (.voltageRequest mv) s = .next (c0 s 15 0x1403 0 0) := by
  refine (whenLive_live (fun s => if s.boot.larder != .running then s else if s.tw.regEn && (mantissa s mv).isSome then
    twAsk { s with tw := { s.tw with waiting := s.tw.waiting.filter (fun t => !isVout t) } } 1 (.voutCommand mv) .stack
    else c0 s 15 0x1403 0 0) hl).trans ?_
  simp [hrun, hm]

theorem exec_readVoutPoll_due (hen : s.tw.regEn = true) (hdue : waited s s.tw.lastPoll 100000000 = true) :
    exec .readVoutPoll s = .next (twAsk { s with tw := { s.tw with lastPoll := s.now } } 1 .readVout .stack) := by
  refine (whenLive_live (fun s => if s.tw.regEn && waited s s.tw.lastPoll (ms 100) then
    twAsk { s with tw := { s.tw with lastPoll := s.now } } 1 .readVout .stack else s) hl).trans ?_
  simp [hen, ms, hdue]

theorem exec_boardSensorAccess_enabled {i rd : Nat} {bs : List (BitVec 8)} (hi : i < 4) (hlen : bs.length + rd ≤ 16)
    (hrun : s.boot.larder = .running) (hen : s.tw.sensorEn.getLsbD i = true) :
    exec (.boardSensorAccess i bs rd) s = .next (twAsk s 5 (.sensor i bs rd) .larder) := by
  refine (if_pos ⟨hi, hlen⟩).trans ((whenLive_live (fun s => if s.boot.larder == .running && s.tw.sensorEn.getLsbD i then
    twAsk s 5 (.sensor i bs rd) .larder else s) hl).trans ?_)
  simp [hrun, hen]

/-- An access of Larder's area is queued, a write where it brings bytes and a read where it asks for some. -/
theorem exec_larderAreaAccess {addr rd : Nat} {bs : List (BitVec 8)} (hlo : 0x10000 ≤ addr)
    (hw : addr + bs.length ≤ 0x20000) (hr : addr + rd ≤ 0x20000) (hone : bs = [] ∨ rd = 0)
    (hrun : s.boot.larder = .running) : exec (.larderAreaAccess addr bs rd) s =
      .next (if bs ≠ [] then twAsk s 4 (.eeWrite addr bs) .larder
        else if rd ≠ 0 then twAsk s 4 (.eeRead addr rd) .larder else s) := by
  refine (if_pos ⟨hlo, hw, hr, hone⟩).trans ((whenLive_live (fun s => if s.boot.larder != .running then s
    else if bs ≠ [] then twAsk s 4 (.eeWrite addr bs) .larder
    else if rd ≠ 0 then twAsk s 4 (.eeRead addr rd) .larder else s) hl).trans ?_)
  simp [hrun]

theorem exec_storeroomSave_changed (hun : s.store.unsaved = true) (hsv : s.store.saving = none)
    (hok : s.heat.storeOk = true) (hfree : twBusyFor s .storeRoom = false) : exec .storeroomSave s =
      .next (askRecord { s with store := { s.store with saving := some s.store.seq } } 1 (storeBody s)) := by
  refine (whenLive_live (fun s => if s.store.unsaved && s.store.saving.isNone && s.heat.storeOk &&
      !twBusyFor s .storeRoom then
    askRecord { s with store := { s.store with saving := some s.store.seq } } 1 (storeBody s) else s) hl).trans ?_
  simp [hun, hsv, hok, hfree]

/-- The calibration record as it is queued for its next write. -/
def calRecordTaken (s : State) : State :=
  { s with cal := { s.cal with
    moved := false, lastWrite := s.now, calCount := BitVec.ofNat 32 (satAdd 32 s.cal.calCount.toNat 1) } }

theorem exec_calRecordWrite_moved (hm : s.cal.moved = true) (hok : s.heat.storeOk = true) (hw : s.cal.lastWrite = 0)
    (hfree : twBusyFor s .calibration = false) :
    exec .calRecordWrite s = .next (askRecord (calRecordTaken s) 2 (calBody (calRecordTaken s))) := by
  refine (whenLive_live (fun s => if s.cal.moved && s.heat.storeOk &&
      (s.cal.lastWrite = 0 || waited s s.cal.lastWrite (ms 3600000)) && !twBusyFor s .calibration then
    askRecord (calRecordTaken s) 2 (calBody (calRecordTaken s)) else s) hl).trans ?_
  simp [hm, hok, hw, hfree]

end

/-- The two areas of one EEPROM answer the address 0x50. -/
theorem eeprom_addr {addr : Nat} (h : addr < 2 ^ 20) : 0x50 + addr / 2 ^ 20 = 0x50 := by
  rw [Nat.div_eq_of_lt h]

/-- Settles O10: each request is one `twAsk` or `askRecord`. -/
theorem twoWireRequests : Obligations.TwoWireRequests := by
  unfold Obligations.TwoWireRequests
  intro s hl
  refine ⟨fun mv m hrun hen hm => exec_voltageRequest_legal hl hrun hen hm,
    fun mv hrun hm => exec_voltageRequest_refused hl hrun hm, fun hen hdue => exec_readVoutPoll_due hl hen hdue,
    fun i bs rd hi hlen hrun hen => ⟨_, exec_boardSensorAccess_enabled hl hi hlen hrun hen⟩,
    fun addr bs hlo hhi hbs hrun => ?write, fun addr rd hlo hhi hrd hrun => ?read,
    fun hun hsv hok hfree => ?room, fun hm hok hw hfree => ?record⟩
  case write =>
    have hlen := List.length_pos_of_ne_nil hbs
    rw [exec_larderAreaAccess hl hlo hhi (by omega) (.inr rfl) hrun, if_pos hbs]
    simp only [twAsk, twAddr, eeprom_addr (show addr < 2 ^ 20 by omega)]
  case read =>
    rw [exec_larderAreaAccess hl hlo (by rw [List.length_nil]; omega) hhi (.inl rfl) hrun, if_neg (by simp), if_pos hrd]
    simp only [twAsk, twAddr, eeprom_addr (show addr < 2 ^ 20 by omega)]
  case room =>
    obtain ⟨l, hne, hbus⟩ := askRecord_onBus { s with store := { s.store with saving := some s.store.seq } } 1 (storeBody s)
    refine ⟨_, (exec_storeroomSave_changed hl hun hsv hok hfree).trans (congrArg _ hbus), rfl, onBus_longer _ hne, rfl⟩
  case record =>
    obtain ⟨l, hne, hbus⟩ := askRecord_onBus (calRecordTaken s) 2 (calBody (calRecordTaken s))
    exact ⟨_, (exec_calRecordWrite_moved hl hm hok hw hfree).trans (congrArg _ hbus), rfl, rfl, toNat_satAdd _ _,
      onBus_longer _ hne, rfl⟩

end Sys2Proof.Machine

/-! # Power, the full stack reset, scan and the rails (16 R449, R453; 22 R547, R548, R558, R559) -/

namespace Sys2Proof.Machine

/-! ## What is torn, and what is said, as the stack goes down (R449; 22 R547) -/

section
variable {s : State}

theorem fuseTorn_idle (h : s.img.job = none) : fuseTorn s = s := by simp only [fuseTorn, h]

theorem pagesTorn_idle (hc : s.tw.cur = none) (hp : s.tw.polls = []) : pagesTorn s = s := by
  simp only [pagesTorn, hp, hc, List.foldl_nil]

/-- With no word and no page in progress, the reset of the bus and of the fuses leaves their memories as they are. -/
theorem twRelease_fuseCut_idle (hj : s.img.job = none) (hc : s.tw.cur = none) (hp : s.tw.polls = []) :
    (twRelease (fuseCut s)).vault = s.vault ∧ (twRelease (fuseCut s)).img.eeprom = s.img.eeprom ∧
      (twRelease (fuseCut s)).pending = s.pending ∧ (twRelease (fuseCut s)).boot = s.boot := by
  simp only [twRelease, fuseCut, hj, hc, hp, List.foldl_nil, and_self]

/-- NODE_DOWN changes ports, and notes when it was said. -/
theorem sayDown_frame (s0 s : State) :
    ∃ w f, sayDown s0 s = { s with faults := { s.faults with haltAt := s.now }, wp := w, fp := f } := by
  unfold sayDown
  refine List.foldlRecOn (motive := fun t : State =>
    ∃ w f, t = { s with faults := { s.faults with haltAt := s.now }, wp := w, fp := f }) _ _ ?_ fun t ht p _ => ?_
  · dsimp only
    split <;> exact ⟨_, _, rfl⟩
  · obtain ⟨w, f, rfl⟩ := ht
    split <;> exact ⟨_, _, rfl⟩

end

/-! ## Power and the stack reset (R449; 22 R547) -/

/-- Settles O37: with nothing in progress on the fuses or the bus, nothing is torn, and each command is its one case. -/
theorem powerAndStackReset : Obligations.PowerAndStackReset := by
  unfold Obligations.PowerAndStackReset
  intro s hjob hcur hpolls
  refine ⟨⟨powerOff s, rfl, ?removed⟩, fun hgood r => ?again, fun hgood hrst r => ?on, fun hgood hrst r => ?held,
    fun hgood hhalt => ?halted, fun hhalt hph hoff => ?reset, fun hrst => ?high, fun hrst hgood hoff hlow => ?rise⟩
  case removed =>
    have htorn : pagesTorn (fuseTorn s) = s := by rw [fuseTorn_idle hjob, pagesTorn_idle hcur hpolls]
    rw [powerOff, htorn]
    exact ⟨rfl, rfl, rfl, rfl, rfl, rfl, rfl, rfl, rfl, rfl⟩
  case again => exact congrArg Host.Outcome.next (if_pos hgood)
  case on =>
    have hon : powerOn s r = startUp { s with
        now := 0, boot := { s.boot with pwrGood := true }, cal := { s.cal with refSel := r },
        pins := { s.pins with chain := 0, ir := 1, dieIr := [] } } 0 := by simp [powerOn, hgood, hrst]
    exact ⟨_, congrArg Host.Outcome.next hon, rfl, rfl, rfl, rfl, rfl, rfl, rfl⟩
  case held =>
    have hon : powerOn s r = { s with
        now := 0, boot := { s.boot with pwrGood := true }, cal := { s.cal with refSel := r },
        pins := { s.pins with chain := 0, ir := 1, dieIr := [] } } := by simp [powerOn, hgood, hrst]
    exact ⟨_, congrArg Host.Outcome.next hon, rfl, rfl⟩
  case halted =>
    refine congrArg Host.Outcome.next ?_
    simp [stackReset, hhalt, hgood]
  case reset =>
    let s' : State := { s with boot := { s.boot with
      stackRstN := false, stackLowAt := if s.boot.pwrGood then max s.now 1 else 0 } }
    obtain ⟨hvault, heeprom, hpending, hboot⟩ := twRelease_fuseCut_idle (s := s') hjob hcur hpolls
    have hreset : stackReset s = sayDown s' { emptied (twRelease (fuseCut s')) with
        boot := { (emptied (twRelease (fuseCut s'))).boot with phase := .off, stackLowAt := max s'.now 1 } } :=
      if_neg (by simp [hhalt, hph, hoff])
    obtain ⟨w, f, hdown⟩ := sayDown_frame s' { emptied (twRelease (fuseCut s')) with
        boot := { (emptied (twRelease (fuseCut s'))).boot with phase := .off, stackLowAt := max s'.now 1 } }
    refine ⟨_, congrArg Host.Outcome.next (hreset.trans hdown), rfl, ?_⟩
    have htight : (twRelease (fuseCut s')).vault.tight = s.vault.tight := by rw [hvault]
    have hrst : (twRelease (fuseCut s')).boot.stackRstN = false := by rw [hboot]
    exact ⟨hrst, rfl, rfl, rfl, rfl, htight, heeprom, hpending⟩
  case high => exact congrArg Host.Outcome.next (if_pos hrst)
  case rise =>
    have hrise : stackRise s = startUp (emptied { s with boot := { s.boot with stackRstN := true } }) 1 := by
      simp [stackRise, hrst, hgood, hoff, hlow]
    exact ⟨_, congrArg Host.Outcome.next hrise, rfl, rfl, rfl, rfl, rfl, rfl⟩

/-! ## The test port (R453; 22 R558, R559) -/

/-- A block halted: in self-refresh, with nothing left to serve. -/
def haltBlock (s : State) (b : Nat) : State :=
  modBlk s b (fun k => { k with st := .selfRefresh, rq := [], wq := [], rowOps := [] })

theorem st_haltBlock_same (s : State) (b : Nat) : (blk (haltBlock s b) b).st = .selfRefresh := by
  rw [haltBlock, blk_modBlk_same]

theorem foldl_haltBlock (s : State) (l : List Nat) : (∃ bl, l.foldl haltBlock s = { s with blocks := bl }) ∧
    ∀ b ∈ l, (blk (l.foldl haltBlock s) b).st = .selfRefresh := by
  induction l using List.reverseRecOn with
  | nil => exact ⟨⟨s.blocks, rfl⟩, by simp⟩
  | append_singleton l b ih =>
    obtain ⟨⟨bl, hfold⟩, hst⟩ := ih
    have hlast : (l ++ [b]).foldl haltBlock s = haltBlock (l.foldl haltBlock s) b := by simp
    rw [hlast]
    refine ⟨⟨_, by rw [hfold]; rfl⟩, fun a ha => ?_⟩
    by_cases hab : a = b
    · rw [hab, st_haltBlock_same]
    · have hmem : a ∈ l := by simpa [hab] using ha
      rw [haltBlock, blk_modBlk_ne _ _ _ hab, hst a hmem]

/-- Scan entry of a stack that is neither halted nor off. -/
theorem enterScan_running {s : State} (hh : s.faults.halted = false) (hb : s.boot.phase ≠ .halt) (ho : s.boot.phase ≠ .off)
    (hs : s.boot.phase ≠ .scan) : ∃ w f bl, enterScan s = { s with
        boot := { s.boot with keysZero := true, identMod := 0, identReady := false, phase := .scan, larder := .stopped },
        tx := { s.tx with held := [], waiting := [], snoops := [], chain := [], ctxs := [], resWait := [] },
        faults := { s.faults with haltAt := s.now }, wp := w, fp := f, blocks := bl } ∧
      ∀ b < 36, (blk (enterScan s) b).st = .selfRefresh := by
  let s0 : State := { s with boot := { s.boot with keysZero := true, identMod := 0, identReady := false } }
  let s1 : State := { s0 with
    boot := { s0.boot with phase := .scan, larder := .stopped },
    tx := { s0.tx with held := [], waiting := [], snoops := [], chain := [], ctxs := [], resWait := [] } }
  have henter : enterScan s = (List.range 36).foldl haltBlock (sayDown s0 s1) := if_neg (by simp [hh, hb, ho, hs])
  obtain ⟨w, f, hdown⟩ := sayDown_frame s0 s1
  obtain ⟨⟨bl, hfold⟩, hst⟩ := foldl_haltBlock (sayDown s0 s1) (List.range 36)
  rw [← henter] at hfold hst
  rw [hdown] at hfold
  exact ⟨w, f, bl, hfold, fun b hb => hst b (List.mem_range.mpr hb)⟩

/-- Scan entry of a stack in a halt, off, or in scan only zeroises the keys. -/
theorem enterScan_beneath {s : State}
    (h : ¬ (s.faults.halted = false ∧ s.boot.phase ≠ .halt ∧ s.boot.phase ≠ .off ∧ s.boot.phase ≠ .scan)) :
    enterScan s = { s with boot := { s.boot with keysZero := true, identMod := 0, identReady := false } } := by
  refine if_pos ?_
  by_contra hc
  exact h (by simpa [and_assoc] using hc)

/-- An instruction stands in its register and changes nothing else. -/
theorem loadIr_frame (s : State) (die : Nat) (ir : BitVec 8) : ∃ p, loadIr s die ir = { s with pins := p } := by
  unfold loadIr
  split <;> exact ⟨_, rfl⟩

section
variable {s : State} (hw : wired s = true)
include hw

theorem exec_railOutOfRange {rail : Nat} (hr : rail < 5) : exec (.railOutOfRange rail) s =
    .next (if smGet false s.pins.railOut rail then s else railLost s rail) :=
  (if_pos hr).trans (whenWired_wired (fun s => if smGet false s.pins.railOut rail then s else railLost s rail) hw)

theorem exec_railRestored {rail : Nat} (hr : rail < 5) : exec (.railRestored rail) s = .next (railBack s rail) :=
  (if_pos hr).trans (whenWired_wired (railBack · rail) hw)

end

/-- VDDQ_W out of range takes a Wide Port that is in service out of it. -/
theorem railLost_wide (s : State) : railLost s 2 =
    let v := chipFault { s with pins := { s.pins with railOut := smSet false s.pins.railOut 2 true } } .c1 0 0x1602 0
    if v.wp.st == .off || v.wp.st == .failed || v.wp.dead then v else wpOut v := rfl

/-- Settles O38: an instruction loads its register, and `enterScan` follows where it asks for scan; a rail's fault is raised
once, on its first sample out of range. -/
theorem testPortAndRails : Obligations.TestPortAndRails := by
  unfold Obligations.TestPortAndRails
  intro s hgood
  refine ⟨fun die ir hdie hscan => ?scan, fun ir hir => ?base, fun die ir hpos hdie hir => ?other, rfl, fun hw =>
    ⟨fun rail hr hout => ?again, fun rail hr hin => ⟨fun hlow => ?array, fun hwide v hv => ⟨fun hdown => ?wideDown,
      fun hoff hfailed hdead => ?wideOut⟩, fun hfab => ?fabric⟩, fun rail hr hout => ?restored, fun rail hr hin => ?inRange⟩⟩
  case scan =>
    obtain ⟨p, hload⟩ := loadIr_frame s die ir
    have hexec : exec (.scanEntry die ir) s = .next (enterScan { s with pins := p }) := by
      refine (if_pos ⟨hdie, hscan⟩).trans ?_
      rw [hgood, if_pos rfl, hload]
    by_cases hrun : s.faults.halted = false ∧ s.boot.phase ≠ .halt ∧ s.boot.phase ≠ .off ∧ s.boot.phase ≠ .scan
    · obtain ⟨hh, hb, ho, hs⟩ := hrun
      obtain ⟨w, f, bl, henter, hst⟩ := enterScan_running (s := { s with pins := p }) hh hb ho hs
      refine ⟨_, hexec, ?_⟩
      rw [henter] at hst ⊢
      exact ⟨rfl, rfl, rfl, fun _ _ _ _ => ⟨rfl, rfl, rfl, rfl, hst⟩⟩
    · have henter := enterScan_beneath (s := { s with pins := p }) hrun
      refine ⟨_, hexec, ?_⟩
      rw [henter]
      exact ⟨rfl, rfl, rfl, fun hh hb ho hs => absurd ⟨hh, hb, ho, hs⟩ hrun⟩
  case base =>
    refine (if_pos (by simp [hir])).trans ?_
    rw [hgood]
    rfl
  case other =>
    have hne : die ≠ 0 := by omega
    refine (if_pos (by simp [hdie, hir])).trans ?_
    rw [hgood]
    exact congrArg Host.Outcome.next (if_neg hne)
  case again =>
    rw [exec_railOutOfRange hw hr]
    exact congrArg Host.Outcome.next (if_pos hout)
  case array =>
    rw [exec_railOutOfRange hw hr, if_neg (by simp [hin])]
    exact congrArg Host.Outcome.next (if_pos hlow)
  case wideDown =>
    rw [exec_railOutOfRange hw hr, if_neg (by simp [hin]), hwide, railLost_wide, ← hwide, ← hv]
    exact congrArg Host.Outcome.next (if_pos (by obtain h | h := hdown <;> simp [h]))
  case wideOut =>
    rw [exec_railOutOfRange hw hr, if_neg (by simp [hin]), hwide, railLost_wide, ← hwide, ← hv]
    exact congrArg Host.Outcome.next (if_neg (by simp [hoff, hfailed, hdead]))
  case fabric =>
    rw [exec_railOutOfRange hw hr, if_neg (by simp [hin])]
    unfold railLost
    rw [if_neg (by omega), if_neg (by omega)]
  case restored =>
    rw [exec_railRestored hw (by omega)]
    have hfab : ¬ 3 ≤ rail := by omega
    simp [railBack, hout, hfab]
  case inRange =>
    rw [exec_railRestored hw hr]
    simp [railBack, hin]

end Sys2Proof.Machine

/-! # Counters and sampling (19 R499 to R508; 17 R469) -/

namespace Sys2Proof.Machine

/-! ## A tick without occurrences (R500, R501) -/

section
variable {s : State}

theorem countFor_nil (g ev q : Nat) : countFor [] g ev q = 0 := rfl

theorem perfCnt_lt (s : State) (k : Nat) : perfCnt s k < 2 ^ 48 := (smGet 0 s.perf.cnt k).isLt

/-- A counter that adds nothing does not wrap and sets no overflow bit. -/
theorem addCnt_zero (s : State) (k : Nat) : (addCnt s k 0).2 = 0 ∧ (addCnt s k 0).1.perf.ovf0 = s.perf.ovf0 := by
  have hlt : perfCnt s k + 0 < 2 ^ 48 := perfCnt_lt s k
  simp only [addCnt, if_pos hlt, and_self]

theorem countPair_nil (s : State) (m : Nat) : (countPair [] s m).perf.ovf0 = s.perf.ovf0 := by
  unfold countPair
  dsimp only
  split
  · rfl
  · obtain ⟨hwraps, hovf⟩ := addCnt_zero s (2 * m)
    simp only [countFor_nil, hwraps, ite_self]
    exact (addCnt_zero _ _).2.trans hovf

theorem perfFlush_idle (ho : s.perf.occ = []) : (perfFlush s).perf.ovf0 = s.perf.ovf0 := by
  unfold perfFlush
  split
  · rfl
  · rw [ho]
    exact List.foldlRecOn (motive := fun t : State => t.perf.ovf0 = s.perf.ovf0) _ (countPair []) rfl
      fun t ht m _ => (countPair_nil t m).trans ht

end

/-! ## Sampling (R505, R507, R508) -/

section
variable {s : State}

/-- A transaction due that finds no room is counted as lost. -/
theorem sampTake_lost {x : Sample} {l : List Sample} (hd : s.perf.due = x :: l)
    (h : 64 ≤ s.perf.open_.length ∨ traceStopped s = true) : sampTake s = occ { s with perf := { s.perf with
      due := l, lost := BitVec.ofNat 32 (satAdd 32 s.perf.lost.toNat 1) } } 0x10E 7 0xF 1 := by
  simp only [sampTake, hd]
  exact if_pos (by simpa [traceStopped] using h)

/-- Any other is sampled. -/
theorem sampTake_open {x : Sample} {l : List Sample} (hd : s.perf.due = x :: l) (hroom : s.perf.open_.length < 64)
    (hrun : traceStopped s = false) : sampTake s = occ { s with perf := { s.perf with
      due := l, open_ := s.perf.open_ ++ [x], sampled := s.perf.sampled + 1 } } 0x10D 7 0xF 1 := by
  simp only [sampTake, hd]
  refine if_neg ?_
  have hrun' : traceStopped { s with perf := { s.perf with due := l } } = false := hrun
  simp [hrun', hroom]

/-- An occurrence is noted beside the other counts. -/
theorem occ_perf (s : State) (ev grp qual n : Nat) :
    ∃ o, occ s ev grp qual n = { s with perf := { s.perf with occ := o } } := by
  unfold occ
  split
  · exact ⟨s.perf.occ, rfl⟩
  · exact ⟨_, rfl⟩

/-- The settings SAMPLE_SET takes before the countdown is reloaded. -/
def sampleTaken (s : State) (h : Nat) : State :=
  { s with perf := { s.perf with
    n := BitVec.ofNat 32 (pl s h 0 4), ctl := BitVec.ofNat 8 (pl s h 4 1),
    lfsr := if BitVec.ofNat 32 s.now = 0 then 1 else BitVec.ofNat 32 s.now } }

theorem sampReload_perf (s : State) : ∃ c x, sampReload s = { s with perf := { s.perf with countdown := c, lfsr := x } } ∧
    (sampJitter s = false → c = s.perf.n.toNat) := by
  unfold sampReload
  dsimp only
  split
  case isTrue hj => exact ⟨_, _, rfl, fun h => absurd hj (by simp [h])⟩
  case isFalse => exact ⟨_, s.perf.lfsr, rfl, fun _ => rfl⟩

end

/-- Settles O45: the counters' writes wait in `selNext` and `cntNext`; the rest is each command's one case. -/
theorem countersAndSampling : Obligations.CountersAndSampling := by
  unfold Obligations.CountersAndSampling
  intro s h hl hh
  refine ⟨fun k v hk => ⟨⟨writeCnt s k v.toNat, ?cnt, ?cntNext, rfl, rfl⟩, ⟨writeSel s k v.toNat, ?sel, rfl, rfl, rfl⟩⟩,
    whenLive_live clearCounters hl, fun v => ⟨whenLive_live (clearOvf · false v) hl, whenLive_live (clearOvf · true v) hl⟩,
    fun k hk => ?wrap, fun k _ ho => by rw [perfFlush_idle ho], fun hd => ?idle, fun x l hd => ?trigger,
    fun hr hrsv hn hc => ?set, fun hr => ?status, fun hr => hatchRun_ready (fun s => ansOk (traceClear s) h []) hh hl hr⟩
  case cnt => exact (if_pos hk).trans (whenLive_live (fun s => writeCnt s k v.toNat) hl)
  case cntNext => rfl
  case sel => exact (if_pos hk).trans (whenLive_live (fun s => writeSel s k v.toNat) hl)
  case wrap => exact (if_pos hk).trans (whenLive_live (fun s => if wrapsNow s k then perfFlush s else s) hl)
  case idle =>
    refine (whenLive_live sampTake hl).trans ?_
    simp only [sampTake, hd]
  case trigger =>
    refine ⟨_, whenLive_live sampTake hl, ?_⟩
    by_cases hlost : 64 ≤ s.perf.open_.length ∨ traceStopped s = true
    · obtain ⟨o, ho⟩ := occ_perf { s with perf := { s.perf with
        due := l, lost := BitVec.ofNat 32 (satAdd 32 s.perf.lost.toNat 1) } } 0x10E 7 0xF 1
      rw [sampTake_lost hd hlost, ho]
      refine ⟨rfl, rfl, fun _ => ⟨rfl, toNat_satAdd _ _⟩, fun hroom hrun => absurd hlost ?_⟩
      simp [hroom, hrun]
    · have hroom : s.perf.open_.length < 64 := by omega
      have hrun : traceStopped s = false := by simpa [hroom] using hlost
      obtain ⟨o, ho⟩ := occ_perf { s with perf := { s.perf with
        due := l, open_ := s.perf.open_ ++ [x], sampled := s.perf.sampled + 1 } } 0x10D 7 0xF 1
      rw [sampTake_open hd hroom hrun, ho]
      exact ⟨rfl, rfl, fun hno => absurd hno hlost, fun _ _ => ⟨rfl, rfl⟩⟩
  case set =>
    have hset : sampleSet s h = ansOk (sampReload (sampleTaken s h)) h [] := by
      unfold sampleSet
      refine withFields_legal _ hrsv ?_
      simp [hn, bit, hc]
    have hn32 : pl s h 0 4 < 2 ^ 32 := pl_lt s h 0 4
    have hc8 : pl s h 4 1 < 2 ^ 8 := pl_lt s h 4 1
    obtain ⟨c, x, hreload, hcount⟩ := sampReload_perf (sampleTaken s h)
    refine ⟨_, (hatchRun_ready (sampleSet · h) hh hl hr).trans (congrArg _ hset), ?_⟩
    rw [hreload]
    refine ⟨?_, ?_, fun hj => ?_, rfl⟩
    · exact (BitVec.toNat_ofNat _ _).trans (Nat.mod_eq_of_lt hn32)
    · exact (BitVec.toNat_ofNat _ _).trans (Nat.mod_eq_of_lt hc8)
    · refine (hcount ?_).trans ((BitVec.toNat_ofNat _ _).trans (Nat.mod_eq_of_lt hn32))
      exact (BitVec.getLsbD_ofNat _ _ _).trans (by rw [hj, Bool.and_false])
  case status =>
    refine ⟨_, hatchRun_ready (fun s => ansOk s h
      (leBytes s.perf.next.toNat 2 ++ leBytes s.perf.valid.toNat 2 ++ leBytes s.perf.sampled.toNat 8)) hh hl hr, ?_, ?_, ?_⟩
    · simp only [List.length_append, leBytes_length]
    · rw [List.append_assoc, leAt_first, mod_of_bitVec _ _ (by decide)]
    · rw [List.append_assoc, leAt_next _ 2 0 2, leAt_first, mod_of_bitVec _ _ (by decide)]

end Sys2Proof.Machine

/-! # Self-test runs (18 R484 to R495; 17 R469) -/

namespace Sys2Proof.Machine

/-! ## Rows written (R486) -/

theorem bmRead_congr {m m' : ByteMem} {a n : Nat} (h : ∀ j, a ≤ j → j < a + n → bmGet m j = bmGet m' j) :
    bmRead m a n = bmRead m' a n := by
  induction n generalizing a with
  | zero => rfl
  | succ n ih =>
    rw [bmRead, bmRead, h a (Nat.le_refl a) (by omega), ih fun j hlo hhi => h j (by omega) (by omega)]

section
variable {s : State} {pb bank row : Nat}

/-- Where no column of the block is repaired, a line lies at its own place in its row. -/
theorem cellKey_line (hc : (srBlk s pb).colRep = []) (n : Nat) :
    cellKey s pb bank row n = dramKey pb bank (cellRow s pb bank row) n := by
  simp only [cellKey, cellCol, hc, List.find?_nil]

/-- A line written leaves the other lines of its row. -/
theorem dramCw_dramPut_line (hc : (srBlk s pb).colRep = []) {n m : Nat} (h : n ≠ m) (c : Codeword) :
    dramCw (dramPut s pb bank row m c) pb bank row n = dramCw s pb bank row n := by
  have hbytes : bmRead (dramPut s pb bank row m c).dram (cellKey s pb bank row n) 72 =
      bmRead s.dram (cellKey s pb bank row n) 72 := by
    refine bmRead_congr fun j hlo hhi => dramGet_dramPut_out _ _ _ _ _ _ _ ?_
    rw [cellKey_line hc] at hlo hhi ⊢
    unfold dramKey at *
    omega
  rw [dramCw, cellKey_dramPut, hbytes, dramCw]

/-- The lines of a row that are written hold their background, whichever way they are numbered. -/
theorem foldl_writeLine (hc : (srBlk s pb).colRep = []) (f : Nat → Codeword) (l : List Nat) :
    (∃ d, l.foldl (fun s n => dramPut s pb bank row n (f n)) s = { s with dram := d }) ∧
      ∀ n ∈ l, dramCw (l.foldl (fun s n => dramPut s pb bank row n (f n)) s) pb bank row n = f n := by
  induction l using List.reverseRecOn with
  | nil => exact ⟨⟨s.dram, rfl⟩, by simp⟩
  | append_singleton l m ih =>
    obtain ⟨⟨d, hfold⟩, hlines⟩ := ih
    have hlast : (l ++ [m]).foldl (fun s n => dramPut s pb bank row n (f n)) s =
        dramPut (l.foldl (fun s n => dramPut s pb bank row n (f n)) s) pb bank row m (f m) := by simp
    rw [hlast]
    refine ⟨⟨_, by rw [hfold]; rfl⟩, fun n hn => ?_⟩
    by_cases hnm : n = m
    · rw [hnm, dramCw_dramPut]
    · have hmem : n ∈ l := by simpa [hnm] using hn
      have hcol : (srBlk (l.foldl (fun s n => dramPut s pb bank row n (f n)) s) pb).colRep = [] := by
        rw [hfold]
        exact hc
      rw [dramCw_dramPut_line hcol hnm, hlines n hmem]

theorem writeRow_lines (hc : (srBlk s pb).colRep = []) (bg : Bool) : (∃ d, writeRow s pb bank row bg = { s with dram := d }) ∧
    ∀ n < 32, dramCw (writeRow s pb bank row bg) pb bank row n = backLine bg row n := by
  obtain ⟨hframe, hlines⟩ := foldl_writeLine (bank := bank) (row := row) hc (backLine bg row) (List.range 32)
  exact ⟨hframe, fun n hn => hlines n (List.mem_range.mpr hn)⟩

end

/-- The lines of internal work are taken from the reserve and counted in their region. -/
theorem runLines_frame (s : State) (pb n : Nat) :
    ∃ bl h, runLines s pb n = { s with blocks := bl, heat := h } := by
  unfold runLines
  dsimp only
  split <;> exact ⟨_, _, rfl⟩

/-! ## Runs (R484, R485, R494) -/

/-- TEST_START opens a deferred run with the next TEST_ID. -/
theorem openRun_deferred {s : State} (h : condsHeld s = false) (kind pb bank first count : Nat) :
    ∃ r : TestRun, openRun s kind pb bank first count = { s with test := { s.test with
        runs := keepRuns s.test.runs ++ [r], nextId := s.test.nextId + 1 } } ∧
      r.id = s.test.nextId ∧ r.kind = kind ∧ r.pblock = pb ∧ r.result = .deferred ∧
      r.expected = if kind = 1 then 44635136 else 10240 * count :=
  ⟨_, if_neg (fun held => Bool.false_ne_true (h.symm.trans held)), rfl, rfl, rfl, rfl, rfl⟩

section
variable {s : State} {h : Nat} (hl : live s = true) (hh : h < 16)
include hl hh

/-- TEST_START of a block. -/
theorem exec_testStart_block {pb : Nat} (hr : hatchReady s h 0x0609 0x0609 = true) (hrsv : reservedBad s h [(0, 5)] = [])
    (hk : pl s h 0 1 = 1) (hb : pl s h 1 1 = pb) (hlt : pb < 36) (h2 : pl s h 2 1 = 0) (h3 : pl s h 3 1 = 0)
    (h4 : pl s h 4 1 = 0) : exec (.testStart h) s = .next (
      if (srBlk s pb).st = .retired then
        if testBusy s 1 pb 0 then ans s h 1 else ansOk (openRun s 1 pb 0 0 0) h (leBytes s.test.nextId 4)
      else ans s h 3) := by
  refine (hatchRun_ready (testStart · h) hh hl hr).trans (congrArg _ ?_)
  have hdenied : testDenied s 1 pb 0 = !decide ((srBlk s pb).st = .retired) := by
    cases hst : (srBlk s pb).st <;> simp [testDenied, hst]
  unfold testStart
  rw [hk, hb, h2, h3, h4]
  refine (withFields_legal _ hrsv ?_).trans ?_
  · simp
    omega
  · have hcount : testUnsupported s 1 pb = false := by simp [testUnsupported]
    simp only [hcount, hdenied, Bool.false_eq_true, if_false]
    by_cases hst : (srBlk s pb).st = .retired <;> simp [hst]

/-- A run of a step list is found by its id. -/
theorem exec_testResult_held {r : TestRun} (hr : hatchReady s h 0x060A 0x060A = true) (hrsv : reservedBad s h [(0, 4)] = [])
    (hid : pl s h 0 4 ≠ 0) (hrun : runGet s (pl s h 0 4) = some r) :
    exec (.testResult h) s = .next (ansOk s h (runRecord s r)) := by
  refine (hatchRun_ready (testResult · h) hh hl hr).trans (congrArg _ ?_)
  unfold testResult
  refine (withFields_legal _ hrsv rfl).trans ?_
  simp only [runHeld, hid, if_false, hrun]

end

theorem runRecord_fields (s : State) (r : TestRun) : (runRecord s r).length = 40 ∧
    leAt (runRecord s r) 0 4 = resultCode r.result ∧ leAt (runRecord s r) 16 8 = r.sigM.toNat ∧
    leAt (runRecord s r) 24 8 = r.steps % 2 ^ 64 := by
  have hcode : resultCode r.result < 256 ^ 4 := by cases r.result <;> decide
  unfold runRecord
  simp only [List.append_assoc]
  refine ⟨by simp only [List.length_append, leBytes_length], ?_, ?_, ?_⟩
  · rw [leAt_first, Nat.mod_eq_of_lt hcode]
  · rw [leAt_next _ 4 12 8, leAt_next _ 4 8 8, leAt_next _ 8 0 8, leAt_first, mod_of_bitVec _ _ (by decide)]
  · have hpow : (256 : Nat) ^ 8 = 2 ^ 64 := by decide
    rw [leAt_next _ 4 20 8, leAt_next _ 4 16 8, leAt_next _ 8 8 8, leAt_next _ 8 0 8, leAt_first, hpow]

/-! ## Steps of the one open run (R486 to R494) -/

section
variable {s : State} {r : TestRun} (hruns : s.test.runs = [r])
include hruns

theorem runGet_single : runGet s r.id = some r := by simp [runGet, hruns]

theorem modRun_single (f : TestRun → TestRun) :
    modRun s r.id f = { s with test := { s.test with runs := [f r] } } := by simp [modRun, hruns]

/-- The run that waits for its unit, on a bank that holds no data, is marched directly (R489). -/
theorem unitGrant_direct {g : Nat} (hk : r.kind = 2) (hb : r.pblock / 9 = g) (hp : r.phase = .waitUnit)
    (hres : r.result = .running) (hin : inService s = true) (hst : regionStopped s g = false)
    (hserv : (blk s r.pblock).st = .serving) (hmax : 1 ≤ s.test.istMax.toNat) (hd : holdsNoData s r.pblock r.bank = true) :
    unitGrant s g = { s with test := { s.test with runs := [beginSub s.now .march none r] } } := by
  have hfind : s.test.runs.find? (fun t => t.kind = 2 && t.pblock / 9 = g && t.phase == .waitUnit && t.result == .running) =
      some r := by simp [hruns, hk, hb, hp, hres]
  have hnone : s.test.runs.filter (fun t => underTest t && t.pblock / 9 = g) = [] := by simp [hruns, underTest, hp]
  have hroom : ¬ s.test.istMax.toNat ≤ 0 := by omega
  simp only [unitGrant, hfind, hin, hst, hserv, hnone, hd, List.length_nil, hroom, modRun_single hruns, Bool.not_true,
    Bool.or_self, bne_self_eq_false, decide_false, Bool.false_eq_true, if_false, if_true]

/-- The first write step of a march: the row holds its background, and the step counts. -/
theorem bankStep_first_element (h : r.saStep < 1024) (hc : (srBlk s r.pblock).colRep = []) :
    ∃ d, bankStep s r [] false = { s with dram := d, test := { s.test with runs :=
        [{ r with sigM := sigStep r.sigM 0, steps := r.steps + 1, saStep := r.saStep + 1, stepAt := s.now }] } } ∧
      ∀ n < 32, dramCw (bankStep s r [] false) r.pblock r.bank (r.cur * 1024 + r.saStep) n =
        backLine false (r.cur * 1024 + r.saStep) n := by
  obtain ⟨⟨d, hwrite⟩, hlines⟩ := writeRow_lines (bank := r.bank) (row := r.cur * 1024 + r.saStep) hc false
  have hstep : bankStep s r [] false = modRun (writeRow s r.pblock r.bank (r.cur * 1024 + r.saStep) false) r.id (fun t =>
      { t with sigM := sigStep t.sigM 0, steps := t.steps + 1, saStep := t.saStep + 1,
               stepAt := (writeRow s r.pblock r.bank (r.cur * 1024 + r.saStep) false).now }) := by
    have hmarch : marchStep 1024 r.saStep = (r.saStep, true, false) := by simp only [marchStep, h, if_true]
    have hword : stepWord [] false = 0 := by simp [stepWord, b2n]
    have hmore : r.saStep + 1 < 10240 := by omega
    simp only [bankStep, hmarch, hword, hmore, if_true]
  rw [hwrite] at hstep hlines
  exact ⟨d, hstep.trans (modRun_single (s := { s with dram := d }) hruns _), fun n hn => hstep ▸ hlines n hn⟩

/-- A step among the logic patterns of a block BIST finds nothing and enters the word 0 (R493). -/
theorem bistStep_logic_clean (hn : r.steps + 1 < logicSteps) (hmore : r.steps + 1 < r.expected) :
    bistStep s r [] false = { s with test := { s.test with runs :=
      [{ r with sigM := sigStep r.sigM 0, steps := r.steps + 1, stepAt := s.now }] } } := by
  have hlogic : decide (logicSteps + loopSteps ≤ r.steps) = false := decide_eq_false (by omega)
  simp only [bistStep, hlogic, Bool.false_and, Bool.false_eq_true, if_false, List.length_nil, Nat.zero_min,
    List.isEmpty_nil, Bool.not_true, Bool.and_false, hmore, if_true, modRun_single hruns]

/-- A step without a bad bit, of a live stack. -/
theorem exec_testMarchStep_clean (hl : live s = true) (hres : r.result = .running) (hend : r.endWith = none) :
    exec (.testMarchStep r.id [] false) s = .next (
      if r.phase == .march then
        if mayRun s r.pblock 10 32 r.stepAt then settle (bankStep (runLines s r.pblock 32) r [] false) else s
      else if r.phase == .bist then settle (bistStep s r [] false)
      else s) := by
  have hexec : exec (.testMarchStep r.id [] false) s = whenLive s (testStep · r.id [] false) := by
    simp only [exec, execTestMarchStep, List.all_nil, List.eraseDups_nil, if_true]
  rw [hexec, whenLive_live _ hl, testStep, runGet_single hruns]
  simp [hres, hend]

end

/-- Settles O46: the run of each clause is brought to the one open run, or to the one its number finds; the march's rows
are read back line by line. -/
theorem selfTestRuns : Obligations.SelfTestRuns := by
  unfold Obligations.SelfTestRuns
  intro s h hl hh
  refine ⟨fun pb hr hrsv hk hb hlt h2 h3 h4 => ?start, fun r hr hrsv hid hrun => ⟨_, exec_testResult_held hl hh hr hrsv hid
    hrun, runRecord_fields s r⟩, fun hc => ?held, fun hc => ?broken, fun id d r hrun hdef hopen hlong => ?limit,
    fun g r hg hruns hk hb hp hres hin hst hserv hmax hd => ?grant, fun id u r hrun hp hu hmay => ?copied,
    fun r hruns hp hres hend hsa hc hmay => ?march, fun r hruns hp hres hend hn hexp => ?bist,
    fun id u r hrun hp hu howed hst hserv hmay => ?restored⟩
  case start =>
    have hexec := exec_testStart_block hl hh hr hrsv hk hb hlt h2 h3 h4
    refine ⟨fun hst => hexec.trans (congrArg _ (if_neg hst)), fun hst hbusy => hexec.trans ?_, fun hst hbusy hc => ?_⟩
    · rw [if_pos hst, if_pos hbusy]
    · obtain ⟨r, hopen, hid, hkind, hpb, hres, hexp⟩ := openRun_deferred hc 1 pb 0 0 0
      rw [if_pos hst, hbusy] at hexec
      refine ⟨_, r, hexec, ?_⟩
      rw [hopen]
      exact ⟨rfl, hid, hkind, hpb, hres, hexp, rfl, rfl⟩
  case held =>
    refine (whenLive_live (fun s => if condsHeld s then resumeRuns s else s) hl).trans ?_
    simp only [hc, if_true]
  case broken =>
    refine (whenLive_live (fun s => if condsHeld s then resumeRuns s else s) hl).trans ?_
    simp only [hc, Bool.false_eq_true, if_false]
  case limit =>
    refine (whenLive_live (deferLimit · id) hl).trans ?_
    simp [deferLimit, hrun, hdef, hopen, ms, hlong]
  case grant =>
    refine (if_pos hg).trans ((whenLive_live (unitGrant · g) hl).trans ?_)
    rw [unitGrant_direct hruns hk hb hp hres hin hst hserv hmax hd]
    rfl
  case copied =>
    refine ⟨_, (whenLive_live (copyIn · id) hl).trans ?_, rfl⟩
    simp only [copyIn, hrun, hp, hu, hmay, Bool.not_true, Bool.false_eq_true, if_false]
  case march =>
    obtain ⟨bl, hz, hlines⟩ := runLines_frame s r.pblock 32
    obtain ⟨d, hstep, hrow⟩ := bankStep_first_element (s := { s with blocks := bl, heat := hz }) hruns hsa hc
    refine ⟨_, (exec_testMarchStep_clean hruns hl hres hend).trans (by rw [hp, hmay]; rfl), ?_⟩
    rw [hlines]
    refine ⟨?_, hrow, ?_⟩ <;> rw [hstep]
  case bist =>
    have hmore : r.steps + 1 < r.expected := by omega
    refine (exec_testMarchStep_clean hruns hl hres hend).trans ?_
    rw [bistStep_logic_clean hruns hn hmore, if_neg (by simp [hp]), if_pos (by simp [hp])]
  case restored =>
    refine (whenLive_live (restoreDone · id) hl).trans ?_
    simp [restoreDone, hrun, hp, hu, howed, hst, hserv, hmay]

end Sys2Proof.Machine

/-! # What settles leaves the two-wire bus as it is (20 R513 to R516; 12 R357)

Nothing that a round advances asks for a transaction of the two-wire bus or drops one; a chip halt met on the way
releases the bus, and nothing waits for it then.  Each lemma below carries that along one operation. -/

namespace Sys2Proof.Machine

/-- `t` has the two-wire bus of `s`, or nothing waits for it in `t`. -/
def BusKept (s t : State) : Prop := t.tw = s.tw ∨ t.tw.waiting = []

namespace BusKept

theorem refl (s : State) : BusKept s s := .inl rfl

theorem trans {s t u : State} (h : BusKept s t) (k : BusKept t u) : BusKept s u := by
  rcases k with hsame | hnone
  · rwa [BusKept, hsame]
  · exact .inr hnone

theorem ite {s t u : State} {c : Prop} [Decidable c] (ht : BusKept s t) (hu : BusKept s u) :
    BusKept s (if c then t else u) := by
  split
  · exact ht
  · exact hu

theorem foldl {α : Type} {f : State → α → State} (hf : ∀ u a, BusKept u (f u a)) {s t : State}
    (h : BusKept s t) (l : List α) : BusKept s (l.foldl f t) := by
  induction l generalizing t with
  | nil => exact h
  | cons a l ih => exact ih (h.trans (hf t a))

theorem of_onlyEvents {s t u : State} (k : OnlyEvents t u) (h : BusKept s t) : BusKept s u := by
  obtain ⟨_, _, _, rfl⟩ := k
  exact h

/-- The state of a pair that an operation answers. -/
theorem of_fst {α : Type} {s u : State} {p : State × α} {a : α} (h : BusKept s p.1) (k : p = (u, a)) : BusKept s u := by
  rwa [k] at h

section
variable {s t : State} (h : BusKept s t)
include h

/-! ## Records written -/

theorem ucRegPut (r : Nat) (u : UcRegion) : BusKept s (ucRegPut t r u) := h

theorem modBlk (b : Nat) (f : Block → Block) : BusKept s (modBlk t b f) := h

/-! ## Events, credits and messages -/

theorem occ (ev grp qual n : Nat) : BusKept s (occ t ev grp qual n) := of_onlyEvents (onlyEvents_occ t ev grp qual n) h

theorem post (r : EvtRec) (cls srcs : List Nat) (n : Bool) : BusKept s (post t r cls srcs n) :=
  of_onlyEvents (onlyEvents_post t r cls srcs n) h

theorem raiseC0 (lv : FLevel) (region elem code detail lim : Nat) : BusKept s (raiseC0 t lv region elem code detail lim) :=
  of_onlyEvents (onlyEvents_raiseC0At t t.now lv region elem code detail lim) h

theorem c0 (elem code detail lim : Nat) : BusKept s (c0 t elem code detail lim) := h.raiseC0 _ _ _ _ _ _

theorem modLink (p : Nat) (f : Link → Link) : BusKept s (modLink t p f) := ite h h

theorem retHdr (ing k n : Nat) : BusKept s (retHdr t ing k n) := ite h (h.modLink _ _)

theorem retLine (ing k n : Nat) : BusKept s (retLine t ing k n) := ite h (h.modLink _ _)

theorem retMsg (w : Waiting) : BusKept s (retMsg t w) := ite ((h.retHdr _ _ _).retLine _ _ _) h

theorem unreachable (p : Nat) (n : Node) (isReq : Bool) : BusKept s (unreachable t p n isReq) := by
  refine c0 ?_ _ 0x0406 n.toNat (ms 1)
  exact h

theorem wpDiscard (n : Node) : BusKept s (wpDiscard t n) := by
  refine c0 ?_ 0 0x0202 n.toNat 0
  exact h

theorem sendTo (dst : Node) (m : OutMsg) : BusKept s (sendTo t dst m).1 := by
  unfold Machine.sendTo
  dsimp only
  split
  · exact h.wpDiscard dst
  · split
    · exact h.modLink _ _
    · exact h.unreachable _ _ _

theorem answerNoCtx (ing : Nat) (m : Msg) (status addr : Nat) : BusKept s (answerNoCtx t ing m status addr) :=
  ite h (sendTo (t := Machine.sampReady t _ _ _) h _ _)

/-! ## Samples, contexts and answers -/

theorem sampEligible (c : Nat) (x : Sample) : BusKept s (sampEligible t c x) :=
  ite (ite (ite h h) h) h

theorem traceWrite (x : Sample) (status : Nat) : BusKept s (traceWrite t x status) := ite h h

theorem sampTake : BusKept s (sampTake t) := by
  unfold Machine.sampTake
  split
  · exact h
  · refine ite (occ ?_ _ _ _ _) (occ ?_ _ _ _ _) <;> exact h

theorem sampEnd (node : Node) (tag : Tag) (snoop : Bool) (status : Nat) : BusKept s (sampEnd t node tag snoop status) := by
  unfold Machine.sampEnd
  extract_lets u
  have hu : BusKept s u := by
    dsimp only [u]
    split
    · exact foldl (fun v _ => (refl v).sampTake) h _
    · exact h
  split
  · refine traceWrite ?_ _ _
    exact hu
  · exact hu

theorem ctxPlaced (i : Nat) : BusKept s (ctxPlaced t i) := h

theorem sampCtx (i served : Nat) : BusKept s (sampCtx t i served) := by
  unfold Machine.sampCtx
  split <;> exact h

theorem freeLines (ing n : Nat) : BusKept s (freeLines t ing n) := ite h (ite h h)

/-- The answer of a context: counted, sampled and sent; where it has no egress its context is placed. -/
theorem answerWith (c : Ctx) (h0 h1 : Slot) (lines : List Line) : BusKept s (answerWith t c h0 h1 lines) := by
  unfold Machine.answerWith
  extract_lets u v w
  have hu : BusKept s u := ite (h.occ _ _ _ _) (ite (h.occ _ _ _ _) h)
  have hw : BusKept s w := hu
  refine ite (hw.ctxPlaced _) ?_
  split
  next x ok hx =>
    have hsent : BusKept s x := of_fst (hw.sendTo _ _) hx
    extract_lets back y
    have hy : BusKept s y := ite (hsent.freeLines _ _) hsent
    exact ite hy (hy.sampEnd _ _ _ _)

theorem answerStatus (c : Ctx) (status addr : Nat) : BusKept s (answerStatus t c status addr) := h.answerWith _ _ _ _

theorem answerCmp (c : Ctx) (status addr grant : Nat) : BusKept s (answerCmp t c status addr grant) := h.answerWith _ _ _ _

theorem answerData (c : Ctx) (ls : List (Line × Bool)) (addrs : List Nat) (grant : Nat) :
    BusKept s (answerData t c ls addrs grant) := h.answerWith _ _ _ _

theorem endCtx (c : Ctx) (status : Nat) : BusKept s (endCtx t c status) := by
  unfold Machine.endCtx
  extract_lets u _ v lines w x _ y
  have hv : BusKept s v := h
  have hw : BusKept s w := ite (hv.freeLines _ _) hv
  have hy : BusKept s y := hw
  exact hy.answerStatus _ _ _

/-! ## The regulator, rings and test runs -/

theorem regAdvance : BusKept s (regAdvance t) := ite h h

theorem refund (w : Waiting) : BusKept s (refund t w) := by
  unfold Machine.refund
  exact h.regAdvance

theorem giveRings : BusKept s (giveRings t) := by
  refine foldl (fun u r => ite (.refl u) (ite ?_ ?_)) h _ <;> exact .refl u

theorem endRun (id : Nat) (res : TResult) : BusKept s (endRun t id res) := by
  unfold Machine.endRun
  split
  · refine ite h ?_
    extract_lets u v w
    have hu : BusKept s u := h
    have hv : BusKept s v := by
      refine foldl (fun a r => ?_) hu _
      extract_lets w
      exact ite ((refl a).ucRegPut _ _) (.refl a)
    have hw : BusKept s w := ite (hv.modBlk _ _) hv
    exact hw.c0 _ _ _ _
  · exact h

theorem incompleteRuns (sel : TestRun → Bool) (forced : Bool) : BusKept s (incompleteRuns t sel forced) := by
  refine foldl (fun u id => ?_) h _
  split
  · exact ite (.refl u) ((refl u).endRun _ _)
  · exact .refl u

theorem yieldTests (r : Nat) : BusKept s (yieldTests t r) := ite h (h.incompleteRuns _ _)

/-! ## Fault records -/

theorem logOverflow : BusKept s (logOverflow t) := by
  refine ite h (c0 ?_ _ _ _ _)
  exact h

theorem logWrite (e : LogEnt) : BusKept s (logWrite t e).1 := by
  unfold Machine.logWrite
  split
  · exact h
  · split
    · refine logOverflow ?_
      exact h
    · exact h

theorem setLast (r : FaultRec) : BusKept s (setLast t r) := ite h h

theorem modRec (fid : BitVec 32) (f : FaultRec → FaultRec) : BusKept s (modRec t fid f) := by
  unfold Machine.modRec
  split
  · exact h
  · refine setLast (ite ?_ (logWrite ?_ _)) _ <;> exact h

theorem newRec (r : FaultRec) : BusKept s (newRec t r) := by
  unfold Machine.newRec
  extract_lets _ placed v w _
  have hplaced (u : State) (hu : placed = some u) : BusKept s u := by
    dsimp only [placed] at hu
    split_ifs at hu with hchip
    · exact Option.some.inj hu ▸ h.logWrite _
    · split at hu
      · refine Option.some.inj hu ▸ logWrite ?_ _
        exact h
      · exact nomatch hu
  clear_value placed
  split
  next u =>
    extract_lets _ x
    have hx : BusKept s x := hplaced u rfl
    exact (hx.setLast _).post _ _ _ _
  next =>
    have hv : BusKept s v := h
    refine ite ((hv.setLast _).post _ _ _ _) (c0 ?_ _ _ _ _)
    exact h.post _ _ _ _

theorem ackRec (fid : BitVec 32) : BusKept s (ackRec t fid) := by
  unfold Machine.ackRec
  split
  · exact ite h (h.modRec _ _)
  · exact h

theorem autoAck (r : FaultRec) : BusKept s (autoAck t r) := by
  unfold Machine.autoAck
  split
  · exact ite (h.ackRec _) h
  · exact ite (h.ackRec _) h
  · exact h

/-! ## A region stops, a chip halts (12 R354, R357) -/

theorem answerStopped (w : Waiting) (held : Bool) : BusKept s (answerStopped t w held) := by
  unfold Machine.answerStopped
  exact (ite (h.retMsg w) (h.refund w)).answerNoCtx _ _ _ _

theorem stopWaiting (r : Nat) : BusKept s (stopWaiting t r) := by
  unfold Machine.stopWaiting
  refine foldl (fun u w => (refl u).answerStopped w false) (foldl (fun u w => (refl u).answerStopped w true) ?_ _) _
  exact h

theorem stopContexts (r : Nat) : BusKept s (stopContexts t r) := foldl (fun u c => (refl u).endCtx c _) h _

theorem stopOps (r : Nat) : BusKept s (stopOps t r) := h

theorem abandonMigration (r : Nat) : BusKept s (abandonMigration t r) := by
  unfold Machine.abandonMigration
  refine ite h ?_
  split <;> exact h

theorem stopBlocks (r : Nat) : BusKept s (stopBlocks t r) := by
  refine foldl (fun u b => ?_) h _
  exact .refl u

theorem oweScans (r : Nat) : BusKept s (oweScans t r) := by
  unfold Machine.oweScans
  split <;> exact h

theorem regionStop (r : Nat) : BusKept s (regionStop t r) := by
  unfold Machine.regionStop
  refine ite h ?_
  extract_lets _ u v
  have hu : BusKept s u := h
  exact ((((((hu.oweScans r).stopWaiting r).stopContexts r).stopOps r).abandonMigration r).incompleteRuns _ _).stopBlocks r

theorem freezeHatches : BusKept s (freezeHatches t) := by
  refine foldl (fun u i => ?_) h _
  exact .refl u

theorem haltPorts : BusKept s (haltPorts t) := by
  unfold Machine.haltPorts
  refine foldl (fun u p => ?_) (ite h ?_) _
  · exact .refl u
  · exact h

theorem haltBlocks : BusKept s (haltBlocks t) := by
  refine foldl (fun u b => ?_) h _
  exact .refl u

/-- A chip halt releases the lines of the bus: nothing waits for it. -/
theorem chipHalt : BusKept s (chipHalt t) := by
  unfold Machine.chipHalt
  refine ite h (haltBlocks (haltPorts (freezeHatches ?_)))
  exact .inr rfl

theorem secondEvent (fid : BitVec 32) (cls : FClass) (code detail : Nat) :
    BusKept s (secondEvent t fid cls code detail) := by
  unfold Machine.secondEvent
  split
  · exact h.post _ _ _ _
  · exact h

theorem react (cls : FClass) (lv : FLevel) (region : Nat) : BusKept s (react t cls lv region) := by
  unfold Machine.react
  split
  · exact ite h (h.regionStop _)
  · exact h.chipHalt
  · exact h

theorem mergeInto (fid : BitVec 32) (cls : FClass) (code detail : Nat) : BusKept s (mergeInto t fid cls code detail) :=
  (h.modRec _ _).secondEvent _ _ _ _

theorem escalateRec (r : FaultRec) (cls : FClass) (code detail : Nat) : BusKept s (escalateRec t r cls code detail) := by
  unfold Machine.escalateRec
  extract_lets u fits v
  have hv : BusKept s v := ((h.modRec _ _).secondEvent _ _ _ _).react _ _ _
  exact ite (hv.autoAck _) hv

theorem createRec (cls : FClass) (lv : FLevel) (region el code detail : Nat) :
    BusKept s (createRec t cls lv region el code detail) := by
  unfold Machine.createRec
  extract_lets r fits v
  have hv : BusKept s v := (h.newRec r).react _ _ _
  exact ite (hv.autoAck _) hv

theorem raise (cls : FClass) (lv : FLevel) (region el code detail : Nat) :
    BusKept s (raise t cls lv region el code detail) := by
  unfold Machine.raise
  refine ite h (ite (h.createRec _ _ _ _ _ _) ?_)
  split
  · exact h.mergeInto _ _ _ _
  · split
    · exact h.createRec _ _ _ _ _ _
    · exact ite (h.mergeInto _ _ _ _) (ite (h.escalateRec _ _ _ _) (ite (h.createRec _ _ _ _ _ _) (h.mergeInto _ _ _ _)))

theorem violation (n : Node) (op target rule : Nat) (noMatch narrowed : Bool) (ing addr : Nat) :
    BusKept s (violation t n op target rule noMatch narrowed ing addr) := by
  unfold Machine.violation
  extract_lets v r due u w
  have hw : BusKept s w := occ (t := u) h _ _ _ _
  exact ite (hw.c0 _ _ _ _) hw

/-! ## Directory, tags and cells -/

theorem dirPut (region set way : Nat) (d : DirSlot) : BusKept s (dirPut t region set way d) := h

theorem tagPut (region set way : Nat) (x : Tag6) : BusKept s (tagPut t region set way x) := h

theorem framePut (region set way line : Nat) (c : Codeword) : BusKept s (framePut t region set way line c) := h

theorem shadowPut (region unit row line : Nat) (c : Codeword) : BusKept s (shadowPut t region unit row line c) := h

theorem dramPut (pb bank row line : Nat) (c : Codeword) : BusKept s (dramPut t pb bank row line c) := h

theorem countLines (r n : Nat) : BusKept s (countLines t r n) := h

theorem ageSet (region set except : Nat) : BusKept s (ageSet t region set except) := by
  refine foldl (fun u w => ite (.refl u) ?_) h _
  split
  · exact (refl u).dirPut _ _ _ _
  · exact (refl u).dirPut _ _ _ _
  · exact (refl u).dirPut _ _ _ _
  · exact .refl u

theorem dirFree (region set way : Nat) : BusKept s (dirFree t region set way) := by
  unfold Machine.dirFree
  split
  · exact (h.dirPut _ _ _ _).dirPut _ _ _ _
  · exact h.dirPut _ _ _ _

theorem dirWrite (region sec way : Nat) (v : DView) : BusKept s (dirWrite t region sec way v) := by
  unfold Machine.dirWrite
  extract_lets set tag u
  have hu : BusKept s u := by
    dsimp only [u]
    split
    · exact h.dirPut _ _ _ _
    · exact h.dirPut _ _ _ _
    · exact h.dirPut _ _ _ _
    · exact (h.dirPut _ _ _ _).dirPut _ _ _ _
    · exact h
  exact hu.ageSet _ _ _

theorem markKnown (region sec : Nat) : BusKept s (markKnown t region sec) := ite h (h.ucRegPut _ _)

theorem cellWrite (pb pbank row line : Nat) (c : Codeword) : BusKept s (cellWrite t pb pbank row line c) := by
  unfold Machine.cellWrite
  split
  · exact ite (h.shadowPut _ _ _ _ _) ((h.shadowPut _ _ _ _ _).dramPut _ _ _ _ _)
  · exact h.dramPut _ _ _ _ _

theorem keyWrite (pb key : Nat) (c : Codeword) : BusKept s (keyWrite t pb key c) := by
  unfold Machine.keyWrite
  extract_lets u
  have hu : BusKept s u := h.cellWrite _ _ _ _ _
  split
  · exact hu.cellWrite _ _ _ _ _
  · exact hu

theorem ptabMark (pb key : Nat) (poisoned : Bool) : BusKept s (ptabMark t pb key poisoned) :=
  ite ((h.modBlk _ _).raiseC0 _ _ _ _ _ _) (h.modBlk _ _)

theorem touchFrame (r set way : Nat) : BusKept s (touchFrame t r set way) :=
  foldl (fun u _ => ite ((refl u).tagPut _ _ _ _) (ite ((refl u).tagPut _ _ _ _) (.refl u))) h _

theorem frameInstall (r set way line : Nat) (c : Codeword) (dirty : Bool) :
    BusKept s (frameInstall t r set way line c dirty) :=
  ((h.tagPut _ _ _ _).framePut _ _ _ _ _).touchFrame _ _ _

theorem frameDrop (r set way line : Nat) : BusKept s (frameDrop t r set way line) := h.tagPut _ _ _ _

theorem frameWriteBack (r set way : Nat) : BusKept s (frameWriteBack t r set way) := by
  unfold Machine.frameWriteBack
  refine tagPut (foldl (fun u n => ?_) h _) _ _ _ _
  exact ((refl u).keyWrite _ _ _).ptabMark _ _ _

theorem setHint (lb key o : Nat) : BusKept s (setHint t lb key o) := by
  unfold Machine.setHint
  extract_lets pb u
  have hu : BusKept s u := h.modBlk _ _
  split
  · split
    · exact ite hu (hu.frameInstall _ _ _ _ _ _)
    · exact hu
  · split
    · exact ite hu (hu.keyWrite _ _ _)
    · exact hu

theorem addLost (lb key : Nat) : BusKept s (addLost t lb key) := by
  refine ite h ?_
  exact h

theorem placeEnt (lb : Nat) (e : WEnt) : BusKept s (placeEnt t lb e) := by
  unfold Machine.placeEnt
  extract_lets pb e' u
  have hu : BusKept s u := (h.modBlk _ _).countLines _ _
  refine ite hu ?_
  split
  · exact (hu.modBlk _ _).countLines _ _
  · exact hu

theorem pruneMirrors : BusKept s (pruneMirrors t) := ite h h

theorem victimBatch (r set way : Nat) : BusKept s (victimBatch t r set way) := by
  unfold Machine.victimBatch
  extract_lets tag rid u tag' key
  have hu : BusKept s u := by
    refine foldl (fun v n => ?_) h _
    refine ite ?_ (.refl v)
    extract_lets val ord e w _ x tag''
    have hx : BusKept v x := (refl v).placeEnt _ _
    exact (hx.tagPut _ _ _ _).occ _ _ _ _
  refine ite (tagPut ?_ _ _ _ _) (tagPut ?_ _ _ _ _) <;> exact hu

/-! ## Frames and slices lost -/

theorem poisonLine (lb key : Nat) : BusKept s (poisonLine t lb key) := (h.keyWrite _ _ _).ptabMark _ _ _

theorem poisonUnitRows (idx : Nat) (x : TestRun) : BusKept s (poisonUnitRows t idx x) := by
  unfold Machine.poisonUnitRows
  split
  · exact foldl (fun u _ => foldl (fun v _ => (refl v).shadowPut _ _ _ _ _) (.refl u) _) h _
  · exact h

theorem retireFrame (r set w : Nat) (readable : Bool) : BusKept s (retireFrame t r set w readable) := by
  unfold Machine.retireFrame
  extract_lets tag u v
  have hu : BusKept s u := ite (h.frameWriteBack _ _ _) (foldl (fun x _ => (refl x).poisonLine _ _) h _)
  have hv : BusKept s v := hu.tagPut _ _ _ _
  refine ite ?_ hv
  split
  · exact hv.tagPut _ _ _ _
  · exact ite hv (hv.ucRegPut _ _)

theorem loseDirSlice (r idx : Nat) (readable : Bool) : BusKept s (loseDirSlice t r idx readable) := by
  unfold Machine.loseDirSlice
  extract_lets u v w x
  have hv : BusKept s v := h.ucRegPut _ _
  exact ite hv hv

theorem regionFault (cls : FClass) (r code detail : Nat) : BusKept s (regionFault t cls r code detail) :=
  h.raise _ _ _ _ _ _

theorem sliceFault (cls : FClass) (slice code detail : Nat) : BusKept s (sliceFault t cls slice code detail) :=
  h.raise _ _ _ _ _ _

theorem restartRings (r : Nat) : BusKept s (restartRings t r) := h

theorem firstLoss (r idx : Nat) (readable : Bool) : BusKept s (firstLoss t r idx readable) := by
  unfold Machine.firstLoss
  extract_lets runs pois u v w
  have hu : BusKept s u := foldl (fun x _ => (refl x).retireFrame _ _ _ _) h _
  have hv : BusKept s v := incompleteRuns (foldl (fun x _ => (refl x).poisonUnitRows _ _) hu _) _ _
  have hw : BusKept s w := ((hv.loseDirSlice _ _ _).restartRings _).yieldTests _
  exact hw.sliceFault _ _ _ _

theorem sliceLoss (slice : Nat) (readable : Bool) : BusKept s (sliceLoss t slice readable) := by
  unfold Machine.sliceLoss
  extract_lets r idx u
  split
  · exact h.firstLoss _ _ _
  · exact ite h (((foldl (fun x _ => (refl x).retireFrame _ _ _ _) h _).ucRegPut _ _).regionFault _ _ _ _)

theorem storeChanged : BusKept s (storeChanged t) := h

theorem faultyFrame (r set way : Nat) : BusKept s (faultyFrame t r set way) := by
  unfold Machine.faultyFrame
  refine ite h ?_
  extract_lets n slice u v
  have hv : BusKept s v := (h.retireFrame _ _ _ _).storeChanged.sliceFault _ _ _ _
  exact ite (hv.sliceLoss _ _) hv

theorem badFrame (lb key set w : Nat) : BusKept s (badFrame t lb key set w).1 := by
  unfold Machine.badFrame
  dsimp only
  split
  · exact (h.framePut _ _ _ _ _).sliceFault _ _ _ _
  · exact (h.frameDrop _ _ _ _).raiseC0 _ _ _ _ _ _

theorem judgeFrame (r set w n : Nat) : BusKept s (judgeFrame t r set w n) := by
  unfold Machine.judgeFrame
  extract_lets key nowMs live f _ u
  have hu : BusKept s u := h
  exact ite (hu.faultyFrame _ _ _) hu

theorem frameCheck (lb key set w : Nat) : BusKept s (frameCheck t lb key set w).1 := by
  unfold Machine.frameCheck
  dsimp only
  split
  · exact ite h ((h.framePut _ _ _ _ _).judgeFrame _ _ _ _)
  · exact h.badFrame _ _ _ _

theorem readFrame (lb key set w : Nat) : BusKept s (readFrame t lb key set w).1 :=
  ((h.touchFrame _ _ _).occ _ _ _ _).frameCheck _ _ _ _

/-! ## Snoops -/

theorem modCtx (i : Nat) (f : Ctx → Ctx) : BusKept s (modCtx t i f) := h

theorem modSnoop (n : Snoop) (f : Snoop → Snoop) : BusKept s (modSnoop t n f) := h

theorem dropSnoops (ctx region sec : Nat) : BusKept s (dropSnoops t ctx region sec) := h

theorem dropReads (i : Nat) : BusKept s (dropReads t i) := h

theorem dropWrites (i : Nat) : BusKept s (dropWrites t i) := h

theorem refreshReads (lb key ord : Nat) : BusKept s (refreshReads t lb key ord) := h

theorem placeReturned (lb key ord : Nat) (d : Line) (p : Bool) (ctx : Nat) :
    BusKept s (placeReturned t lb key ord d p ctx) := by
  refine ite ((h.placeEnt _ _).refreshReads _ _ _) (ite (h.addLost _ _) ?_)
  exact h

theorem mergeDirty (ctx region sec i : Nat) (d : Line) (p : Bool) : BusKept s (mergeDirty t ctx region sec i d p) :=
  ((h.placeReturned _ _ _ _ _ _).occ _ _ _ _).modCtx _ _

theorem serveWb (w : Ctx) (n : Snoop) (i : Nat) : BusKept s (serveWb t w n i) := by
  unfold Machine.serveWb
  extract_lets u v _ x y
  have hv : BusKept s v := (h.mergeDirty _ _ _ _ _ _).dropWrites _
  have hy : BusKept s y := hv
  exact ite (hy.answerStatus _ _ _) hy

theorem resolveLine (n : Snoop) (i : Nat) : BusKept s (resolveLine t n i).1 := by
  unfold Machine.resolveLine
  split
  · exact h.serveWb _ _ _
  · split
    · exact h.mergeDirty _ _ _ _ _ _
    · exact h

theorem resolveLines (n : Snoop) (lines : List Nat) : BusKept s (resolveLines t n lines) := by
  unfold Machine.resolveLines
  extract_lets u v bc
  have hu : BusKept s u := foldl (fun x _ => (refl x).resolveLine _ _) h _
  have hv : BusKept s v := hu.modCtx _ _
  exact ite (hv.modCtx _ _) (ite (hv.regionFault _ _ _ _) (hv.raiseC0 _ _ _ _ _ _))

theorem resolveSnoop (n : Snoop) : BusKept s (resolveSnoop t n) := by
  unfold Machine.resolveSnoop
  extract_lets u
  have hu : BusKept s u := sampEnd (t := Machine.sampReady t _ _ _) h _ _ _ _
  exact (hu.modSnoop _ _).resolveLines _ _

theorem sendSnoop (n : Snoop) : BusKept s (sendSnoop t n) := by
  unfold Machine.sendSnoop
  extract_lets u v w
  have hw : BusKept s w := ((h.modSnoop _ _).occ _ _ _ _).sampEligible _ _
  split
  next x ok hx =>
    have hsent : BusKept s x := of_fst (hw.sendTo _ _) hx
    exact ite hsent (hsent.resolveSnoop _)

theorem admitSector (region : Nat) : BusKept s (admitSector t region) := by
  unfold Machine.admitSector
  split
  · exact ite (foldl (fun u _ => (refl u).sendSnoop _) h _) h
  · exact h

theorem addSnoops (ctx region sec : Nat) (inv backInv : Bool) (lmask : BitVec 4) (dests : List (Node × Bool)) :
    BusKept s (addSnoops t ctx region sec inv backInv lmask dests) := by
  refine admitSector ?_ _
  exact h

theorem openInternal (kind : CtxKind) (region sec : Nat) (phase : ChainPhase) (ahead : Option Nat) :
    BusKept s (openInternal t kind region sec phase ahead).1 := h

theorem backInvalidate (region set way : Nat) : BusKept s (backInvalidate t region set way) := by
  unfold Machine.backInvalidate
  split
  · extract_lets sec u v own dests
    have hv : BusKept s v := ((h.dirFree _ _ _).occ _ _ _ _).occ _ _ _ _
    exact (hv.openInternal _ _ _ _ _).addSnoops _ _ _ _ _ _ _
  · exact h

theorem broadcast (region sec : Nat) (ord : Option Nat) : BusKept s (broadcast t region sec ord) :=
  (((h.ucRegPut _ _).occ _ _ _ _).openInternal _ _ _ _ _).addSnoops _ _ _ _ _ _ _

theorem addRecall (c : Scan) (sec : Nat) : BusKept s (addRecall t c sec) := (h.openInternal _ _ _ _ _).modCtx _ _

theorem admitRecalls (c : Scan) : BusKept s (admitRecalls t c) := by
  unfold Machine.admitRecalls
  refine ite h ?_
  extract_lets n u
  have hu : BusKept s u := ite (foldl (fun x _ => (refl x).addRecall _ _) h _) h
  exact hu

/-! ## The directory's steps -/

theorem applyNext (region sec : Nat) (n : Node) (nx : NextDir) : BusKept s (applyNext t region sec n nx).1 := by
  unfold Machine.applyNext
  extract_lets v v' set
  split_ifs
  · exact h
  · exact h
  · dsimp only
    split
    · exact (h.dirFree _ _ _).occ _ _ _ _
    · exact h
  · split
    · exact h
    · extract_lets u w
      have hu : BusKept s u := foldl (fun x _ => (refl x).backInvalidate _ _ _) h _
      have hw : BusKept s w := by
        dsimp only [w]
        split
        · exact hu.dirFree _ _ _
        · exact hu
      exact (hw.dirWrite _ _ _ _).occ _ _ _ _

theorem modItem (it : ChainItem) (f : ChainItem → ChainItem) : BusKept s (modItem t it f) := h

theorem dropItem (it : ChainItem) : BusKept s (dropItem t it) := h

theorem markDir (i region sec : Nat) : BusKept s (markDir t i region sec) := h

theorem discardWrite (i : Nat) : BusKept s (discardWrite t i) := h

theorem clearHint (lb key o : Nat) : BusKept s (clearHint t lb key o) := h

theorem giveGrant (c : Ctx) (it : ChainItem) (row : DirRow) : BusKept s (giveGrant t c it row) := by
  unfold Machine.giveGrant
  extract_lets u v
  have hu : BusKept s u := foldl (fun x _ => (refl x).setHint _ _ _) h _
  have hv : BusKept s v := ite hu (hu.dropReads _)
  exact (hv.modCtx _ _).modItem _ _

theorem finishStep (c : Ctx) (it : ChainItem) (row : DirRow) : BusKept s (finishStep t c it row) := by
  unfold Machine.finishStep
  refine ite ((h.markDir _ _ _).dropItem _) ?_
  split
  next u ok hu =>
    have hnext : BusKept s u := of_fst (h.applyNext _ _ _ _) hu
    refine ite (hnext.modItem _ _) ?_
    extract_lets v w
    have hv : BusKept s v := hnext.markDir _ _ _
    have hw : BusKept s w := ite (foldl (fun x _ => (refl x).clearHint _ _ _) hv _) hv
    exact ite (hw.giveGrant _ _ _) (hw.dropItem _)

theorem wrbackTurn (c : Ctx) (it : ChainItem) : BusKept s (wrbackTurn t c it) := by
  unfold Machine.wrbackTurn
  extract_lets l late isLate owns _ u v
  have hu : BusKept s u := h
  have hv : BusKept s v := ite (hu.modBlk _ _) (hu.discardWrite _)
  exact hv.finishStep _ _ _

theorem exemptTurn (c : Ctx) (it : ChainItem) : BusKept s (exemptTurn t c it) := by
  unfold Machine.exemptTurn
  extract_lets l u v
  have hu : BusKept s u := by
    dsimp only [u]
    split
    · exact h.violation _ _ _ _ _ _ _ _
    · exact h
  have hv : BusKept s v := ((hu.discardWrite _).markDir _ _ _).dropItem _
  split
  · exact hv.answerStatus _ _ _
  · exact hv

theorem countRecall (c : Ctx) (n : Nat) : BusKept s (countRecall t c n) := ite h h

theorem takeTurn (c : Ctx) (it : ChainItem) : BusKept s (takeTurn t c it) := by
  unfold Machine.takeTurn
  refine ite (ite (ite (h.broadcast _ _ _) h) (h.markKnown _ _)) ?_
  extract_lets hm u v row
  have hu : BusKept s u := ite (h.occ _ _ _ _) (h.occ _ _ _ _)
  refine ite (ite hu (ite (hu.exemptTurn _ _) (hu.wrbackTurn _ _))) (ite (ite ?_ (hu.finishStep _ _ _)) ?_)
  · exact (hu.dropItem _).ctxPlaced _
  · exact ((hu.countRecall _ _).modItem _ _).addSnoops _ _ _ _ _ _ _

theorem broadcastEnd (c : Ctx) (it : ChainItem) : BusKept s (broadcastEnd t c it) := by
  refine ite h (regionFault (foldl (fun u i => ?_) h _) _ _ _ _)
  exact (refl u).mergeDirty _ _ _ _ _ _

theorem afterSnoops (c : Ctx) (it : ChainItem) : BusKept s (afterSnoops t c it) := by
  unfold Machine.afterSnoops
  split
  · exact (h.dropSnoops _ _ _).finishStep _ _ _
  · exact (h.dropSnoops _ _ _).finishStep _ _ _
  · exact h
  · exact ((((h.broadcastEnd c it).dropSnoops _ _ _).dropItem _).markKnown _ _).ctxPlaced _
  · extract_lets full u v
    have hu : BusKept s u := h.dropSnoops _ _ _
    have hv : BusKept s v := ite (hu.applyNext _ _ _ _) hu
    exact (hv.dropItem _).ctxPlaced _

theorem advanceItem (it : ChainItem) : BusKept s (advanceItem t it) := by
  unfold Machine.advanceItem
  split
  · exact h.dropItem _
  · split
    · exact h.takeTurn _ _
    · exact h.takeTurn _ _
    · exact ite (h.afterSnoops _ _) h
    · exact h.takeTurn _ _
    · exact h

theorem advanceChains : BusKept s (advanceChains t) := by
  refine foldl (fun u it => ?_) h _
  split
  · exact ite ((refl u).advanceItem _) (.refl u)
  · exact .refl u

/-! ## Reads, write-queue entries and answers -/

theorem placeRead (lb : Nat) (p : WaitRead) : BusKept s (placeRead t lb p) := (h.modBlk _ _).countLines _ _

omit h in
theorem placeInOrder (lb : Nat) (l : List WaitRead) {t : State} (h : BusKept s t) : BusKept s (placeInOrder lb l t) := by
  induction l generalizing t with
  | nil => exact h
  | cons p l ih => exact ite (ih (h.placeRead _ _)) h

theorem placeReads : BusKept s (placeReads t) := foldl (fun u _ => placeInOrder _ _ (.refl u)) h _

theorem finishRead (pb : Nat) (e : REnt) (v : LVal) : BusKept s (finishRead t pb e v) := by
  unfold Machine.finishRead
  split <;> exact h

theorem resolveRead (pb : Nat) (e : REnt) : BusKept s (resolveRead t pb e) := by
  unfold Machine.resolveRead
  split
  · extract_lets k lb es u
    have hu : BusKept s u := h.modBlk _ _
    refine ite h (ite ((hu.occ _ _ _ _).finishRead _ _ _) (ite (h.finishRead _ _ _) ?_))
    split
    · split
      next x v hx =>
        have hread : BusKept s x := of_fst ((h.sampCtx _ _).readFrame _ _ _ _) hx
        exact hread.finishRead _ _ _
      next x hx => exact of_fst ((h.sampCtx _ _).readFrame _ _ _ _) hx
    · exact h
  · exact h

theorem wqRemove (pb : Nat) (e : WEnt) : BusKept s (wqRemove t pb e) := h

theorem wqUpdate (pb : Nat) (e e' : WEnt) : BusKept s (wqUpdate t pb e e') := h

theorem atomicPoisoned (pb : Nat) (e : WEnt) : BusKept s (atomicPoisoned t pb e) := by
  unfold Machine.atomicPoisoned
  extract_lets u
  have hu : BusKept s u := h.wqRemove _ _
  split
  · extract_lets v
    have hv : BusKept s v := hu.modCtx _ _
    split
    · exact ite (hv.answerStatus _ _ _) hv
    · exact hv
  · exact hu

theorem applyBase (pb : Nat) (e : WEnt) (v : Option LVal) : BusKept s (applyBase t pb e v) := by
  unfold Machine.applyBase
  split
  · exact h.atomicPoisoned _ _
  · extract_lets u
    have hu : BusKept s u := h.wqUpdate _ _ _
    split
    · exact hu
    · split
      · exact hu.modCtx _ _
      · split
        · exact ite ((hu.wqUpdate _ _ _).answerStatus _ _ _) hu
        · exact hu

theorem stepEnt (pb : Nat) (e : WEnt) : BusKept s (stepEnt t pb e) := by
  unfold Machine.stepEnt
  extract_lets k lb
  split
  · exact h
  · exact ite (h.wqUpdate _ _ _) (ite (h.wqUpdate _ _ _) h)
  · refine ite h ?_
    split
    · exact h.applyBase _ _ _
    · refine ite (h.applyBase _ _ _) (ite h ?_)
      split
      · split
        next x v hx =>
          have hread : BusKept s x := by
            split at hx
            · exact of_fst ((h.sampCtx _ _).readFrame _ _ _ _) hx
            · exact of_fst (h.readFrame _ _ _ _) hx
          exact hread.applyBase _ _ _
        next x hx =>
          split at hx
          · exact of_fst ((h.sampCtx _ _).readFrame _ _ _ _) hx
          · exact of_fst (h.readFrame _ _ _ _) hx
      · exact h
  · exact h

theorem stepBlock (pb : Nat) : BusKept s (stepBlock t pb) := by
  refine foldl (fun u e => (refl u).resolveRead _ _) (foldl (fun u e => ?_) h _) _
  split
  · exact (refl u).stepEnt _ _
  · exact .refl u

theorem unreserve (c : Ctx) : BusKept s (unreserve t c) := ite h ((h.modCtx _ _).freeLines _ _)

theorem tryAnswer (i : Nat) : BusKept s (tryAnswer t i) := by
  unfold Machine.tryAnswer
  split
  · exact h
  · refine ite h (ite h (ite (ite h (ite ?claim (ite (h.answerData _ _ _ _) h))) (ite ?atomic (ite ?evict ?write))))
    case claim => exact (h.unreserve _).answerCmp _ _ _ _
    case evict => exact ite (h.answerStatus _ _ _) h
    case atomic =>
      split
      · split
        · exact ite (h.answerData _ _ _ _) h
        · exact h
      · exact h
    case write =>
      refine ite (answerStatus ?_ _ _ _) h
      exact h

/-! ## Steps of the Trowel -/

theorem feedStep (x : TStep) : BusKept s (feedStep t x) := by
  unfold Machine.feedStep
  split
  · extract_lets n
    refine ite (foldl (fun u j => ?_) h _) (ite ?_ h)
    · split
      · split
        · exact (refl u).modBlk _ _
        · exact .refl u
      · exact .refl u
    · split
      · refine foldl (fun u j => ?_) h _
        split
        · exact (refl u).modBlk _ _
        · exact .refl u
      · exact h
  · exact h

theorem releaseRings (x : TStep) : BusKept s (releaseRings t x) := foldl (fun u _ => (refl u).ucRegPut _ _) h _

theorem finishSteps : BusKept s (finishSteps t) := by
  refine foldl (fun u x => ite ?_ (.refl u)) h _
  split
  · extract_lets _ v w
    have hv : BusKept u v := .refl u
    have hw : BusKept u w := ite hv (hv.occ _ _ _ _)
    exact (hw.releaseRings _).ctxPlaced _
  · exact .refl u

theorem presentStep (o : BulkOp) : BusKept s (presentStep t o) := by
  unfold Machine.presentStep
  split <;> exact h

theorem presentSteps : BusKept s (presentSteps t) :=
  foldl (fun u _ => ite (.refl u) ((refl u).presentStep _)) h _

theorem busyBatches : BusKept s (busyBatches t) := by
  refine foldl (fun u k => ite ((refl u).victimBatch _ _ _) ?_) h _
  exact .refl u

/-! ## A round -/

theorem settleRound : BusKept s (settleRound t) := by
  unfold Machine.settleRound
  extract_lets u v w x y z a
  have hv : BusKept s v := h.pruneMirrors.busyBatches.placeReads
  have hx : BusKept s x := (foldl (fun b _ => (refl b).stepBlock _) hv _).advanceChains
  have hz : BusKept s z := (foldl (fun b _ => (refl b).admitRecalls _) hx _).giveRings
  have ha : BusKept s a := (foldl (fun b _ => (refl b).feedStep _) hz _).finishSteps.presentSteps
  exact foldl (fun b _ => (refl b).tryAnswer _) ha _

omit h in
theorem settleN (n : Nat) {t : State} (h : BusKept s t) : BusKept s (settleN n t) := by
  induction n generalizing t with
  | zero => exact h
  | succ n ih => exact ih h.settleRound

theorem settle : BusKept s (settle t) := ite h (settleN _ h)

end

end BusKept

end Sys2Proof.Machine

/-! # A waiting transaction lost with another of its command (16 R450; 20 R515)

At t0 of a retaining reset the model gives up every transaction that waits for a write of the records whose
transaction of class 3 to 5 is dropped, whatever its class; the statement keeps all those of class 1 and 2. -/

namespace Sys2Proof.Machine

/-- A write of the store room of class 1 to `a`, or one of class 3. -/
def recordWrite (cls a : Nat) : TwTrans :=
  { cls := cls, kind := .eeWrite a [0], who := .storeRoom, addr := 0x50, attempts := 0 }

def voutPoll : TwTrans := { cls := 1, kind := .readVout, who := .stack, addr := 0x40, attempts := 0 }

/-- A released stack with two record writes, of class 1 and of class 3, and a poll of the regulator waiting. -/
def recordsWaitingState : State :=
  { State.reset with
    boot := { phase := .released }, tw := { waiting := [recordWrite 1 0, recordWrite 3 64, voutPoll] } }

/-- The reset leaves the poll alone. -/
theorem recordsWaiting_reset :
    (retainingReset recordsWaitingState).tw.waiting = [voutPoll] := by
  decide +kernel

/-- Refutes O39: the record write of class 1 goes with the one of class 3, and no state that settles into the answered one
holds it. -/
theorem not_retainingResetCommands : ¬ Obligations.RetainingResetCommands := by
  unfold Obligations.RetainingResetCommands
  intro h
  have hl : live recordsWaitingState = true := rfl
  obtain ⟨-, hreleased, -⟩ := h recordsWaitingState hl
  obtain ⟨u, hu, -, -, -, -, -, -, -, -, hwaiting⟩ := hreleased rfl
  have hexec : exec .retainingReset recordsWaitingState = .next (retainingReset recordsWaitingState) :=
    whenLive_live retainingReset hl
  have hsettle : retainingReset recordsWaitingState = settle u := Host.Outcome.next.inj (hexec.symm.trans hu)
  have hreset : (settle u).tw.waiting = [voutPoll] := hsettle ▸ recordsWaiting_reset
  rcases (BusKept.refl u).settle with hsame | hnone
  · rw [hsame, hwaiting] at hreset
    exact absurd hreset (by decide)
  · exact absurd (hreset.symm.trans hnone) (by decide)

end Sys2Proof.Machine
